-- ==== Sys2Proof/Word.lean ====
section
/-! DEFINITION. The machine's words and the plain names of its parts. -/

namespace Sys2Proof

/-- A 64-bit word: a scalar or address register, a queue entry, a control register. -/
abbrev Word := BitVec 64

/-- One byte of memory. -/
abbrev Byte := BitVec 8

/-- A 6-bit scalar field (13 R329): 0 to 55 name s0 to s55, 56 to 63 name the queues q0 to q7. -/
abbrev SCode := BitVec 6

/-- An address register a0 to a15 (13 R328). -/
abbrev AReg := BitVec 4

/-- A predicate register p0 to p7 (13 R328). -/
abbrev PReg := BitVec 3

/-- A mask register m0 to m15 (13 R328). -/
abbrev MReg := BitVec 4

/-- A tile register v0 to v63 (13 R328). -/
abbrev VReg := BitVec 6

/-- The value of a mask register, 8192 bits (13 R328). -/
abbrev Mask := BitVec 8192

/-- The contents of a tile register, 32 KiB (13 R328): byte n is bits 8n to 8n + 7. -/
abbrev Tile := BitVec 262144

/-- An accumulator page, 4 KiB (08 R199): byte n is bits 8n to 8n + 7. -/
abbrev Page := BitVec 32768

/-- A die of the module (01 R10). -/
abbrev DieId := Fin 4

/-- A core of the module: 64 times its die plus its index in the die (01 R10). -/
abbrev CoreId := Fin 256

/-- A context id of a core (07 R167). -/
abbrev CtxId := Fin 8

/-- A Fremir link of the module (01 R16). -/
abbrev LinkId := Fin 12

/-- A command stream of a die (03 R59). -/
abbrev StreamId := Fin 64

/-- Where a host access enters the module (02 R44, R45). -/
inductive HostSpace where
  /-- BAR0: registers, the MSI-X table and the security mailbox. -/
  | bar0
  /-- BAR2: the memory window. -/
  | bar2
  /-- HDM: the CXL memory range. -/
  | hdm
  deriving DecidableEq, Repr

/-- What a debug access names (04 R92). -/
inductive DebugTarget where
  /-- The aligned 8-byte word at a virtual address, in an address space. -/
  | mem (asid : BitVec 16) (va : Word)
  /-- A scalar register of a context. -/
  | scalar (ctx : CtxId) (n : Fin 56)
  /-- An address register of a context. -/
  | addr (ctx : CtxId) (n : AReg)
  /-- A predicate of a context. -/
  | pred (ctx : CtxId) (n : PReg)
  /-- A control register of a context or its core (13 R344). -/
  | control (ctx : CtxId) (cr : BitVec 12)
  /-- The program counter of a context. -/
  | pc (ctx : CtxId)
  /-- A word of a tile register of the core. -/
  | tile (n : VReg) (i : BitVec 12)
  /-- A word of a mask register of a context. -/
  | mask (ctx : CtxId) (n : MReg) (i : BitVec 7)
  /-- A word of an accumulator page of the core. -/
  | acc (page i : BitVec 9)
  /-- An entry of a queue of a context or its core, counted from the head. -/
  | queue (ctx : CtxId) (q : Fin 8) (i : Fin 64)
  /-- A matrix register of a context, by its MXSET id (12 R309). -/
  | mx (ctx : CtxId) (n : BitVec 12)
  /-- A copy register of a context, by its CPSET id (17 R460). -/
  | cp (ctx : CtxId) (n : BitVec 12)
  /-- A word of the core's instruction memory. -/
  | instr (i : BitVec 15)
  /-- F and W, bits 0 and 1, of the aligned 8-byte word at a virtual address, in an address space. -/
  | wordBits (asid : BitVec 16) (va : Word)
  /-- The operand of a dense row and column in a weight buffer of the core, the active or the other, as FP64; the second of two at one place under
  2:4 sparsity. -/
  | weight (other second : Bool) (row col : BitVec 10)
  /-- A word of a source row of a tile of the core's transpose queue, counted from the oldest. -/
  | trans (i : Fin 8) (row : BitVec 5) (w : BitVec 6)
  /-- An entry of a context's branch map. -/
  | branch (ctx : CtxId) (e : BitVec 5)
  /-- The branches of a context's open chain that have closed. -/
  | closed (ctx : CtxId)
  /-- A word of a curve table of a context. -/
  | curve (ctx : CtxId) (n : BitVec 3) (i : BitVec 7)
  /-- The serial of a context's next completion token. -/
  | serial (ctx : CtxId)
  /-- A counter of the core's die: D1 reads it. -/
  | counter (n : BitVec 12)
  /-- The performance events the core's full q7 dropped: D1 reads it. -/
  | drops
  /-- An entry of the core's q7, the trace of its performance events: D1 reads it. -/
  | trace (i : Fin 64)
  /-- CCERR, or with the flag DROPW, of the module: D1 reads it. -/
  | total (dropw : Bool)
  deriving DecidableEq, Repr

/-- The data of a work entry as they arrive at a die (06 R156, R157): one chunk an entry (log 16). -/
structure Chunk where
  /-- group the entry belongs to -/
  grp    : BitVec 12
  /-- generation it was sent under -/
  gen    : BitVec 4
  /-- global die of the entry's queue pair -/
  home   : Nat
  /-- queue pair -/
  qp     : BitVec 8
  /-- serial of the entry -/
  serial : Nat
  /-- address space -/
  asid   : Nat
  /-- OP: 1 WRITE, 2 WRITE_REDUCE, 3 the data of a READ on their way back -/
  op     : Nat
  /-- WIRE -/
  wire   : BitVec 8
  /-- LAND -/
  land   : Nat
  /-- F/E mode of the landing words -/
  mode   : BitVec 2
  /-- DCORE -/
  dcore  : BitVec 6
  /-- address it lands at -/
  addr   : Word
  /-- HADDR -/
  haddr  : Word
  /-- RCTR -/
  rctr   : BitVec 32
  /-- the bytes carried -/
  data   : List Byte
  /-- F of the words carried, for PRESERVE -/
  full   : List Bool
  /-- the checks carried, each as its difference from the right one, by 64-byte granule (01 R24); none where all match -/
  checks : List Nat := []
  /-- TAG of the entry whose data they are (01 R22) -/
  tag    : Nat := 0
  deriving DecidableEq, Repr

/-- An exact number, an infinity or a NaN (11 R283): the value of an operand before its one rounding. -/
inductive Val where
  /-- NaN -/
  | nan
  /-- an infinity, negative when the flag is set -/
  | inf (neg : Bool)
  /-- the number (-1)^neg * mag * 2^exp; a zero keeps its sign -/
  | fin (neg : Bool) (mag : Nat) (exp : Int)
  deriving DecidableEq, Repr

end Sys2Proof
end

