-- ==== Sys2Proof/Config.lean ====
section
/-! DEFINITION. What the spec leaves to the implementation and the values it leaves open.
Every constant here is opaque: nothing can be proved of its value, so a claim holds whatever it is (log 1, log 4). -/

namespace Sys2Proof.Config

/-- The n-th free value of a run: a 64-bit value the spec does not fix (log 1). -/
opaque freeValue : Nat → BitVec 64

/-- A byte of memory outside the module that the module has not written: TARGET and address (log 4). -/
opaque outsideByte : Nat → Nat → BitVec 8

/-- A 64-byte granule of memory outside the module that the module has not written is poisoned: TARGET and address divided by 64 (02 R54, log 4). -/
opaque outsidePoison : Nat → Nat → Bool

/-- The n-th reading of F bits of a word at another module's die, by the word's virtual address divided by 8 (08 R217, log 1). -/
opaque remoteFull : Nat → Nat → Bool

/-- The Amigen image in boot flash (04 R83). -/
opaque image : List (BitVec 8)

/-- The signature of the Amigen image. -/
opaque imageSig : List (BitVec 8)

/-- The public half of the Neldex image key, as the flash holds it beside the image. -/
opaque imageKey : List (BitVec 8)

/-- The fuses: the digest of the Neldex image key (04 R83). -/
opaque fuseDigest : BitVec 256

/-- The boot policy record and its signature, as the flash holds them from manufacture (04 R84). -/
opaque flashPolicy : List (BitVec 8)

/-- The device serial (04 R84, R93). -/
opaque serial : BitVec 128

/-- SLH-DSA-SHAKE-256s verification (FIPS 205): public key, message, signature (log 4). -/
opaque verify : List (BitVec 8) → List (BitVec 8) → List (BitVec 8) → Bool

/-- Byte i of the identity key's SLH-DSA-SHAKE-256f signature over a message (04 R86, log 4). -/
opaque idSignature : List (BitVec 8) → Nat → BitVec 8

/-- Byte i of the ML-KEM-1024 encapsulation key of the n-th boot (04 R91, log 4). -/
opaque ekeyByte : Nat → Nat → BitVec 8

/-- The shared secret the n-th boot's key decapsulates from a ciphertext (FIPS 203, 04 R91, log 4). -/
opaque decap : Nat → List (BitVec 8) → BitVec 256

end Sys2Proof.Config
end

