-- ==== Sys2Proof/Syntax.lean ====
section
/-! DEFINITION. The instructions: the slot instructions of 14 to 17 and the steps of the module
(spec/95), one constructor for each row of spec/opcode_table.json.

A slot instruction holds the fields of its slot word (13 R336).
A step holds what the world outside the module, or the schedule, supplies to it: the die or core
it acts on, the bytes of a write, a sensor's reading.
The steps of firmware that carry out one command act on the command `State.focus` names.
The constructors without fields stand last, for the reason that Lean's compiler numbers at most 244
constructors with fields. -/

namespace Sys2Proof

/-- The instructions and steps of the machine. -/
inductive Instr where
  /-- R35: When sustained power exceeds PWR_CAP or a die reaches 105 °C, the dies enter A1, lower the core clock in 100 MHz steps and set THROT. -/
  | throttleEnter (die : DieId) (watts degC : Nat)
  /-- R35: When power and temperature allow, the dies return to 3.3 GHz and leave A1. -/
  | throttleExit (die : DieId) (watts degC : Nat)
  /-- R35: A die that reaches 115 °C moves the module to S5, and every key, memory content and context is lost. -/
  | thermalShutdown (die : DieId) (degC : Nat)
  /-- R21: At each flit boundary a sender takes the next flit from the highest-priority virtual channel that has a flit and credit. -/
  | flitSend (link : LinkId) (credit : BitVec 8)
  /-- R26: A receiver checks an arriving flit's CHK, KIND, VC and SEQ, delivers it in order, or drops it together with every later flit and returns a link-control flit naming the expected SEQ. -/
  | flitReceive (link : LinkId) (flit : List Byte)
  /-- R26: On a link-control flit naming an expected SEQ, the sender resends from that SEQ in the original order and counts the resends in LNK_STAT.RETRIES. -/
  | linkResend (link : LinkId) (seq : BitVec 12)
  /-- R27: A flit resent 8 times without acknowledgement makes the link fail. -/
  | resendLimit (link : LinkId)
  /-- R27: When 1 ms passes with flits waiting and none acknowledged, the link is declared failed. -/
  | ackTimeout (link : LinkId)
  /-- R32: Every 16 fabric cycles the die's beat counter increases by exactly 1. -/
  | beatTick (die : DieId)
  /-- R76: A listed link finishes training and is brought into service only when it reports its expected switch port. -/
  | linkTrainDone (link : LinkId) (port : BitVec 8)
  /-- R76: A link that does not train within 10 ms is left down, and DOMAIN_JOIN finishes with LINK_DOWN. -/
  | linkTrainTimeout (link : LinkId)
  /-- R45: A host read through BAR2 or HDM is translated at APT_VA plus its offset and returns data, is poisoned on a carry-check mismatch, or completes with Unsupported Request. -/
  | hostRead (sp : HostSpace) (off len : Nat)
  /-- R52: A host write through BAR2 or HDM lands in TLP order with carry checks computed at entry, or is dropped and counted in DROPW. -/
  | hostWrite (sp : HostSpace) (off : Nat) (data : List Byte)
  /-- R504: A memory request from a device below port B in peer mode is served as a host access at BAR2 offset equal to its bus address. -/
  | peerRequest (addr : Word) (len : Nat) (data : Option (List Byte))
  /-- R51: A peer load that sees no completion within 50 µs raises TRANSL with subcause PEER_ABORT. -/
  | peerLoadTimeout (core : CoreId)
  /-- R61: A write to STRM_CFG stores its fields while EN is 0, and a change of EN from 0 to 1 checks LOG2N and BASE, refusing with BAD_FIELD or TRANSL. -/
  | strmCfgWrite (die : DieId) (strm : StreamId) (value : Word)
  /-- R61: STRM_CTL.ZERO sets STRM_POS to 0 while the stream is disabled. -/
  | strmCtlZero (die : DieId) (strm : StreamId)
  /-- R80: STRM_CTL.ABORT marks every accepted, unstarted command of the stream cancelled with ABORTED and performs no completion action for them. -/
  | strmCtlAbort (die : DieId) (strm : StreamId)
  /-- R67: STRM_CTL.RESUME clears HALT and resumes acceptance at POS. -/
  | strmCtlResume (die : DieId) (strm : StreamId)
  /-- R62: A write to STRM_DB wakes a doorbell-mode stream, whose slots firmware then accepts until one is not published, and in S3 it starts the return to A0. -/
  | strmDb (die : DieId) (strm : StreamId)
  /-- R40: A host write of CAP stores the module power cap, clamped to 1000 to 2800 W. -/
  | pwrCapWrite (value : Word)
  /-- R55: A host write of any value to HOST_STAT clears CCERR and DROPW to zero. -/
  | hostStatWrite (value : Word)
  /-- R7: A write to a register without a row of its own stores its writable fields and ignores reserved fields and writes that are not permitted. -/
  | registerWrite (off : Nat) (value : Word)
  /-- R62: At least every 4 µs, firmware inspects the next slot of every enabled, unhalted polled stream. -/
  | pollInterval (die : DieId)
  /-- R67: Firmware checks a published slot, assigns a prompt-book record, copies the slot and advances POS as one action, or halts the stream with a code. -/
  | slotAccept (die : DieId) (strm : StreamId)
  /-- R105: A stream whose oldest ready command has waited 2^20 fabric cycles without beginning is raised one priority level. -/
  | streamAging (die : DieId) (strm : StreamId)
  /-- R104: Among commands that may begin, firmware starts the one whose stream has the highest effective priority, round robin within a priority. -/
  | commandSelect (die : DieId)
  /-- R129: When a node ends, firmware decreases its successors' PRED and launches those that reach 0, or marks them skipped after an error. -/
  | graphNodeEnd (die : DieId) (cid : Nat) (node : Nat)
  /-- R92: A D2 halt request stops a core at a bundle boundary with the precision of a trap. -/
  | debugHalt (core : CoreId)
  /-- R98: The return from S3 recomputes MEAS_BOOT and, on a match, resumes contexts, or zeroises every key, sets RESF and enters S5. -/
  | s3Return (die : DieId)
  /-- R115: A waiting task starts when its core has room: its code is loaded, its needs are reserved and its registers are initialised. -/
  | taskStart (core : CoreId)
  /-- R130: When the running context has used TSLICE issue cycles, a pre-emption request is raised. -/
  | sliceEnd (core : CoreId)
  /-- R188: A pending pre-emption request lands at the next landing point, and the core switches context. -/
  | preemptLand (core : CoreId)
  /-- R183: A load's data arrives and is written to its interlocked destination, releasing any bundle stalled on it. -/
  | loadReturn (core : CoreId) (data : List Byte)
  /-- R273: A cause found away from the core is made precise by rolling back to the checkpoint and rerunning up to the faulting bundle. -/
  | lateCause (core : CoreId) (count : Nat) (cause : Nat) (sub : Nat) (info : Word)
  /-- R272: The trap is taken at the trapping bundle: writes land, EPC, ECAUSE and EINFO are written, and the handler starts at TVEC in privileged mode. -/
  | trapTake (core : CoreId)
  /-- R210: Every 32 fabric cycles the home retries a failed waiting F/E access and counts the failure against BUDGET. -/
  | feRetry (core : CoreId)
  /-- R210: When a retry fails after BUDGET retries, the bundle raises FE_BUDGET under TRP or the context parks. -/
  | feBudgetExhausted (core : CoreId)
  /-- R214: The scheduler walks the bucket, removes every matching park record in list order and readies each record's context. -/
  | wakeWalk (die : DieId) (pa : Nat)
  /-- R396: The sync unit wakes a held CWAIT when its counter reaches the threshold. -/
  | cwaitSatisfied (core : CoreId)
  /-- R274: The core waits until every in-flight write has landed and every access is answered, then copies the eager state into a shadow in 2 cycles. -/
  | checkpoint (core : CoreId)
  /-- R278: A detected internal error rolls the context back and reruns the interval twice, recording issue counts and signatures. -/
  | internalError (core : CoreId)
  /-- R278: After the second rerun the two runs are compared, and the core continues if they agree or is retired if they do not. -/
  | rehearsalCompare (core : CoreId) (agree : Bool)
  /-- R198: When a PHASE drain ends, the new scratchpad and L1 boundary is in force and L-slot issue resumes. -/
  | phaseDrainEnd (core : CoreId)
  /-- R318: A matrix command completes, lands its accumulator pages and pushes its token in issue order. -/
  | matrixComplete (core : CoreId)
  /-- R321: When every core in MASK has issued a cooperative MXA with the same tag, the leader's stream starts on one common cycle. -/
  | coopStart (die : DieId) (cluster : Fin 4)
  /-- R321: If a member has not issued within 2^20 fabric cycles of the first, every waiting member completes with status 1 without writing. -/
  | coopTimeout (die : DieId) (cluster : Fin 4)
  /-- R218: After every granule of a copy has landed, the counter rises, the flag fills and the token is pushed. -/
  | copyComplete (core : CoreId)
  /-- R466: A TRPOP's transposed tile finishes writing and its completion actions follow. -/
  | transposeComplete (core : CoreId)
  /-- R468: A GTHR or SCTR finishes moving its elements and performs its completion actions. -/
  | gatherComplete (core : CoreId)
  /-- R443: A held completion token enters q6 in order when an entry frees or the earlier token of its engine has entered. -/
  | tokenEnter (core : CoreId) (ctx : CtxId)
  /-- R263: When a page request ends, its counter rises by 1 as a die-scope release. -/
  | pgreqDone (die : DieId) (index : Nat)
  /-- R155: A work entry starts once its arming condition holds and earlier entries have started, after its checks and generation test. -/
  | workEntryStart (die : DieId) (qp : BitVec 8)
  /-- R157: An arriving chunk lands per LAND, is held in staging or spilled, or is dropped as stale. -/
  | chunkArrive (die : DieId) (chunk : Chunk)
  /-- R160: Spilled chunks are refetched in arrival order and landed. -/
  | spillRefetch (die : DieId)
  /-- R159: An entry completes by writing its status word full, raising RCTR after landing and LCTR after the acknowledgement. -/
  | workEntryComplete (die : DieId) (qp : BitVec 8) (code : Nat)
  /-- R161: After 1 ms without traffic of the old generation, Amigen advances a group's 4-bit generation. -/
  | generationAdvance (die : DieId) (grp : BitVec 12)
  /-- R164: Loss of a reduce-group member advances the generation, and pending operations complete with the canonical NaN. -/
  | memberLoss (die : DieId) (grp : BitVec 12) (rank : Nat)
  /-- R143: An SCPUT contribution arriving at the leader is counted, held for a later step or dropped and counted. -/
  | contributionArrive (die : DieId) (grp : BitVec 12) (gen : BitVec 4) (src : Nat) (lead : Bool) (record : List Byte)
  /-- R143: When BEAT reaches the previous close plus DL, the open step may close with absent ranks. -/
  | stepDeadline (die : DieId) (grp : BitVec 12)
  /-- R143: The leader reads lr and emits ABSENT, REJECT and CLOSE records for the open step. -/
  | stepClose (die : DieId) (grp : BitVec 12)
  /-- R144: An endpoint that has the leader's CLOSE stores the step's records, turns their words full together and pushes the CLOSE SEQ to q4. -/
  | stepAssemble (die : DieId) (grp : BitVec 12)
  /-- R146: The leader counts endpoint acknowledgements of a CLOSE and announces the step sealed at QUORUM. -/
  | closeAck (die : DieId) (grp : BitVec 12) (gen : BitVec 4) (seq : Word) (rank : Nat)
  /-- R146: An endpoint receiving the seal announcement raises SEALED in its status block. -/
  | sealAnnounce (die : DieId) (grp : BitVec 12) (gen : BitVec 4) (seq : Word)
  /-- R148: When the leader is lost, the next working die in LEADERS recovers closed steps, resends unsealed ones and then closes new steps. -/
  | leaderTakeover (die : DieId) (grp : BitVec 12)
  /-- R162: A record arriving in a reduce group is written to the next arrival place, its words turn full, and q4 receives the place index. -/
  | reduceRecordArrive (die : DieId) (grp : BitVec 12) (gen : BitVec 4) (record : List Byte)
  /-- R163: An SCRED contribution arrives, and when all N terms of the operation are present each member pushes the exact sum to q5. -/
  | scredArrive (die : DieId) (grp : BitVec 12) (gen : BitVec 4) (rank : Nat) (value : Word)
  /-- R356: Branch unconditionally to the header at the 20-bit word displacement. -/
  | br (disp : BitVec 20)
  /-- R356: Branch when the named predicate, xored with n, is true. -/
  | brp (p : PReg) (n : Bool) (disp : BitVec 20)
  /-- R356: Write the next bundle's address to lk and branch. -/
  | call (disp : BitVec 20)
  /-- R357: Write the next bundle's address to lk and jump to the address in a scalar register. -/
  | calli (a : SCode)
  /-- R357: Jump to the address in a scalar register. -/
  | jmpi (a : SCode)
  /-- R361: Push a hardware loop whose count is taken from a scalar register, or skip the body when the count is 0. -/
  | loop (a : SCode) (len : BitVec 12)
  /-- R361: Push a hardware loop with an immediate count. -/
  | loopi (cnt len : BitVec 12)
  /-- R171: The core issues one bundle per issue cycle, checking its header, guard and group dependences. -/
  | bundleIssue (core : CoreId)
  /-- R364: Write a scalar value to a control register. -/
  | mtc (a : SCode) (cr : BitVec 12)
  /-- R364: Read a control register into a scalar code. -/
  | mfc (d : SCode) (cr : BitVec 12)
  /-- R365: Move the scratchpad and L1 boundary to a new size and drain for 256 cycles per moved unit. -/
  | phase (units : BitVec 12)
  /-- R368: Admit a task table as children under a join and return the join id or a failure code. -/
  | spawn (d a b : SCode) (pool : Bool)
  /-- R369: Wait until a join's count reaches its target and return its fault summary. -/
  | join (d a : SCode)
  /-- R371: Kill one child or every unended child of a join and return the number killed. -/
  | tkill (d a b : SCode)
  /-- R372: Raise the TRAP cause with the immediate as EINFO. -/
  | trap (imm : BitVec 18)
  /-- R372: Raise the SYSC cause with the immediate as EINFO. -/
  | sysc (imm : BitVec 18)
  /-- R372: Raise the BRK cause with the immediate as EINFO. -/
  | brk (imm : BitVec 18)
  /-- R373: Leave privileged mode, take a checkpoint and return to EPC or the bundle after it. -/
  | eret (nx : Bool)
  /-- R374: Save the interrupted context and switch to a named ready context or the next under R130. -/
  | ctxsw (a : SCode) (nx : Bool)
  /-- R375: Save the interrupted context as halted, not ready, and continue with the next context. -/
  | halt (nx : Bool)
  /-- R377: 64-bit wrapping add. -/
  | add (d a b : SCode)
  /-- R377: 64-bit wrapping subtract. -/
  | sub (d a b : SCode)
  /-- R377: Low 64 bits of the product. -/
  | mul (d a b : SCode)
  /-- R377: High 64 bits of the signed product. -/
  | mulh (d a b : SCode)
  /-- R377: High 64 bits of the unsigned product. -/
  | mulhu (d a b : SCode)
  /-- R377: Signed quotient truncated toward zero, raising DZ on a zero divisor. -/
  | div (d a b : SCode)
  /-- R377: Unsigned quotient. -/
  | divu (d a b : SCode)
  /-- R377: Signed remainder. -/
  | rem (d a b : SCode)
  /-- R377: Unsigned remainder. -/
  | remu (d a b : SCode)
  /-- R377: Bitwise and. -/
  | and (d a b : SCode)
  /-- R377: Bitwise or. -/
  | or (d a b : SCode)
  /-- R377: Bitwise xor. -/
  | xor (d a b : SCode)
  /-- R377: x and not y. -/
  | andn (d a b : SCode)
  /-- R377: Shift left by y mod 64. -/
  | shl (d a b : SCode)
  /-- R377: Logical shift right. -/
  | shr (d a b : SCode)
  /-- R377: Arithmetic shift right. -/
  | sar (d a b : SCode)
  /-- R377: Rotate left. -/
  | rol (d a b : SCode)
  /-- R377: Signed minimum. -/
  | min (d a b : SCode)
  /-- R377: Signed maximum. -/
  | max (d a b : SCode)
  /-- R377: Unsigned minimum. -/
  | minu (d a b : SCode)
  /-- R377: Unsigned maximum. -/
  | maxu (d a b : SCode)
  /-- R377: Count leading zeros. -/
  | clz (d a : SCode)
  /-- R377: Count one bits. -/
  | popc (d a : SCode)
  /-- R377: Select x or y by a predicate. -/
  | sel (d a b : SCode) (p : PReg)
  /-- R378: Add a sign-extended immediate. -/
  | addi (d a : SCode) (imm : BitVec 12)
  /-- R378: And with a sign-extended immediate. -/
  | andi (d a : SCode) (imm : BitVec 12)
  /-- R378: Or with a sign-extended immediate. -/
  | ori (d a : SCode) (imm : BitVec 12)
  /-- R378: Xor with a sign-extended immediate. -/
  | xori (d a : SCode) (imm : BitVec 12)
  /-- R378: Shift left by an immediate count. -/
  | shli (d a : SCode) (sh : BitVec 6)
  /-- R378: Logical shift right by an immediate count. -/
  | shri (d a : SCode) (sh : BitVec 6)
  /-- R378: Arithmetic shift right by an immediate count. -/
  | sari (d a : SCode) (sh : BitVec 6)
  /-- R378: Rotate left by an immediate count. -/
  | roli (d a : SCode) (sh : BitVec 6)
  /-- R379: Load a sign-extended 18-bit immediate. -/
  | movi (d : SCode) (imm : BitVec 18)
  /-- R379: Insert a 16-bit value into halfword k of a register. -/
  | insh (d : SCode) (k : BitVec 2) (imm : BitVec 16)
  /-- R380: Compare two scalars into a predicate. -/
  | pcmp (pd : PReg) (a b : SCode) (cond : BitVec 3)
  /-- R380: Compare a scalar with an immediate into a predicate. -/
  | pcmpi (cond : BitVec 3) (pd : PReg) (a : SCode) (imm : BitVec 12)
  /-- R381: Predicate logic by a 4-bit truth table. -/
  | plog (pd pa pb : PReg) (tt : BitVec 4)
  /-- R382: Move a scalar into an address register. -/
  | amov (ad : AReg) (a : SCode)
  /-- R382: Add a scalar to an address register. -/
  | aadd (ad aa : AReg) (b : SCode)
  /-- R382: Add an immediate to an address register. -/
  | aaddi (ad aa : AReg) (imm : BitVec 12)
  /-- R382: Move an address register to a scalar code. -/
  | aget (d : SCode) (aa : AReg)
  /-- R363: Read the INDEX of an active loop at a given depth. -/
  | lidx (d : SCode) (depth : BitVec 3)
  /-- R383: Floating add, rounded once under RMODE. -/
  | fadd (d a b : SCode) (t : Bool)
  /-- R383: Floating subtract. -/
  | fsub (d a b : SCode) (t : Bool)
  /-- R383: Floating multiply. -/
  | fmul (d a b : SCode) (t : Bool)
  /-- R383: Fused multiply-add into the destination, rounded once. -/
  | ffma (d a b : SCode) (t : Bool)
  /-- R383: Floating minimum. -/
  | fmin (d a b : SCode) (t : Bool)
  /-- R383: Floating maximum. -/
  | fmax (d a b : SCode) (t : Bool)
  /-- R384: Convert a scalar between numeric types. -/
  | fcvt (d a : SCode) (dt st : BitVec 4)
  /-- R385: Floating compare into a predicate. -/
  | fcmp (pd : PReg) (a b : SCode) (cond : BitVec 3) (t : Bool)
  /-- R389: Zero-extending scalar load that writes p7. -/
  | ld (d : SCode) (ab : AReg) (sz : BitVec 2) (off : BitVec 12)
  /-- R389: Sign-extending scalar load. -/
  | lds (d : SCode) (ab : AReg) (sz : BitVec 2) (off : BitVec 12)
  /-- R390: Posted scalar store that writes p7. -/
  | st (b : SCode) (ab : AReg) (sz : BitVec 2) (off : BitVec 12)
  /-- R389: Scalar load with the last-use hint. -/
  | ldlu (d : SCode) (ab : AReg) (sz : BitVec 2) (off : BitVec 12)
  /-- R391: Wait until the word is full and read it. -/
  | ldw (d : SCode) (aa : AReg) (scope ord : BitVec 3)
  /-- R391: Wait until the word is full, read it and make it empty. -/
  | ldc (d : SCode) (aa : AReg) (scope ord : BitVec 3)
  /-- R391: Wait until the word is empty, write it and make it full. -/
  | stf (aa : AReg) (b : SCode) (scope ord : BitVec 3)
  /-- R392: Try once to consume a full word, setting p6. -/
  | ldct (d : SCode) (aa : AReg) (scope ord : BitVec 3)
  /-- R392: Try once to fill an empty word, setting p6. -/
  | stft (aa : AReg) (b : SCode) (scope ord : BitVec 3)
  /-- R393: Query a word's F and W bits. -/
  | feq (d : SCode) (aa : AReg) (scope ord : BitVec 3)
  /-- R393: Set a word's F bit without changing its data. -/
  | femk (aa : AReg) (b : SCode) (scope ord : BitVec 3)
  /-- R395: Load a tile from memory at a row pitch under a mask. -/
  | vld (v : VReg) (ab : AReg) (ps : SCode) (mk : MReg) (hint : BitVec 2)
  /-- R395: Store a tile to memory at a row pitch under a mask. -/
  | vst (v : VReg) (ab : AReg) (ps : SCode) (mk : MReg) (hint : BitVec 2)
  /-- R396: Atomically add to a counter, saturating, and return its old value. -/
  | cadd (d a b : SCode) (scope ord : BitVec 3)
  /-- R396: Hold until a counter reaches a threshold. -/
  | cwait (d a b : SCode) (scope ord : BitVec 3)
  /-- R396: Read a counter. -/
  | cread (d a : SCode) (scope ord : BitVec 3)
  /-- R398: Take a ring ticket and wait for the buffer to be released, returning its address. -/
  | rbacq (ad : AReg) (a : SCode) (scope : BitVec 3)
  /-- R398: Release a ring buffer by adding 1 to REL. -/
  | rbrel (a : SCode) (scope : BitVec 3)
  /-- R400: Hold until earlier writes are published or engine commands are done, and drop clean L1 lines. -/
  | fence (scope ord : BitVec 3)
  /-- R401: Swap a curtain's front and back frames as a release. -/
  | publ (aa : AReg) (scope : BitVec 3)
  /-- R402: Bind a region to a counter, F/E word or curtain. -/
  | bind (d : SCode) (aa : AReg) (b : SCode) (form : BitVec 3)
  /-- R402: Remove the bindings of a region. -/
  | unbind (aa : AReg) (b : SCode)
  /-- R403: Request that a page be made resident, raising a counter when done. -/
  | pgreq (aa : AReg) (b : SCode)
  /-- R404: Write back a dirty line and drop it from L1. -/
  | cflush (ab : AReg) (off : BitVec 12)
  /-- R404: Discard a line without write-back. -/
  | cdisc (ab : AReg) (off : BitVec 12)
  /-- R404: Prefetch a line. -/
  | cpref (ab : AReg) (off : BitVec 12)
  /-- R405: Atomic FP32 add, exact add or overwrite into a cluster accumulator store. -/
  | accad (aa : AReg) (b : SCode) (mode : BitVec 3)
  /-- R407: Invalidate memory-side translations of a range at its owner die. -/
  | tlbi (aa : AReg) (b : SCode)
  /-- R416: Add per element. -/
  | vadd (vd va : VReg) (vb : BitVec 6) (mk : MReg) (vf : Bool)
  /-- R416: Subtract per element. -/
  | vsub (vd va : VReg) (vb : BitVec 6) (mk : MReg) (vf : Bool)
  /-- R416: Multiply per element. -/
  | vmul (vd va : VReg) (vb : BitVec 6) (mk : MReg) (vf : Bool)
  /-- R416: a·b plus d per element. -/
  | vfma (vd va : VReg) (vb : BitVec 6) (mk : MReg) (vf : Bool)
  /-- R416: a·b minus d per element. -/
  | vfms (vd va : VReg) (vb : BitVec 6) (mk : MReg) (vf : Bool)
  /-- R416: d minus a·b per element. -/
  | vfnma (vd va : VReg) (vb : BitVec 6) (mk : MReg) (vf : Bool)
  /-- R416: Minimum per element. -/
  | vmin (vd va : VReg) (vb : BitVec 6) (mk : MReg) (vf : Bool)
  /-- R416: Maximum per element. -/
  | vmax (vd va : VReg) (vb : BitVec 6) (mk : MReg) (vf : Bool)
  /-- R416: Absolute value per element. -/
  | vabs (vd va : VReg) (mk : MReg)
  /-- R416: Negation per element. -/
  | vneg (vd va : VReg) (mk : MReg)
  /-- R416: Limit each element to the magnitude of b. -/
  | vclamp (vd va : VReg) (vb : BitVec 6) (mk : MReg) (vf : Bool)
  /-- R417: Correctly rounded special function per element. -/
  | vsf (vd va : VReg) (fn : BitVec 3) (mk : MReg)
  /-- R418: Compare elements into a mask register. -/
  | vcmp (cond : BitVec 6) (va : VReg) (vb : BitVec 6) (md : MReg) (vf : Bool)
  /-- R419: Select per element by a mask. -/
  | vsel (vd va : VReg) (vb : BitVec 6) (mk : MReg) (vf : Bool)
  /-- R420: Bitwise and per element. -/
  | vand (vd va : VReg) (vb : BitVec 6) (mk : MReg) (vf : Bool)
  /-- R420: Bitwise or per element. -/
  | vor (vd va : VReg) (vb : BitVec 6) (mk : MReg) (vf : Bool)
  /-- R420: Bitwise xor per element. -/
  | vxor (vd va : VReg) (vb : BitVec 6) (mk : MReg) (vf : Bool)
  /-- R420: Bitwise not per element. -/
  | vnot (vd va : VReg) (mk : MReg)
  /-- R420: Shift left per element. -/
  | vshl (vd va : VReg) (vb : BitVec 6) (mk : MReg) (vf : Bool)
  /-- R420: Logical shift right per element. -/
  | vshr (vd va : VReg) (vb : BitVec 6) (mk : MReg) (vf : Bool)
  /-- R420: Arithmetic shift right per element. -/
  | vsar (vd va : VReg) (vb : BitVec 6) (mk : MReg) (vf : Bool)
  /-- R421: Convert a tile to another element type. -/
  | vcvt (vd va : VReg) (dt : BitVec 4) (mk : MReg)
  /-- R422: Packed FP8 add per lane. -/
  | vpadd (vd va : VReg) (vb : BitVec 6) (mk : MReg) (vf : Bool)
  /-- R423: Gather elements by 32-bit indices. -/
  | vperm (vd va vb : VReg) (mk : MReg)
  /-- R424: Transpose a tile. -/
  | vtrn (vd va : VReg) (mk : MReg)
  /-- R425: Exact sum, min or max over the whole tile, rows or columns. -/
  | vred (vd va : VReg) (op : BitVec 3) (axis : BitVec 2) (mk : MReg)
  /-- R426: Exact inclusive or exclusive prefix sums. -/
  | vscan (vd va : VReg) (ex : Bool) (axis : BitVec 2) (mk : MReg)
  /-- R427: Exact segmented sums with segment heads in a mask. -/
  | vsegred (vd va : VReg) (mk : MReg)
  /-- R428: Pack the enabled elements to the front. -/
  | vcompact (vd va : VReg) (mk : MReg)
  /-- R429: Broadcast row 0 of a tile to every row. -/
  | vbcast (vd va : VReg) (mk : MReg)
  /-- R429: Broadcast a scalar to every element. -/
  | vbcastScalar (vd : VReg) (b : SCode) (mk : MReg)
  /-- R429: Copy a tile. -/
  | vmov (vd va : VReg) (mk : MReg)
  /-- R430: Insert a scalar into one element. -/
  | vins (vd : VReg) (a b : SCode)
  /-- R430: Extract one element to a scalar. -/
  | vext (d : SCode) (va : VReg) (b : SCode)
  /-- R431: Write flat, row or column coordinates. -/
  | viota (vd : VReg) (kind : BitVec 2) (mk : MReg)
  /-- R431: Write coordinates plus a scalar base. -/
  | viotaBase (vd : VReg) (kind : BitVec 2) (b : SCode) (mk : MReg)
  /-- R432: Fill a tile with noise digits or values at coordinates from a base. -/
  | nzgen (vd : VReg) (val : Bool) (h : BitVec 4) (b : SCode) (mk : MReg)
  /-- R432: Draw noise at 64-bit offsets held in a tile. -/
  | rngd (vd va : VReg) (val : Bool) (h : BitVec 4) (mk : MReg)
  /-- R434: Apply up to 8 pair records to FP32 master weights with FMA32. -/
  | vreplay (vd va : VReg) (mk : MReg)
  /-- R436: Read accumulator store elements or convert LA slots into a tile. -/
  | accrd (vd : VReg) (a : SCode) (la : Bool) (mk : MReg)
  /-- R436: Overwrite, FP32-add or exact-add a tile into the accumulator store. -/
  | accwr (vs : VReg) (a : SCode) (mode : BitVec 2) (mk : MReg)
  /-- R438: Mask logic by a truth table. -/
  | mlog (md ma mb : MReg) (tt : BitVec 4)
  /-- R439: Count, or find the first or last set bit of, a mask. -/
  | mcnt (d : SCode) (ma : MReg) (kind : BitVec 2)
  /-- R450: Write a matrix register. -/
  | mxset (reg : BitVec 12) (a : SCode)
  /-- R451: Load a weight tile from a scratchpad operand through the perturbation stage. -/
  | mxw (a b : SCode)
  /-- R451: Load a weight tile from a tile register. -/
  | mxwTile (v : VReg)
  /-- R452: Stream A rows from a scratchpad operand through the array. -/
  | mxa (a b : SCode)
  /-- R452: Stream A rows from a tile register. -/
  | mxaTile (v : VReg)
  /-- R453: Open a chain, initialising its slots and window. -/
  | mxcb (a : SCode)
  /-- R454: Close branches and convert a chain to a scratchpad destination. -/
  | mxce (a b : SCode)
  /-- R454: Close branches and convert a chain to a tile register. -/
  | mxceTile (v : VReg)
  /-- R455: Set the perturbation descriptor. -/
  | mxpd (a b : SCode)
  /-- R457: Write a branch-map entry. -/
  | mxdn (e : BitVec 5) (a : SCode)
  /-- R458: Load a curve table. -/
  | mxcv (c : BitVec 3) (a : SCode)
  /-- R459: Set the tap base address. -/
  | mxtap (a : SCode)
  /-- R456: Name the sparsity metadata address. -/
  | mxsp (a : SCode)
  /-- R461: Write a copy register. -/
  | cpset (reg : BitVec 12) (a : SCode)
  /-- R462: Start a strided copy. -/
  | cpgo (tok : Bool) (a b : SCode)
  /-- R465: Enter a 32×32 tile into the transpose queue. -/
  | trpush (m : BitVec 3) (kind : BitVec 2) (a b : SCode)
  /-- R466: Write the oldest queued tile transposed. -/
  | trpop (tok rb : Bool) (a b : SCode)
  /-- R468: Gather indexed elements into a packed buffer. -/
  | gthr (tok : Bool) (a b : SCode)
  /-- R468: Scatter a packed buffer to indexed elements. -/
  | sctr (tok : Bool) (a b : SCode)
  /-- R470: Post work entries to a queue pair. -/
  | qppost (qp : BitVec 8) (a b : SCode)
  /-- R471: Send a 32-byte record to every member of a group. -/
  | scput (grp : BitVec 12) (a : SCode)
  /-- R472: Contribute an FP64 term to a deterministic global sum. -/
  | scred (grp : BitVec 12) (a : SCode)
  /-- R473: Append nodes to a running graph. -/
  | gnode (a b : SCode)
  /-- R474: Decrease a node's PRED, launching it at 0. -/
  | gsig (a : SCode)
  /-- R56: Loss of a cellar expander makes later accesses through its windows raise TRANSL NO_WINDOW and page requests that need it complete with an error. -/
  | expanderLoss (expander : Nat)
  /-- R387: The owner's reply to a store or to a held synchronisation request lands the implicit p7 write or releases the held bundle. -/
  | ownerReply (core : CoreId)
  /-- R375: A D2 resume makes a halted context ready again. -/
  | debugResume (core : CoreId) (ctx : CtxId)
  /-- R92: A D2 single-step request issues one bundle of a halted core and logs a debug event. -/
  | debugStep (core : CoreId)
  /-- R92: A D1 or D2 memory or register access is performed and logged as a debug event. -/
  | debugAccess (core : CoreId) (target : DebugTarget) (value : Option Word)
  /-- R83: At power-on the boot ROM verifies the Amigen image and the boot policy, extends MEAS_BOOT with both, and then runs the image or sets SEC_STAT.BOOTF. -/
  | boot
  /-- R34: When the beat master is lost, the working module with the next lowest id becomes master and continues from its own counter. -/
  | beatMasterLoss
  /-- R40: Writing 1 to PWR_CAP.THROT clears the sticky throttle bit. -/
  | throtClear
  /-- R71: At completion, firmware writes the record's final state, adds the counter increment, fills FLAG and sends the MSI-X message, in that order. -/
  | commandFinish
  /-- R73: The NOP command does nothing and finishes at once. -/
  | nop
  /-- R107: The GANG command waits for context slots, loads the image into each named core, applies the presets, and releases every member together. -/
  | gang
  /-- R108: On the first fabric cycle of the common release beat, every gang member starts at the entry offset with its initial registers. -/
  | gangRelease
  /-- R114: The TASKS command admits every table entry, then places each by first fit or coordinate hash over the masked pool with its own join. -/
  | tasks
  /-- R123: The ORDERED command places speculative tasks in ascending timestamp order, with at most 64 started and uncommitted at a time. -/
  | ordered
  /-- R73: The COPY command marks its destination pages dirty and copies strided rows under its F/E mode, ending in error on a nonzero engine status. -/
  | copy
  /-- R129: The GRAPH command launches every node with PRED equal to 0 and runs the dependence graph until no node is launched and none can launch. -/
  | graph
  /-- R73: The CTRSET command writes a value to a counter and is the only operation that may lower it. -/
  | ctrset
  /-- R73: The CTRWAIT command finishes when the counter reaches the threshold. -/
  | ctrwait
  /-- R73: A CTRWAIT whose timeout passes first finishes with error TIMEOUT. -/
  | ctrwaitTimeout
  /-- R74: The INDIRECT command runs its buffer's slots in order at the next depth, halting on IB_DEPTH, BAD_VALID or an unreadable slot. -/
  | indirect
  /-- R265: PAGEOP FETCH reads each non-resident page from its backing, restores F from its tag block, and publishes the resident PTE with a TLBI. -/
  | pageopFetch
  /-- R265: PAGEOP EVICT writes each unpinned resident page and its tag block to backing, marks it non-resident and frees the frame. -/
  | pageopEvict
  /-- R265: PAGEOP MIGRATE copies each unpinned resident page granule by granule to a frame on the target die and publishes the new PTE. -/
  | pageopMigrate
  /-- R153: The QPPOST command posts work entries to a queue pair, refused with BAD_FIELD when the queue pair is not set up, the count is out of range or the address is misaligned. -/
  | qppostCmd
  /-- R73: The MARK command does nothing and finishes at once, serving its completion actions. -/
  | mark
  /-- R203: The CUESHEET command checks and loads a cue sheet, extends MEAS_RUN with it and selects a phase, or only selects the phase. -/
  | cuesheet
  /-- R75: FWCALL SET_MODULE_ID has Amigen set MOD_ID to the given module id and set VALID. -/
  | setModuleId
  /-- R42: FWCALL PORTB_MODE sets port B's mode and bifurcation for the next boot. -/
  | portbMode
  /-- R48: FWCALL SWT_WRITE writes one system window table entry of a die. -/
  | swtWrite
  /-- R45: FWCALL APERTURE sets APT_VA and APT_AS for host BAR2 and HDM accesses. -/
  | aperture
  /-- R76: FWCALL DOMAIN_JOIN trains every listed link, brings in those reporting their expected port, takes unlisted links down and joins the domain. -/
  | domainJoin
  /-- R75: FWCALL LINK_RETRAIN retrains one link and clears its LNK_STAT counters. -/
  | linkRetrain
  /-- R142: FWCALL GROUP_SET checks and installs a reduce or log group descriptor, pins its pages, and on replacement advances its generation. -/
  | groupSet
  /-- R142: FWCALL QP_SET binds a queue pair to a group, with a pinned 512-byte-aligned status ring. -/
  | qpSet
  /-- R496: FWCALL CORE_HOOK installs or removes a trap handler image and sets TSLICE on one core. -/
  | coreHook
  /-- R222: FWCALL RING_SET checks a 32-byte buffer-ring descriptor and writes it to the die's ring table in one step. -/
  | ringSet
  /-- R87: SECURITY RAISE_MODE moves Open to Attested or Attested to Sealed, ending any debug session first. -/
  | raiseMode
  /-- R89: SECURITY LOAD_KEY unwraps an ML-KEM-wrapped XTS key into a tenant slot and binds an ASID to the tenant. -/
  | loadKey
  /-- R89: SECURITY DROP_KEY zeroises a tenant key slot and closes every window of that tenant. -/
  | dropKey
  /-- R90: SECURITY OPEN_WINDOW opens a tenant-signed sealed BAR2 window and refreshes SEC_NONCE. -/
  | openWindow
  /-- R91: SECURITY CLOSE_WINDOW closes a tenant's sealed window on a valid signature and refreshes SEC_NONCE. -/
  | closeWindow
  /-- R91: SECURITY GET_EKEY writes the device's ML-KEM-1024 encapsulation key with the identity key's signature over it. -/
  | getEkey
  /-- R84: SECURITY POLICY_WRITE verifies a new signed boot policy and writes it to flash for the next boot. -/
  | policyWrite
  /-- R92: SECURITY DEBUG_UNLOCK grants debug level 1 or 2 under the token rules of the mode, logs the event and refreshes SEC_NONCE. -/
  | debugUnlock
  /-- R92: SECURITY DEBUG_END returns the debug level to D0 and logs the end of the session. -/
  | debugEnd
  /-- R95: SECURITY ATTEST writes a signed report of mode, debug level, keys, measurements and debug events over a host nonce. -/
  | attest
  /-- R96: SECURITY GATE sets the complete set of gated clusters of a die, refused whole if a cluster to be gated holds work or the firmware core. -/
  | gate
  /-- R97: SECURITY SUSPEND stops acceptance, pre-empts contexts, completes engine work, saves state to always-on SRAM and puts DRAM in self-refresh. -/
  | suspend
  /-- R98: SECURITY RESUME, accepted in A0 to A2, finishes at once without effect. -/
  | resume
  /-- R125: An ended ordered task commits once every task ahead has committed, testing its write set and publishing its back buffer and log with a die-scope PUBL. -/
  | taskCommit
  /-- R357: Jump to the address in lk. -/
  | ret
  /-- R362: Leave the innermost active loop and continue after its body. -/
  | lbrk
  /-- R366: Take a rehearsal checkpoint before the bundle. -/
  | ckpt
  /-- R367: Switch to another ready context, if any. -/
  | yield
  /-- R370: End the task, publishing its writes and counting into its join. -/
  | exit
  /-- R455: Clear perturbation at fetch. -/
  | mxpdOff
  /-- R99: Removal of power puts the module in S5, losing keys, memory, contexts, prompt book, measurements and the event log. -/
  | powerOff
  deriving DecidableEq, Repr

end Sys2Proof
end

