-- ==== Sys2Proof/WellFormed.lean ====
section
/-! DEFINITION. Which instructions the encoding admits: the slot class of each instruction and the
field values its entry accepts (13 R329, R338, R347 and the entries of 14 to 17). -/

namespace Sys2Proof

/-- The slot classes (13 R335). -/
inductive SlotClass where
  /-- the C slot -/
  | control
  /-- the A0 and A1 slots -/
  | scalar
  /-- the L slot -/
  | memory
  /-- the V0 and V1 slots -/
  | vector
  /-- the E slot -/
  | engine
  deriving DecidableEq, Repr

/-- The slot class of a slot instruction (13 R335); a step of the module has none. -/
def Instr.slotClass : Instr → Option SlotClass
  | .br _ | .brp _ _ _ | .call _ | .calli _ | .jmpi _ | .ret | .loop _ _ | .loopi _ _ | .lbrk 
  | .mtc _ _ | .mfc _ _ | .phase _ | .ckpt | .yield | .spawn _ _ _ _ | .join _ _ | .exit 
  | .tkill _ _ _ | .trap _ | .sysc _ | .brk _ | .eret _ | .ctxsw _ _ | .halt _ => some .control
  | .add _ _ _ | .sub _ _ _ | .mul _ _ _ | .mulh _ _ _ | .mulhu _ _ _ | .div _ _ _ | .divu _ _ _ 
  | .rem _ _ _ | .remu _ _ _ | .and _ _ _ | .or _ _ _ | .xor _ _ _ | .andn _ _ _ | .shl _ _ _ 
  | .shr _ _ _ | .sar _ _ _ | .rol _ _ _ | .min _ _ _ | .max _ _ _ | .minu _ _ _ | .maxu _ _ _ 
  | .clz _ _ | .popc _ _ | .sel _ _ _ _ | .addi _ _ _ | .andi _ _ _ | .ori _ _ _ | .xori _ _ _ 
  | .shli _ _ _ | .shri _ _ _ | .sari _ _ _ | .roli _ _ _ | .movi _ _ | .insh _ _ _ | .pcmp _ _ _ _ 
  | .pcmpi _ _ _ _ | .plog _ _ _ _ | .amov _ _ | .aadd _ _ _ | .aaddi _ _ _ | .aget _ _ | .lidx _ _ 
  | .fadd _ _ _ _ | .fsub _ _ _ _ | .fmul _ _ _ _ | .ffma _ _ _ _ | .fmin _ _ _ _ | .fmax _ _ _ _ 
  | .fcvt _ _ _ _ | .fcmp _ _ _ _ _ => some .scalar
  | .ld _ _ _ _ | .lds _ _ _ _ | .st _ _ _ _ | .ldlu _ _ _ _ | .ldw _ _ _ _ | .ldc _ _ _ _ 
  | .stf _ _ _ _ | .ldct _ _ _ _ | .stft _ _ _ _ | .feq _ _ _ _ | .femk _ _ _ _ | .vld _ _ _ _ _ 
  | .vst _ _ _ _ _ | .cadd _ _ _ _ _ | .cwait _ _ _ _ _ | .cread _ _ _ _ | .rbacq _ _ _ | .rbrel _ _ 
  | .fence _ _ | .publ _ _ | .bind _ _ _ _ | .unbind _ _ | .pgreq _ _ | .cflush _ _ | .cdisc _ _ 
  | .cpref _ _ | .accad _ _ _ | .tlbi _ _ => some .memory
  | .vadd _ _ _ _ _ | .vsub _ _ _ _ _ | .vmul _ _ _ _ _ | .vfma _ _ _ _ _ | .vfms _ _ _ _ _ 
  | .vfnma _ _ _ _ _ | .vmin _ _ _ _ _ | .vmax _ _ _ _ _ | .vabs _ _ _ | .vneg _ _ _ 
  | .vclamp _ _ _ _ _ | .vsf _ _ _ _ | .vcmp _ _ _ _ _ | .vsel _ _ _ _ _ | .vand _ _ _ _ _ 
  | .vor _ _ _ _ _ | .vxor _ _ _ _ _ | .vnot _ _ _ | .vshl _ _ _ _ _ | .vshr _ _ _ _ _ 
  | .vsar _ _ _ _ _ | .vcvt _ _ _ _ | .vpadd _ _ _ _ _ | .vperm _ _ _ _ | .vtrn _ _ _ 
  | .vred _ _ _ _ _ | .vscan _ _ _ _ _ | .vsegred _ _ _ | .vcompact _ _ _ | .vbcast _ _ _ 
  | .vbcastScalar _ _ _ | .vmov _ _ _ | .vins _ _ _ | .vext _ _ _ | .viota _ _ _ | .viotaBase _ _ _ _ 
  | .nzgen _ _ _ _ _ | .rngd _ _ _ _ _ | .vreplay _ _ _ | .accrd _ _ _ _ | .accwr _ _ _ _ 
  | .mlog _ _ _ _ | .mcnt _ _ _ => some .vector
  | .mxset _ _ | .mxw _ _ | .mxwTile _ | .mxa _ _ | .mxaTile _ | .mxcb _ | .mxce _ _ | .mxceTile _ 
  | .mxpd _ _ | .mxpdOff | .mxdn _ _ | .mxcv _ _ | .mxtap _ | .mxsp _ | .cpset _ _ | .cpgo _ _ _ 
  | .trpush _ _ _ _ | .trpop _ _ _ _ | .gthr _ _ _ | .sctr _ _ _ | .qppost _ _ _ | .scput _ _ 
  | .scred _ _ | .gnode _ _ | .gsig _ => some .engine
  | _ => none

/-- A scalar destination code: 60 to 63 name no destination (13 R329). -/
def destOk (d : SCode) : Bool := decide (d.toNat < 60)

/-- A destination that is also read: 56 to 63 are refused (14 R379, R383). -/
def destReadOk (d : SCode) : Bool := decide (d.toNat < 56)

/-- A scope field: 6 and 7 are reserved (13 R338). -/
def scopeOk (sc : BitVec 3) : Bool := decide (sc.toNat < 6)

/-- The orders of LDW, LDC, LDCT, FEQ, CWAIT and CREAD: plain or acquire (15 R388). -/
def ordAcqOk (o : BitVec 3) : Bool := o == 0 || o == 1

/-- The orders of STF, STFT and FEMK: plain or release (15 R388). -/
def ordRelOk (o : BitVec 3) : Bool := o == 0 || o == 2

/-- The control registers MFC accepts (13 R344). -/
def crReadOk (cr : BitVec 12) : Bool :=
  let n := cr.toNat
  (1 ≤ n && n ≤ 7) || (0x10 ≤ n && n ≤ 0x12) || (0x20 ≤ n && n ≤ 0x2B) || (0x40 ≤ n && n ≤ 0x5F) ||
  (0x800 ≤ n && n ≤ 0x805) || (0x900 ≤ n && n ≤ 0xB3F)

/-- The control registers MTC accepts: those of MFC but CTXID, COREID and TIME (13 R344). -/
def crWriteOk (cr : BitVec 12) : Bool := crReadOk cr && !(0x10 ≤ cr.toNat && cr.toNat ≤ 0x12)

/-- The copy registers CPSET accepts (17 R460, R461; 08 R217). -/
def cpRegOk (r : BitVec 12) : Bool :=
  let n := r.toNat
  n ≤ 5 || (0x10 ≤ n && n ≤ 0x15) || (0x20 ≤ n && n ≤ 0x25) || (0x30 ≤ n && n ≤ 0x33)

/-- The field values an instruction's entry accepts.
An instruction that fails this is an ILLEGAL_OP in its slot (13 R338, R347).
A step of the module has operands of any value. -/
def Instr.wf : Instr → Bool
  | .loop _ len => len != 0
  | .loopi _ len => len != 0
  | .mtc _ cr => crWriteOk cr
  | .mfc d cr => destOk d && crReadOk cr
  | .phase u => 2 ≤ u.toNat && u.toNat ≤ 8
  | .spawn d _ _ _ | .join d _ | .tkill d _ _ => destOk d
  | .add d _ _ | .sub d _ _ | .mul d _ _ | .mulh d _ _ | .mulhu d _ _ | .div d _ _ | .divu d _ _
  | .rem d _ _ | .remu d _ _ | .and d _ _ | .or d _ _ | .xor d _ _ | .andn d _ _ | .shl d _ _
  | .shr d _ _ | .sar d _ _ | .rol d _ _ | .min d _ _ | .max d _ _ | .minu d _ _ | .maxu d _ _ => destOk d
  | .clz d _ | .popc d _ => destOk d
  | .sel d _ _ _ => destOk d
  | .addi d _ _ | .andi d _ _ | .ori d _ _ | .xori d _ _ | .shli d _ _ | .shri d _ _ | .sari d _ _
  | .roli d _ _ => destOk d
  | .movi d _ => destOk d
  | .insh d _ _ => destReadOk d
  | .aget d _ | .lidx d _ => destOk d
  | .fadd d _ _ _ | .fsub d _ _ _ | .fmul d _ _ _ | .fmin d _ _ _ | .fmax d _ _ _ => destOk d
  | .ffma d _ _ _ => destReadOk d
  | .fcvt d _ dty sty => destOk d && dty != 6 && sty != 6
  | .fcmp _ _ _ cond _ => decide (cond.toNat < 6)
  | .ld d _ _ _ | .lds d _ _ _ | .ldlu d _ _ _ => destOk d
  | .ldw d _ sc o | .ldc d _ sc o | .ldct d _ sc o | .feq d _ sc o => destOk d && scopeOk sc && ordAcqOk o
  | .stf _ _ sc o | .stft _ _ sc o | .femk _ _ sc o => scopeOk sc && ordRelOk o
  | .cadd d _ _ sc o => destOk d && scopeOk sc && decide (o.toNat < 4)
  | .cwait d _ _ sc o => destOk d && scopeOk sc && ordAcqOk o
  | .cread d _ sc o => destOk d && scopeOk sc && ordAcqOk o
  | .rbacq _ _ sc | .rbrel _ sc => scopeOk sc
  | .fence sc o => scopeOk sc && ((o == 0 && sc == 0) || (1 ≤ o.toNat && o.toNat ≤ 3))
  | .publ _ sc => scopeOk sc
  | .bind _ _ _ f => decide (f.toNat < 3)
  | .accad _ _ m => decide (m.toNat < 3)
  | .vcmp cond _ _ _ _ => decide (cond.toNat < 6)
  | .vred _ _ op axis _ => decide (op.toNat < 3) && axis != 3
  | .vscan _ _ _ axis _ => axis != 3
  | .vext d _ _ => destOk d
  | .viota _ k _ | .viotaBase _ k _ _ => k != 3
  | .vreplay vd va _ => vd != va
  | .accwr _ _ m _ => m != 3
  | .mcnt d _ k => destOk d && k != 3
  | .mxset r _ => 1 ≤ r.toNat && r.toNat ≤ 7
  | .cpset r _ => cpRegOk r
  | .trpush m k _ _ => k != 3 && (k == 2 || m == 0)
  | _ => true

end Sys2Proof
end

