-- ==== Sys2Proof/Decode.lean ====
section
/-! DEFINITION. Decoding and encoding: the bundle header (13 R332 to R334), the slot words of each
slot class (13 R335 to R343) and the encoder written from the same tables. -/

namespace Sys2Proof

/-- Why a word is no instruction. -/
inductive Reject where
  /-- the operation code is not assigned in the slot (13 R347); ILLEGAL_OP at issue -/
  | unassigned
  /-- a field that must be zero, a register code or a field value the entry refuses (13 R338); ILLEGAL_OP at issue -/
  | badField (i : Instr)
  /-- the instruction may not stand in this slot (13 R335); ILLEGAL_SLOT at issue -/
  | wrongSlot (i : Instr)
  deriving DecidableEq, Repr

/-- The instruction whose operation code a rejected word has: none where the code is not assigned. -/
def Reject.named? : Reject → Option Instr
  | .unassigned => none
  | .badField i => some i
  | .wrongSlot i => some i

/-- The instruction when its word's fixed fields hold what its encoding asks. -/
def ifFields (fieldsOk : Bool) (i : Instr) : Except Reject Instr :=
  if fieldsOk then .ok i else .error (.badField i)

/-- The control instruction with operation code `op` in the word `w` (13 R339; fields: the entries of 14 to 17). -/
def decodeControl (op w : Nat) : Except Reject Instr :=
  match op with
  | 0x01 => ifFields (w / 0x100000 % 0x10 == 0) (.br (.ofNat 20 w))
  | 0x02 => ifFields (true) (.brp (.ofNat 3 (w / 0x200000)) (w / 0x100000 % 2 == 1) (.ofNat 20 w))
  | 0x03 => ifFields (w / 0x100000 % 0x10 == 0) (.call (.ofNat 20 w))
  | 0x04 => ifFields (w % 0x1000 == 0 && w / 0x40000 % 0x40 == 0) (.calli (.ofNat 6 (w / 0x1000)))
  | 0x05 => ifFields (w % 0x1000 == 0 && w / 0x40000 % 0x40 == 0) (.jmpi (.ofNat 6 (w / 0x1000)))
  | 0x06 => ifFields (w % 0x1000000 == 0) (.ret)
  | 0x08 => ifFields (w / 0x40000 % 0x40 == 0) (.loop (.ofNat 6 (w / 0x1000)) (.ofNat 12 w))
  | 0x09 => ifFields (true) (.loopi (.ofNat 12 (w / 0x1000)) (.ofNat 12 w))
  | 0x0A => ifFields (w % 0x1000000 == 0) (.lbrk)
  | 0x10 => ifFields (w % 0x40 == 0) (.mtc (.ofNat 6 (w / 0x40000)) (.ofNat 12 (w / 0x40)))
  | 0x11 => ifFields (w % 0x40 == 0) (.mfc (.ofNat 6 (w / 0x40000)) (.ofNat 12 (w / 0x40)))
  | 0x14 => ifFields (w / 0x1000 % 0x1000 == 0) (.phase (.ofNat 12 w))
  | 0x18 => ifFields (w % 0x1000000 == 0) (.ckpt)
  | 0x19 => ifFields (w % 0x1000000 == 0) (.yield)
  | 0x20 => ifFields (w / 0x2 % 0x20 == 0) (.spawn (.ofNat 6 (w / 0x40000)) (.ofNat 6 (w / 0x1000)) (.ofNat 6 (w / 0x40)) (w % 2 == 1))
  | 0x21 => ifFields (w % 0x1000 == 0) (.join (.ofNat 6 (w / 0x40000)) (.ofNat 6 (w / 0x1000)))
  | 0x22 => ifFields (w % 0x1000000 == 0) (.exit)
  | 0x23 => ifFields (w % 0x40 == 0) (.tkill (.ofNat 6 (w / 0x40000)) (.ofNat 6 (w / 0x1000)) (.ofNat 6 (w / 0x40)))
  | 0x28 => ifFields (w / 0x40000 % 0x40 == 0) (.trap (.ofNat 18 w))
  | 0x29 => ifFields (w / 0x40000 % 0x40 == 0) (.sysc (.ofNat 18 w))
  | 0x2A => ifFields (w / 0x40000 % 0x40 == 0) (.brk (.ofNat 18 w))
  | 0x30 => ifFields (w / 0x2 % 0x800000 == 0) (.eret (w % 2 == 1))
  | 0x31 => ifFields (w / 0x2 % 0x800 == 0 && w / 0x40000 % 0x40 == 0) (.ctxsw (.ofNat 6 (w / 0x1000)) (w % 2 == 1))
  | 0x32 => ifFields (w / 0x2 % 0x800000 == 0) (.halt (w % 2 == 1))
  | _ => .error .unassigned

/-- The scalar instruction with operation code `op` in the word `w` (13 R340; fields: the entries of 14 to 17). -/
def decodeScalar (op w : Nat) : Except Reject Instr :=
  match op with
  | 0x01 => ifFields (w % 0x40 == 0) (.add (.ofNat 6 (w / 0x40000)) (.ofNat 6 (w / 0x1000)) (.ofNat 6 (w / 0x40)))
  | 0x02 => ifFields (w % 0x40 == 0) (.sub (.ofNat 6 (w / 0x40000)) (.ofNat 6 (w / 0x1000)) (.ofNat 6 (w / 0x40)))
  | 0x03 => ifFields (w % 0x40 == 0) (.mul (.ofNat 6 (w / 0x40000)) (.ofNat 6 (w / 0x1000)) (.ofNat 6 (w / 0x40)))
  | 0x04 => ifFields (w % 0x40 == 0) (.mulh (.ofNat 6 (w / 0x40000)) (.ofNat 6 (w / 0x1000)) (.ofNat 6 (w / 0x40)))
  | 0x05 => ifFields (w % 0x40 == 0) (.mulhu (.ofNat 6 (w / 0x40000)) (.ofNat 6 (w / 0x1000)) (.ofNat 6 (w / 0x40)))
  | 0x06 => ifFields (w % 0x40 == 0) (.div (.ofNat 6 (w / 0x40000)) (.ofNat 6 (w / 0x1000)) (.ofNat 6 (w / 0x40)))
  | 0x07 => ifFields (w % 0x40 == 0) (.divu (.ofNat 6 (w / 0x40000)) (.ofNat 6 (w / 0x1000)) (.ofNat 6 (w / 0x40)))
  | 0x08 => ifFields (w % 0x40 == 0) (.rem (.ofNat 6 (w / 0x40000)) (.ofNat 6 (w / 0x1000)) (.ofNat 6 (w / 0x40)))
  | 0x09 => ifFields (w % 0x40 == 0) (.remu (.ofNat 6 (w / 0x40000)) (.ofNat 6 (w / 0x1000)) (.ofNat 6 (w / 0x40)))
  | 0x0A => ifFields (w % 0x40 == 0) (.and (.ofNat 6 (w / 0x40000)) (.ofNat 6 (w / 0x1000)) (.ofNat 6 (w / 0x40)))
  | 0x0B => ifFields (w % 0x40 == 0) (.or (.ofNat 6 (w / 0x40000)) (.ofNat 6 (w / 0x1000)) (.ofNat 6 (w / 0x40)))
  | 0x0C => ifFields (w % 0x40 == 0) (.xor (.ofNat 6 (w / 0x40000)) (.ofNat 6 (w / 0x1000)) (.ofNat 6 (w / 0x40)))
  | 0x0D => ifFields (w % 0x40 == 0) (.andn (.ofNat 6 (w / 0x40000)) (.ofNat 6 (w / 0x1000)) (.ofNat 6 (w / 0x40)))
  | 0x0E => ifFields (w % 0x40 == 0) (.shl (.ofNat 6 (w / 0x40000)) (.ofNat 6 (w / 0x1000)) (.ofNat 6 (w / 0x40)))
  | 0x0F => ifFields (w % 0x40 == 0) (.shr (.ofNat 6 (w / 0x40000)) (.ofNat 6 (w / 0x1000)) (.ofNat 6 (w / 0x40)))
  | 0x10 => ifFields (w % 0x40 == 0) (.sar (.ofNat 6 (w / 0x40000)) (.ofNat 6 (w / 0x1000)) (.ofNat 6 (w / 0x40)))
  | 0x11 => ifFields (w % 0x40 == 0) (.rol (.ofNat 6 (w / 0x40000)) (.ofNat 6 (w / 0x1000)) (.ofNat 6 (w / 0x40)))
  | 0x12 => ifFields (w % 0x40 == 0) (.min (.ofNat 6 (w / 0x40000)) (.ofNat 6 (w / 0x1000)) (.ofNat 6 (w / 0x40)))
  | 0x13 => ifFields (w % 0x40 == 0) (.max (.ofNat 6 (w / 0x40000)) (.ofNat 6 (w / 0x1000)) (.ofNat 6 (w / 0x40)))
  | 0x14 => ifFields (w % 0x40 == 0) (.minu (.ofNat 6 (w / 0x40000)) (.ofNat 6 (w / 0x1000)) (.ofNat 6 (w / 0x40)))
  | 0x15 => ifFields (w % 0x40 == 0) (.maxu (.ofNat 6 (w / 0x40000)) (.ofNat 6 (w / 0x1000)) (.ofNat 6 (w / 0x40)))
  | 0x16 => ifFields (w % 0x1000 == 0) (.clz (.ofNat 6 (w / 0x40000)) (.ofNat 6 (w / 0x1000)))
  | 0x17 => ifFields (w % 0x1000 == 0) (.popc (.ofNat 6 (w / 0x40000)) (.ofNat 6 (w / 0x1000)))
  | 0x18 => ifFields (w / 0x8 % 0x8 == 0) (.sel (.ofNat 6 (w / 0x40000)) (.ofNat 6 (w / 0x1000)) (.ofNat 6 (w / 0x40)) (.ofNat 3 w))
  | 0x20 => ifFields (true) (.addi (.ofNat 6 (w / 0x40000)) (.ofNat 6 (w / 0x1000)) (.ofNat 12 w))
  | 0x21 => ifFields (true) (.andi (.ofNat 6 (w / 0x40000)) (.ofNat 6 (w / 0x1000)) (.ofNat 12 w))
  | 0x22 => ifFields (true) (.ori (.ofNat 6 (w / 0x40000)) (.ofNat 6 (w / 0x1000)) (.ofNat 12 w))
  | 0x23 => ifFields (true) (.xori (.ofNat 6 (w / 0x40000)) (.ofNat 6 (w / 0x1000)) (.ofNat 12 w))
  | 0x24 => ifFields (w / 0x40 % 0x40 == 0) (.shli (.ofNat 6 (w / 0x40000)) (.ofNat 6 (w / 0x1000)) (.ofNat 6 w))
  | 0x25 => ifFields (w / 0x40 % 0x40 == 0) (.shri (.ofNat 6 (w / 0x40000)) (.ofNat 6 (w / 0x1000)) (.ofNat 6 w))
  | 0x26 => ifFields (w / 0x40 % 0x40 == 0) (.sari (.ofNat 6 (w / 0x40000)) (.ofNat 6 (w / 0x1000)) (.ofNat 6 w))
  | 0x27 => ifFields (w / 0x40 % 0x40 == 0) (.roli (.ofNat 6 (w / 0x40000)) (.ofNat 6 (w / 0x1000)) (.ofNat 6 w))
  | 0x28 => ifFields (true) (.movi (.ofNat 6 (w / 0x40000)) (.ofNat 18 w))
  | 0x29 => ifFields (true) (.insh (.ofNat 6 (w / 0x40000)) (.ofNat 2 (w / 0x10000)) (.ofNat 16 w))
  | 0x30 => ifFields (w / 0x8 % 0x8 == 0 && w / 0x200000 % 0x8 == 0) (.pcmp (.ofNat 3 (w / 0x40000)) (.ofNat 6 (w / 0x1000)) (.ofNat 6 (w / 0x40)) (.ofNat 3 w))
  | 0x31 => ifFields (true) (.pcmpi (.ofNat 3 (w / 0x200000)) (.ofNat 3 (w / 0x40000)) (.ofNat 6 (w / 0x1000)) (.ofNat 12 w))
  | 0x32 => ifFields (w / 0x10 % 0x4 == 0 && w / 0x200000 % 0x8 == 0 && w / 0x8000 % 0x8 == 0 && w / 0x200 % 0x8 == 0) (.plog (.ofNat 3 (w / 0x40000)) (.ofNat 3 (w / 0x1000)) (.ofNat 3 (w / 0x40)) (.ofNat 4 w))
  | 0x38 => ifFields (w % 0x1000 == 0 && w / 0x400000 % 0x4 == 0) (.amov (.ofNat 4 (w / 0x40000)) (.ofNat 6 (w / 0x1000)))
  | 0x39 => ifFields (w % 0x40 == 0 && w / 0x400000 % 0x4 == 0 && w / 0x10000 % 0x4 == 0) (.aadd (.ofNat 4 (w / 0x40000)) (.ofNat 4 (w / 0x1000)) (.ofNat 6 (w / 0x40)))
  | 0x3A => ifFields (w / 0x400000 % 0x4 == 0 && w / 0x10000 % 0x4 == 0) (.aaddi (.ofNat 4 (w / 0x40000)) (.ofNat 4 (w / 0x1000)) (.ofNat 12 w))
  | 0x3B => ifFields (w % 0x1000 == 0 && w / 0x10000 % 0x4 == 0) (.aget (.ofNat 6 (w / 0x40000)) (.ofNat 4 (w / 0x1000)))
  | 0x3C => ifFields (w / 0x8 % 0x8000 == 0) (.lidx (.ofNat 6 (w / 0x40000)) (.ofNat 3 w))
  | 0x40 => ifFields (w / 0x2 % 0x20 == 0) (.fadd (.ofNat 6 (w / 0x40000)) (.ofNat 6 (w / 0x1000)) (.ofNat 6 (w / 0x40)) (w % 2 == 1))
  | 0x41 => ifFields (w / 0x2 % 0x20 == 0) (.fsub (.ofNat 6 (w / 0x40000)) (.ofNat 6 (w / 0x1000)) (.ofNat 6 (w / 0x40)) (w % 2 == 1))
  | 0x42 => ifFields (w / 0x2 % 0x20 == 0) (.fmul (.ofNat 6 (w / 0x40000)) (.ofNat 6 (w / 0x1000)) (.ofNat 6 (w / 0x40)) (w % 2 == 1))
  | 0x43 => ifFields (w / 0x2 % 0x20 == 0) (.ffma (.ofNat 6 (w / 0x40000)) (.ofNat 6 (w / 0x1000)) (.ofNat 6 (w / 0x40)) (w % 2 == 1))
  | 0x44 => ifFields (w / 0x2 % 0x20 == 0) (.fmin (.ofNat 6 (w / 0x40000)) (.ofNat 6 (w / 0x1000)) (.ofNat 6 (w / 0x40)) (w % 2 == 1))
  | 0x45 => ifFields (w / 0x2 % 0x20 == 0) (.fmax (.ofNat 6 (w / 0x40000)) (.ofNat 6 (w / 0x1000)) (.ofNat 6 (w / 0x40)) (w % 2 == 1))
  | 0x46 => ifFields (w / 0x10 % 0x4 == 0 && w / 0x400 % 0x4 == 0) (.fcvt (.ofNat 6 (w / 0x40000)) (.ofNat 6 (w / 0x1000)) (.ofNat 4 (w / 0x40)) (.ofNat 4 w))
  | 0x47 => ifFields (w / 0x10 % 0x4 == 0 && w / 0x200000 % 0x8 == 0) (.fcmp (.ofNat 3 (w / 0x40000)) (.ofNat 6 (w / 0x1000)) (.ofNat 6 (w / 0x40)) (.ofNat 3 (w / 0x2)) (w % 2 == 1))
  | _ => .error .unassigned

/-- The memory instruction with operation code `op` in the word `w` (13 R341; fields: the entries of 14 to 17). -/
def decodeMemory (op w : Nat) : Except Reject Instr :=
  match op with
  | 0x01 => ifFields (true) (.ld (.ofNat 6 (w / 0x40000)) (.ofNat 4 (w / 0x4000)) (.ofNat 2 (w / 0x1000)) (.ofNat 12 w))
  | 0x02 => ifFields (true) (.lds (.ofNat 6 (w / 0x40000)) (.ofNat 4 (w / 0x4000)) (.ofNat 2 (w / 0x1000)) (.ofNat 12 w))
  | 0x03 => ifFields (true) (.st (.ofNat 6 (w / 0x40000)) (.ofNat 4 (w / 0x4000)) (.ofNat 2 (w / 0x1000)) (.ofNat 12 w))
  | 0x0B => ifFields (true) (.ldlu (.ofNat 6 (w / 0x40000)) (.ofNat 4 (w / 0x4000)) (.ofNat 2 (w / 0x1000)) (.ofNat 12 w))
  | 0x04 => ifFields (w / 0x40 % 0x40 == 0 && w / 0x10000 % 0x4 == 0) (.ldw (.ofNat 6 (w / 0x40000)) (.ofNat 4 (w / 0x1000)) (.ofNat 3 (w / 0x8)) (.ofNat 3 w))
  | 0x05 => ifFields (w / 0x40 % 0x40 == 0 && w / 0x10000 % 0x4 == 0) (.ldc (.ofNat 6 (w / 0x40000)) (.ofNat 4 (w / 0x1000)) (.ofNat 3 (w / 0x8)) (.ofNat 3 w))
  | 0x06 => ifFields (w / 0x40000 % 0x40 == 0 && w / 0x10000 % 0x4 == 0) (.stf (.ofNat 4 (w / 0x1000)) (.ofNat 6 (w / 0x40)) (.ofNat 3 (w / 0x8)) (.ofNat 3 w))
  | 0x07 => ifFields (w / 0x40 % 0x40 == 0 && w / 0x10000 % 0x4 == 0) (.ldct (.ofNat 6 (w / 0x40000)) (.ofNat 4 (w / 0x1000)) (.ofNat 3 (w / 0x8)) (.ofNat 3 w))
  | 0x08 => ifFields (w / 0x40000 % 0x40 == 0 && w / 0x10000 % 0x4 == 0) (.stft (.ofNat 4 (w / 0x1000)) (.ofNat 6 (w / 0x40)) (.ofNat 3 (w / 0x8)) (.ofNat 3 w))
  | 0x09 => ifFields (w / 0x40 % 0x40 == 0 && w / 0x10000 % 0x4 == 0) (.feq (.ofNat 6 (w / 0x40000)) (.ofNat 4 (w / 0x1000)) (.ofNat 3 (w / 0x8)) (.ofNat 3 w))
  | 0x0A => ifFields (w / 0x40000 % 0x40 == 0 && w / 0x10000 % 0x4 == 0) (.femk (.ofNat 4 (w / 0x1000)) (.ofNat 6 (w / 0x40)) (.ofNat 3 (w / 0x8)) (.ofNat 3 w))
  | 0x10 => ifFields (w / 0x4 % 0x4 == 0) (.vld (.ofNat 6 (w / 0x40000)) (.ofNat 4 (w / 0x4000)) (.ofNat 6 (w / 0x100)) (.ofNat 4 (w / 0x10)) (.ofNat 2 w))
  | 0x11 => ifFields (w / 0x4 % 0x4 == 0) (.vst (.ofNat 6 (w / 0x40000)) (.ofNat 4 (w / 0x4000)) (.ofNat 6 (w / 0x100)) (.ofNat 4 (w / 0x10)) (.ofNat 2 w))
  | 0x18 => ifFields (true) (.cadd (.ofNat 6 (w / 0x40000)) (.ofNat 6 (w / 0x1000)) (.ofNat 6 (w / 0x40)) (.ofNat 3 (w / 0x8)) (.ofNat 3 w))
  | 0x19 => ifFields (true) (.cwait (.ofNat 6 (w / 0x40000)) (.ofNat 6 (w / 0x1000)) (.ofNat 6 (w / 0x40)) (.ofNat 3 (w / 0x8)) (.ofNat 3 w))
  | 0x1A => ifFields (w / 0x40 % 0x40 == 0) (.cread (.ofNat 6 (w / 0x40000)) (.ofNat 6 (w / 0x1000)) (.ofNat 3 (w / 0x8)) (.ofNat 3 w))
  | 0x20 => ifFields (w % 0x8 == 0 && w / 0x40 % 0x40 == 0 && w / 0x400000 % 0x4 == 0) (.rbacq (.ofNat 4 (w / 0x40000)) (.ofNat 6 (w / 0x1000)) (.ofNat 3 (w / 0x8)))
  | 0x21 => ifFields (w % 0x8 == 0 && w / 0x40 % 0x40 == 0 && w / 0x40000 % 0x40 == 0) (.rbrel (.ofNat 6 (w / 0x1000)) (.ofNat 3 (w / 0x8)))
  | 0x28 => ifFields (w / 0x40 % 0x40000 == 0) (.fence (.ofNat 3 (w / 0x8)) (.ofNat 3 w))
  | 0x29 => ifFields (w % 0x8 == 0 && w / 0x40 % 0x40 == 0 && w / 0x40000 % 0x40 == 0 && w / 0x10000 % 0x4 == 0) (.publ (.ofNat 4 (w / 0x1000)) (.ofNat 3 (w / 0x8)))
  | 0x2A => ifFields (w % 0x8 == 0 && w / 0x10000 % 0x4 == 0) (.bind (.ofNat 6 (w / 0x40000)) (.ofNat 4 (w / 0x1000)) (.ofNat 6 (w / 0x40)) (.ofNat 3 (w / 0x8)))
  | 0x2B => ifFields (w % 0x40 == 0 && w / 0x40000 % 0x40 == 0 && w / 0x10000 % 0x4 == 0) (.unbind (.ofNat 4 (w / 0x1000)) (.ofNat 6 (w / 0x40)))
  | 0x30 => ifFields (w % 0x40 == 0 && w / 0x40000 % 0x40 == 0 && w / 0x10000 % 0x4 == 0) (.pgreq (.ofNat 4 (w / 0x1000)) (.ofNat 6 (w / 0x40)))
  | 0x31 => ifFields (w / 0x1000 % 0x4 == 0x3 && w / 0x40000 % 0x40 == 0) (.cflush (.ofNat 4 (w / 0x4000)) (.ofNat 12 w))
  | 0x32 => ifFields (w / 0x1000 % 0x4 == 0x3 && w / 0x40000 % 0x40 == 0) (.cdisc (.ofNat 4 (w / 0x4000)) (.ofNat 12 w))
  | 0x33 => ifFields (w / 0x1000 % 0x4 == 0x3 && w / 0x40000 % 0x40 == 0) (.cpref (.ofNat 4 (w / 0x4000)) (.ofNat 12 w))
  | 0x34 => ifFields (w % 0x8 == 0 && w / 0x40000 % 0x40 == 0 && w / 0x10000 % 0x4 == 0) (.accad (.ofNat 4 (w / 0x1000)) (.ofNat 6 (w / 0x40)) (.ofNat 3 (w / 0x8)))
  | 0x38 => ifFields (w % 0x40 == 0 && w / 0x40000 % 0x40 == 0 && w / 0x10000 % 0x4 == 0) (.tlbi (.ofNat 4 (w / 0x1000)) (.ofNat 6 (w / 0x40)))
  | _ => .error .unassigned

/-- The vector instruction with operation code `op` in the word `w` (13 R342; fields: the entries of 14 to 17). -/
def decodeVector (op w : Nat) : Except Reject Instr :=
  match op with
  | 0x01 => ifFields (w / 0x2 % 0x2 == 0) (.vadd (.ofNat 6 (w / 0x40000)) (.ofNat 6 (w / 0x1000)) (.ofNat 6 (w / 0x40)) (.ofNat 4 (w / 0x4)) (w % 2 == 1))
  | 0x02 => ifFields (w / 0x2 % 0x2 == 0) (.vsub (.ofNat 6 (w / 0x40000)) (.ofNat 6 (w / 0x1000)) (.ofNat 6 (w / 0x40)) (.ofNat 4 (w / 0x4)) (w % 2 == 1))
  | 0x03 => ifFields (w / 0x2 % 0x2 == 0) (.vmul (.ofNat 6 (w / 0x40000)) (.ofNat 6 (w / 0x1000)) (.ofNat 6 (w / 0x40)) (.ofNat 4 (w / 0x4)) (w % 2 == 1))
  | 0x04 => ifFields (w / 0x2 % 0x2 == 0) (.vfma (.ofNat 6 (w / 0x40000)) (.ofNat 6 (w / 0x1000)) (.ofNat 6 (w / 0x40)) (.ofNat 4 (w / 0x4)) (w % 2 == 1))
  | 0x05 => ifFields (w / 0x2 % 0x2 == 0) (.vfms (.ofNat 6 (w / 0x40000)) (.ofNat 6 (w / 0x1000)) (.ofNat 6 (w / 0x40)) (.ofNat 4 (w / 0x4)) (w % 2 == 1))
  | 0x06 => ifFields (w / 0x2 % 0x2 == 0) (.vfnma (.ofNat 6 (w / 0x40000)) (.ofNat 6 (w / 0x1000)) (.ofNat 6 (w / 0x40)) (.ofNat 4 (w / 0x4)) (w % 2 == 1))
  | 0x07 => ifFields (w / 0x2 % 0x2 == 0) (.vmin (.ofNat 6 (w / 0x40000)) (.ofNat 6 (w / 0x1000)) (.ofNat 6 (w / 0x40)) (.ofNat 4 (w / 0x4)) (w % 2 == 1))
  | 0x08 => ifFields (w / 0x2 % 0x2 == 0) (.vmax (.ofNat 6 (w / 0x40000)) (.ofNat 6 (w / 0x1000)) (.ofNat 6 (w / 0x40)) (.ofNat 4 (w / 0x4)) (w % 2 == 1))
  | 0x09 => ifFields (w % 0x4 == 0 && w / 0x40 % 0x40 == 0) (.vabs (.ofNat 6 (w / 0x40000)) (.ofNat 6 (w / 0x1000)) (.ofNat 4 (w / 0x4)))
  | 0x0A => ifFields (w % 0x4 == 0 && w / 0x40 % 0x40 == 0) (.vneg (.ofNat 6 (w / 0x40000)) (.ofNat 6 (w / 0x1000)) (.ofNat 4 (w / 0x4)))
  | 0x0B => ifFields (w / 0x2 % 0x2 == 0) (.vclamp (.ofNat 6 (w / 0x40000)) (.ofNat 6 (w / 0x1000)) (.ofNat 6 (w / 0x40)) (.ofNat 4 (w / 0x4)) (w % 2 == 1))
  | 0x10 => ifFields (w % 0x4 == 0 && w / 0x200 % 0x8 == 0) (.vsf (.ofNat 6 (w / 0x40000)) (.ofNat 6 (w / 0x1000)) (.ofNat 3 (w / 0x40)) (.ofNat 4 (w / 0x4)))
  | 0x11 => ifFields (w / 0x2 % 0x2 == 0) (.vcmp (.ofNat 6 (w / 0x40000)) (.ofNat 6 (w / 0x1000)) (.ofNat 6 (w / 0x40)) (.ofNat 4 (w / 0x4)) (w % 2 == 1))
  | 0x12 => ifFields (w / 0x2 % 0x2 == 0) (.vsel (.ofNat 6 (w / 0x40000)) (.ofNat 6 (w / 0x1000)) (.ofNat 6 (w / 0x40)) (.ofNat 4 (w / 0x4)) (w % 2 == 1))
  | 0x18 => ifFields (w / 0x2 % 0x2 == 0) (.vand (.ofNat 6 (w / 0x40000)) (.ofNat 6 (w / 0x1000)) (.ofNat 6 (w / 0x40)) (.ofNat 4 (w / 0x4)) (w % 2 == 1))
  | 0x19 => ifFields (w / 0x2 % 0x2 == 0) (.vor (.ofNat 6 (w / 0x40000)) (.ofNat 6 (w / 0x1000)) (.ofNat 6 (w / 0x40)) (.ofNat 4 (w / 0x4)) (w % 2 == 1))
  | 0x1A => ifFields (w / 0x2 % 0x2 == 0) (.vxor (.ofNat 6 (w / 0x40000)) (.ofNat 6 (w / 0x1000)) (.ofNat 6 (w / 0x40)) (.ofNat 4 (w / 0x4)) (w % 2 == 1))
  | 0x1B => ifFields (w % 0x4 == 0 && w / 0x40 % 0x40 == 0) (.vnot (.ofNat 6 (w / 0x40000)) (.ofNat 6 (w / 0x1000)) (.ofNat 4 (w / 0x4)))
  | 0x1C => ifFields (w / 0x2 % 0x2 == 0) (.vshl (.ofNat 6 (w / 0x40000)) (.ofNat 6 (w / 0x1000)) (.ofNat 6 (w / 0x40)) (.ofNat 4 (w / 0x4)) (w % 2 == 1))
  | 0x1D => ifFields (w / 0x2 % 0x2 == 0) (.vshr (.ofNat 6 (w / 0x40000)) (.ofNat 6 (w / 0x1000)) (.ofNat 6 (w / 0x40)) (.ofNat 4 (w / 0x4)) (w % 2 == 1))
  | 0x1E => ifFields (w / 0x2 % 0x2 == 0) (.vsar (.ofNat 6 (w / 0x40000)) (.ofNat 6 (w / 0x1000)) (.ofNat 6 (w / 0x40)) (.ofNat 4 (w / 0x4)) (w % 2 == 1))
  | 0x20 => ifFields (w % 0x4 == 0 && w / 0x400 % 0x4 == 0) (.vcvt (.ofNat 6 (w / 0x40000)) (.ofNat 6 (w / 0x1000)) (.ofNat 4 (w / 0x40)) (.ofNat 4 (w / 0x4)))
  | 0x21 => ifFields (w / 0x2 % 0x2 == 0) (.vpadd (.ofNat 6 (w / 0x40000)) (.ofNat 6 (w / 0x1000)) (.ofNat 6 (w / 0x40)) (.ofNat 4 (w / 0x4)) (w % 2 == 1))
  | 0x28 => ifFields (w % 0x4 == 0) (.vperm (.ofNat 6 (w / 0x40000)) (.ofNat 6 (w / 0x1000)) (.ofNat 6 (w / 0x40)) (.ofNat 4 (w / 0x4)))
  | 0x29 => ifFields (w % 0x4 == 0 && w / 0x40 % 0x40 == 0) (.vtrn (.ofNat 6 (w / 0x40000)) (.ofNat 6 (w / 0x1000)) (.ofNat 4 (w / 0x4)))
  | 0x30 => ifFields (w % 0x4 == 0 && w / 0x800 % 0x2 == 0) (.vred (.ofNat 6 (w / 0x40000)) (.ofNat 6 (w / 0x1000)) (.ofNat 3 (w / 0x100)) (.ofNat 2 (w / 0x40)) (.ofNat 4 (w / 0x4)))
  | 0x31 => ifFields (w % 0x4 == 0 && w / 0x200 % 0x8 == 0) (.vscan (.ofNat 6 (w / 0x40000)) (.ofNat 6 (w / 0x1000)) (w / 0x100 % 2 == 1) (.ofNat 2 (w / 0x40)) (.ofNat 4 (w / 0x4)))
  | 0x32 => ifFields (w % 0x4 == 0 && w / 0x40 % 0x40 == 0) (.vsegred (.ofNat 6 (w / 0x40000)) (.ofNat 6 (w / 0x1000)) (.ofNat 4 (w / 0x4)))
  | 0x33 => ifFields (w % 0x4 == 0 && w / 0x40 % 0x40 == 0) (.vcompact (.ofNat 6 (w / 0x40000)) (.ofNat 6 (w / 0x1000)) (.ofNat 4 (w / 0x4)))
  | 0x38 =>
    if w % 2 == 0 then ifFields (w % 0x4 == 0 && w / 0x40 % 0x40 == 0) (.vbcast (.ofNat 6 (w / 0x40000)) (.ofNat 6 (w / 0x1000)) (.ofNat 4 (w / 0x4)))
    else ifFields (w % 0x4 == 1 && w / 0x1000 % 0x40 == 0) (.vbcastScalar (.ofNat 6 (w / 0x40000)) (.ofNat 6 (w / 0x40)) (.ofNat 4 (w / 0x4)))
  | 0x39 => ifFields (w % 0x4 == 0 && w / 0x40 % 0x40 == 0) (.vmov (.ofNat 6 (w / 0x40000)) (.ofNat 6 (w / 0x1000)) (.ofNat 4 (w / 0x4)))
  | 0x3A => ifFields (w % 0x40 == 1) (.vins (.ofNat 6 (w / 0x40000)) (.ofNat 6 (w / 0x1000)) (.ofNat 6 (w / 0x40)))
  | 0x3B => ifFields (w % 0x40 == 1) (.vext (.ofNat 6 (w / 0x40000)) (.ofNat 6 (w / 0x1000)) (.ofNat 6 (w / 0x40)))
  | 0x3C =>
    if w % 2 == 0 then ifFields (w % 0x4 == 0 && w / 0x40 % 0x40 == 0 && w / 0x4000 % 0x10 == 0) (.viota (.ofNat 6 (w / 0x40000)) (.ofNat 2 (w / 0x1000)) (.ofNat 4 (w / 0x4)))
    else ifFields (w % 0x4 == 1 && w / 0x4000 % 0x10 == 0) (.viotaBase (.ofNat 6 (w / 0x40000)) (.ofNat 2 (w / 0x1000)) (.ofNat 6 (w / 0x40)) (.ofNat 4 (w / 0x4)))
  | 0x40 => ifFields (w % 0x4 == 1 && w / 0x20000 % 0x2 == 0) (.nzgen (.ofNat 6 (w / 0x40000)) (w / 0x10000 % 2 == 1) (.ofNat 4 (w / 0x1000)) (.ofNat 6 (w / 0x40)) (.ofNat 4 (w / 0x4)))
  | 0x41 => ifFields (w % 0x4 == 0 && w / 0x800 % 0x2 == 0) (.rngd (.ofNat 6 (w / 0x40000)) (.ofNat 6 (w / 0x1000)) (w / 0x400 % 2 == 1) (.ofNat 4 (w / 0x40)) (.ofNat 4 (w / 0x4)))
  | 0x42 => ifFields (w % 0x4 == 0 && w / 0x40 % 0x40 == 0) (.vreplay (.ofNat 6 (w / 0x40000)) (.ofNat 6 (w / 0x1000)) (.ofNat 4 (w / 0x4)))
  | 0x48 => ifFields (w % 0x4 == 0 && w / 0x80 % 0x20 == 0) (.accrd (.ofNat 6 (w / 0x40000)) (.ofNat 6 (w / 0x1000)) (w / 0x40 % 2 == 1) (.ofNat 4 (w / 0x4)))
  | 0x49 => ifFields (w % 0x4 == 0 && w / 0x100 % 0x10 == 0) (.accwr (.ofNat 6 (w / 0x40000)) (.ofNat 6 (w / 0x1000)) (.ofNat 2 (w / 0x40)) (.ofNat 4 (w / 0x4)))
  | 0x50 => ifFields (w % 0x4 == 0 && w / 0x400000 % 0x4 == 0 && w / 0x10000 % 0x4 == 0 && w / 0x400 % 0x4 == 0) (.mlog (.ofNat 4 (w / 0x40000)) (.ofNat 4 (w / 0x1000)) (.ofNat 4 (w / 0x40)) (.ofNat 4 (w / 0x4)))
  | 0x51 => ifFields (w % 0x40 == 0 && w / 0x10000 % 0x4 == 0 && w / 0x100 % 0x10 == 0) (.mcnt (.ofNat 6 (w / 0x40000)) (.ofNat 4 (w / 0x1000)) (.ofNat 2 (w / 0x40)))
  | _ => .error .unassigned

/-- The engine instruction with operation code `op` in the word `w` (13 R343; fields: the entries of 14 to 17). -/
def decodeEngine (op w : Nat) : Except Reject Instr :=
  match op with
  | 0x01 => ifFields (w % 0x40 == 0) (.mxset (.ofNat 12 (w / 0x1000)) (.ofNat 6 (w / 0x40)))
  | 0x02 =>
    if w / 0x1000 % 2 == 0 then ifFields (w / 0x1000 % 0x1000 == 0) (.mxw (.ofNat 6 (w / 0x40)) (.ofNat 6 w))
    else ifFields (w % 0x2000 == 0x1000 && w / 0x80000 % 0x20 == 0) (.mxwTile (.ofNat 6 (w / 0x2000)))
  | 0x03 =>
    if w / 0x1000 % 2 == 0 then ifFields (w / 0x1000 % 0x1000 == 0) (.mxa (.ofNat 6 (w / 0x40)) (.ofNat 6 w))
    else ifFields (w % 0x2000 == 0x1000 && w / 0x80000 % 0x20 == 0) (.mxaTile (.ofNat 6 (w / 0x2000)))
  | 0x04 => ifFields (w % 0x40 == 0 && w / 0x1000 % 0x1000 == 0) (.mxcb (.ofNat 6 (w / 0x40)))
  | 0x05 =>
    if w / 0x1000 % 2 == 0 then ifFields (w / 0x1000 % 0x1000 == 0) (.mxce (.ofNat 6 (w / 0x40)) (.ofNat 6 w))
    else ifFields (w % 0x2000 == 0x1000 && w / 0x80000 % 0x20 == 0) (.mxceTile (.ofNat 6 (w / 0x2000)))
  | 0x06 =>
    if w / 0x1000 % 2 == 0 then ifFields (w / 0x1000 % 0x1000 == 0) (.mxpd (.ofNat 6 (w / 0x40)) (.ofNat 6 w))
    else ifFields (w % 0x1000000 == 0x1000) (.mxpdOff)
  | 0x07 => ifFields (w % 0x40 == 0 && w / 0x20000 % 0x80 == 0) (.mxdn (.ofNat 5 (w / 0x1000)) (.ofNat 6 (w / 0x40)))
  | 0x08 => ifFields (w % 0x40 == 0 && w / 0x8000 % 0x200 == 0) (.mxcv (.ofNat 3 (w / 0x1000)) (.ofNat 6 (w / 0x40)))
  | 0x09 => ifFields (w % 0x40 == 0 && w / 0x1000 % 0x1000 == 0) (.mxtap (.ofNat 6 (w / 0x40)))
  | 0x0A => ifFields (w % 0x40 == 0 && w / 0x1000 % 0x1000 == 0) (.mxsp (.ofNat 6 (w / 0x40)))
  | 0x10 => ifFields (w % 0x40 == 0) (.cpset (.ofNat 12 (w / 0x1000)) (.ofNat 6 (w / 0x40)))
  | 0x11 => ifFields (w / 0x2000 % 0x800 == 0) (.cpgo (w / 0x1000 % 2 == 1) (.ofNat 6 (w / 0x40)) (.ofNat 6 w))
  | 0x18 => ifFields (w / 0x20000 % 0x80 == 0) (.trpush (.ofNat 3 (w / 0x4000)) (.ofNat 2 (w / 0x1000)) (.ofNat 6 (w / 0x40)) (.ofNat 6 w))
  | 0x19 => ifFields (w / 0x4000 % 0x400 == 0) (.trpop (w / 0x2000 % 2 == 1) (w / 0x1000 % 2 == 1) (.ofNat 6 (w / 0x40)) (.ofNat 6 w))
  | 0x20 => ifFields (w / 0x2000 % 0x800 == 0) (.gthr (w / 0x1000 % 2 == 1) (.ofNat 6 (w / 0x40)) (.ofNat 6 w))
  | 0x21 => ifFields (w / 0x2000 % 0x800 == 0) (.sctr (w / 0x1000 % 2 == 1) (.ofNat 6 (w / 0x40)) (.ofNat 6 w))
  | 0x28 => ifFields (w / 0x100000 % 0x10 == 0) (.qppost (.ofNat 8 (w / 0x1000)) (.ofNat 6 (w / 0x40)) (.ofNat 6 w))
  | 0x29 => ifFields (w % 0x40 == 0) (.scput (.ofNat 12 (w / 0x1000)) (.ofNat 6 (w / 0x40)))
  | 0x2A => ifFields (w % 0x40 == 0) (.scred (.ofNat 12 (w / 0x1000)) (.ofNat 6 (w / 0x40)))
  | 0x30 => ifFields (w / 0x1000 % 0x1000 == 0) (.gnode (.ofNat 6 (w / 0x40)) (.ofNat 6 w))
  | 0x31 => ifFields (w % 0x40 == 0 && w / 0x1000 % 0x1000 == 0) (.gsig (.ofNat 6 (w / 0x40)))
  | _ => .error .unassigned

/-- The decoder of a slot class, on an operation code and its word. -/
def decodeClassOp (c : SlotClass) (op w : Nat) : Except Reject Instr :=
  match c with
  | .control => decodeControl op w
  | .scalar => decodeScalar op w
  | .memory => decodeMemory op w
  | .vector => decodeVector op w
  | .engine => decodeEngine op w

/-- The instruction of a slot class that a 32-bit slot word encodes (13 R347). -/
def decodeClass (c : SlotClass) (w : Nat) : Except Reject Instr :=
  match decodeClassOp c (w / 0x1000000) w with
  | .ok i => if i.wf then .ok i else .error (.badField i)
  | .error e => .error e

/-- The seven slots of a bundle, in their order (13 R333). -/
inductive Slot where
  /-- C -/
  | c
  /-- A0 -/
  | a0
  /-- A1 -/
  | a1
  /-- L -/
  | l
  /-- V0 -/
  | v0
  /-- V1 -/
  | v1
  /-- E -/
  | e
  deriving DecidableEq, Repr

/-- The slot's number, which is its bit of PRES (13 R332) and its code in ECAUSE.SLOT (10 R270). -/
def Slot.num : Slot → Nat
  | .c => 0 | .a0 => 1 | .a1 => 2 | .l => 3 | .v0 => 4 | .v1 => 5 | .e => 6

/-- The slots in the order of their words. -/
def Slot.all : List Slot := [.c, .a0, .a1, .l, .v0, .v1, .e]

/-- The class of a slot (13 R335). -/
def Slot.slotClass : Slot → SlotClass
  | .c => .control | .a0 => .scalar | .a1 => .scalar | .l => .memory
  | .v0 => .vector | .v1 => .vector | .e => .engine

/-- Whether an instruction of the slot's class may stand in the slot: ACCRD and ACCWR only in V0,
VPERM and VTRN only in V1 (13 R335). -/
def slotAllows (sl : Slot) : Instr → Bool
  | .accrd _ _ _ _ => sl != .v1
  | .accwr _ _ _ _ => sl != .v1
  | .vperm _ _ _ _ => sl != .v0
  | .vtrn _ _ _ => sl != .v0
  | _ => true

/-- The instruction a slot word encodes in its slot (13 R347).
Of several reasons, ILLEGAL_OP comes before ILLEGAL_SLOT (10 R271). -/
def decodeSlot (sl : Slot) (w : Nat) : Except Reject Instr :=
  match decodeClass sl.slotClass w with
  | .ok i => if slotAllows sl i then .ok i else .error (.wrongSlot i)
  | .error e => .error e

/-- The fields of a bundle header (13 R332). -/
structure Header where
  /-- [31:24] SIG -/
  sig   : BitVec 8
  /-- [23:20], zero -/
  zero  : BitVec 4
  /-- [19] GNEG -/
  gneg  : Bool
  /-- [18:16] GUARD -/
  guard : PReg
  /-- [15:8] POP, bit n for queue n -/
  pop   : BitVec 8
  /-- [7] STOP -/
  stop  : Bool
  /-- [6:0] PRES, bit n for slot n -/
  pres  : BitVec 7
  deriving DecidableEq, Repr

/-- The header a word holds. -/
def decodeHeader (w : Nat) : Header where
  sig := .ofNat 8 (w / 0x1000000)
  zero := .ofNat 4 (w / 0x100000)
  gneg := w / 0x80000 % 2 == 1
  guard := .ofNat 3 (w / 0x10000)
  pop := .ofNat 8 (w / 0x100)
  stop := w / 0x80 % 2 == 1
  pres := .ofNat 7 w

/-- The word of a header. -/
def encodeHeader (h : Header) : Nat :=
  h.sig.toNat * 0x1000000 + h.zero.toNat * 0x100000 + h.gneg.toNat * 0x80000 + h.guard.toNat * 0x10000 +
    h.pop.toNat * 0x100 + h.stop.toNat * 0x80 + h.pres.toNat

/-- The tests on a header's word (13 R334): SIG is 0x9D and bits [23:20] are zero. -/
def Header.ok (h : Header) : Bool := h.sig == 0x9D && h.zero == 0

/-- The slots a header announces, in order (13 R333). -/
def Header.slots (h : Header) : List Slot := Slot.all.filter fun sl => h.pres.getLsbD sl.num

/-- The length in bytes of the bundle a header begins (13 R333). -/
def Header.size (h : Header) : Nat := 4 + 4 * h.slots.length

/-- A 32-bit word from four bytes in little-endian order (00 R4). -/
def word32 (b0 b1 b2 b3 : Byte) : Nat :=
  b0.toNat + b1.toNat * 0x100 + b2.toNat * 0x10000 + b3.toNat * 0x1000000

/-- The words of a list of bytes; bytes that fill no whole word are left out. -/
def wordsOf : List Byte → List Nat
  | b0 :: b1 :: b2 :: b3 :: r => word32 b0 b1 b2 b3 :: wordsOf r
  | _ => []

/-- A decoded bundle: its header and, for each slot present, its word and its instruction or the reason it has none. -/
structure Bundle where
  /-- the header -/
  hdr   : Header
  /-- the slots present -/
  slots : List (Slot × Nat × Except Reject Instr)

/-- Why bytes are no bundle (13 R334, R347): ILLEGAL_HDR in address order, BAD_TARGET as a transfer's target. -/
inductive BadBundle where
  /-- SIG or bits [23:20] are wrong -/
  | header
  /-- the slot words pass the end of the bytes -/
  | short
  deriving DecidableEq, Repr

/-- The slots of a header with the words that follow it. -/
def slotWords : List Slot → List Nat → Option (List (Slot × Nat × Except Reject Instr))
  | [], _ => some []
  | _ :: _, [] => none
  | sl :: ss, w :: ws => (slotWords ss ws).map fun r => (sl, w, decodeSlot sl w) :: r

/-- The bundle at the start of a list of bytes (13 R332 to R334). Total: what is no bundle is named. -/
def decodeBundle (bs : List Byte) : Except BadBundle Bundle :=
  match wordsOf bs with
  | [] => .error .short
  | w :: ws =>
    let h := decodeHeader w
    if h.ok then
      match slotWords h.slots ws with
      | some ss => .ok ⟨h, ss⟩
      | none => .error .short
    else .error .header

/-- The slot word of a slot instruction (13 R336 and the entries of 14 to 17); a step of the module has none. -/
def encodeNat : Instr → Option Nat
  | .br disp => some (0x1000000 + disp.toNat)
  | .brp p n disp => some (0x2000000 + p.toNat * 0x200000 + n.toNat * 0x100000 + disp.toNat)
  | .call disp => some (0x3000000 + disp.toNat)
  | .calli a => some (0x4000000 + a.toNat * 0x1000)
  | .jmpi a => some (0x5000000 + a.toNat * 0x1000)
  | .ret => some (0x6000000)
  | .loop a len => some (0x8000000 + a.toNat * 0x1000 + len.toNat)
  | .loopi cnt len => some (0x9000000 + cnt.toNat * 0x1000 + len.toNat)
  | .lbrk => some (0xA000000)
  | .mtc a cr => some (0x10000000 + a.toNat * 0x40000 + cr.toNat * 0x40)
  | .mfc d cr => some (0x11000000 + d.toNat * 0x40000 + cr.toNat * 0x40)
  | .phase units => some (0x14000000 + units.toNat)
  | .ckpt => some (0x18000000)
  | .yield => some (0x19000000)
  | .spawn d a b pool => some (0x20000000 + d.toNat * 0x40000 + a.toNat * 0x1000 + b.toNat * 0x40 + pool.toNat)
  | .join d a => some (0x21000000 + d.toNat * 0x40000 + a.toNat * 0x1000)
  | .exit => some (0x22000000)
  | .tkill d a b => some (0x23000000 + d.toNat * 0x40000 + a.toNat * 0x1000 + b.toNat * 0x40)
  | .trap imm => some (0x28000000 + imm.toNat)
  | .sysc imm => some (0x29000000 + imm.toNat)
  | .brk imm => some (0x2A000000 + imm.toNat)
  | .eret nx => some (0x30000000 + nx.toNat)
  | .ctxsw a nx => some (0x31000000 + a.toNat * 0x1000 + nx.toNat)
  | .halt nx => some (0x32000000 + nx.toNat)
  | .add d a b => some (0x1000000 + d.toNat * 0x40000 + a.toNat * 0x1000 + b.toNat * 0x40)
  | .sub d a b => some (0x2000000 + d.toNat * 0x40000 + a.toNat * 0x1000 + b.toNat * 0x40)
  | .mul d a b => some (0x3000000 + d.toNat * 0x40000 + a.toNat * 0x1000 + b.toNat * 0x40)
  | .mulh d a b => some (0x4000000 + d.toNat * 0x40000 + a.toNat * 0x1000 + b.toNat * 0x40)
  | .mulhu d a b => some (0x5000000 + d.toNat * 0x40000 + a.toNat * 0x1000 + b.toNat * 0x40)
  | .div d a b => some (0x6000000 + d.toNat * 0x40000 + a.toNat * 0x1000 + b.toNat * 0x40)
  | .divu d a b => some (0x7000000 + d.toNat * 0x40000 + a.toNat * 0x1000 + b.toNat * 0x40)
  | .rem d a b => some (0x8000000 + d.toNat * 0x40000 + a.toNat * 0x1000 + b.toNat * 0x40)
  | .remu d a b => some (0x9000000 + d.toNat * 0x40000 + a.toNat * 0x1000 + b.toNat * 0x40)
  | .and d a b => some (0xA000000 + d.toNat * 0x40000 + a.toNat * 0x1000 + b.toNat * 0x40)
  | .or d a b => some (0xB000000 + d.toNat * 0x40000 + a.toNat * 0x1000 + b.toNat * 0x40)
  | .xor d a b => some (0xC000000 + d.toNat * 0x40000 + a.toNat * 0x1000 + b.toNat * 0x40)
  | .andn d a b => some (0xD000000 + d.toNat * 0x40000 + a.toNat * 0x1000 + b.toNat * 0x40)
  | .shl d a b => some (0xE000000 + d.toNat * 0x40000 + a.toNat * 0x1000 + b.toNat * 0x40)
  | .shr d a b => some (0xF000000 + d.toNat * 0x40000 + a.toNat * 0x1000 + b.toNat * 0x40)
  | .sar d a b => some (0x10000000 + d.toNat * 0x40000 + a.toNat * 0x1000 + b.toNat * 0x40)
  | .rol d a b => some (0x11000000 + d.toNat * 0x40000 + a.toNat * 0x1000 + b.toNat * 0x40)
  | .min d a b => some (0x12000000 + d.toNat * 0x40000 + a.toNat * 0x1000 + b.toNat * 0x40)
  | .max d a b => some (0x13000000 + d.toNat * 0x40000 + a.toNat * 0x1000 + b.toNat * 0x40)
  | .minu d a b => some (0x14000000 + d.toNat * 0x40000 + a.toNat * 0x1000 + b.toNat * 0x40)
  | .maxu d a b => some (0x15000000 + d.toNat * 0x40000 + a.toNat * 0x1000 + b.toNat * 0x40)
  | .clz d a => some (0x16000000 + d.toNat * 0x40000 + a.toNat * 0x1000)
  | .popc d a => some (0x17000000 + d.toNat * 0x40000 + a.toNat * 0x1000)
  | .sel d a b p => some (0x18000000 + d.toNat * 0x40000 + a.toNat * 0x1000 + b.toNat * 0x40 + p.toNat)
  | .addi d a imm => some (0x20000000 + d.toNat * 0x40000 + a.toNat * 0x1000 + imm.toNat)
  | .andi d a imm => some (0x21000000 + d.toNat * 0x40000 + a.toNat * 0x1000 + imm.toNat)
  | .ori d a imm => some (0x22000000 + d.toNat * 0x40000 + a.toNat * 0x1000 + imm.toNat)
  | .xori d a imm => some (0x23000000 + d.toNat * 0x40000 + a.toNat * 0x1000 + imm.toNat)
  | .shli d a sh => some (0x24000000 + d.toNat * 0x40000 + a.toNat * 0x1000 + sh.toNat)
  | .shri d a sh => some (0x25000000 + d.toNat * 0x40000 + a.toNat * 0x1000 + sh.toNat)
  | .sari d a sh => some (0x26000000 + d.toNat * 0x40000 + a.toNat * 0x1000 + sh.toNat)
  | .roli d a sh => some (0x27000000 + d.toNat * 0x40000 + a.toNat * 0x1000 + sh.toNat)
  | .movi d imm => some (0x28000000 + d.toNat * 0x40000 + imm.toNat)
  | .insh d k imm => some (0x29000000 + d.toNat * 0x40000 + k.toNat * 0x10000 + imm.toNat)
  | .pcmp pd a b cond => some (0x30000000 + pd.toNat * 0x40000 + a.toNat * 0x1000 + b.toNat * 0x40 + cond.toNat)
  | .pcmpi cond pd a imm => some (0x31000000 + cond.toNat * 0x200000 + pd.toNat * 0x40000 + a.toNat * 0x1000 + imm.toNat)
  | .plog pd pa pb tt => some (0x32000000 + pd.toNat * 0x40000 + pa.toNat * 0x1000 + pb.toNat * 0x40 + tt.toNat)
  | .amov ad a => some (0x38000000 + ad.toNat * 0x40000 + a.toNat * 0x1000)
  | .aadd ad aa b => some (0x39000000 + ad.toNat * 0x40000 + aa.toNat * 0x1000 + b.toNat * 0x40)
  | .aaddi ad aa imm => some (0x3A000000 + ad.toNat * 0x40000 + aa.toNat * 0x1000 + imm.toNat)
  | .aget d aa => some (0x3B000000 + d.toNat * 0x40000 + aa.toNat * 0x1000)
  | .lidx d depth => some (0x3C000000 + d.toNat * 0x40000 + depth.toNat)
  | .fadd d a b t => some (0x40000000 + d.toNat * 0x40000 + a.toNat * 0x1000 + b.toNat * 0x40 + t.toNat)
  | .fsub d a b t => some (0x41000000 + d.toNat * 0x40000 + a.toNat * 0x1000 + b.toNat * 0x40 + t.toNat)
  | .fmul d a b t => some (0x42000000 + d.toNat * 0x40000 + a.toNat * 0x1000 + b.toNat * 0x40 + t.toNat)
  | .ffma d a b t => some (0x43000000 + d.toNat * 0x40000 + a.toNat * 0x1000 + b.toNat * 0x40 + t.toNat)
  | .fmin d a b t => some (0x44000000 + d.toNat * 0x40000 + a.toNat * 0x1000 + b.toNat * 0x40 + t.toNat)
  | .fmax d a b t => some (0x45000000 + d.toNat * 0x40000 + a.toNat * 0x1000 + b.toNat * 0x40 + t.toNat)
  | .fcvt d a dt st => some (0x46000000 + d.toNat * 0x40000 + a.toNat * 0x1000 + dt.toNat * 0x40 + st.toNat)
  | .fcmp pd a b cond t => some (0x47000000 + pd.toNat * 0x40000 + a.toNat * 0x1000 + b.toNat * 0x40 + cond.toNat * 0x2 + t.toNat)
  | .ld d ab sz off => some (0x1000000 + d.toNat * 0x40000 + ab.toNat * 0x4000 + sz.toNat * 0x1000 + off.toNat)
  | .lds d ab sz off => some (0x2000000 + d.toNat * 0x40000 + ab.toNat * 0x4000 + sz.toNat * 0x1000 + off.toNat)
  | .st b ab sz off => some (0x3000000 + b.toNat * 0x40000 + ab.toNat * 0x4000 + sz.toNat * 0x1000 + off.toNat)
  | .ldlu d ab sz off => some (0xB000000 + d.toNat * 0x40000 + ab.toNat * 0x4000 + sz.toNat * 0x1000 + off.toNat)
  | .ldw d aa scope ord => some (0x4000000 + d.toNat * 0x40000 + aa.toNat * 0x1000 + scope.toNat * 0x8 + ord.toNat)
  | .ldc d aa scope ord => some (0x5000000 + d.toNat * 0x40000 + aa.toNat * 0x1000 + scope.toNat * 0x8 + ord.toNat)
  | .stf aa b scope ord => some (0x6000000 + aa.toNat * 0x1000 + b.toNat * 0x40 + scope.toNat * 0x8 + ord.toNat)
  | .ldct d aa scope ord => some (0x7000000 + d.toNat * 0x40000 + aa.toNat * 0x1000 + scope.toNat * 0x8 + ord.toNat)
  | .stft aa b scope ord => some (0x8000000 + aa.toNat * 0x1000 + b.toNat * 0x40 + scope.toNat * 0x8 + ord.toNat)
  | .feq d aa scope ord => some (0x9000000 + d.toNat * 0x40000 + aa.toNat * 0x1000 + scope.toNat * 0x8 + ord.toNat)
  | .femk aa b scope ord => some (0xA000000 + aa.toNat * 0x1000 + b.toNat * 0x40 + scope.toNat * 0x8 + ord.toNat)
  | .vld v ab ps mk hint => some (0x10000000 + v.toNat * 0x40000 + ab.toNat * 0x4000 + ps.toNat * 0x100 + mk.toNat * 0x10 + hint.toNat)
  | .vst v ab ps mk hint => some (0x11000000 + v.toNat * 0x40000 + ab.toNat * 0x4000 + ps.toNat * 0x100 + mk.toNat * 0x10 + hint.toNat)
  | .cadd d a b scope ord => some (0x18000000 + d.toNat * 0x40000 + a.toNat * 0x1000 + b.toNat * 0x40 + scope.toNat * 0x8 + ord.toNat)
  | .cwait d a b scope ord => some (0x19000000 + d.toNat * 0x40000 + a.toNat * 0x1000 + b.toNat * 0x40 + scope.toNat * 0x8 + ord.toNat)
  | .cread d a scope ord => some (0x1A000000 + d.toNat * 0x40000 + a.toNat * 0x1000 + scope.toNat * 0x8 + ord.toNat)
  | .rbacq ad a scope => some (0x20000000 + ad.toNat * 0x40000 + a.toNat * 0x1000 + scope.toNat * 0x8)
  | .rbrel a scope => some (0x21000000 + a.toNat * 0x1000 + scope.toNat * 0x8)
  | .fence scope ord => some (0x28000000 + scope.toNat * 0x8 + ord.toNat)
  | .publ aa scope => some (0x29000000 + aa.toNat * 0x1000 + scope.toNat * 0x8)
  | .bind d aa b form => some (0x2A000000 + d.toNat * 0x40000 + aa.toNat * 0x1000 + b.toNat * 0x40 + form.toNat * 0x8)
  | .unbind aa b => some (0x2B000000 + aa.toNat * 0x1000 + b.toNat * 0x40)
  | .pgreq aa b => some (0x30000000 + aa.toNat * 0x1000 + b.toNat * 0x40)
  | .cflush ab off => some (0x31003000 + ab.toNat * 0x4000 + off.toNat)
  | .cdisc ab off => some (0x32003000 + ab.toNat * 0x4000 + off.toNat)
  | .cpref ab off => some (0x33003000 + ab.toNat * 0x4000 + off.toNat)
  | .accad aa b mode => some (0x34000000 + aa.toNat * 0x1000 + b.toNat * 0x40 + mode.toNat * 0x8)
  | .tlbi aa b => some (0x38000000 + aa.toNat * 0x1000 + b.toNat * 0x40)
  | .vadd vd va vb mk vf => some (0x1000000 + vd.toNat * 0x40000 + va.toNat * 0x1000 + vb.toNat * 0x40 + mk.toNat * 0x4 + vf.toNat)
  | .vsub vd va vb mk vf => some (0x2000000 + vd.toNat * 0x40000 + va.toNat * 0x1000 + vb.toNat * 0x40 + mk.toNat * 0x4 + vf.toNat)
  | .vmul vd va vb mk vf => some (0x3000000 + vd.toNat * 0x40000 + va.toNat * 0x1000 + vb.toNat * 0x40 + mk.toNat * 0x4 + vf.toNat)
  | .vfma vd va vb mk vf => some (0x4000000 + vd.toNat * 0x40000 + va.toNat * 0x1000 + vb.toNat * 0x40 + mk.toNat * 0x4 + vf.toNat)
  | .vfms vd va vb mk vf => some (0x5000000 + vd.toNat * 0x40000 + va.toNat * 0x1000 + vb.toNat * 0x40 + mk.toNat * 0x4 + vf.toNat)
  | .vfnma vd va vb mk vf => some (0x6000000 + vd.toNat * 0x40000 + va.toNat * 0x1000 + vb.toNat * 0x40 + mk.toNat * 0x4 + vf.toNat)
  | .vmin vd va vb mk vf => some (0x7000000 + vd.toNat * 0x40000 + va.toNat * 0x1000 + vb.toNat * 0x40 + mk.toNat * 0x4 + vf.toNat)
  | .vmax vd va vb mk vf => some (0x8000000 + vd.toNat * 0x40000 + va.toNat * 0x1000 + vb.toNat * 0x40 + mk.toNat * 0x4 + vf.toNat)
  | .vabs vd va mk => some (0x9000000 + vd.toNat * 0x40000 + va.toNat * 0x1000 + mk.toNat * 0x4)
  | .vneg vd va mk => some (0xA000000 + vd.toNat * 0x40000 + va.toNat * 0x1000 + mk.toNat * 0x4)
  | .vclamp vd va vb mk vf => some (0xB000000 + vd.toNat * 0x40000 + va.toNat * 0x1000 + vb.toNat * 0x40 + mk.toNat * 0x4 + vf.toNat)
  | .vsf vd va fn mk => some (0x10000000 + vd.toNat * 0x40000 + va.toNat * 0x1000 + fn.toNat * 0x40 + mk.toNat * 0x4)
  | .vcmp cond va vb md vf => some (0x11000000 + cond.toNat * 0x40000 + va.toNat * 0x1000 + vb.toNat * 0x40 + md.toNat * 0x4 + vf.toNat)
  | .vsel vd va vb mk vf => some (0x12000000 + vd.toNat * 0x40000 + va.toNat * 0x1000 + vb.toNat * 0x40 + mk.toNat * 0x4 + vf.toNat)
  | .vand vd va vb mk vf => some (0x18000000 + vd.toNat * 0x40000 + va.toNat * 0x1000 + vb.toNat * 0x40 + mk.toNat * 0x4 + vf.toNat)
  | .vor vd va vb mk vf => some (0x19000000 + vd.toNat * 0x40000 + va.toNat * 0x1000 + vb.toNat * 0x40 + mk.toNat * 0x4 + vf.toNat)
  | .vxor vd va vb mk vf => some (0x1A000000 + vd.toNat * 0x40000 + va.toNat * 0x1000 + vb.toNat * 0x40 + mk.toNat * 0x4 + vf.toNat)
  | .vnot vd va mk => some (0x1B000000 + vd.toNat * 0x40000 + va.toNat * 0x1000 + mk.toNat * 0x4)
  | .vshl vd va vb mk vf => some (0x1C000000 + vd.toNat * 0x40000 + va.toNat * 0x1000 + vb.toNat * 0x40 + mk.toNat * 0x4 + vf.toNat)
  | .vshr vd va vb mk vf => some (0x1D000000 + vd.toNat * 0x40000 + va.toNat * 0x1000 + vb.toNat * 0x40 + mk.toNat * 0x4 + vf.toNat)
  | .vsar vd va vb mk vf => some (0x1E000000 + vd.toNat * 0x40000 + va.toNat * 0x1000 + vb.toNat * 0x40 + mk.toNat * 0x4 + vf.toNat)
  | .vcvt vd va dt mk => some (0x20000000 + vd.toNat * 0x40000 + va.toNat * 0x1000 + dt.toNat * 0x40 + mk.toNat * 0x4)
  | .vpadd vd va vb mk vf => some (0x21000000 + vd.toNat * 0x40000 + va.toNat * 0x1000 + vb.toNat * 0x40 + mk.toNat * 0x4 + vf.toNat)
  | .vperm vd va vb mk => some (0x28000000 + vd.toNat * 0x40000 + va.toNat * 0x1000 + vb.toNat * 0x40 + mk.toNat * 0x4)
  | .vtrn vd va mk => some (0x29000000 + vd.toNat * 0x40000 + va.toNat * 0x1000 + mk.toNat * 0x4)
  | .vred vd va op axis mk => some (0x30000000 + vd.toNat * 0x40000 + va.toNat * 0x1000 + op.toNat * 0x100 + axis.toNat * 0x40 + mk.toNat * 0x4)
  | .vscan vd va ex axis mk => some (0x31000000 + vd.toNat * 0x40000 + va.toNat * 0x1000 + ex.toNat * 0x100 + axis.toNat * 0x40 + mk.toNat * 0x4)
  | .vsegred vd va mk => some (0x32000000 + vd.toNat * 0x40000 + va.toNat * 0x1000 + mk.toNat * 0x4)
  | .vcompact vd va mk => some (0x33000000 + vd.toNat * 0x40000 + va.toNat * 0x1000 + mk.toNat * 0x4)
  | .vbcast vd va mk => some (0x38000000 + vd.toNat * 0x40000 + va.toNat * 0x1000 + mk.toNat * 0x4)
  | .vbcastScalar vd b mk => some (0x38000001 + vd.toNat * 0x40000 + b.toNat * 0x40 + mk.toNat * 0x4)
  | .vmov vd va mk => some (0x39000000 + vd.toNat * 0x40000 + va.toNat * 0x1000 + mk.toNat * 0x4)
  | .vins vd a b => some (0x3A000001 + vd.toNat * 0x40000 + a.toNat * 0x1000 + b.toNat * 0x40)
  | .vext d va b => some (0x3B000001 + d.toNat * 0x40000 + va.toNat * 0x1000 + b.toNat * 0x40)
  | .viota vd kind mk => some (0x3C000000 + vd.toNat * 0x40000 + kind.toNat * 0x1000 + mk.toNat * 0x4)
  | .viotaBase vd kind b mk => some (0x3C000001 + vd.toNat * 0x40000 + kind.toNat * 0x1000 + b.toNat * 0x40 + mk.toNat * 0x4)
  | .nzgen vd val h b mk => some (0x40000001 + vd.toNat * 0x40000 + val.toNat * 0x10000 + h.toNat * 0x1000 + b.toNat * 0x40 + mk.toNat * 0x4)
  | .rngd vd va val h mk => some (0x41000000 + vd.toNat * 0x40000 + va.toNat * 0x1000 + val.toNat * 0x400 + h.toNat * 0x40 + mk.toNat * 0x4)
  | .vreplay vd va mk => some (0x42000000 + vd.toNat * 0x40000 + va.toNat * 0x1000 + mk.toNat * 0x4)
  | .accrd vd a la mk => some (0x48000000 + vd.toNat * 0x40000 + a.toNat * 0x1000 + la.toNat * 0x40 + mk.toNat * 0x4)
  | .accwr vs a mode mk => some (0x49000000 + vs.toNat * 0x40000 + a.toNat * 0x1000 + mode.toNat * 0x40 + mk.toNat * 0x4)
  | .mlog md ma mb tt => some (0x50000000 + md.toNat * 0x40000 + ma.toNat * 0x1000 + mb.toNat * 0x40 + tt.toNat * 0x4)
  | .mcnt d ma kind => some (0x51000000 + d.toNat * 0x40000 + ma.toNat * 0x1000 + kind.toNat * 0x40)
  | .mxset reg a => some (0x1000000 + reg.toNat * 0x1000 + a.toNat * 0x40)
  | .mxw a b => some (0x2000000 + a.toNat * 0x40 + b.toNat)
  | .mxwTile v => some (0x2001000 + v.toNat * 0x2000)
  | .mxa a b => some (0x3000000 + a.toNat * 0x40 + b.toNat)
  | .mxaTile v => some (0x3001000 + v.toNat * 0x2000)
  | .mxcb a => some (0x4000000 + a.toNat * 0x40)
  | .mxce a b => some (0x5000000 + a.toNat * 0x40 + b.toNat)
  | .mxceTile v => some (0x5001000 + v.toNat * 0x2000)
  | .mxpd a b => some (0x6000000 + a.toNat * 0x40 + b.toNat)
  | .mxpdOff => some (0x6001000)
  | .mxdn e a => some (0x7000000 + e.toNat * 0x1000 + a.toNat * 0x40)
  | .mxcv c a => some (0x8000000 + c.toNat * 0x1000 + a.toNat * 0x40)
  | .mxtap a => some (0x9000000 + a.toNat * 0x40)
  | .mxsp a => some (0xA000000 + a.toNat * 0x40)
  | .cpset reg a => some (0x10000000 + reg.toNat * 0x1000 + a.toNat * 0x40)
  | .cpgo tok a b => some (0x11000000 + tok.toNat * 0x1000 + a.toNat * 0x40 + b.toNat)
  | .trpush m kind a b => some (0x18000000 + m.toNat * 0x4000 + kind.toNat * 0x1000 + a.toNat * 0x40 + b.toNat)
  | .trpop tok rb a b => some (0x19000000 + tok.toNat * 0x2000 + rb.toNat * 0x1000 + a.toNat * 0x40 + b.toNat)
  | .gthr tok a b => some (0x20000000 + tok.toNat * 0x1000 + a.toNat * 0x40 + b.toNat)
  | .sctr tok a b => some (0x21000000 + tok.toNat * 0x1000 + a.toNat * 0x40 + b.toNat)
  | .qppost qp a b => some (0x28000000 + qp.toNat * 0x1000 + a.toNat * 0x40 + b.toNat)
  | .scput grp a => some (0x29000000 + grp.toNat * 0x1000 + a.toNat * 0x40)
  | .scred grp a => some (0x2A000000 + grp.toNat * 0x1000 + a.toNat * 0x40)
  | .gnode a b => some (0x30000000 + a.toNat * 0x40 + b.toNat)
  | .gsig a => some (0x31000000 + a.toNat * 0x40)
  | _ => none

/-- The slot word of a slot instruction. -/
def encode (i : Instr) : Option (BitVec 32) := (encodeNat i).map (BitVec.ofNat 32)

/-- The slot an instruction takes when it stands alone in a bundle (13 R353): A0, V0, and V1 for VPERM and VTRN. -/
def Instr.homeSlot (i : Instr) : Option Slot :=
  match i.slotClass with
  | some .control => some .c
  | some .scalar => some .a0
  | some .memory => some .l
  | some .vector => if slotAllows .v0 i then some .v0 else some .v1
  | some .engine => some .e
  | none => none

/-- The header of a bundle that holds one slot and ends its group, without guard and pops. -/
def soloHeader (sl : Slot) : Header :=
  { sig := 0x9D, zero := 0, gneg := false, guard := 0, pop := 0, stop := true, pres := BitVec.ofNat 7 (2 ^ sl.num) }

/-- The four bytes of a 32-bit word, in little-endian order (00 R4). -/
def bytes32 (w : Nat) : List Byte :=
  [BitVec.ofNat 8 w, BitVec.ofNat 8 (w / 0x100), BitVec.ofNat 8 (w / 0x10000), BitVec.ofNat 8 (w / 0x1000000)]

/-- The classes a bare slot word is tried in.
DESIGN CHOICE (log 6): the spec numbers operation codes by slot class, so a word alone names no class; the order is the model's. -/
def bareClasses : List SlotClass := [.scalar, .vector, .memory, .engine, .control]

/-- The instruction a bare slot word is read as: that of the first class that accepts it. -/
def decodeBare (w : Nat) : List SlotClass → Option Instr
  | [] => none
  | c :: cs =>
    match decodeClass c w with
    | .ok i => some i
    | .error _ => decodeBare w cs

/-- The instruction read from an instruction whose bits are `w`, numbered as the opcode table numbers them.
A slot word is one 32-bit word; its class is chosen by `bareClasses`. -/
def decodeTableWord (nbits w : Nat) : Option Instr :=
  if nbits ≤ 32 ∧ w < 2 ^ 32 then decodeBare w bareClasses else none

end Sys2Proof
end

