-- ==== Sys2Proof/Machine/State.lean ====
section
/-! DEFINITION. The machine's state as plain data: the module, its dies, their cores and contexts,
and the state right after reset.

Tables by number (registers, counters, cores) are lists of pairs: `Tab`.
A number a table does not list reads as the table's default, which its field's docstring names. -/

namespace Sys2Proof.Machine

/-- A table by number: pairs in rising order of their numbers; what is not listed reads as the table's default. -/
abbrev Tab (α : Type) := List (Nat × α)

/-- Memory by byte address: rising, without entries equal to what an unlisted byte reads as (zero, 08 R207; log 2). -/
abbrev Memory := List Host.Cell

/-- What a trap reports (10 R268 to R270). -/
structure TrapInfo where
  /-- cause code (10 R268) -/
  cause : Nat
  /-- subcause of TRANSL (10 R269), else 0 -/
  sub   : Nat := 0
  /-- walk level (10 R270) -/
  level : Nat := 0
  /-- the slot's number, 7 for the header -/
  slot  : Nat := 7
  /-- found away from the core (10 R270) -/
  late  : Bool := false
  /-- EINFO -/
  info  : Word := 0
  deriving DecidableEq, Repr

/-- A register as the group check names it (07 R175, 15 R387). -/
inductive Reg where
  /-- a scalar register -/
  | s (n : Nat)
  /-- an address register -/
  | a (n : Nat)
  /-- a predicate, named by a field of the encoding -/
  | p (n : Nat)
  /-- the predicate p6 or p7, written by a memory instruction without being named -/
  | pi (n : Nat)
  /-- a mask -/
  | m (n : Nat)
  /-- a tile -/
  | v (n : Nat)
  /-- a queue's head -/
  | q (n : Nat)
  deriving DecidableEq, Repr

/-- What the group check remembers of an earlier bundle of the group (07 R175). -/
structure GroupBundle where
  /-- address of its header -/
  pc     : Nat
  /-- registers it reads -/
  reads  : List Reg
  /-- registers it writes -/
  writes : List Reg
  /-- queues it pops -/
  pops   : List Nat
  deriving DecidableEq, Repr

/-- The matrix registers (12 R309, R310; 17 R456). -/
inductive MxReg where
  | m | k | n | acc | crow | ccol | clus | pds | pdp | tap | spm
  deriving DecidableEq, Repr

/-- The values of the matrix registers. -/
structure MxRegs where
  /-- MX_M -/
  m    : Word := 0
  /-- MX_K, SRC 15 at reset -/
  k    : Word := 0xF0000
  /-- MX_N -/
  n    : Word := 0
  /-- MX_ACC, W -300 at reset -/
  acc  : Word := 0x6D400000
  /-- MX_CROW -/
  crow : Word := 0
  /-- MX_CCOL -/
  ccol : Word := 0
  /-- MX_CLUS -/
  clus : Word := 0
  /-- MX_PDS -/
  pds  : Word := 0
  /-- MX_PDP -/
  pdp  : Word := 0
  /-- MX_TAP -/
  tap  : Word := 0
  /-- MX_SPM -/
  spm  : Word := 0
  deriving DecidableEq, Repr

/-- A weight buffer of the array (12 R312, R320): the operands after perturbation, row by row. -/
structure Weights where
  /-- the operand of dense row k and column n -/
  rows : List (List Val) := []
  /-- second values at one dense position under 2:4 sparsity: dense row, column, operand (12 R319) -/
  dup  : List (Nat × Nat × Val) := []
  deriving DecidableEq, Repr

/-- Where a matrix command finds or leaves a tile (17 R449). -/
inductive MxOperand where
  /-- a tile register -/
  | tile (n : Nat)
  /-- scratchpad: base address and pitch word (08 R197) -/
  | spad (base pitch : Word)
  deriving DecidableEq, Repr

/-- What an MXA or MXCE took from the registers at its issue (17 R452, R454). -/
structure MxJob where
  /-- M -/
  m      : Nat
  /-- K -/
  k      : Nat
  /-- N -/
  n      : Nat
  /-- MODE: 0 overwrite, 1 FP32 add, 2 chain -/
  mode   : Nat
  /-- dendritic -/
  den    : Bool
  /-- first page -/
  page   : Nat
  /-- MX_ACC.W -/
  w      : Int
  /-- MX_CROW -/
  crow   : Nat
  /-- RMODE -/
  rmode  : Nat
  /-- SRS at issue -/
  srs    : Nat
  /-- FMT in force at issue -/
  fmt    : Word
  /-- MX_TAP -/
  tap    : Word
  /-- serial of its token -/
  serial : Nat
  /-- the rows of A -/
  rows   : List (List Val) := []
  /-- the weights of the buffer active at issue -/
  wts    : Weights := {}
  /-- MXCE's destination -/
  dst    : MxOperand := .tile 0
  /-- a cooperative MXA that takes part (12 R321) -/
  coop   : Bool := false
  /-- step of its issue, to tell which group waits longest -/
  since  : Nat := 0
  /-- the buffer active at its issue has become the other one while it waited (12 R312) -/
  swapped : Bool := false
  /-- its completion waits: a tap's page migrates, or another module's die has not answered (10 R262, 12 R326) -/
  waits  : Bool := false
  deriving DecidableEq, Repr

/-- One write-port operation on the accumulator store (08 R199). -/
inductive AccOp where
  /-- overwrite the `w` bytes at a byte offset -/
  | put (off w value : Nat)
  /-- add to the FP32 element at a byte offset, rounded to nearest even -/
  | addF32 (off : Nat) (x : Val)
  /-- add exactly to an LA slot: slot number counted from page 0, 85 a page -/
  | lax (slot : Nat) (x : Val)
  /-- open an LA slot with a window exponent (12 R315) -/
  | openSlot (slot : Nat) (w : Int)
  /-- clear the 48 bytes of a slot -/
  | clearSlot (slot : Nat)
  deriving DecidableEq, Repr

/-- What a result in flight writes when it lands (07 R181, R187). -/
inductive Land where
  /-- a scalar register -/
  | scalar (n : Nat) (v : Word)
  /-- an address register -/
  | addr (n : Nat) (v : Word)
  /-- a predicate -/
  | pred (n : Nat) (b : Bool)
  /-- a mask register -/
  | mask (n : Nat) (v : Mask)
  /-- the bits of a tile register that `sel` selects -/
  | tile (n : Nat) (v sel : Tile)
  /-- a push into a neighbour's queue (07 R178) -/
  | push (q : Nat) (v : Word)
  /-- flags that STAT takes (11 R288) -/
  | flags (f : Word)
  /-- a magnitude that AMX takes (11 R298) -/
  | amx (mag : Word)
  /-- a control register (13 R344) -/
  | control (cr : Nat) (v : Word)
  /-- operations of the core's accumulator store -/
  | acc (ops : List AccOp)
  /-- accumulator atomics on a core's store: they set DIRTY of another core's page, and no flag (15 R405) -/
  | accAt (core : Nat) (ops : List AccOp)
  /-- a matrix register -/
  | mx (r : MxReg) (v : Word)
  /-- a copy register (17 R460) -/
  | cp (id : Nat) (v : Word)
  /-- an entry of the branch map (12 R324) -/
  | bmap (e : Nat) (v : BitVec 32)
  /-- a curve table (12 R325) -/
  | curve (c : Nat) (v : BitVec 4160)
  /-- the other weight buffer becomes active with these weights (12 R312) -/
  | weights (w : Weights)
  /-- an MXCB completes: MX_ACC.W, OPEN set, no branch closed (17 R453) -/
  | mxOpen (w : Int)
  /-- an MXA completes (17 R452) -/
  | mxa (j : MxJob)
  /-- an MXCE completes (17 R454) -/
  | mxce (j : MxJob)
  /-- a completion token of the matrix engine (17 R443) -/
  | token (serial op code : Nat)
  deriving DecidableEq, Repr

/-- A result in flight. -/
structure Pend where
  /-- issue cycle it lands at -/
  due  : Nat
  /-- context it belongs to -/
  ctx  : Nat
  /-- what it writes -/
  land : Land
  deriving DecidableEq, Repr

/-- A completion of the matrix engine that waits. -/
def Pend.waits (p : Pend) : Bool :=
  match p.land with
  | .mxa j => j.waits
  | .mxce j => j.waits
  | _ => false

/-- An access held at its owner until a migration publishes (10 R262): what is needed to make it then. -/
inductive HeldAcc where
  /-- a scalar load: virtual address, bytes, hint, sign-extended or not -/
  | load (va n hint : Nat) (signed : Bool)
  /-- a scalar store -/
  | store (va : Nat) (bs : List Byte)
  /-- a tile load, or store when the flag is set: register, base and pitch, the mask's value and number, hint, FMT and SHP at issue, and
  the tile stored -/
  | tile (wr : Bool) (v : Nat) (base pitch : Word) (m : Mask) (mk hint : Nat) (fmt shp : Word) (data : Tile)
  /-- a full/empty operation that does not wait, by its number: address, value, scope and ord -/
  | fe (op : Nat) (va value : Word) (scope ord : BitVec 3)
  /-- CFLUSH, or CDISC when the flag is set -/
  | line (va : Nat) (disc : Bool)
  deriving DecidableEq, Repr

/-- What a load that has left the core brings back (07 R183). -/
inductive Arrived where
  /-- the data are known -/
  | data (v : Word)
  /-- the access is held at its owner (10 R262) -/
  | held (a : HeldAcc)
  /-- the data come from outside the module: `n` bytes, sign-extended when the flag is set (02 R51), with the bytes laid over them that an
  ordered task had written before the load (05 R124) -/
  | outside (n : Nat) (signed : Bool) (va : Word) (laid : List (Nat × Byte))
  deriving DecidableEq, Repr

/-- The object a region is bound to (09 R233, R241). -/
inductive BindObj where
  /-- a counter -/
  | ctr (id : BitVec 20)
  /-- a full/empty word -/
  | word (va : Word)
  /-- a curtain with its back range -/
  | curtain (back : Word)
  deriving DecidableEq, Repr

/-- An access awaited by a context (07 R183, 15 R387). -/
structure Arrival where
  /-- context -/
  ctx  : Nat
  /-- scalar destination code, none for a store -/
  dst  : Option Nat := none
  /-- its data -/
  val  : Arrived := .data 0
  /-- address register written, for RBACQ -/
  adst : Option (Nat × Word) := none
  /-- tile and mask written, for VLD and VST -/
  tile : Option (Nat × Tile × Tile) := none
  /-- mask register written -/
  mask : Option (Nat × Mask) := none
  /-- p6 written -/
  p6   : Option Bool := none
  /-- p7 written -/
  p7   : Option Bool := none
  /-- a later access has given p6 already: this one's write of it is over (15 R387) -/
  old6  : Bool := false
  /-- the same for p7 -/
  old7  : Bool := false
  /-- flags that STAT takes with it -/
  flags : Word := 0
  /-- a store: the owner's reply is awaited, no data -/
  store : Bool := false
  /-- TAG of the request to another module's die that it waits for; 0 for none -/
  tag   : Nat := 0
  /-- the page it reads at another module's die has CE = 0: its check is not verified (08 R224) -/
  plain : Bool := false
  /-- an acquire on an object of another module: the object its drop is of, and its scope -/
  acq   : Option (BindObj × Nat) := none
  /-- issue cycles of the interval when it issued (10 R273) -/
  mark  : Nat := 0
  deriving DecidableEq, Repr

/-- How a context leaves its core by a bundle of its own (14 R368, R369, R372 to R375). -/
inductive Leave where
  /-- YIELD -/
  | yield
  /-- EXIT -/
  | exit
  /-- ERET to an address -/
  | eret (x : Nat)
  /-- CTXSW with its operand, the interrupted context going on at an address -/
  | ctxsw (a : Word) (x : Nat)
  /-- HALT, the interrupted context going on at an address -/
  | halt (x : Nat)
  /-- it leaves in the status it has, once its save area can be written (10 R262) -/
  | away
  deriving DecidableEq, Repr

/-- What a bundle is held for at issue (08 R209, 15, 14 R369, 17 R441), or waits for behind its issue. -/
inductive Hold where
  /-- LDW, LDC or STF on the word at a virtual address, with the failed retries so far (08 R210) -/
  | fe (op : Nat) (va : Word) (value : Word) (fails : Nat)
  /-- CWAIT on a counter (15 R396) -/
  | ctr (id : Nat) (threshold : Word)
  /-- RBACQ on a ring, with its ticket (15 R399) -/
  | ring (id : Nat) (ticket : Word)
  /-- JOIN on a join record (14 R369) -/
  | join (id : Nat)
  /-- an access that waits at its owner for a page that migrates (10 R262) -/
  | owner
  /-- a seventeenth cluster-engine command (17 R441) -/
  | engineRoom
  /-- the response of another module's die (01 R20): the bundle's requests stand among the exchanges -/
  | remote
  /-- an ordered task at an operation it may do only as the oldest task (05 R126) -/
  | ordered
  /-- the bundle has issued and its context leaves the core: first every access that it has sent is answered (07 R186) -/
  | leave (l : Leave)
  deriving DecidableEq, Repr

/-- What a slot of a bundle returned, kept so that the operation is not made twice (08 R209, 10 R276). -/
structure Out where
  /-- the slot's number -/
  slot  : Nat
  /-- replies it awaits -/
  arrs  : List Arrival := []
  /-- results, with the issue cycles to their landing -/
  lands : List (Nat × Land) := []
  deriving DecidableEq, Repr

/-- A completion token waiting to enter q6 (17 R443). -/
structure Token where
  /-- context -/
  ctx   : Nat
  /-- engine: 0 matrix, 1 copy, 2 gather, 3 transpose, 4 collective, 5 graph -/
  engine : Nat
  /-- the 64-bit entry -/
  entry : Word
  deriving DecidableEq, Repr

/-- The outcomes of a bundle recorded for reruns of its interval (10 R276). -/
structure Rec where
  /-- heads of the queues it reads or pops -/
  heads : List (Nat × Word) := []
  /-- what its slots returned -/
  outs  : List Out := []
  deriving DecidableEq, Repr

/-- How the work of a context was launched (05): the die and number of its command. -/
inductive Launch where
  /-- a member of the gang of a command -/
  | gang (die cid : Nat)
  /-- a task of a TASKS command, with its table position -/
  | task (die cid index : Nat)
  /-- a child of a SPAWN -/
  | child
  /-- a task of an ORDERED command, with its table position -/
  | ordered (die cid index : Nat)
  deriving DecidableEq, Repr

/-- Where a resident context stands (05 R130, 07 R167, R188; 14 R375). -/
inductive CtxStatus where
  /-- no context has this id -/
  | none
  /-- loaded and waiting for its gang's release (05 R108) -/
  | loaded
  /-- ready to run -/
  | ready
  /-- parked in the green room on the word at a physical address of a die (08 R213) -/
  | parked (die pa : Nat)
  /-- parked in the green room of a global die of another module -/
  | abroad (gdie : Nat)
  /-- halted (14 R375) -/
  | halted
  /-- an ordered task that has ended and waits to commit (05 R125) -/
  | ended
  deriving DecidableEq, Repr

/-- A counter operation that an ordered task keeps back (05 R127). -/
structure LogOp where
  /-- counter id -/
  ctr   : Nat
  /-- increment -/
  inc   : Word
  /-- scope, when it is a release -/
  scope : Option Nat
  /-- ring of an RBREL -/
  ring  : Option Nat
  /-- its scope as an acquire, when it is one -/
  acq   : Option Nat := none
  deriving DecidableEq, Repr

/-- What an ordered task keeps until it commits (05 R124 to R127). -/
structure Spec where
  /-- writes kept back, by virtual address; what is not listed is not written -/
  back   : Tab Byte := []
  /-- stores to ATTR = 0 windows kept back, in program order: each leaves the module as one message (02 R51) -/
  dev    : List (Nat × List Byte) := []
  /-- granules read: virtual addresses divided by 64 -/
  readSet : List Nat := []
  /-- granules written -/
  writeSet : List Nat := []
  /-- counter operations kept back, in issue order -/
  log    : List LogOp := []
  /-- accumulator atomics on other cores' stores kept back, in issue order -/
  accs   : List (Nat × List AccOp) := []
  /-- accumulator pages of its core as they stood before it wrote them; what is not listed it has not written -/
  undo   : Tab Page := []
  /-- the scalar registers it starts with, for a rerun (05 R125) -/
  init   : Tab Word := []
  /-- the task has ended and waits to commit: the cause of a trap held with it, 0 for none -/
  ended  : Option Nat := none
  deriving DecidableEq, Repr

/-- Scratchpad, pages, counters and windows a context reserved (05 R103). -/
structure Reserved where
  /-- instruction-memory windows: base and length in bytes -/
  windows : List (Nat × Nat) := []
  /-- scratchpad run: first byte and length -/
  spad    : Nat × Nat := (0, 0)
  /-- accumulator pages: first page and number -/
  pages   : Nat × Nat := (0, 0)
  /-- barrier counters: first id and number -/
  bars    : Nat × Nat := (0, 0)
  deriving DecidableEq, Repr

/-- A context (07 R167 to R190). -/
structure Ctx where
  /-- where it stands -/
  status : CtxStatus := .none
  /-- privileged mode (10 R272) -/
  priv   : Bool := false
  /-- Amigen's default handler has to serve the trap in ECAUSE (07 R192); the core has no hook -/
  inAmigen : Bool := false
  /-- a kill waits for the next bundle boundary (05 R119) -/
  killed : Bool := false
  /-- it has not run yet (07 R190) -/
  fresh  : Bool := true
  /-- address space -/
  asid   : Nat := 0
  /-- how it was launched -/
  launch : Launch := .child
  /-- join it counts into: its die and record -/
  join   : Option (Nat × Nat) := none
  /-- child number in that join -/
  child  : Nat := 0
  /-- the join it was created under, and its number in that join (14 R368, R371) -/
  under  : Option ((Nat × Nat) × Nat) := none
  /-- GROUP and table position of a task, for its place among those moved from a retired core (05 R114, R132) -/
  order  : Nat × Nat := (0, 0)
  /-- die and stream whose priority it has (05 R106) -/
  strm   : Nat × Nat := (0, 0)
  /-- what it reserved -/
  res    : Reserved := {}
  /-- a BIT PATTERN of cores: the pool it may be placed over (05 R102) -/
  pool   : BitVec 64 := 0
  /-- scalar registers s1 to s55; default 0 -/
  s      : Tab Word := []
  /-- address registers a0 to a15; default 0 -/
  a      : Tab Word := []
  /-- predicates p1 to p7, bit n for pn -/
  p      : BitVec 8 := 0
  /-- mask registers m1 to m15; default 0 -/
  m      : Tab Mask := []
  /-- program counter -/
  pc     : BitVec 18 := 0
  /-- LS_CNT0 to LS_CNT5; default 0 -/
  lsCnt  : Tab Word := []
  /-- LS_BODY0 to LS_BODY5; default 0 -/
  lsBody : Tab Word := []
  /-- FMT -/
  fmt    : Word := 0
  /-- SHP -/
  shp    : Word := 0
  /-- RMODE -/
  rmode  : Word := 0
  /-- SRS -/
  srs    : Word := 1
  /-- AMX -/
  amx    : Word := 0
  /-- FEB -/
  feb    : Word := 64
  /-- STAT -/
  stat   : Word := 0
  /-- stream handles, cr 0x040 to 0x05F by cr number; default 0 -/
  handles : Tab Word := []
  /-- TVEC -/
  tvec   : Word := 0
  /-- EPC -/
  epc    : Word := 0
  /-- ECAUSE -/
  ecause : Word := 0
  /-- EINFO -/
  einfo  : Word := 0
  /-- CSA -/
  csa    : Word := 0
  /-- matrix registers -/
  mx     : MxRegs := {}
  /-- copy registers by id (17 R460); defaults as 17 R460 gives them -/
  cp     : Tab Word := []
  /-- serial of the next completion token (17 R443) -/
  serial : BitVec 32 := 0
  /-- branch map; default 0 -/
  bmap   : Tab (BitVec 32) := []
  /-- curve tables; default 0 -/
  curves : Tab (BitVec 4160) := []
  /-- branches of the open chain that have closed (12 R326) -/
  closed : BitVec 32 := 0
  /-- queues q0 to q3 and q6, head first; default empty -/
  q      : Tab (List Word) := []
  /-- the bundles of the group so far -/
  grp    : List GroupBundle := []
  /-- what its bundle is held for -/
  held   : Option Hold := none
  /-- recorded outcomes that a context moved from a retired core still takes in its interval (05 R132, 10 R276) -/
  replay : List Rec := []
  /-- issue cycles of that interval whose queue pushes its old core has made -/
  replayTo : Nat := 0
  /-- outcomes of once-only operations of a held or abandoned bundle, by its address (08 R209) -/
  kept   : Option (Nat × List Out) := none
  /-- it stands at a landing point (07 R188) -/
  atLand : Bool := true
  /-- pending ring ticket (15 R399) -/
  ticket : Option (Nat × Word) := none
  /-- ring buffers held: ring and ticket -/
  bufs   : List (Nat × Word) := []
  /-- speculative state of an ordered task -/
  spec   : Option Spec := none
  /-- granules that an ordered task has written since, or before, it became direct (05 R124, R125) -/
  direct : List Nat := []
  /-- the SPAWN that created it, by the die's count of SPAWNs (05 R132); 0 for none -/
  spawned : Nat := 0
  /-- VSAVED of its save area (07 R190) -/
  vsaved : BitVec 64 := 0
  /-- ASAVED of its save area -/
  asaved : BitVec 512 := 0
  /-- tiles in its save area; default 0 -/
  saveV  : Tab Tile := []
  /-- accumulator pages in its save area; default 0 -/
  saveA  : Tab Page := []
  deriving DecidableEq, Repr

/-- A line of a first-level cache (08 R195). -/
structure Line where
  /-- address space -/
  asid  : Nat
  /-- virtual address divided by 64 -/
  line  : Nat
  /-- its 64 bytes -/
  data  : BitVec 512
  /-- bytes written since the line was filled -/
  dirty : BitVec 64
  /-- the check it carries, exclusive-or the check of its data: 0 when it matches (08 R224) -/
  bad   : BitVec 16 := 0
  /-- way of its set -/
  way   : Nat := 0
  deriving DecidableEq, Repr

/-- A tile of the transpose queue (12 R323, 17 R465). -/
structure TrTile where
  /-- issue cycle of its push -/
  at_    : Nat
  /-- 0 16-bit, 1 32-bit, 2 BFP -/
  kind   : Nat
  /-- mantissa bits of a BFP tile -/
  bfpM   : Nat
  /-- the 32 source rows -/
  rows   : List (List Byte)
  /-- status of its reading: 0, or 2, 3, 6 -/
  status : Nat
  deriving DecidableEq, Repr

/-- The work of a cluster-engine command. -/
inductive EngWork where
  /-- a copy (17 R462): source, destination, extents, strides, element bytes, mode -/
  | copy (src dst : Word) (ext : List Nat) (sstr dstr : List Word) (bytes : Nat) (mode : Nat)
  /-- a gather, or a scatter when the flag is set (17 R467, R468), with the index list when it has been read -/
  | gather (scatter : Bool) (tbase idx : Word) (count esz iw : Nat) (stride buf : Word) (mode : Nat) (list : Option (List Nat))
  /-- a transposed tile's writing (17 R466) -/
  | trpop (tile : TrTile) (rb : Bool) (dst pitch : Word) (rmode srs : Nat) (fmt : Word)
  deriving DecidableEq, Repr

/-- Who issued an engine command. -/
inductive EngOwner where
  /-- a context of a core -/
  | ctx (core ctx : Nat)
  /-- a command of a die's firmware -/
  | firmware (die cid : Nat)
  deriving DecidableEq, Repr

/-- A command accepted by a cluster engine (17 R441 to R444). -/
structure EngCmd where
  /-- who issued it -/
  owner  : EngOwner
  /-- address space -/
  asid   : Nat
  /-- operation code, for its token -/
  op     : Nat
  /-- token serial -/
  serial : Nat
  /-- a token is pushed -/
  tok    : Bool
  /-- CP_CNT -/
  cnt    : Word
  /-- CP_FLAG -/
  flag   : Word
  /-- what it does -/
  work   : EngWork
  /-- status found at acceptance: 0 when it runs -/
  status : Nat
  /-- pages it holds a reference on (10 R260): address space and virtual address divided by 64 KiB -/
  held   : List (Nat × Nat)
  /-- the issue cycle of its core by which it completes, where its completion has one (17 R466, 07 R185) -/
  due    : Option Nat := none
  /-- step of its issue, for the order in which a cluster's commands arrived (17 R464) -/
  since  : Nat := 0
  deriving DecidableEq, Repr

/-- The copy of a context's state that a checkpoint keeps (10 R274, R275). -/
structure Shadow where
  /-- context id -/
  id     : Nat
  /-- its state at the checkpoint -/
  ctx    : Ctx
  /-- tiles before the interval; default 0 -/
  v      : Tab Tile
  /-- pages before the interval; default 0 -/
  acc    : Tab Page
  /-- weight buffers, active and inactive, and the transpose queue before the interval -/
  wts    : Weights × Weights
  trq    : List TrTile
  /-- tiles written in the interval -/
  wrV    : List Nat := []
  /-- pages written in the interval -/
  wrA    : List Nat := []
  /-- issue cycles of the interval so far -/
  count  : Nat := 0
  /-- outcomes recorded in the interval -/
  log    : List Rec := []
  /-- one instruction of the interval named more than 16 pages (10 R275) -/
  uncopied : Bool := false
  /-- issue cycles that an earlier run of the interval had reached (10 R276) -/
  reached : Nat := 0
  /-- signature of the register writes so far (10 R278) -/
  sig    : BitVec 64 := 0
  deriving DecidableEq, Repr

/-- A rerun of an interval (10 R273, R278). -/
structure Rerun where
  /-- recorded outcomes still to be taken -/
  replay : List Rec
  /-- the trap to take, and the issue-cycle count to take it at, for a late cause -/
  trap   : Option (Nat × TrapInfo)
  /-- for an internal error: the runs to make, 2 or 1 -/
  runs   : Nat
  /-- issue cycles and signature of the first run -/
  first  : Option (Nat × BitVec 64)
  deriving DecidableEq, Repr

/-- A task to be started, with its needs (05 R112 to R115). -/
structure TaskReq where
  /-- address space -/
  asid   : Nat
  /-- address of its CODE -/
  code   : Word
  /-- bytes of its CODE -/
  bytes  : Nat
  /-- table position, its initial s4 -/
  index  : Nat
  /-- GROUP, or TS for an ordered task -/
  group  : Nat
  /-- the coordinate hash of 05 R116 -/
  hash   : Nat
  /-- ARG: initial s1, s2, s3 -/
  args   : List Word
  /-- scratchpad KiB -/
  spad   : Nat
  /-- accumulator pages -/
  pages  : Nat
  /-- barrier counters -/
  bars   : Nat
  /-- how launched -/
  launch : Launch
  /-- join counted into: its die and record -/
  join   : Option (Nat × Nat)
  /-- the join id its table entry names, bit 31 set; 0 for none -/
  named  : Nat := 0
  /-- child number -/
  child  : Nat
  /-- the join it was created under, and its number in that join (14 R368, R371) -/
  under  : Option ((Nat × Nat) × Nat) := none
  /-- die of the stream whose command launched it, and its stream (05 R106) -/
  strm   : Nat × Nat
  /-- pool of cores it may be placed over -/
  pool   : BitVec 64
  /-- the context of a retired core that moves, with its tiles and pages (05 R132) -/
  moved  : Option Ctx := none
  /-- the core and context id it moves from -/
  old    : Nat × Nat := (0, 0)
  /-- the SPAWN that created it, by the die's count of SPAWNs; 0 for none -/
  spawned : Nat := 0
  /-- it is placed again after its core's retirement (05 R132) -/
  again  : Bool := false
  deriving DecidableEq, Repr

/-- A core (07, 08, 12). -/
structure Core where
  /-- contexts by id; default no context -/
  ctxs   : Tab Ctx := []
  /-- the context that runs -/
  run    : Option Nat := none
  /-- the context that ran last (05 R130) -/
  lastCtx : Nat := 0
  /-- issue cycles the running context has used of its slice -/
  sliceUsed : Nat := 0
  /-- a pre-emption request is pending -/
  preempt : Bool := false
  /-- TSLICE (05 R130); reset 0 -/
  tslice : Word := 0
  /-- issue cycles counted (07 R171) -/
  ic     : Nat := 0
  /-- instruction memory -/
  imem   : Memory := []
  /-- what each window of instruction memory was loaded with for a task: address space, CODE and CBYTES (05 R115) -/
  loaded : Tab (Nat × Word × Nat) := []
  /-- CORE_HOOK's handler: its bytes, and SABASE (21 R496) -/
  hook   : Option (Nat × Word) := none
  /-- results in flight, in the order they land -/
  pend   : List Pend := []
  /-- accesses awaited, oldest first -/
  arrivals : List Arrival := []
  /-- tile registers; default 0 -/
  v      : Tab Tile := []
  /-- owner tags of the tiles (07 R191); default 0 -/
  vtag   : Tab Word := []
  /-- accumulator pages; default 0 -/
  acc    : Tab Page := []
  /-- owner entries of the pages (07 R191); default 0 -/
  atag   : Tab Word := []
  /-- q4 -/
  q4     : List Word := []
  /-- q5 -/
  q5     : List Word := []
  /-- q7 -/
  q7     : List Word := []
  /-- events dropped at a full q7 -/
  q7drop : Nat := 0
  /-- first issue cycle V0 is free -/
  v0Free : Nat := 0
  /-- first issue cycle V1 is free -/
  v1Free : Nat := 0
  /-- first issue cycle the matrix stream path is free -/
  streamFree : Nat := 0
  /-- first issue cycle an MXW may issue after the last MXW (12 R312) -/
  mxwFree : Nat := 0
  /-- first issue cycle the load path is free of an MXCV (17 R458) -/
  mxcvFree : Nat := 0
  /-- the active weight buffer -/
  wActive : Weights := {}
  /-- the inactive weight buffer -/
  wOther : Weights := {}
  /-- first issue cycle no MXA streams from the buffer that is inactive (12 R312) -/
  otherFree : Nat := 0
  /-- first issue cycle no MXA streams from the active buffer -/
  activeFree : Nat := 0
  /-- scratchpad size in 64 KiB units -/
  spadUnits : Nat := 6
  /-- a PHASE drain: first issue cycle after it, and the size before (08 R198) -/
  drain  : Option (Nat × Nat) := none
  /-- first-level cache lines, oldest first -/
  l1     : List Line := []
  /-- round-robin way pointer of each set (08 R194); default 0 -/
  l1Ptr  : Tab Nat := []
  /-- transpose queue, oldest first -/
  trq    : List TrTile := []
  /-- cluster-engine commands not finished, in issue order -/
  engs   : List EngCmd := []
  /-- completion tokens waiting for q6, in order -/
  tokens : List Token := []
  /-- tasks placed on this core and waiting for room -/
  waitq  : List TaskReq := []
  /-- a cooperative MXA waits for its group (12 R321): context, mask, tag, job -/
  coop   : Option (Nat × BitVec 16 × Nat × MxJob) := none
  /-- retired (10 R279) -/
  retired : Bool := false
  /-- halted by a debugger (04 R92) -/
  dbgHalt : Bool := false
  /-- a debugger's halt waits for its bundle boundary (07 R186, R189) -/
  dbgReq : Bool := false
  /-- a late cause that has reached the core and waits until the context's other accesses are answered (07 R186): the issue-cycle count of its
  bundle, and the trap -/
  late   : Option (Nat × TrapInfo) := none
  /-- an internal error waits for the same (07 R186, 10 R278) -/
  intErr : Bool := false
  /-- the last checkpoint -/
  shadow : Option Shadow := none
  /-- a rerun in progress -/
  rerun  : Option Rerun := none
  deriving DecidableEq, Repr

/-- A buffer-ring descriptor (08 R221). -/
structure RingDesc where
  /-- BASE -/
  base   : Word := 0
  /-- STRIDE -/
  stride : Nat := 0
  /-- N -/
  n      : Nat := 0
  /-- ACQ -/
  acq    : BitVec 20 := 0
  /-- REL -/
  rel    : BitVec 20 := 0
  deriving DecidableEq, Repr

/-- A binding entry: a maximal run of 256-byte blocks (09 R234). -/
structure Binding where
  /-- address space -/
  asid : Nat
  /-- virtual address divided by 256 -/
  base : Nat
  /-- blocks -/
  len  : Nat
  /-- object -/
  obj  : BindObj
  deriving DecidableEq, Repr

/-- A curtain (09 R241, R242). -/
structure Curtain where
  /-- address space -/
  asid : Nat
  /-- region base divided by 64 KiB -/
  base : Nat
  /-- pages -/
  len  : Nat
  /-- back range base divided by 64 KiB -/
  back : Nat
  /-- the frames are exchanged -/
  swapped : Bool := false
  deriving DecidableEq, Repr

/-- A park record of the green room, as its 32 bytes say (08 R212). -/
structure Park where
  /-- PADDR -/
  pa    : Nat
  /-- CORE: core within its die -/
  core  : Nat
  /-- DIE: global die of the context -/
  die   : Nat
  /-- CTX -/
  ctx   : Nat
  /-- OP: 1 LDW, 2 LDC, 3 STF -/
  op    : Nat
  /-- NEXT -/
  next  : Nat := 0xFFFFFFFF
  /-- VALUE -/
  value : Word
  /-- PBEAT -/
  beat  : Word
  deriving DecidableEq, Repr

/-- Who made a release, for the scope test (09 R231, R232). -/
inductive Party where
  /-- a core's contexts -/
  | core (c : Nat)
  /-- the engines of a cluster: 4 times die plus cluster -/
  | cluster (k : Nat)
  /-- a die's collective engine or firmware -/
  | die (d : Nat)
  /-- what asks from a global die of another module -/
  | abroad (g : Nat)
  /-- the host or a peer -/
  | host
  deriving DecidableEq, Repr

/-- What a release or acquire is made on (09 R235). -/
inductive SyncObj where
  /-- a counter of this die -/
  | ctr (n : Nat)
  /-- the word at a physical address of this die -/
  | word (pa : Nat)
  /-- a curtain: its address space and region base divided by 64 KiB (09 R242) -/
  | curtain (asid base : Nat)
  deriving DecidableEq, Repr

/-- A release that an acquire of its object observes (09 R236). -/
structure Release where
  /-- object -/
  obj   : SyncObj
  /-- who made it -/
  party : Party
  /-- its scope, 0 to 5 -/
  scope : Nat
  deriving DecidableEq, Repr

/-- A translation held by the memory-side TLB (10 R257). -/
structure TlbEntry where
  /-- address space -/
  asid : Nat
  /-- virtual address divided by the page size -/
  vpn  : Nat
  /-- log2 of the page size: 16, 26 or 36 -/
  log  : Nat
  /-- the leaf -/
  pte  : Word
  /-- physical address of the leaf -/
  ptePa : Nat
  deriving DecidableEq, Repr

/-- A table pointer held by the memory-side TLB (10 R257). -/
structure TlbPtr where
  /-- address space -/
  asid : Nat
  /-- level of the pointer, 0 to 2 -/
  lvl  : Nat
  /-- VA[55:46 - 10·lvl] -/
  vpn  : Nat
  /-- physical address of the table it points to -/
  tbl  : Nat
  deriving DecidableEq, Repr

/-- What a page operation in progress does (10 R265). -/
inductive MoveKind where
  /-- a fetch -/
  | fetch
  /-- an eviction to a system-space address -/
  | evict (addr : Word)
  /-- a migration to a die of the module -/
  | migrate (goal : Nat)
  deriving DecidableEq, Repr

/-- A page operation in progress on a page of a die (10 R265): RES of its leaf is 2. -/
structure Move where
  /-- address space -/
  asid : Nat
  /-- virtual address divided by 64 KiB -/
  page : Nat
  /-- what it does -/
  kind : MoveKind
  deriving DecidableEq, Repr

/-- A page request not yet ended (10 R263). -/
structure PgReq where
  /-- address space -/
  asid : Nat
  /-- virtual address -/
  va   : Word
  /-- counter -/
  ctr  : BitVec 20
  /-- core and context that asked -/
  core : Nat
  /-- context -/
  ctx  : Nat
  /-- the global die of another module that the request came from -/
  from_ : Option Nat := none
  deriving DecidableEq, Repr

/-- A line of the die cache: its tag, class and hint (08 R201, R205). -/
structure CacheLine where
  /-- physical address divided by 64; of a line of host memory (02 R49) 2^40 plus its address divided by 64 -/
  line   : Nat
  /-- class of the cue sheet's range at its fill -/
  cls    : Option Nat
  /-- filled under the retain hint: rank 255 until the next phase selection -/
  retain : Bool
  /-- way of its set -/
  way    : Nat := 0
  deriving DecidableEq, Repr

/-- A buffer opened by an INDIRECT (03 R74). -/
structure Frame where
  /-- the INDIRECT's command -/
  cid   : Nat
  /-- buffer address -/
  addr  : Word
  /-- slots -/
  count : Nat
  /-- next slot -/
  next  : Nat := 0
  deriving DecidableEq, Repr

/-- A stream (03 R59 to R61). -/
structure Stream where
  /-- STRM_BASE -/
  base   : Word := 0
  /-- STRM_CFG -/
  cfg    : Word := 0
  /-- STRM_POS -/
  pos    : Word := 0
  /-- STRM_STAT.CODE -/
  code   : Nat := 0
  /-- STRM_STAT.PBWAIT -/
  pbwait : Bool := false
  /-- STRM_STAT.HALT -/
  halt   : Bool := false
  /-- a doorbell has been written and firmware still accepts (03 R62) -/
  rung   : Bool := false
  /-- levels its priority is raised by ageing (05 R105) -/
  raised : Nat := 0
  /-- beat from which its oldest ready command's wait counts, once it has one -/
  since  : Option Word := none
  /-- buffers opened, innermost first -/
  frames : List Frame := []
  deriving DecidableEq, Repr

/-- What a command has under way. -/
inductive CmdWork where
  /-- nothing -/
  | none
  /-- GANG: its members, how many of them have ended, and the beat of their release while they wait for it (05 R108) -/
  | gang (cores : List Nat) (ended : Nat) (release : Option Nat)
  /-- TASKS: its join record, its tasks and how many of them have ended -/
  | tasks (join total ended : Nat)
  /-- ORDERED: its tasks in their order and how many of them have committed or ended faulted -/
  | ordered (order : List Nat) (committed : Nat)
  /-- GRAPH: its root, its node count, the nodes launched and not ended, the code it ends with when a node erred, and whether it launches
  no more -/
  | graph (root : Word) (count : Nat) (launched : List Nat) (erred : Nat) (closed : Bool)
  /-- PAGEOP: the pages it has handled, and whether the next one's operation is in progress (10 R265) -/
  | pages (done : Nat) (moving : Bool)
  deriving DecidableEq, Repr

/-- A command, its slot and its prompt-book record (03 R63, R77). -/
structure Cmd where
  /-- STREAM -/
  strm  : Nat
  /-- DEPTH -/
  depth : Nat
  /-- CLASS -/
  cls   : Nat
  /-- TYPE -/
  type  : Nat
  /-- STATE: 1 accepted, 2 running, 3 done, 4 error, 5 cancelled -/
  state : Nat
  /-- SLOT -/
  slotIx : Nat
  /-- POS -/
  pos   : Word
  /-- TAG -/
  tag   : Word
  /-- T_ACC -/
  tAcc  : Word
  /-- T_END -/
  tEnd  : Word := 0
  /-- ERR -/
  err   : Nat := 0
  /-- FSUM -/
  fsum  : BitVec 32 := 0
  /-- FCORE -/
  fcore : Nat := 0
  /-- FCAUSE -/
  fcause : Nat := 0
  /-- the slot's 256 bytes -/
  slot  : List Byte
  /-- the graph and node whose body it is (05 R129) -/
  node  : Option (Nat × Nat) := none
  /-- it waits for something and is tried again -/
  waits : Bool := false
  /-- the INDIRECTs whose buffers it was accepted from, innermost first (03 R74) -/
  anc   : List Nat := []
  /-- it is the first slot of the innermost one's buffer -/
  first : Bool := false
  /-- beat at which it began -/
  tBeg  : Word := 0
  /-- the scratchpad sizes of its die's cores when it was accepted, of a launch with a task table (05 R113) -/
  sizes : List Nat := []
  /-- the status that a COPY was refused with when it was accepted; 0 when it was not (10 R259) -/
  refusal : Nat := 0
  /-- what it has under way -/
  work  : CmdWork := .none
  deriving DecidableEq, Repr

/-- A join record (05 R117). -/
structure JoinRec where
  /-- created by a SPAWN of this core and context; a TASKS command's own join otherwise -/
  creator : Option (Nat × Nat)
  /-- its creating context has ended -/
  orphan : Bool := false
  /-- count of a SPAWN join -/
  count  : Word := 0
  /-- target -/
  target : Word := 0
  /-- counter id of a TASKS join -/
  ctr    : Nat := 0
  /-- fault summary -/
  summary : BitVec 32 := 0
  /-- the first fault's task or child, its cause and its core -/
  first  : Option (Nat × Nat × Nat) := none
  /-- number of children created -/
  made   : Nat := 0
  deriving DecidableEq, Repr

/-- A launch's tasks not yet placed (05 R114). -/
structure Placing where
  /-- the tasks, in their order -/
  reqs : List TaskReq
  /-- the masked pool -/
  pool : BitVec 64
  /-- ptr -/
  ptr  : Nat := 0
  /-- placed by coordinate hash (05 R116) -/
  hash : Bool
  /-- the command that launched them, or 2^65 and the number of the SPAWN: its pointer lasts while the launch runs (05 R132) -/
  owner : Option Nat := none
  deriving DecidableEq, Repr

/-- A record a member of a log group has received and not yet stored: its step, its rank, its 32 bytes (06 R141 to R144). -/
structure LogRec where
  /-- STEP -/
  step : Nat
  /-- RANK; 0xFFFF for CLOSE -/
  rank : Nat
  /-- the record as sent, SEQ and CHK zero -/
  data : List Byte
  deriving DecidableEq, Repr

/-- A collective group as one die holds it (06 R142 to R147, R161 to R164). -/
structure Group where
  /-- KIND: 1 for a log group, 0 for a reduce group -/
  log    : Bool
  /-- N -/
  n      : Nat
  /-- RANK -/
  rank   : Nat
  /-- LISTEN -/
  listen : Nat
  /-- QUORUM -/
  quorum : Nat
  /-- UWIN -/
  uwin   : Nat
  /-- the global die of each rank -/
  members : List Nat
  /-- LEADERS -/
  leaders : List Nat
  /-- the global die that has taken over from a lost leader, as far as this die has learnt (06 R148) -/
  leader : Option Nat := none
  /-- DL -/
  dl     : Nat
  /-- RING -/
  ring   : Word
  /-- address space of its addresses -/
  asid   : Nat
  /-- LOG2N -/
  log2n  : Nat
  /-- FIRST -/
  first  : Nat
  /-- LRADDR -/
  lraddr : Word
  /-- current generation (06 R161) -/
  gen    : BitVec 4 := 0
  /-- log: contributions received and not yet stored, oldest first -/
  contribs : List LogRec := []
  /-- log: the leader's records received and not yet stored -/
  emitted : List LogRec := []
  /-- log: the lowest step not yet stored -/
  nextStep : Nat
  /-- log: SEQ of the last record stored -/
  seq    : Nat := 0
  /-- log: CHK of the last record stored, of record 0 at first -/
  chk    : BitVec 32 := 0
  /-- HIGH of the status block; of a reduce group, the records stored -/
  high   : Nat := 0
  /-- SEALED -/
  sealed : Nat := 0
  /-- HCHK -/
  hchk   : BitVec 32 := 0
  /-- HSTEP -/
  hstep  : Nat := 0
  /-- DROPS -/
  drops  : Nat := 0
  /-- STALE -/
  stale  : Nat := 0
  /-- reduce: SCRED terms not yet combined, rank and value, oldest first -/
  terms  : List (Nat × Word) := []
  /-- log: SEQ of the CLOSE of every step stored -/
  closes : Tab Nat := []
  /-- reduce: results of operations that a member's loss ended, not yet in q5 (06 R164) -/
  owed   : Nat := 0
  deriving DecidableEq, Repr

/-- What the leader of a log group keeps (06 R143, R146). -/
structure Lead where
  /-- the group's descriptor, as the group of a member die of this module holds it -/
  grp    : Group
  /-- the open step -/
  open_  : Nat
  /-- beat of the last close; of the group's start at first -/
  closeBeat : Nat
  /-- contributions counted or held, oldest first -/
  contribs : List LogRec := []
  /-- the deadline of the open step has passed -/
  late   : Bool := false
  /-- ranks that acknowledged a closed step, by step -/
  acks   : Tab (List Nat) := []
  /-- steps announced sealed -/
  sealed : List Nat := []
  /-- SEQ of the last CLOSE emitted -/
  seq    : Nat := 0
  /-- SEQ of the CLOSE of every step closed -/
  closes : Tab Nat := []
  deriving DecidableEq, Repr

/-- Who posted work entries (06 R153). -/
inductive Poster where
  /-- a context of a core -/
  | ctx (core ctx : Nat)
  /-- the die's firmware -/
  | firmware
  deriving DecidableEq, Repr

/-- A work entry not yet complete (06 R154 to R159). -/
structure WorkEntry where
  /-- serial -/
  serial : Nat
  /-- its 64 bytes -/
  raw    : List Byte
  /-- address space -/
  asid   : Nat
  /-- who posted it -/
  poster : Poster
  /-- its beat had passed when it was posted -/
  late   : Bool
  /-- status of the local destination of a READ at its posting (10 R259) -/
  refused : Nat := 0
  /-- it has started -/
  started : Bool := false
  /-- its CODE, once known -/
  code   : Option Nat := none
  /-- of a READ: RCTR saturated when the peer had sent the data -/
  rsat   : Bool := false
  /-- it raises its counters at completion: LCTR, and RCTR when it is still to rise -/
  rctr   : Bool := false
  /-- a hop saturated -/
  wsat   : Bool := false
  /-- a chunk of it was spilled -/
  spilled : Bool := false
  deriving DecidableEq, Repr

/-- A queue pair (06 R153). -/
structure Qp where
  /-- group -/
  grp    : Nat
  /-- status ring -/
  ring   : Word
  /-- address space of the ring -/
  asid   : Nat
  /-- serial of the next entry -/
  next   : BitVec 32 := 0
  /-- entries outstanding, oldest first -/
  entries : List WorkEntry := []
  deriving DecidableEq, Repr

/-- The backing of an evicted page: where its data went, and the tag block beside them (08 R220, 10 R265). -/
structure Backing where
  /-- address space -/
  asid : Nat
  /-- virtual address divided by 64 KiB -/
  page : Nat
  /-- system-space address of its data -/
  addr : Word
  /-- words of the page that were full, by index -/
  tags : List Nat
  deriving DecidableEq, Repr

/-- A die (01 R10). -/
structure Die where
  /-- beat counter (01 R32, R39) -/
  beat   : Word := 0
  /-- bytes of DRAM and scratchpad by physical address (10 R251); default 0 (08 R207) -/
  mem    : Memory := []
  /-- full words, by physical address divided by 8; default empty -/
  full   : Tab Bool := []
  /-- words with waiters, by physical address divided by 8; default none -/
  waits  : Tab Bool := []
  /-- the stored carry check of a granule, exclusive-or the check of its data, by physical address divided by 64; default 0, matching -/
  badck  : Tab (BitVec 16) := []
  /-- granules whose ECC finds an error it cannot correct (08 R207, R225), by physical address divided by 64; default none -/
  ecc    : Tab Bool := []
  /-- granules whose fault came in through a port and that no reader has found yet (02 R54), by physical address divided by 64; default none -/
  entryBad : Tab Bool := []
  /-- the key pair that a 64 KiB frame's contents stand encrypted under, plus 1, by physical address divided by 64 KiB (04 R88); default 0, none -/
  pageKeys : Tab Nat := []
  /-- the 4096 counters (05 R103); default 0 -/
  ctr    : Tab Word := []
  /-- ASR_BASE: physical address of the address-space table (10 R253), where Amigen puts it (log 21) -/
  asrBase : Nat := 0x1FFFB00000
  /-- memory-side TLB, oldest first -/
  tlb    : List TlbEntry := []
  /-- table pointers the TLB caches (10 R257), oldest first -/
  tlbPtrs : List TlbPtr := []
  /-- dirty first-level lines written back to a page that migrates, held at the owner (10 R262, R266), oldest first -/
  heldBacks : List Line := []
  /-- SWT_LO by entry (02 R48); default 0 -/
  swtLo  : Tab Word := []
  /-- SWT_HI by entry; default 0 -/
  swtHi  : Tab Word := []
  /-- RB_BASE: physical address of the ring descriptors (08 R221), where Amigen puts it (log 21) -/
  rbBase : Nat := 0x1FFFBF8000
  /-- bindings -/
  binds  : List Binding := []
  /-- curtains -/
  curtains : List Curtain := []
  /-- GR_BASE: physical address of the green room (08 R212), where Amigen puts it (log 21) -/
  grBase : Nat := 0x1FFF800000
  /-- park records in use, by index in the green room's pool -/
  parked : List Nat := []
  /-- releases still carried by their objects, oldest first -/
  rels   : List Release := []
  /-- page requests -/
  pgreqs : List PgReq := []
  /-- page operations in progress, oldest first -/
  moves  : List Move := []
  /-- lines of the die cache (08 R201) -/
  cache  : List CacheLine := []
  /-- rotating way pointer of each set of the die cache; default 0 -/
  dcPtr  : Tab Nat := []
  /-- the loaded cue sheet's ranges: virtual base divided by 64 KiB, units, class (08 R202) -/
  cueRanges : List (Nat × Nat × Nat) := []
  /-- ranks of the classes by phase -/
  cueRanks : List (List Nat) := []
  /-- the phase selected -/
  cuePhase : Nat := 0
  /-- clusters whose L1 is fused: bit per cluster (05 R110) -/
  fused  : BitVec 4 := 0
  /-- gated clusters (04 R96); reset none -/
  gated  : BitVec 4 := 0
  /-- streams (03 R59); default at reset -/
  streams : Tab Stream := []
  /-- PB_SEQ (03 R81) -/
  pbSeq  : Nat := 0
  /-- commands by sequence number; bodies of graph nodes from 2^64 on -/
  cmds   : Tab Cmd := []
  /-- bodies of graph nodes launched -/
  bodies : Nat := 0
  /-- SPAWNs that launched children -/
  spawns : Nat := 0
  /-- last stream served by priority (05 R104); default none served: 63 -/
  served : Tab Nat := []
  /-- join records (05 R117); a record not listed is free -/
  joins  : Tab JoinRec := []
  /-- launches with tasks not yet placed, oldest first -/
  placing : List Placing := []
  /-- tickets of killed contexts still to be released: ring and ticket (15 R399) -/
  debts  : List (Nat × Word) := []
  /-- collective groups by id (06 R142); a group not listed is unknown -/
  groups : Tab Group := []
  /-- groups this die leads -/
  leads  : Tab Lead := []
  /-- queue pairs set up (06 R153) -/
  qps    : Tab Qp := []
  /-- chunks held in staging, oldest first (06 R160) -/
  staging : List Chunk := []
  /-- chunks in the spill area, oldest first -/
  spill  : List Chunk := []
  /-- backings of evicted pages -/
  backings : List Backing := []
  /-- frames Amigen has free, by physical address divided by 64 KiB, next first (10 R265) -/
  freeFrames : List Nat := []
  /-- REH_STAT.AGREED (10 R280) -/
  rehAgreed : Nat := 0
  /-- REH_STAT.FAULTED -/
  rehFaulted : Nat := 0
  /-- REH_STAT.RETIRES -/
  rehRetires : Nat := 0
  deriving DecidableEq, Repr

/-- Who writes at another module's die, and what F of the words written becomes (01 R23, 08 R217). -/
inductive WriteKind where
  /-- a core's store -/
  | core
  /-- the host or a peer -/
  | host
  /-- an engine, collective or firmware command that leaves F -/
  | engine
  /-- one that makes the words full -/
  | full
  /-- one that makes the words empty -/
  | empty
  /-- one under KEEP -/
  | keep
  /-- a command's FLAG: it makes the word full as a release at a scope (03 R71) -/
  | flag (scope : Nat)
  deriving DecidableEq, Repr

/-- What a request asks of a die of another module (01 R20). -/
inductive RemoteOp where
  /-- n bytes are read -/
  | read (n : Nat)
  /-- bytes are written -/
  | write (data : List Byte) (kind : WriteKind)
  /-- a full/empty operation, 1 to 7 for LDW, LDC, STF, LDCT, STFT, FEQ and FEMK: its value, scope and ord. Of LDW, LDC and STF it is one attempt;
  one that exhausts its budget names the core within its die and the context that park if it fails (08 R210) -/
  | fe (op : Nat) (value : Word) (scope ord : Nat) (park : Option (Nat × Nat))
  /-- an address is looked up: whether it could be read and written (03 R72, R511, 15 R404) -/
  | probe (rd wr : Bool)
  /-- CFLUSH, or CDISC when the flag is set, of a line: whether its page permits it (15 R404) -/
  | line (disc : Bool)
  /-- firmware needs the page: it is fetched if it is not resident (03 R511) -/
  | bring
  /-- n bytes are read as code: the page needs X (10 R256) -/
  | code (n : Nat)
  /-- the context parked here is woken: core within its die, and context (08 R214) -/
  | wake (core ctx : Nat)
  /-- the park record of a core within its die and a context is removed (05 R119), or takes another core, 64 times its global die plus its number,
  and context (05 R133) -/
  | repark (core ctx : Nat) (goal : Option (Nat × Nat))
  /-- a page request failed: STAT.PGERR of a core within its die and a context (15 R403) -/
  | pgErr (core ctx : Nat)
  /-- a counter is added to: increment, scope, and whether the addition is a release -/
  | ctrAdd (inc : Word) (scope : Nat) (rel : Bool)
  /-- a counter is read once it has reached a threshold; the scope is an acquire's -/
  | ctrGet (threshold : Word) (scope : Nat)
  /-- a counter is written -/
  | ctrSet (value : Word)
  /-- a page is requested, for a counter, by a core within its die and a context (10 R263) -/
  | page (ctr core ctx : Nat)
  /-- TLBI with its operand -/
  | tlbi (value : Word)
  /-- BIND of a number of blocks to an object, in one of its forms -/
  | bind (len obj : Word) (form : Nat)
  /-- UNBIND of a number of blocks -/
  | unbind (len : Word)
  /-- PUBL at a scope -/
  | publ (scope : Nat)
  /-- the status block of the endpoint of a log group, whose id and generation stand for the address (06 R147, R150) -/
  | logStatus
  /-- a record of a step as that endpoint's ring holds it: the step, and the record's place in it (06 R150) -/
  | logRecord (step place : Nat)
  deriving DecidableEq, Repr

/-- A request to a die of another module. -/
structure RemoteReq where
  /-- what it asks -/
  op   : RemoteOp
  /-- address space -/
  asid : Nat := 0
  /-- virtual address, or counter id -/
  va   : Nat
  /-- TAG of its response -/
  tag  : Nat := 0
  deriving DecidableEq, Repr

/-- What a response to a request brings. -/
structure RemoteReply where
  /-- TAG of the request -/
  tag   : Nat
  /-- the late cause of a request that failed, with its subcause and level; 0 for none -/
  cause : Nat := 0
  /-- subcause -/
  sub   : Nat := 0
  /-- walk level -/
  level : Nat := 0
  /-- the value read -/
  value : Word := 0
  /-- p6 -/
  p6    : Bool := true
  /-- p7 -/
  p7    : Bool := true
  /-- a release was observed without coverage (09 R232) -/
  miss  : Bool := false
  /-- the attempt failed at the end of its budget: 1 its context is parked, 2 the green room is full (08 R210, R215) -/
  park  : Nat := 0
  /-- the page read has CE = 0: its reader does not verify the check (08 R224) -/
  plain : Bool := false
  deriving DecidableEq, Repr

/-- The granule that a response brings: its 64 bytes, the difference of the check it carries, and its F bits (01 R22, R24). -/
structure Granule where
  /-- bytes -/
  data  : List Byte
  /-- the carried check, exclusive-or the check of the bytes -/
  check : Nat := 0
  /-- F of its words -/
  full  : List Bool := []
  deriving DecidableEq, Repr

/-- Who asks dies of other modules for what a step needs before it can be made. -/
inductive Asker where
  /-- nobody -/
  | none
  /-- a slot of the bundle that a context holds at issue -/
  | bundle (core ctx slot : Nat)
  /-- a tile access that a core awaits, by its TAG -/
  | access (tag : Nat)
  /-- a command of a cluster engine -/
  | engine (owner : EngOwner) (serial : Nat)
  /-- a step of a command of a die -/
  | cmd (die cid : Nat)
  /-- another step -/
  | step (i : Instr) (die cid : Nat)
  deriving DecidableEq, Repr

/-- A request to a die of another module that a step waits for, and its response once it has come: the step is tried again until every response that
it needs is there, and takes them in their order. -/
structure Exchange where
  /-- who asks -/
  asker : Asker
  /-- the die asked -/
  gdie  : Nat
  /-- the request -/
  req   : RemoteReq
  /-- its page has CE = 0 -/
  plain : Bool := false
  /-- the response, with the granule it brings -/
  reply : Option (RemoteReply × Option Granule) := none
  deriving DecidableEq, Repr

/-- What a step that is tried lacks. -/
inductive Want where
  /-- nothing -/
  | nothing
  /-- a response that is under way -/
  | response
  /-- a page or a table pointer that migrates (10 R255, R262) -/
  | page
  /-- a request that has still to be sent: the die it leaves, the die asked, and the request -/
  | request (src gdie : Nat) (req : RemoteReq)
  deriving DecidableEq, Repr

/-- What the module sends to the world outside it. -/
inductive OutMsg where
  /-- a store to host memory, a peer or an expander: TARGET, address, bytes (02 R49, R51), and poison (02 R53) -/
  | store (target : Nat) (addr : Word) (data : List Byte) (poison : Bool)
  /-- a read asked of a peer, host or expander: TARGET, address, bytes -/
  | read (target : Nat) (addr : Word) (len : Nat)
  /-- a request of a die sent to a die of another module -/
  | remote (src gdie : Nat) (req : RemoteReq)
  /-- a die's response to a request of another module's die: without data, or with a granule and its virtual address -/
  | reply (src gdie : Nat) (r : RemoteReply) (granule : Option (Nat × Granule))
  /-- the completion of a host or peer read: the data, and poison; none for Unsupported Request (02 R45) -/
  | completion (data : Option (List Byte)) (poison : Bool)
  /-- an MSI-X message of a vector (03 R71) -/
  | msix (vector : Nat)
  /-- a flit on a link (01 R17) -/
  | flit (link : Nat) (data : List Byte)
  /-- a value returned to a debugger (04 R92) -/
  | debug (value : Word)
  /-- a message of a die to a die of another module on virtual channel 0: die, group, generation, what it is (0 a contribution, 1 a leader's
  record, 2 an acknowledgement, 3 a seal, 4 a reduce group's record, 5 a term), the rank it names, bytes -/
  | record (src gdie grp gen kind rank : Nat) (data : List Byte)
  /-- a work entry of a die for a die of another module: die, queue pair, serial, address space, the entry's 64 bytes, its data, the
  differences of their checks and their F bits -/
  | entry (src gdie qp serial asid : Nat) (raw data : List Byte) (checks : List Nat) (full : List Bool)
  /-- the data that a READ entry of another module's die asked for, under its TAG: queue pair, serial, the entry's 64 bytes, the data, the
  differences of their checks and their F bits, and whether RCTR saturated when they were sent -/
  | entryData (src gdie tag qp serial : Nat) (raw data : List Byte) (checks : List Nat) (full : List Bool) (sat : Bool)
  /-- the answer of a die to a work entry of another module's die (06 R159, R161), under the entry's TAG: queue pair, serial, CODE, WSAT and
  SPILLED -/
  | entryEnd (src gdie tag qp serial code : Nat) (wsat spilled : Bool)
  deriving DecidableEq, Repr

/-- A flit not yet sent (01 R17, R20). -/
structure Flit where
  /-- die of this module it leaves -/
  src     : Nat
  /-- DST -/
  dst     : Nat
  /-- VC -/
  vc      : Nat
  /-- KIND -/
  kind    : Nat
  /-- payload -/
  payload : List Byte
  deriving DecidableEq, Repr

/-- A flit sent and not acknowledged (01 R26). -/
structure Sent where
  /-- SEQ -/
  seq     : Nat
  /-- the flit -/
  flit    : Flit
  /-- resends so far -/
  resends : Nat := 0
  deriving DecidableEq, Repr

/-- The data of a work entry that come in from another module, data flit by data flit (01 R22, R23). -/
structure Inbound where
  /-- the die of this module they come to -/
  die    : Nat
  /-- global die they come from -/
  src    : Nat
  /-- TAG of the data flits -/
  tag    : Nat
  /-- the data of a READ on their way back -/
  back   : Bool
  /-- queue pair -/
  qp     : Nat
  /-- serial -/
  serial : Nat
  /-- address space -/
  asid   : Nat
  /-- the entry's 64 bytes -/
  raw    : List Byte
  /-- granules received so far, by their virtual address -/
  got    : Tab Granule := []
  /-- of a READ: RCTR saturated when its data were sent -/
  sat    : Bool := false
  deriving DecidableEq, Repr

/-- A Fremir link (01 R16 to R29, R38). -/
structure Link where
  /-- STATE: 0 down, 1 training, 2 up, 3 failed -/
  state   : Nat := 0
  /-- PORT -/
  port    : Nat := 0
  /-- RETRIES -/
  retries : Nat := 0
  /-- CRCERR -/
  crcerr  : Nat := 0
  /-- SEQ of the next flit sent -/
  next    : Nat := 0
  /-- SEQ expected of the next flit received -/
  expect  : Nat := 0
  /-- flits sent and not acknowledged, oldest first -/
  replay  : List Sent := []
  /-- the expected SEQ has been named to the other side since a flit was last received in order -/
  nacked  : Bool := false
  deriving DecidableEq, Repr

/-- A DOMAIN_JOIN or LINK_RETRAIN under way (03 R76): its command and the links that still train, each with the port it must
report; none accepts any. -/
structure Training where
  /-- die of the command -/
  die   : Nat
  /-- its number -/
  cid   : Nat
  /-- links that train -/
  links : List (Nat × Option Nat)
  /-- a link was left down -/
  failed : Bool := false
  deriving DecidableEq, Repr

/-- A tenant's key slot that holds a key (04 R88, R89). -/
structure TenantKey where
  /-- the XTS key pair -/
  key    : BitVec 512
  /-- the tenant's SLH-DSA public key -/
  pubKey : List Byte
  deriving DecidableEq, Repr

/-- A sealed window (04 R90, R91). -/
structure SealedWindow where
  /-- tenant -/
  tenant : Nat
  /-- BAR2 offset of its first byte -/
  off    : Nat
  /-- bytes -/
  len    : Nat
  deriving DecidableEq, Repr

/-- Security, debug and measurement (04). -/
structure Sec where
  /-- MODE: 0 Open, 1 Attested, 2 Sealed -/
  mode    : Nat := 0
  /-- DEBUG level -/
  debug   : Nat := 0
  /-- tenant of the session's token, 0 for none -/
  tenant  : Nat := 0
  /-- first 16 bytes of the SHAKE256 digest of the session's token -/
  digest  : List Byte := []
  /-- SEC_NONCE -/
  nonce   : BitVec 256 := 0
  /-- key slots by tenant; an empty slot is not listed -/
  keys    : Tab TenantKey := []
  /-- sealed windows open -/
  windows : List SealedWindow := []
  /-- MEAS_BOOT -/
  measBoot : BitVec 512 := 0
  /-- MEAS_RUN -/
  measRun : BitVec 512 := 0
  /-- the event log, oldest first: 32 bytes each (04 R94) -/
  events  : List (List Byte) := []
  /-- RESF, in always-on storage -/
  resf    : Bool := false
  /-- BOOTF -/
  bootf   : Bool := false
  deriving DecidableEq, Repr

/-- The module. -/
structure Module where
  /-- MOD_ID (01 R37) -/
  modId  : Word := 0
  /-- PORTB_CFG (02 R43) -/
  portb  : Word := 0
  /-- port A runs as a CXL Type-2 device, not as a PCIe endpoint (02 R41) -/
  cxlA   : Bool := false
  /-- a SUSPEND waits for what runs to stop (04 R97) -/
  susp   : Bool := false
  /-- other modules of the domain that are reachable (01 R13, R30); reset none -/
  reach  : List Nat := []
  /-- what was sent outside, oldest first -/
  out    : List OutMsg := []
  /-- the firmware core's index in each die (03 R57, R58); default 0 -/
  fwCore : Tab Nat := []
  /-- bytes the module wrote to memory outside it, by TARGET 0 and 2 to 5 and address (02 R48); what is not listed reads as
  `Config.outsideByte` -/
  ext    : Tab (Tab Byte) := []
  /-- granules of memory outside it, by TARGET 0 and 2 to 5 and address divided by 64: poisoned or not as the module last wrote them
  (02 R53); what is not listed reads as `Config.outsidePoison` -/
  pois   : Tab (Tab Bool) := []
  /-- Amigen runs: the boot ROM has verified it (04 R83) -/
  booted : Bool := false
  /-- boots so far: the encapsulation key is of the boot (04 R91) -/
  boots  : Nat := 0
  /-- power state: 0 for A0 and A2, 1 A1, 3 S3, 5 S5 (04 R96) -/
  power  : Nat := 0
  /-- core clock in MHz (01 R35) -/
  mhz    : Nat := 3300
  /-- PWR_CAP.CAP (01 R40) -/
  cap    : Nat := 2800
  /-- PWR_CAP.THROT -/
  throt  : Bool := false
  /-- boot flash: the boot policy record with its signature, as last written; none holds `Config.flashPolicy` (04 R84) -/
  policy : Option (List Byte) := none
  /-- port B's mode and bifurcation for the next boot (02 R42) -/
  portbNext : Nat × Nat := (0, 0)
  /-- the domain has been joined (03 R76) -/
  joined : Bool := false
  /-- module id of the beat master (01 R33, R34) -/
  master : Nat := 0
  /-- APT_VA (02 R45) -/
  aptVa  : Word := 0
  /-- APT_AS -/
  aptAs  : Nat := 0
  /-- BAR2 size in GiB (02 R44) -/
  bar2   : Nat := 16
  /-- HOST_STAT.CCERR (02 R55) -/
  ccerr  : Nat := 0
  /-- HOST_STAT.DROPW -/
  dropw  : Nat := 0
  /-- MSI-X table and pending-bit array: bytes from BAR0 offset 0x20_0000 on; default 0 (02 R44) -/
  msix   : Memory := []
  /-- links 0 to 11; default down (01 R16) -/
  links  : Tab Link := []
  /-- flits that wait for their link, oldest first -/
  txq    : List Flit := []
  /-- flits delivered to their dies, oldest first -/
  rxq    : List Flit := []
  /-- work entries of which data come in from other modules, oldest first -/
  inbound : List Inbound := []
  /-- TAG of the next request to another module -/
  nextTag : Nat := 1
  /-- requests to other modules' dies that steps wait for, oldest first -/
  exchanges : List Exchange := []
  /-- who makes the step in hand -/
  asker  : Asker := .none
  /-- responses that the step in hand has taken -/
  taken  : Nat := 0
  /-- what the step in hand lacks -/
  want   : Want := .nothing
  /-- links in training for a command -/
  training : Option Training := none
  /-- security, debug and measurement -/
  sec    : Sec := {}
  /-- MEAS_BOOT as it was saved on the way into S3 (04 R98) -/
  saved  : BitVec 512 := 0
  deriving DecidableEq, Repr

/-- The command of a die that a step of firmware acts on. -/
structure Focus where
  /-- die -/
  die : Nat := 0
  /-- the command's sequence number in the prompt book -/
  cid : Nat := 0
  deriving DecidableEq, Repr

/-- A step that is due, and the command it acts on. -/
structure Due where
  /-- the step -/
  step  : Instr
  /-- its command -/
  focus : Focus := {}
  deriving DecidableEq, Repr

/-- The machine. -/
structure State where
  /-- module-level state -/
  mod    : Module := {}
  /-- dies 0 to 3; default as at reset -/
  dies   : Tab Die := []
  /-- cores by 64 times die plus index; default as at reset -/
  cores  : Tab Core := []
  /-- steps that are due, first first (log 5) -/
  agenda : List Due := []
  /-- the command the firmware's step in hand acts on (log 5) -/
  focus  : Focus := {}
  /-- steps of the scalar network that wait for credit, oldest first (06 R162) -/
  mail   : List Due := []
  /-- core whose bundle issues when nothing is due (log 5) -/
  turn   : Nat := 1
  /-- steps made, for the beats (log 5); the model's own field -/
  clock  : Nat := 0
  /-- number of the next free value (log 1); the model's own field -/
  freeCtr : Nat := 0
  deriving DecidableEq, Repr

/-- The machine right after reset: nothing booted, every table at its defaults. -/
def State.reset : State := {}

/-- Why the machine stops. -/
inductive Fault where
  /-- A slot instruction is given to a core that runs no context: raised by `exec` of a slot instruction alone.
  Safe: the hardware issues nothing there (07 R171). -/
  | noContext
  deriving DecidableEq, Repr

/-- Why an instruction has no meaning in the model. -/
inductive Refusal where
  /-- Rejected by name by `exec`: the instruction has no meaning yet. Safe: the machine stops. -/
  | notModelled (mnemonic : String)
  deriving DecidableEq, Repr

end Sys2Proof.Machine
end

