-- ==== Sys2Proof/Machine/Ops.lean ====
section
/-! DEFINITION. The named operations on the state: tables, bit fields, registers and queues, results
in flight, and taking a trap and returning from one. -/

namespace Sys2Proof.Machine

/-! ### Bytes -/

/-- Bytes in little-endian order as a number (00 R4). -/
def leNat : List Byte → Nat
  | [] => 0
  | b :: bs => b.toNat + 256 * leNat bs

/-- The low n bytes of a number, in little-endian order. -/
def leBytes : Nat → Nat → List Byte
  | 0, _ => []
  | n + 1, v => BitVec.ofNat 8 v :: leBytes n (v / 256)

/-! ### Tables -/

/-- The entry of a table, or its default `d`. -/
def tabGet {α : Type} (d : α) : Tab α → Nat → α
  | [], _ => d
  | (k, v) :: t, n => if k = n then v else tabGet d t n

/-- The table with an entry set, in the place its number has in rising order. -/
def tabPut {α : Type} : Tab α → Nat → α → Tab α
  | [], n, x => [(n, x)]
  | (k, v) :: t, n, x =>
    if k = n then (n, x) :: t
    else if n < k then (n, x) :: (k, v) :: t
    else (k, v) :: tabPut t n x

/-- The table without an entry. -/
def tabDel {α : Type} : Tab α → Nat → Tab α
  | [], _ => []
  | (k, v) :: t, n => if k = n then tabDel t n else (k, v) :: tabDel t n

/-- The table with an entry set, keeping the canonical form: the default is not listed. -/
def tabSet {α : Type} [DecidableEq α] (d : α) (t : Tab α) (n : Nat) (x : α) : Tab α :=
  if x = d then tabDel t n else tabPut t n x

/-! ### Bit fields -/

/-- Bits `hi` to `lo` of a number. -/
def bitsOf (v hi lo : Nat) : Nat := v / 2 ^ lo % 2 ^ (hi + 1 - lo)

/-- Bits `hi` to `lo` of a word, as a number. -/
def fld {w : Nat} (v : BitVec w) (hi lo : Nat) : Nat := bitsOf v.toNat hi lo

/-- Bit `n` of a word. -/
def bitOf {w : Nat} (v : BitVec w) (n : Nat) : Bool := v.getLsbD n

/-- The word with bits `hi` to `lo` replaced. -/
def setFld {w : Nat} (v : BitVec w) (hi lo x : Nat) : BitVec w :=
  BitVec.ofNat w (v.toNat - bitsOf v.toNat hi lo * 2 ^ lo + x % 2 ^ (hi + 1 - lo) * 2 ^ lo)

/-- The words' bits that `sel` selects taken from `x`, the others from `v` (07 R181 landings of part of a register). -/
def mergeBits {w : Nat} (v x sel : BitVec w) : BitVec w := (v &&& ~~~sel) ||| (x &&& sel)

/-- A number of at most `n` bits read as two's complement. -/
def toSigned (n v : Nat) : Int := if v % 2 ^ n < 2 ^ (n - 1) then (v % 2 ^ n : Nat) else (v % 2 ^ n : Nat) - (2 ^ n : Nat)

/-- An integer as a number of `n` bits in two's complement. -/
def ofSigned (n : Nat) (v : Int) : Nat := (v % (2 ^ n : Nat)).toNat

/-- A number limited to a range. -/
def clampInt (lo hi v : Int) : Int := if v < lo then lo else if hi < v then hi else v

/-! ### Dies, cores and contexts -/

/-- A die's state. -/
def dieOf (s : State) (d : Nat) : Die := tabGet {} s.dies d

/-- The state with a die replaced. -/
def setDie (s : State) (d : Nat) (x : Die) : State := { s with dies := tabPut s.dies d x }

/-- The state with a die changed. -/
def modDie (s : State) (d : Nat) (f : Die → Die) : State := setDie s d (f (dieOf s d))

/-- A core's state. -/
def coreOf (s : State) (c : Nat) : Core := tabGet {} s.cores c

/-- The state with a core replaced. -/
def setCore (s : State) (c : Nat) (x : Core) : State := { s with cores := tabPut s.cores c x }

/-- The state with a core changed. -/
def modCore (s : State) (c : Nat) (f : Core → Core) : State := setCore s c (f (coreOf s c))

/-- A context of a core. -/
def coreCtx (k : Core) (x : Nat) : Ctx := tabGet {} k.ctxs x

/-- The core with a context replaced. -/
def setCoreCtx (k : Core) (x : Nat) (t : Ctx) : Core := { k with ctxs := tabPut k.ctxs x t }

/-- A context's state. -/
def ctxOf (s : State) (c x : Nat) : Ctx := coreCtx (coreOf s c) x

/-- The state with a context replaced. -/
def setCtx (s : State) (c x : Nat) (t : Ctx) : State := modCore s c (setCoreCtx · x t)

/-- The state with a context changed. -/
def modCtx (s : State) (c x : Nat) (f : Ctx → Ctx) : State := setCtx s c x (f (ctxOf s c x))

/-- The die of a core (01 R10). -/
def dieOfCore (c : Nat) : Nat := c / 64

/-- The index of a core in its die. -/
def idxOfCore (c : Nat) : Nat := c % 64

/-- The cluster of a core: 4 times its die plus its cluster in the die (07 R166). -/
def clusterOfCore (c : Nat) : Nat := c / 16

/-- The index of a core in its cluster. -/
def idxInCluster (c : Nat) : Nat := c % 16

/-- The context is resident: some state of it is kept (07 R167). -/
def Ctx.resident (t : Ctx) : Bool := t.status != .none

/-! ### Queues (07 R177 to R180) -/

/-- The entries of a queue, head first, as context `x` of core `k` reads it. -/
def queueOf (k : Core) (x q : Nat) : List Word :=
  match q with
  | 4 => k.q4
  | 5 => k.q5
  | 7 => k.q7
  | q => tabGet [] (coreCtx k x).q q

/-- The core with a queue replaced. -/
def setQueue (k : Core) (x q : Nat) (l : List Word) : Core :=
  match q with
  | 4 => { k with q4 := l }
  | 5 => { k with q5 := l }
  | 7 => { k with q7 := l }
  | q => setCoreCtx k x { coreCtx k x with q := tabSet [] (coreCtx k x).q q l }

/-- The depth of every queue (07 R179). -/
def queueDepth : Nat := 64

/-! ### Registers (13 R328 to R330) -/

/-- The value of scalar register n; s0 reads zero. -/
def sReg (t : Ctx) (n : Nat) : Word := if n = 0 then 0 else tabGet 0 t.s n

/-- The context with a scalar register written; a write to s0 is discarded. -/
def setSReg (t : Ctx) (n : Nat) (v : Word) : Ctx := if n = 0 then t else { t with s := tabSet 0 t.s n v }

/-- The value of address register n. -/
def aReg (t : Ctx) (n : Nat) : Word := tabGet 0 t.a n

/-- The context with an address register written. -/
def setAReg (t : Ctx) (n : Nat) (v : Word) : Ctx := { t with a := tabSet 0 t.a n v }

/-- The value of predicate n; p0 reads true. -/
def pReg (t : Ctx) (n : Nat) : Bool := if n = 0 then true else t.p.getLsbD n

/-- The context with a predicate written; a write to p0 is discarded. -/
def setPReg (t : Ctx) (n : Nat) (b : Bool) : Ctx :=
  if n = 0 then t else { t with p := setFld t.p n n b.toNat }

/-- The value of mask n; m0 reads all true. -/
def mReg (t : Ctx) (n : Nat) : Mask := if n = 0 then BitVec.allOnes 8192 else tabGet 0 t.m n

/-- The context with a mask written; a write to m0 is discarded. -/
def setMReg (t : Ctx) (n : Nat) (v : Mask) : Ctx := if n = 0 then t else { t with m := tabSet 0 t.m n v }

/-- The value of tile register n. -/
def vReg (k : Core) (n : Nat) : Tile := tabGet 0 k.v n

/-- The core with a tile register written. -/
def setVReg (k : Core) (n : Nat) (x : Tile) : Core := { k with v := tabSet 0 k.v n x }

/-- The contents of accumulator page n. -/
def accPage (k : Core) (n : Nat) : Page := tabGet 0 k.acc n

/-- The core with an accumulator page written; there are 512 (08 R199). -/
def setAccPage (k : Core) (n : Nat) (x : Page) : Core := if 512 ≤ n then k else { k with acc := tabSet 0 k.acc n x }

/-- SRC(c): zero, a scalar register or a queue's head (13 R329). -/
def srcVal (k : Core) (x : Nat) (c : SCode) : Word :=
  let n := c.toNat
  if n < 56 then sReg (coreCtx k x) n else ((queueOf k x (n - 56)).head?).getD 0

/-- What DST(c, v) writes when it lands: nothing, a scalar register, or a push to a neighbour (13 R329).
Codes 60 to 63 name no destination and are refused before. -/
def dstLand (c : SCode) (v : Word) : List Land :=
  let n := c.toNat
  if n = 0 then [] else if n < 56 then [.scalar n v] else if n < 60 then [.push (n - 56) v] else []

/-! ### Results in flight (07 R181, R182) -/

/-- The results in flight with one more, behind every one that lands no later. -/
def pendInsert (p : Pend) : List Pend → List Pend
  | [] => [p]
  | q :: l => if q.due ≤ p.due then q :: pendInsert p l else p :: q :: l

/-- The core with results that land `lat` issue cycles after the present one. -/
def addLands (k : Core) (x lat : Nat) (ls : List Land) : Core :=
  { k with pend := ls.foldl (fun l z => pendInsert ⟨k.ic + lat, x, z⟩ l) k.pend }

/-! ### Free values (log 1) -/

/-- The state with the counter of free values advanced. -/
def bumpFree (s : State) : State := { s with freeCtr := s.freeCtr + 1 }

/-! ### Taking a trap and returning from one (10 R268 to R272) -/

/-- ECAUSE as a trap writes it (10 R270). -/
def causeWord (t : TrapInfo) : Word :=
  BitVec.ofNat 64 (t.cause % 256 + t.sub % 256 * 2 ^ 8 + t.late.toNat * 2 ^ 20 + t.slot % 8 * 2 ^ 21 + t.level % 4 * 2 ^ 26)

/-- TAKING A TRAP (10 R272 steps 2 and 3), once every write in flight has landed: EPC, ECAUSE and EINFO are
written, the context enters privileged mode, its group ends and its handler starts at TVEC.
Where the core has no hook, Amigen's default handler serves the trap (07 R192, 21 R496). -/
def takeTrap (s : State) (c x : Nat) (t : TrapInfo) : State :=
  let k := coreOf s c
  modCtx s c x fun u =>
    { u with epc := u.pc.setWidth 64, ecause := causeWord t, einfo := t.info, priv := true,
             pc := u.tvec.setWidth 18, grp := [], held := none, inAmigen := k.hook.isNone }

/-- RETURNING FROM A TRAP (14 R373): the context leaves privileged mode and goes on at `pc`, in a new group. -/
def leaveTrap (s : State) (c x : Nat) (pc : BitVec 18) : State :=
  modCtx s c x fun u => { u with priv := false, inAmigen := false, pc := pc, grp := [] }

end Sys2Proof.Machine
end

