-- ==== Sys2Proof/Machine/Aes.lean ====
section
/-! DEFINITION. AES-256-XTS, under which Sealed mode keeps each tenant's memory (04 R88). The spec names the cipher; what it computes is PRESUMED from
FIPS 197 and IEEE 1619 (log 12). -/

namespace Sys2Proof.Machine

/-! ### AES-256 (FIPS 197): a block is its 16 bytes, column after column -/

/-- Multiplication by x in the field of 256 elements. -/
def gfDouble (a : Byte) : Byte := (a <<< 1) ^^^ (if a.getLsbD 7 then 0x1B else 0)

/-- The product of two elements over the low n bits of the second. -/
def gfMul : Nat → Byte → Byte → Byte
  | 0, _, _ => 0
  | n + 1, a, b => (if b.getLsbD 0 then a else 0) ^^^ gfMul n (gfDouble a) (b >>> 1)

/-- The inverse of an element: its power 254. -/
def gfInv (a : Byte) : Byte := (List.range 253).foldl (fun x _ => gfMul 8 x a) a

/-- One entry of the S-box: the inverse under the affine map. -/
def sboxEntry (n : Nat) : Byte :=
  let b := gfInv (BitVec.ofNat 8 n)
  b ^^^ b.rotateLeft 1 ^^^ b.rotateLeft 2 ^^^ b.rotateLeft 3 ^^^ b.rotateLeft 4 ^^^ 0x63

/-- The S-box. -/
def aesSbox : List Byte := (List.range 256).map sboxEntry

/-- The inverse S-box. -/
def aesUnbox : List Byte := (List.range 256).map fun n => BitVec.ofNat 8 (aesSbox.idxOf (BitVec.ofNat 8 n))

/-- Bytes through a box. -/
def boxed (box bs : List Byte) : List Byte := bs.map fun b => box.getD b.toNat 0

/-- Bytes added in the field, place by place. -/
def xorBytes (a b : List Byte) : List Byte := List.zipWith (· ^^^ ·) a b

/-- Row r of a block turned by k·r columns: k = 1 encrypts, k = 3 decrypts. -/
def shiftRows (k : Nat) (b : List Byte) : List Byte := (List.range 16).map fun i => b.getD ((i + 4 * k * (i % 4)) % 16) 0

/-- Each column multiplied by a circulant matrix of the given first row. -/
def mixColumns (coef : List Byte) (b : List Byte) : List Byte :=
  (List.range 16).map fun i =>
    ((List.range 4).map fun k => gfMul 8 (b.getD (i / 4 * 4 + k) 0) (coef.getD ((k + 4 - i % 4) % 4) 0)).foldl (· ^^^ ·) 0

/-- The next word of the key schedule after the words w. -/
def nextKeyWord (w : List (List Byte)) : List Byte :=
  let i := w.length
  let t := w.getD (i - 1) []
  let u := if i % 8 = 0 then xorBytes (boxed aesSbox (t.drop 1 ++ t.take 1)) [BitVec.ofNat 8 (2 ^ (i / 8 - 1)), 0, 0, 0]
    else if i % 8 = 4 then boxed aesSbox t else t
  xorBytes (w.getD (i - 8) []) u

/-- The 15 round keys of a 32-byte key. -/
def roundKeys (key : List Byte) : List (List Byte) :=
  let w := (List.range 52).foldl (fun w _ => w ++ [nextKeyWord w]) ((List.range 8).map fun i => (key.drop (4 * i)).take 4)
  (List.range 15).map fun r => ((w.drop (4 * r)).take 4).flatten

/-- A block encrypted. -/
def aesEncrypt (rk : List (List Byte)) (b : List Byte) : List Byte :=
  let key := fun r => rk.getD r []
  let b := (List.range 13).foldl (fun b r => xorBytes (mixColumns [2, 3, 1, 1] (shiftRows 1 (boxed aesSbox b))) (key (r + 1))) (xorBytes b (key 0))
  xorBytes (shiftRows 1 (boxed aesSbox b)) (key 14)

/-- A block decrypted. -/
def aesDecrypt (rk : List (List Byte)) (b : List Byte) : List Byte :=
  let key := fun r => rk.getD r []
  let b := (List.range 13).foldl (fun b r => mixColumns [14, 11, 13, 9] (xorBytes (boxed aesUnbox (shiftRows 3 b)) (key (13 - r)))) (xorBytes b (key 14))
  xorBytes (boxed aesUnbox (shiftRows 3 b)) (key 0)

/-! ### XTS (IEEE 1619): the data unit is a 64-byte granule -/

/-- A tweak multiplied by x: the next block's. -/
def nextTweak (t : List Byte) : List Byte :=
  let n := 2 * leNat t
  leBytes 16 ((n % 2 ^ 128) ^^^ (if 2 ^ 128 ≤ n then 0x87 else 0))

/-- The tweaks of a granule's four blocks: its physical address encrypted under the second key, and on from there. -/
def granuleTweaks (rk2 : List (List Byte)) (pa : Nat) : List (List Byte) :=
  (List.range 3).foldl (fun l _ => l ++ [nextTweak (l.getD (l.length - 1) [])]) [aesEncrypt rk2 (leBytes 16 pa)]

/-- A granule's 64 bytes through a block cipher under their tweaks. -/
def xtsGranule (f : List Byte → List Byte) (rk2 : List (List Byte)) (pa : Nat) (bs : List Byte) : List Byte :=
  (List.range 4).flatMap fun j =>
    let t := (granuleTweaks rk2 pa).getD j []
    xorBytes (f (xorBytes ((bs.drop (16 * j)).take 16) t)) t

/-- The two 32-byte halves of a key pair, as round keys. -/
def pairKeys (key : Nat) : List (List Byte) × List (List Byte) :=
  (roundKeys ((leBytes 64 key).take 32), roundKeys ((leBytes 64 key).drop 32))

/-- A granule encrypted under a key pair. -/
def xtsEncrypt (key pa : Nat) (bs : List Byte) : List Byte := xtsGranule (aesEncrypt (pairKeys key).1) (pairKeys key).2 pa bs

/-- A granule decrypted under a key pair. -/
def xtsDecrypt (key pa : Nat) (bs : List Byte) : List Byte := xtsGranule (aesDecrypt (pairKeys key).1) (pairKeys key).2 pa bs

/-- What stands encrypted under the key of number `k` (its pair plus 1; 0 for plain), as the key of number `k'` reads it. -/
def rekeyed (k k' pa : Nat) (bs : List Byte) : List Byte :=
  let ct := if k = 0 then bs else xtsEncrypt (k - 1) pa bs
  if k' = 0 then ct else xtsDecrypt (k' - 1) pa ct

end Sys2Proof.Machine
end

