-- ==== Sys2Proof/Machine/Crc.lean ====
section
/-! DEFINITION. The checks the spec names: CRC-64 of flits and rehearsal signatures (01 R19, 10 R278),
CRC-32C of records (03 R77, 06 R140) and the carry check of a granule (08 R224). The first two take and give reflected bits. -/

namespace Sys2Proof.Machine

/-- A number's low n bits in reverse order. -/
def revBits : Nat → Nat → Nat
  | 0, _ => 0
  | n + 1, v => v % 2 * 2 ^ n + revBits n (v / 2)

/-- One bit of a reflected CRC. -/
def crcBit (poly r : Nat) : Nat := if r % 2 = 1 then (r / 2) ^^^ poly else r / 2

/-- One byte of a reflected CRC; `poly` is the reversed polynomial. -/
def crcByte (poly r : Nat) (b : Byte) : Nat :=
  (List.range 8).foldl (fun a _ => crcBit poly a) (r ^^^ b.toNat)

/-- The CRC-64 polynomial of 01 R19, reversed. -/
def poly64 : Nat := revBits 64 0x42F0E1EBA9EA3693

/-- The CRC-32C polynomial of 06 R140, reversed. -/
def poly32c : Nat := revBits 32 0x1EDC6F41

/-- CRC-64 continued over bytes, before its final xor. -/
def crc64Go (r : Nat) (bs : List Byte) : Nat := bs.foldl (crcByte poly64) r

/-- The CRC-64 of bytes (01 R19). -/
def crc64 (bs : List Byte) : Nat := crc64Go (2 ^ 64 - 1) bs ^^^ (2 ^ 64 - 1)

/-- The CRC-32C of bytes (06 R140). -/
def crc32c (bs : List Byte) : Nat := bs.foldl (crcByte poly32c) (2 ^ 32 - 1) ^^^ (2 ^ 32 - 1)

/-- The carry check of a granule: CRC-16/T10-DIF of its 64 bytes (08 R224). -/
def cchk (bs : List Byte) : Nat :=
  bs.foldl (fun r b => (List.range 8).foldl (fun r _ => if r / 2 ^ 15 % 2 = 1 then (2 * r % 2 ^ 16) ^^^ 0x8BB7 else 2 * r % 2 ^ 16)
    (r ^^^ (b.toNat * 2 ^ 8))) 0

end Sys2Proof.Machine
end

