-- ==== Sys2Proof/Machine/Memory.lean ====
section
/-! DEFINITION. Memory: bytes, physical accesses with full/empty bits, wakes and carry checks (08),
address resolution and page walks (10 R250 to R258, 02 R47 to R50), first-level and die caches. -/

namespace Sys2Proof.Machine

/-! ### Bytes -/

/-- What an unlisted byte reads as: zero (08 R207; log 2). -/
def memDefault : Byte := 0

/-- The byte at an address. -/
def memGet (m : Memory) (a : Nat) : Byte := tabGet memDefault m a

/-- The canonical form of a memory: rising addresses, and no entry equal to what an unlisted byte reads as. -/
def memWf : Memory → Bool
  | [] => true
  | [(_, b)] => b != memDefault
  | (a, b) :: (a', b') :: m => decide (a < a') && b != memDefault && memWf ((a', b') :: m)

/-- The canonical form, as a proposition. -/
abbrev Memory.wf (m : Memory) : Prop := memWf m = true

/-- The entries of bytes placed from an address on. -/
def cellsOf : Nat → List Byte → Memory
  | _, [] => []
  | a, b :: bs => if b = memDefault then cellsOf (a + 1) bs else (a, b) :: cellsOf (a + 1) bs

/-- The memory with bytes written from an address on. -/
def memWrite (m : Memory) (a : Nat) (bs : List Byte) : Memory :=
  m.filter (fun c => decide (c.1 < a)) ++ (cellsOf a bs ++ m.filter (fun c => decide (a + bs.length ≤ c.1)))

/-- The n bytes from an address on. -/
def memRead (m : Memory) (a n : Nat) : List Byte :=
  let part := m.filter (fun c => decide (a ≤ c.1) && decide (c.1 < a + n))
  (List.range n).map fun i => memGet part (a + i)

/-! ### Physical accesses -/

/-- Physical address of cluster scratchpad byte 0 (08 R213): cluster k of the die. -/
def spadBase (k : Nat) : Nat := 0x2000000000 + k * 0x800000

/-- The bucket of a word of the green room (08 R213). -/
def bucketOf (pa : Nat) : Nat :=
  let w := pa / 8
  (w ^^^ (w / 2 ^ 12) ^^^ (w / 2 ^ 24)) % 4096

/-- F of the word at a physical address. -/
def fullBit (d : Die) (pa : Nat) : Bool := tabGet false d.full (pa / 8)

/-- W of the word at a physical address. -/
def waitBit (d : Die) (pa : Nat) : Bool := tabGet false d.waits (pa / 8)

/-- The die with F of a word set. -/
def setFull (d : Die) (pa : Nat) (b : Bool) : Die := { d with full := tabSet false d.full (pa / 8) b }

/-- The die with W of a word set. -/
def setWait (d : Die) (pa : Nat) (b : Bool) : Die := { d with waits := tabSet false d.waits (pa / 8) b }

/-- The words a range of bytes touches, by physical address divided by 8. -/
def wordsTouched (pa n : Nat) : List Nat := if n = 0 then [] else (List.range ((pa + n - 1) / 8 - pa / 8 + 1)).map (pa / 8 + ·)

/-- A wake of a word (08 R214): the walk of its bucket for it becomes due. -/
def postWake (s : State) (die pa : Nat) : State :=
  { s with agenda := s.agenda ++ [{ step := .wakeWalk (Fin.ofNat 4 die) pa }] }

/-- W of a word is cleared and a wake posted, when it was set: one step with the write (08 R214). -/
def wakeWord (s : State) (die w : Nat) : State :=
  if tabGet false (dieOf s die).waits w then postWake (modDie s die fun d => { d with waits := tabDel d.waits w }) die (8 * w) else s

/-- Wakes of every word a write touches. -/
def wakeRange (s : State) (die pa n : Nat) : State := (wordsTouched pa n).foldl (fun t w => wakeWord t die w) s

/-- The granules a range of bytes touches, by physical address divided by 64. -/
def granulesOf (pa n : Nat) : List Nat := if n = 0 then [] else (List.range ((pa + n - 1) / 64 - pa / 64 + 1)).map (pa / 64 + ·)

/-- A range covers a granule whole. -/
def wholeGranule (pa n g : Nat) : Bool := decide (pa ≤ 64 * g) && decide (64 * g + 64 ≤ pa + n)

/-- A granule's stored check does not match its data, or its ECC finds an error it cannot correct (08 R224, R225). -/
def granuleBad (d : Die) (g : Nat) : Bool := tabGet 0 d.badck g != 0 || tabGet false d.ecc g

/-- A check that is the complement of the right one, as a difference. -/
def checkFlip : BitVec 16 := 0xFFFF

/-- The checks after a write of a range (08 R224): of a granule written whole, computed anew; of one written in part whose old check fails,
the complement of the merged granule's. -/
def checksAfter (d : Die) (pa n : Nat) : Tab (BitVec 16) :=
  (granulesOf pa n).foldl (fun t g => tabSet 0 t g (if granuleBad d g && !wholeGranule pa n g then checkFlip else 0)) d.badck

/-- A write at a home: bytes written, carry checks and ECC computed anew (08 R224), words with waiters woken,
and no release is carried by a word written (09 R236). F stays. -/
def physWrite (s : State) (die pa : Nat) (bs : List Byte) : State :=
  let ws := wordsTouched pa bs.length
  let s := modDie s die fun d =>
    { d with mem := memWrite d.mem pa bs, badck := checksAfter d pa bs.length, ecc := (granulesOf pa bs.length).foldl tabDel d.ecc,
             entryBad := ((granulesOf pa bs.length).filter (wholeGranule pa bs.length)).foldl tabDel d.entryBad,
             rels := d.rels.filter fun r => !(match r.obj with | .word a => ws.contains (a / 8) | .ctr _ | .curtain _ _ => false) }
  wakeRange s die pa bs.length

/-- A granule's stored check is set, as its difference from the right one. -/
def setCheck (s : State) (die g : Nat) (c : BitVec 16) : State := modDie s die fun d => { d with badck := tabSet 0 d.badck g c }

/-- A granule moves whole with its check (08 R224, 01 R24): `c` is the check's difference. Bytes that are no whole granule are written as a
part of one. -/
def physCarry (s : State) (die pa : Nat) (bs : List Byte) (c : BitVec 16) : State :=
  let t := physWrite s die pa bs
  if pa % 64 = 0 ∧ bs.length = 64 then setCheck t die (pa / 64) c else t

/-- The check that a granule carries away, as a difference: an ECC error that cannot be corrected makes it the complement (08 R225). -/
def carriedCheck (d : Die) (g : Nat) : BitVec 16 := if tabGet false d.ecc g then checkFlip else tabGet 0 d.badck g

/-- A read at a home. -/
def physRead (s : State) (die pa n : Nat) : List Byte := memRead (dieOf s die).mem pa n

/-- CCERR rises. -/
def countCc (s : State) (n : Nat) : State := { s with mod := { s.mod with ccerr := s.mod.ccerr + n } }

/-- A reader has found the granules of a range whose check fails: those whose fault came in through a port are counted (02 R54). -/
def foundBad (s : State) (die pa n : Nat) : State :=
  (granulesOf pa n).foldl (fun s g =>
    if tabGet false (dieOf s die).entryBad g && granuleBad (dieOf s die) g then
      countCc (modDie s die fun d => { d with entryBad := tabDel d.entryBad g }) 1
    else s) s

/-- A granule is stored with the complement of its check, a fault that came in through a port (02 R54). -/
def enterBad (s : State) (die g : Nat) : State :=
  modDie s die fun d => { d with badck := tabSet 0 d.badck g checkFlip, entryBad := tabPut d.entryBad g true }

/-- A granule of a range fails its carry check, or its ECC (08 R224, R225). -/
def badCheck (s : State) (die pa n : Nat) : Bool := (granulesOf pa n).any (granuleBad (dieOf s die))

/-! ### The green room (08 R212 to R215) -/

/-- Park records the pool has. -/
def greenPool : Nat := 65536

/-- The index that marks an empty list. -/
def parkNone : Nat := 0xFFFFFFFF

/-- Physical address of the header of a bucket. -/
def parkHead (d : Die) (b : Nat) : Nat := d.grBase + 8 * b

/-- Physical address of a park record. -/
def parkAddr (d : Die) (i : Nat) : Nat := d.grBase + 0x8000 + 32 * i

/-- n bytes of a die's memory as a number. -/
def dieNat (d : Die) (pa n : Nat) : Nat := leNat (memRead d.mem pa n)

/-- A park record read from its 32 bytes. -/
def parkAt (d : Die) (i : Nat) : Park :=
  let f := fun o n => dieNat d (parkAddr d i + o) n
  { pa := f 0 8, core := f 8 1, die := f 9 1, ctx := f 10 1, op := f 11 1, next := f 12 4, value := BitVec.ofNat 64 (f 16 8),
    beat := BitVec.ofNat 64 (f 24 8) }

/-- The 32 bytes of a park record. -/
def parkBytes (p : Park) : List Byte :=
  leBytes 8 p.pa ++ leBytes 1 p.core ++ leBytes 1 p.die ++ leBytes 1 p.ctx ++ leBytes 1 p.op ++ leBytes 4 p.next ++ leBytes 8 p.value.toNat ++
    leBytes 8 p.beat.toNat

/-- The indices of a list of records from one on, by their NEXT. -/
def parkFrom (d : Die) : Nat → Nat → List Nat
  | 0, _ => []
  | fuel + 1, i => if d.parked.contains i then i :: parkFrom d fuel (parkAt d i).next else []

/-- The records of a bucket in list order, by index. -/
def bucketList (d : Die) (b : Nat) : List Nat := parkFrom d d.parked.length (dieNat d (parkHead d b) 4)

/-- Records linked one after the other, the last with no NEXT. -/
def linkParks (d : Die) : List Nat → Die
  | [] => d
  | i :: l => linkParks { d with mem := memWrite d.mem (parkAddr d i + 12) (leBytes 4 (l.head?.getD parkNone)) } l

/-- A bucket's list is written: HEAD, TAIL and every NEXT. -/
def putBucket (d : Die) (b : Nat) (l : List Nat) : Die :=
  let d := { d with mem := memWrite d.mem (parkHead d b) (leBytes 4 (l.head?.getD parkNone) ++ leBytes 4 (l.getLast?.getD parkNone)) }
  linkParks d l

/-- The lowest free record of the pool. -/
def freePark (d : Die) : Option Nat := (List.range greenPool).find? fun i => !d.parked.contains i

/-- A record is appended at the tail of its word's bucket (08 R213); a full pool takes none. -/
def addPark (d : Die) (p : Park) : Die :=
  match freePark d with
  | none => d
  | some i =>
    let b := bucketOf p.pa
    let l := bucketList d b
    let d := { d with mem := memWrite d.mem (parkAddr d i) (parkBytes p), parked := d.parked ++ [i] }
    putBucket d b (l ++ [i])

/-- The records of a bucket that satisfy a test leave it (08 R214, R215). -/
def dropFrom (d : Die) (b : Nat) (hit : Park → Bool) : Die :=
  let l := bucketList d b
  let out := l.filter fun i => hit (parkAt d i)
  if out.isEmpty then d
  else { putBucket d b (l.filter fun i => !out.contains i) with parked := d.parked.filter fun i => !out.contains i }

/-- The records that satisfy a test leave the green room, whatever their bucket. -/
def dropParksWhere (d : Die) (hit : Park → Bool) : Die :=
  ((d.parked.filter fun i => hit (parkAt d i)).map fun i => bucketOf (parkAt d i).pa).foldl (fun d b => dropFrom d b hit) d

/-- DIE and CORE and CTX of the records that satisfy a test are rewritten (08 R215). -/
def movePark (d : Die) (hit : Park → Bool) (core die ctx : Nat) : Die :=
  (d.parked.filter fun i => hit (parkAt d i)).foldl (fun d i =>
    { d with mem := memWrite d.mem (parkAddr d i + 8) (leBytes 1 core ++ leBytes 1 die ++ leBytes 1 ctx) }) d

/-- Every bucket empty, as Amigen leaves them at boot (08 R212). -/
def clearGreen (d : Die) : Die := { d with mem := memWrite d.mem d.grBase (List.replicate 0x8000 0xFF), parked := [] }

/-! ### Dies and routes (01 R12, R13, R30) -/

/-- The module's id: MOD_ID while it is valid, else 0 (01 R13, R37). -/
def moduleNo (s : State) : Nat := if bitOf s.mod.modId 7 then fld s.mod.modId 5 0 else 0

/-- The global id of a local die (01 R12). -/
def globalDie (s : State) (d : Nat) : Nat := 4 * moduleNo s + d

/-- The local number of a global die of this module. -/
def localDie (s : State) (g : Nat) : Option Nat := if g / 4 = moduleNo s then some (g % 4) else none

/-- The domain routes to a global die. -/
def routed (s : State) (g : Nat) : Bool := decide (g / 4 = moduleNo s) || (s.mod.reach.contains (g / 4) && g < 252)

/-! ### Page walks (10 R253 to R258) -/

/-- Why an access could not be made. -/
inductive AccFail where
  /-- TRANSL with its subcause and walk level -/
  | transl (sub level : Nat)
  /-- PROT -/
  | prot
  /-- the access waits at the owner: for a page that migrates (10 R262), or, with the flag, for a table pointer that does (10 R255) -/
  | wait (table : Bool)
  deriving DecidableEq, Repr

/-- A leaf found by a walk: its entry, where it stands and log2 of its page. -/
structure Leaf where
  /-- the entry -/
  pte   : Word
  /-- physical address of the entry -/
  ptePa : Nat
  /-- log2 of the page size -/
  log   : Nat
  deriving DecidableEq, Repr

/-- PTE.RES -/
def pteRes (p : Word) : Nat := fld p 8 7
/-- PTE.CA -/
def pteCa (p : Word) : Nat := fld p 11 9
/-- PTE.RD -/
def pteRd (p : Word) : Bool := bitOf p 2
/-- PTE.WR -/
def pteWr (p : Word) : Bool := bitOf p 3
/-- PTE.X -/
def pteX (p : Word) : Bool := bitOf p 4
/-- PTE.CE -/
def pteCe (p : Word) : Bool := bitOf p 55
/-- PTE.IF -/
def pteIf (p : Word) : Bool := bitOf p 54
/-- the physical address PTE.FRAME names -/
def pteFrame (p : Word) : Nat := fld p 47 13 * 8192
/-- PTE.FDIE -/
def pteFdie (p : Word) : Nat := fld p 63 56

/-- The table pointer the TLB caches for an address at a level (10 R257). -/
def ptrFind (l : List TlbPtr) (asid lvl va : Nat) : Option TlbPtr :=
  l.find? fun e => e.asid == asid && e.lvl == lvl && e.vpn == bitsOf va 55 (46 - 10 * lvl)

/-- The entry of a table for an address at a level. -/
def tableSlot (t va lvl : Nat) : Nat := t + 8 * bitsOf va (55 - 10 * lvl) (46 - 10 * lvl)

/-- A walk from level `lvl` (10 R255): `t` the table's physical address on die `d`. The first failing test decides. A pointer that the TLB
caches stands for its entry. A nonzero bit [12] of a PTE, or reserved bit of an address-space entry, is ignored (DESIGN CHOICE, log 64: 10 R253 to
R255 state no consequence). -/
def walkFrom (s : State) (d asid va : Nat) : Nat → Nat → Nat → Except AccFail Leaf
  | 0, _, _ => .error (.transl 4 3)
  | fuel + 1, lvl, t =>
    match ptrFind (dieOf s d).tlbPtrs asid lvl va with
    | some e => walkFrom s d asid va fuel (lvl + 1) e.tbl
    | none =>
      let pa := tableSlot t va lvl
      let p : Word := BitVec.ofNat 64 (leNat (physRead s d pa 8))
      if !bitOf p 0 then .error (.transl 1 lvl)
      else if pteRes p = 3 then .error (.transl 4 lvl)
      else if bitOf p 1 then
        let log := 16 + 10 * (3 - lvl)
        if lvl = 0 ∨ pteFrame p % 2 ^ log ≠ 0 ∨ pteCa p > 3 ∨ (localDie s (pteFdie p)).isNone then .error (.transl 4 lvl)
        else if lvl ≠ 3 ∧ pteRes p ≠ 0 then .error (.transl 4 lvl)
        else .ok ⟨p, pa, log⟩
      else if lvl = 3 then .error (.transl 4 lvl)
      else if pteFdie p ≠ globalDie s d then .error (.transl 5 lvl)
      else if pteRes p = 1 then .error (.transl 6 lvl)
      else if pteRes p = 2 then .error (.wait true)
      else walkFrom s d asid va fuel (lvl + 1) (pteFrame p)

/-- The table pointers that a walk passes and the TLB does not cache yet. -/
def walkPtrs (s : State) (d asid va : Nat) : Nat → Nat → Nat → List TlbPtr
  | 0, _, _ => []
  | fuel + 1, lvl, t =>
    match ptrFind (dieOf s d).tlbPtrs asid lvl va with
    | some e => walkPtrs s d asid va fuel (lvl + 1) e.tbl
    | none =>
      let p : Word := BitVec.ofNat 64 (leNat (physRead s d (tableSlot t va lvl) 8))
      if !bitOf p 0 || bitOf p 1 then [] else ⟨asid, lvl, bitsOf va 55 (46 - 10 * lvl), pteFrame p⟩ :: walkPtrs s d asid va fuel (lvl + 1) (pteFrame p)

/-- Physical address of the entry of an address space (10 R253). -/
def asrAddr (d : Die) (asid : Nat) : Nat := d.asrBase + 8 * (asid % 65536)

/-- The entry of an address space on a die (10 R253). -/
def asrEntry (s : State) (d asid : Nat) : Word := BitVec.ofNat 64 (leNat (physRead s d (asrAddr (dieOf s d) asid) 8))

/-- The level-0 table of an address space. -/
def rootOf (s : State) (d asid : Nat) : Nat := fld (asrEntry s d asid) 47 13 * 8192

/-- The walk of an address space on its owner die. -/
def walk (s : State) (d asid va : Nat) : Except AccFail Leaf :=
  if !bitOf (asrEntry s d asid) 0 then .error (.transl 0xA 0) else walkFrom s d asid va 4 0 (rootOf s d asid)

/-- Translations a TLB holds (10 R257). -/
def tlbSize : Nat := 16384

/-- The TLB's entry for an address. -/
def tlbFind (l : List TlbEntry) (asid va : Nat) : Option TlbEntry :=
  l.find? fun e => e.asid == asid && e.vpn == va / 2 ^ e.log

/-- A PTE rewritten in its place. -/
def writePte (s : State) (d pa : Nat) (p : Word) : State := physWrite s d pa (leBytes 8 p.toNat)

/-- The translation of an address on its owner die `d` (10 R255, R257, R258): the TLB's entry, or a walk that sets A
and fills the TLB when the page is resident. The pointers passed are cached, as many as translations (DESIGN CHOICE, log 10). -/
def translate (s : State) (d asid va : Nat) : State × Except AccFail Leaf :=
  match tlbFind (dieOf s d).tlb asid va with
  | some e => (s, .ok ⟨e.pte, e.ptePa, e.log⟩)
  | none =>
    match walk s d asid va with
    | .error f => (s, .error f)
    | .ok l =>
      let ps := walkPtrs s d asid va 4 0 (rootOf s d asid)
      let s := if ps.isEmpty then s else modDie s d fun k =>
        { k with tlbPtrs := (k.tlbPtrs.drop (k.tlbPtrs.length + ps.length - tlbSize)) ++ ps }
      if pteRes l.pte ≠ 0 then (s, .ok l)
      else
        let p := l.pte ||| 0x20
        let s := if bitOf l.pte 5 then s else writePte s d l.ptePa p
        let e : TlbEntry := ⟨asid, va / 2 ^ l.log, l.log, p, l.ptePa⟩
        let s := modDie s d fun k => { k with tlb := (k.tlb.drop (k.tlb.length + 1 - tlbSize)) ++ [e] }
        (s, .ok ⟨p, l.ptePa, l.log⟩)

/-- D is set before a write (10 R258). -/
def markDirty (s : State) (d asid va : Nat) (l : Leaf) : State :=
  if bitOf l.pte 6 then s
  else
    let p := l.pte ||| 0x40
    let s := writePte s d l.ptePa p
    modDie s d fun k => { k with tlb := k.tlb.map fun e => if e.asid == asid && e.vpn == va / 2 ^ e.log then { e with pte := p } else e }

/-! ### Curtains (09 R241, R242) -/

/-- The curtain of a virtual address on its owner die. -/
def curtainOf (s : State) (d asid va : Nat) : Option Curtain :=
  (dieOf s d).curtains.find? fun c => c.asid == asid && decide (c.base ≤ va / 2 ^ 16) && decide (va / 2 ^ 16 < c.base + c.len)

/-- The curtain whose back range holds a virtual address. -/
def curtainBackOf (s : State) (d asid va : Nat) : Option Curtain :=
  (dieOf s d).curtains.find? fun c => c.asid == asid && decide (c.back ≤ va / 2 ^ 16) && decide (va / 2 ^ 16 < c.back + c.len)

/-- The address whose page's frame serves an access: the frames of a curtain's two ranges may be exchanged.
`toBack`: an engine's or collective's write, which lands in the back (09 R241). -/
def frameVa (s : State) (d asid va : Nat) (toBack : Bool) : Nat :=
  match curtainOf s d asid va with
  | some c => if c.swapped != toBack then va - c.base * 2 ^ 16 + c.back * 2 ^ 16 else va
  | none =>
    match curtainBackOf s d asid va with
    | some c => if c.swapped then va - c.back * 2 ^ 16 + c.base * 2 ^ 16 else va
    | none => va

/-- Where an address of a die is: the leaf that is its own, and the frame that serves it, which a curtain may have exchanged. -/
structure Place where
  /-- its own leaf: permissions and attributes stay with it -/
  leaf : Leaf
  /-- die of the frame -/
  home : Nat
  /-- physical address in the frame -/
  pa   : Nat
  /-- RES: 0 resident, 1 not, 2 migrating, of its own entry or of the one whose frame serves it -/
  res  : Nat
  deriving DecidableEq, Repr

/-- The place of an address on its owner die. Two ranges of a curtain exchange their frame numbers and nothing else (09 R242). -/
def placeOf (s : State) (d asid va : Nat) (toBack : Bool) : State × Except AccFail Place :=
  let (s, r) := translate s d asid va
  match r with
  | .error f => (s, .error f)
  | .ok l =>
    let fva := frameVa s d asid va toBack
    if fva = va then (s, .ok ⟨l, (localDie s (pteFdie l.pte)).getD d, pteFrame l.pte + va % 2 ^ l.log, pteRes l.pte⟩)
    else
      let (s, r) := translate s d asid fva
      match r with
      | .error f => (s, .error f)
      | .ok m => (s, .ok ⟨l, (localDie s (pteFdie m.pte)).getD d, pteFrame m.pte + fva % 2 ^ m.log, max (pteRes l.pte) (pteRes m.pte)⟩)

/-- The page whose fetch lets an address be accessed: its own, or the one whose frame serves it. -/
def outVa (s : State) (d asid va : Nat) : Nat :=
  match walk s d asid va with
  | .ok l => if pteRes l.pte = 0 then frameVa s d asid va false else va
  | .error _ => va

/-! ### Address resolution (10 R250) -/

/-- What an address names. -/
inductive Loc where
  /-- bytes of a home: die, physical address, leaf attributes: cache attribute, check-enable, ingress-fill;
  `nonres` when the page is not resident -/
  | home (die pa ca : Nat) (ce ingress nonres : Bool)
  /-- the accumulator store of a core: page and byte offset (08 R199) -/
  | accum (core page off : Nat)
  /-- system space: TARGET, ATTR, target address (02 R49) -/
  | system (target attr : Nat) (addr : Word)
  /-- a die of another module of the domain -/
  | remote (gdie : Nat)
  deriving DecidableEq, Repr

/-- What an access needs (10 R256). -/
structure Need where
  /-- RD -/
  rd : Bool
  /-- WR -/
  wr : Bool
  /-- an engine's or collective's write: it lands in a curtain's back -/
  toBack : Bool := false
  /-- a core store, F/E operation or ACCAD: a curtain region refuses it (09 R241) -/
  noCurtain : Bool := false
  deriving DecidableEq, Repr

/-- The index in the die of the firmware core (03 R57): core 0 of cluster 0, or the core Amigen moved to (03 R58). -/
def isFirmwareCore (s : State) (c : Nat) : Bool := tabGet 0 s.mod.fwCore (dieOfCore c) == idxOfCore c

/-- The bytes of scratchpad a core owns now (08 R196). -/
def spadBytes (k : Core) : Nat := k.spadUnits * 65536

/-- Scratchpad offset `o` of core `c`'s slot is scratchpad, and not in a range that moves (08 R196, R198). -/
def spadOk (s : State) (c o : Nat) : Bool :=
  let k := coreOf s c
  decide (o < spadBytes k) && !isFirmwareCore s c &&
    (match k.drain with
     | some (_, u) => decide (o < min u k.spadUnits * 65536)
     | none => true)

/-- The cluster-local window 0xFD as cluster `cl` (4 times die plus cluster) sees it (08 R196, R199). -/
def windowLoc (s : State) (cl off : Nat) : Except AccFail Loc :=
  if off < 0x800000 then
    let j := off / 0x80000
    if spadOk s (16 * cl + j) (off % 0x80000) then .ok (.home (cl / 4) (spadBase (cl % 4) + off) 8 false false false)
    else .error .prot
  else if 0x10000000 ≤ off ∧ off < 0x12000000 then
    let o := off - 0x10000000
    let c := 16 * cl + o / 0x200000
    if isFirmwareCore s c then .error .prot else .ok (.accum c (o % 0x200000 / 4096) (o % 4096))
  else .error .prot

/-- The attribute a window acts with: ATTR = 2 is honoured for the host alone, with port A a CXL Type-2 device (02 R49). -/
def windowAttr (s : State) (lo : Word) : Nat :=
  if fld lo 7 6 = 2 ∧ !(s.mod.cxlA && fld lo 11 8 == 0) then 0 else fld lo 7 6

/-- A system-space address on die `d` (02 R49): the first failing test decides. -/
def systemLoc (s : State) (d va size : Nat) (nd : Need) : Except AccFail Loc :=
  let i := bitsOf va 55 50
  let off := bitsOf va 49 0
  let lo := tabGet 0 (dieOf s d).swtLo i
  let hi := tabGet 0 (dieOf s d).swtHi i
  let target := fld lo 11 8
  let attr := fld lo 7 6
  if !bitOf lo 0 ∨ target > 5 ∨ attr = 3 then .error (.transl 7 0)
  else if bitsOf (off + size - 1) 49 12 > fld hi 49 12 then .error (.transl 8 0)
  else if (nd.rd && !bitOf lo 4) || (nd.wr && !bitOf lo 5) then .error .prot
  else if 2 ≤ target ∧ !bitOf s.mod.portb (8 + target - 2) then .error (.transl 7 0)
  else if target = 1 ∧ fld s.mod.portb 1 0 ≠ 1 then .error (.transl 7 0)
  else .ok (.system target (windowAttr s lo) (BitVec.ofNat 64 (fld lo 63 12 * 4096 + off)))

/-- F/E forms and ACCAD on system space, and vector accesses on an ATTR = 0 window, raise PROT (02 R50), which has the lowest code of what
such an access can meet (10 R271). -/
def systemBars (s : State) (d va : Nat) (vec : Bool) : Bool :=
  let lo := tabGet 0 (dieOf s d).swtLo (bitsOf va 55 50)
  decide (va / 2 ^ 56 = 0xFF) && (!vec || (bitOf lo 0 && windowAttr s lo == 0))

/-- In Sealed mode a tenant's address space is reached only while its key is there (04 R88). -/
def keyMissing (s : State) (d asid : Nat) : Bool :=
  let tenant := fld (asrEntry s d asid) 5 1
  s.mod.sec.mode == 2 && tenant != 0 && !(s.mod.sec.keys.any fun e => e.1 == tenant)

/-- What a frame's contents stand encrypted under when an address space's accesses write them: its tenant's key pair plus 1, in Sealed mode;
else 0 (04 R88). -/
def pageKeyOf (s : State) (d asid : Nat) : Nat :=
  let tenant := fld (asrEntry s d asid) 5 1
  if s.mod.sec.mode != 2 || tenant == 0 then 0
  else match s.mod.sec.keys.find? fun e => e.1 == tenant with
    | some e => e.2.key.toNat + 1
    | none => 0

/-- A frame is read under another key (04 R88): each granule's ciphertext, of which nothing is lost, decrypted under the new key. The stored checks are
those of the plaintext that was written, so they stay; F and W stay. -/
def recrypt (s : State) (die f k k' : Nat) : State :=
  let old := memRead (dieOf s die).mem (65536 * f) 65536
  let gran := fun (bs : List Byte) (i : Nat) => (bs.drop (64 * i)).take 64
  let new := (List.range 1024).flatMap fun i => rekeyed k k' (65536 * f + 64 * i) (gran old i)
  modDie s die fun d =>
    { d with
      mem := memWrite d.mem (65536 * f) new
      badck := (List.range 1024).foldl (fun t i =>
        tabSet 0 t (1024 * f + i) (tabGet 0 t (1024 * f + i) ^^^ BitVec.ofNat 16 (cchk (gran old i) ^^^ cchk (gran new i)))) d.badck
      pageKeys := tabSet 0 d.pageKeys f k' }

/-- An address space reaches a frame: in Sealed mode its contents are read and written under the key of its tenant (04 R88). -/
def underKey (s : State) (d asid die pa : Nat) : State :=
  let k := pageKeyOf s d asid
  let old := tabGet 0 (dieOf s die).pageKeys (pa / 65536)
  if s.mod.sec.mode != 2 || old == k then s else recrypt s die (pa / 65536) old k

/-- A virtual address as a party of cluster `cl` on its die resolves it (10 R250, R255, R256). -/
def resolve (s : State) (cl asid va size : Nat) (nd : Need) : State × Except AccFail Loc :=
  let ob := va / 2 ^ 56
  if ob = 0xFC ∨ ob = 0xFE then (s, .error (.transl 2 0))
  else if ob = 0xFD then (s, windowLoc s cl (va % 2 ^ 56))
  else if ob = 0xFF then (s, systemLoc s (cl / 4) va size nd)
  else if !routed s ob then (s, .error (.transl 3 0))
  else match localDie s ob with
    | none => (s, .ok (.remote ob))
    | some d =>
      if nd.noCurtain && (curtainOf s d asid va).isSome then (s, .error .prot)
      else
        let (s, r) := placeOf s d asid va nd.toBack
        match r with
        | .error f => (s, .error f)
        | .ok p =>
          let l := p.leaf
          let at_ := fun (out : Bool) => Loc.home p.home p.pa (pteCa l.pte) (pteCe l.pte) (pteIf l.pte) out
          if p.res = 2 then (s, .error (.wait false))
          else if p.res = 1 then (s, .ok (at_ true))
          else if (nd.rd && !pteRd l.pte) || (nd.wr && !pteWr l.pte) || keyMissing s d asid then (s, .error .prot)
          else (underKey (if nd.wr then markDirty s d asid va l else s) d asid p.home p.pa, .ok (at_ false))

/-! ### The die cache (08 R201): tags, classes and ranks -/

/-- The class of an accessing virtual address: of the first range of the cue sheet that contains it. -/
def cueClass (d : Die) (va : Nat) : Option Nat :=
  (d.cueRanges.find? fun r => decide (r.1 ≤ va / 2 ^ 16) && decide (va / 2 ^ 16 < r.1 + r.2.1)).map (·.2.2)

/-- The rank of a line under the active phase. Under a phase at or past NP of the loaded sheet every class has rank 0 (DESIGN CHOICE, log 64: 08 R203
does not say what such a phase ranks). -/
def lineRank (d : Die) (l : CacheLine) : Nat :=
  if l.retain then 255
  else match l.cls with
    | some c => ((d.cueRanks.getD d.cuePhase []).getD c 0)
    | none => 0

/-- Sets of the die cache: 128 MiB in 16 ways of 64-byte lines. The index is the line modulo the sets (log 9). -/
def dieCacheSets : Nat := 131072

/-- The lines with one removed. -/
def dcDrop (l : List CacheLine) (line : Nat) : List CacheLine := l.filter fun e => e.line != line

/-- The first of n ways that no listed way takes. -/
def freeWay (n : Nat) (used : List Nat) : Option Nat := (List.range n).find? fun w => !used.contains w

/-- Ways of the die cache. -/
def dieCacheWays : Nat := 16

/-- The victim of a full set: the first way at or after its pointer among those of lowest rank (08 R201). -/
def dcVictim (d : Die) (set : Nat) (same : List CacheLine) : Option CacheLine :=
  let lowest := (same.map (lineRank d)).foldl min 255
  (List.range dieCacheWays).findSome? fun i =>
    same.find? fun e => e.way == (tabGet 0 d.dcPtr set + i) % dieCacheWays && lineRank d e == lowest

/-- The die cache after an access that allocates: a hit stays; a miss takes a free way, or the victim's, and the pointer of the set moves past
the victim. `line` is the line's key in the cache. -/
def dcFill (d : Die) (line va : Nat) (retain : Bool) : Die :=
  if d.cache.any fun e => e.line == line then
    if retain then { d with cache := d.cache.map fun e => if e.line == line then { e with retain := true } else e } else d
  else
    let set := line % dieCacheSets
    let same := d.cache.filter fun e => e.line % dieCacheSets == set
    match freeWay dieCacheWays (same.map (·.way)) with
    | some w => { d with cache := d.cache ++ [⟨line, cueClass d va, retain, w⟩] }
    | none =>
      match dcVictim d set same with
      | some v => { d with cache := dcDrop d.cache v.line ++ [⟨line, cueClass d va, retain, v.way⟩],
                           dcPtr := tabSet 0 d.dcPtr set ((v.way + 1) % dieCacheWays) }
      | none => d

/-- The key of a line of host memory in the die cache. -/
def hostLine (a : Nat) : Nat := 2 ^ 40 + a / 64

/-! ### First-level caches (08 R194, R195) -/

/-- The core whose list holds the lines of core `c`: its own, or the first of a fused cluster. -/
def l1Core (s : State) (c : Nat) : Nat :=
  if (dieOf s (dieOfCore c)).fused.getLsbD (clusterOfCore c % 4) then 16 * clusterOfCore c else c

/-- A line by address space and line number. -/
def l1Find (l : List Line) (asid line : Nat) : Option Line := l.find? fun e => e.asid == asid && e.line == line

/-- The lines without one. -/
def l1Drop (l : List Line) (asid line : Nat) : List Line := l.filter fun e => !(e.asid == asid && e.line == line)

/-- The lines with one replaced in place, or added as the youngest. -/
def l1Put (l : List Line) (n : Line) : List Line :=
  if (l1Find l n.asid n.line).isSome then l.map fun e => if e.asid == n.asid && e.line == n.line then n else e else l ++ [n]

/-- The words of a line of which a byte is dirty: their offsets and bytes. -/
def dirtyWords (data : BitVec 512) (dirty : BitVec 64) : List (Nat × List Byte) :=
  (List.range 8).filterMap fun w =>
    if bitsOf dirty.toNat (8 * w + 7) (8 * w) = 0 then none
    else some (8 * w, (List.range 8).map fun i => BitVec.ofNat 8 (data.toNat / 2 ^ (8 * (8 * w + i))))

/-- The bytes of a word that a dirty mask selects, merged over the word at the home. -/
def mergeBytes (old new : List Byte) (m : Nat) : List Byte :=
  (List.range old.length).map fun i => if m.testBit i then new.getD i 0 else old.getD i 0

/-- The dirty bytes of a line land at a physical address: a line written whole with the check it carries, else word by word. -/
def landLine (s : State) (home pa : Nat) (l : Line) : State :=
  if l.dirty = BitVec.allOnes 64 then physCarry s home pa (leBytes 64 l.data.toNat) l.bad
  else (dirtyWords l.data l.dirty).foldl (fun t r =>
    physWrite t home (pa + r.1) (mergeBytes (physRead t home (pa + r.1) 8) r.2 (bitsOf l.dirty.toNat (r.1 + 7) r.1))) s

/-- A dirty line is written to its home, D set first (09 R239, 10 R258, R266): a page that is no longer resident or mapped loses it; a page
that migrates holds it until the migration publishes (10 R262). Lines of other modules' pages are never held in a first-level cache. -/
def writeBack (s : State) (l : Line) : State :=
  if l.dirty = 0 then s
  else
    let va := 64 * l.line
    match localDie s (va / 2 ^ 56) with
    | none => s
    | some d =>
      let (s, r) := placeOf s d l.asid va false
      match r with
      | .ok p =>
        if p.res = 2 then modDie s d fun k => { k with heldBacks := k.heldBacks ++ [l] }
        else if p.res ≠ 0 then s
        else landLine (markDirty s d l.asid va p.leaf) p.home p.pa l
      | .error (.wait _) => modDie s d fun k => { k with heldBacks := k.heldBacks ++ [l] }
      | .error _ => s

/-- The write-backs held at a die are tried again, oldest first. -/
def retryBacks (s : State) (d : Nat) : State :=
  (dieOf s d).heldBacks.foldl writeBack (modDie s d fun k => { k with heldBacks := [] })

/-- Sets of a first-level cache: what scratchpad leaves of 512 KiB, in 4 ways (08 R194); 16 times as many when fused. -/
def l1Sets (s : State) (c : Nat) : Nat :=
  let own := 512 * 1024 - spadBytes (coreOf s c)
  let all := if l1Core s c = c ∧ !(dieOf s (dieOfCore c)).fused.getLsbD (clusterOfCore c % 4) then own
    else ((List.range 16).map fun j => 512 * 1024 - spadBytes (coreOf s (16 * clusterOfCore c + j))).foldl (· + ·) 0
  all / 256

/-- Ways of a first-level cache (08 R194). -/
def l1Ways : Nat := 4

/-- A line enters a first-level cache: in a free way, or in the way its set's pointer names, whose line is written back and leaves; the pointer
moves on (round robin, 08 R194; log 7). -/
def l1Insert (s : State) (c : Nat) (n : Line) : State :=
  let o := l1Core s c
  let sets := l1Sets s c
  if sets = 0 then writeBack s n
  else
    let k := coreOf s o
    if (l1Find k.l1 n.asid n.line).isSome then modCore s o fun k => { k with l1 := l1Put k.l1 n }
    else
      let set := n.line % sets
      let same := k.l1.filter fun e => e.line % sets == set
      match freeWay l1Ways (same.map (·.way)) with
      | some w => modCore s o fun k => { k with l1 := k.l1 ++ [{ n with way := w }] }
      | none =>
        let w := tabGet 0 k.l1Ptr set
        let (gone, kept) := k.l1.partition fun e => e.line % sets == set && e.way == w
        let s := modCore s o fun k => { k with l1 := kept ++ [{ n with way := w }], l1Ptr := tabSet 0 k.l1Ptr set ((w + 1) % l1Ways) }
        gone.foldl writeBack s

/-- A line of a core's first-level cache is written back and dropped. -/
def l1FlushLine (s : State) (c asid line : Nat) : State :=
  let o := l1Core s c
  match l1Find (coreOf s o).l1 asid line with
  | none => s
  | some l => writeBack (modCore s o fun k => { k with l1 := l1Drop k.l1 asid line }) l

/-- Every dirty line that satisfies a test is written back and stays clean (09 R238, R239). -/
def l1Clean (s : State) (c : Nat) (p : Line → Bool) : State :=
  let o := l1Core s c
  let ds := (coreOf s o).l1.filter fun l => l.dirty != 0 && p l
  let s := modCore s o fun k => { k with l1 := k.l1.map fun l => if l.dirty != 0 && p l then { l with dirty := 0 } else l }
  ds.foldl writeBack s

/-- Every line that satisfies a test leaves (09 R240): a dirty one is written back first, early publication being allowed (09 R248), so that
none of its other bytes stays stale. -/
def l1Evict (s : State) (c : Nat) (p : Line → Bool) : State :=
  let o := l1Core s c
  let (gone, kept) := (coreOf s o).l1.partition p
  gone.foldl writeBack (modCore s o fun k => { k with l1 := kept })

/-! ### Bindings and first-level lines (09 R233, R239, R240) -/

/-- The object a virtual address is bound to. -/
def boundTo (s : State) (asid va : Nat) : Option BindObj :=
  match localDie s (va / 2 ^ 56) with
  | none => none
  | some d =>
    ((dieOf s d).binds.find? fun b => b.asid == asid && decide (b.base ≤ va / 256) && decide (va / 256 < b.base + b.len)).map (·.obj)

/-- A first-level line holds bytes bound to an object. -/
def lineBound (s : State) (o : BindObj) (l : Line) : Bool := boundTo s l.asid (64 * l.line) == some o

/-- A release's publication: the core's dirty lines bound to the object go to their homes. -/
def publishBound (s : State) (c : Nat) (o : BindObj) : State := l1Clean s c (lineBound s o)

/-- An acquire's drop: the core's lines bound to the object go, unless the scope is core. -/
def dropBound (s : State) (c : Nat) (o : BindObj) (scope : Nat) : State :=
  if scope = 0 then s else l1Evict s c (lineBound s o)

/-- Every dirty line of a core goes to its home, and stays clean. -/
def publishAll (s : State) (c : Nat) : State := l1Clean s c fun _ => true

/-- Every line of a core goes: what it holds clean is dropped. -/
def dropAllClean (s : State) (c : Nat) : State := l1Evict s c fun _ => true

/-- The lines of a core that hold bytes of a range of an address space go. -/
def dropRange (s : State) (c asid va n : Nat) : State :=
  l1Evict s c fun l => l.asid == asid && decide (va < 64 * l.line + 64) && decide (64 * l.line < va + n)

/-! ### Accesses through the caches -/

/-- The line a cached access works on: the cache's own, or one filled from its home. -/
def l1Fetch (s : State) (c asid line die pa : Nat) : Line :=
  match l1Find (coreOf s (l1Core s c)).l1 asid line with
  | some l => l
  | none => { asid := asid, line := line, data := BitVec.ofNat 512 (leNat (physRead s die pa 64)), dirty := 0,
              bad := carriedCheck (dieOf s die) (pa / 64) }

/-- A core's read of bytes in one line would find a check that fails: that of the line its first-level cache holds, else that at the home
(08 R224). -/
def readBad (s : State) (c asid va die pa n ca : Nat) : Bool :=
  match if ca = 0 then l1Find (coreOf s (l1Core s c)).l1 asid (va / 64) else none with
  | some l => l.bad != 0
  | none => badCheck s die pa n

/-! ### Accesses of a core -/

/-- How a page's attribute and an access's hint use the caches (08 R204, R205). -/
structure CacheUse where
  /-- the cache attribute: 0 WB, 1 WBDC, 2 UC, 3 DEV, 8 scratchpad -/
  ca   : Nat
  /-- the hint: 0 normal, 1 stream, 2 retain, 3 last-use -/
  hint : Nat
  deriving DecidableEq, Repr

/-- A read of bytes within one 64-byte line at its home, through the caches: the bytes and the state with its lines. -/
def cachedRead (s : State) (c asid va die pa n : Nat) (u : CacheUse) : State × List Byte :=
  if u.ca = 0 then
    let line := va / 64
    let hit := (l1Find (coreOf s (l1Core s c)).l1 asid line).isSome
    let l := l1Fetch s c asid line die (pa / 64 * 64)
    let bs := leBytes n (l.data.toNat / 2 ^ (8 * (va % 64)))
    let s := if u.hint = 1 then s
      else if u.hint = 3 then
        modDie (l1FlushLine s c asid line) die fun d => { d with cache := dcDrop d.cache (pa / 64) }
      else
        let s := if hit then s else l1Insert s c l
        modDie s die fun d => dcFill d (pa / 64) va (u.hint == 2)
    (s, bs)
  else
    let bs := physRead s die pa n
    let s := if u.ca = 1 then
        (if u.hint = 1 then s
         else if u.hint = 3 then modDie s die fun d => { d with cache := dcDrop d.cache (pa / 64) }
         else modDie s die fun d => dcFill d (pa / 64) va (u.hint == 2))
      else s
    (s, bs)

/-- A write of bytes within one 64-byte line at its home, through the caches: a WB page keeps it in the first-level cache,
unless the hint is stream and the line is not there. -/
def cachedWrite (s : State) (c asid va die pa : Nat) (bs : List Byte) (u : CacheUse) : State :=
  if u.ca = 0 then
    let line := va / 64
    let hit := (l1Find (coreOf s (l1Core s c)).l1 asid line).isSome
    if u.hint = 1 && !hit then physWrite s die pa bs
    else
      let l := l1Fetch s c asid line die (pa / 64 * 64)
      let o := va % 64
      let sel := (2 ^ (8 * bs.length) - 1) * 2 ^ (8 * o)
      let l := { l with data := mergeBits l.data (BitVec.ofNat 512 (leNat bs * 2 ^ (8 * o))) (BitVec.ofNat 512 sel),
                        dirty := l.dirty ||| BitVec.ofNat 64 ((2 ^ bs.length - 1) * 2 ^ o),
                        bad := if bs.length = 64 then 0 else if l.bad = 0 then 0 else checkFlip }
      let s := l1Insert s c l
      if u.hint = 3 then modDie (l1FlushLine s c asid line) die fun d => { d with cache := dcDrop d.cache (pa / 64) }
      else if u.hint = 1 then s
      else modDie s die fun d => dcFill d (pa / 64) va (u.hint == 2)
  else
    let s := physWrite s die pa bs
    if u.ca = 1 && u.hint = 3 then modDie s die fun d => { d with cache := dcDrop d.cache (pa / 64) }
    else if u.ca = 1 && u.hint != 1 then modDie s die fun d => dcFill d (pa / 64) va (u.hint == 2) else s

/-- The die's memory side as a party without a first-level cache reads it: engines, host, firmware. -/
def homeBytes (s : State) : Loc → Nat → List Byte
  | .home die pa _ _ _ _, n => physRead s die pa n
  | .accum c p o, n => leBytes n ((accPage (coreOf s c) p).toNat / 2 ^ (8 * o))
  | _, n => List.replicate n 0

/-- Bytes of an accumulator page written (08 R199). -/
def accumWrite (s : State) (c p o : Nat) (bs : List Byte) : State :=
  modCore s c fun k =>
    let sel := (2 ^ (8 * bs.length) - 1) * 2 ^ (8 * o)
    let k := setAccPage k p (mergeBits (accPage k p) (BitVec.ofNat 32768 (leNat bs * 2 ^ (8 * o))) (BitVec.ofNat 32768 sel))
    { k with atag := tabSet 0 k.atag p (setFld (tabGet 0 k.atag p) 4 4 1) }

/-! ### What leaves the module -/

/-- Bytes with zeros behind them up to a length. -/
def padTo (n : Nat) (bs : List Byte) : List Byte := bs ++ List.replicate (n - bs.length) 0



/-- A number from bits, lowest first. -/
def ofBits (l : List Bool) : Nat := l.foldr (fun b n => b.toNat + 2 * n) 0

/-- The payload of a data flit (01 R22): up to three granules from an address on, with their checks and F bits. `checks` holds each check's
difference from the right one. Data that do not start or end on a granule of memory count granule 0 from their first byte, and zeros fill the
last granule (DESIGN CHOICE, log 19). -/
def dataPayload (va tag : Nat) (bs : List Byte) (checks : List Nat) (full : List Bool) : List Byte :=
  let g := fun i => padTo 64 ((bs.drop (64 * i)).take 64)
  let n := (bs.length + 63) / 64
  padTo 192 bs ++ leBytes 8 (va % 2 ^ 64) ++ (List.range 3).flatMap (fun i => leBytes 2 (if i < n then cchk (g i) ^^^ checks.getD i 0 else 0)) ++
    leBytes 3 (ofBits (full.take 24)) ++ leBytes 1 (2 ^ n - 1) ++ leBytes 4 tag ++ List.replicate 26 0

/-- The data flits of a run of bytes: three granules each. TAG is the one the entry's header names (DESIGN CHOICE, log 19). -/
def dataFlits (src dst vc va tag : Nat) (checks : List Nat) (full : List Bool) : Nat → List Byte → List Flit
  | 0, _ => []
  | fuel + 1, bs =>
    if bs.isEmpty then []
    else ⟨src, dst, vc, 1, dataPayload va tag (bs.take 192) checks full⟩ ::
      dataFlits src dst vc (va + 192) tag (checks.drop 3) (full.drop 24) fuel (bs.drop 192)

/-- The fields of a request's payload: code, two small operands, address space, TAG, address or counter id, two values, data. -/
def reqPayload (code m n asid tag va : Nat) (v w : Word) (data : List Byte) : List Byte :=
  padTo 240 (leBytes 1 code ++ leBytes 1 m ++ leBytes 2 asid ++ leBytes 4 tag ++ leBytes 8 va ++ leBytes 8 v.toNat ++ leBytes 8 w.toNat ++
    leBytes 1 n ++ List.replicate 7 0 ++ data.take 200)

/-- The kind of a write in its request. -/
def WriteKind.code : WriteKind → Nat
  | .core => 0
  | .host => 1
  | .engine => 2
  | .full => 3
  | .empty => 4
  | .keep => 5
  | .flag scope => 8 + scope

/-- A core, in some numbering, and a context as a request's payload holds them. -/
def parkWord (p : Option (Nat × Nat)) : Word :=
  match p with
  | some (c, x) => BitVec.ofNat 64 (c + 2 ^ 16 * x)
  | none => 0

/-- The payload of a request (DESIGN CHOICE, log 19). -/
def remotePayload (r : RemoteReq) : List Byte :=
  let p := fun code m n v w data => reqPayload code m n r.asid r.tag r.va v w data
  match r.op with
  | .read n => p 1 n 0 0 0 []
  | .write bs kind => p 2 bs.length kind.code 0 0 bs
  | .line disc => p 11 disc.toNat 0 0 0 []
  | .fe op v scope ord park => p (0x20 + op) scope (ord + 8 * (park.isSome).toNat) v (parkWord park) []
  | .probe rd wr => p 12 rd.toNat wr.toNat 0 0 []
  | .bring => p 16 0 0 0 0 []
  | .code n => p 17 n 0 0 0 []
  | .wake c x => p 13 0 0 0 (parkWord (some (c, x))) []
  | .repark c x goal => p 14 0 (goal.isSome).toNat (parkWord goal) (parkWord (some (c, x))) []
  | .pgErr c x => p 15 0 0 0 (parkWord (some (c, x))) []
  | .ctrAdd inc scope rel => p 3 scope rel.toNat inc 0 []
  | .ctrGet t scope => p 4 scope 0 t 0 []
  | .ctrSet v => p 5 0 0 v 0 []
  | .page c k x => p 6 0 0 (BitVec.ofNat 64 c) (parkWord (some (k, x))) []
  | .tlbi v => p 7 0 0 v 0 []
  | .bind l o f => p 8 f 0 l o []
  | .unbind l => p 9 0 0 l 0 []
  | .publ sc => p 10 sc 0 0 0 []
  | .logStatus => p 18 0 0 0 0 []
  | .logRecord t i => p 19 i 0 (BitVec.ofNat 64 t) 0 []

/-- Code of a response's payload without data. -/
def replyCode : Nat := 0x40

/-- Code of the header of a work entry. -/
def entryCode : Nat := 0x20

/-- Code of the header of a READ's data. -/
def readDataCode : Nat := 0x22

/-- Code of the answer to a work entry. -/
def endCode : Nat := 0x21

/-- The payload of a response without data. One whose page has CE = 0 says so, and a data flit with the same TAG follows (DESIGN CHOICE, log 19). -/
def replyPayload (r : RemoteReply) : List Byte :=
  reqPayload replyCode r.cause r.sub r.level r.tag
    (r.p6.toNat + 2 * r.p7.toNat + 4 * r.miss.toNat + 8 * (r.park % 4) + 32 * r.plain.toNat) r.value 0 []

/-- The flits a message to another module leaves in (01 R17 to R22): requests on VC 1, responses on VC 2, bulk on VC 3 behind the entry's header,
records on VC 0. The payloads of requests, of responses without data, of headers and of short flits are the model's own: the spec lays out data
flits alone (DESIGN CHOICE, log 19). `tag` is the TAG of an entry's data. -/
def flitsOf (tag : Nat) : OutMsg → List Flit
  | .remote src g r => [⟨src, g, 1, 2, remotePayload r⟩]
  | .reply src g r none => [⟨src, g, 2, 2, replyPayload r⟩]
  | .reply src g r (some (va, x)) =>
    (if r.plain then [⟨src, g, 2, 2, replyPayload r⟩] else []) ++ [⟨src, g, 2, 1, dataPayload va r.tag x.data [x.check] x.full⟩]
  | .record src g grp gen kind rank bs => [⟨src, g, 0, 3, padTo 48 (padTo 32 (bs.take 32) ++ leBytes 2 (grp + 4096 * gen) ++ leBytes 1 kind ++ leBytes 2 rank)⟩]
  | .entry src g qp serial asid raw bs checks full =>
    ⟨src, g, 3, 2, reqPayload entryCode qp 0 asid tag serial 0 0 raw⟩ :: dataFlits src g 3 (leNat ((raw.drop 16).take 8)) tag checks full (bs.length / 192 + 1) bs
  | .entryData src g t qp serial raw bs checks full sat =>
    ⟨src, g, 3, 2, reqPayload readDataCode qp sat.toNat 0 t serial 0 0 raw⟩ :: dataFlits src g 3 (leNat ((raw.drop 8).take 8)) t checks full (bs.length / 192 + 1) bs
  | .entryEnd src g t qp serial code wsat spilled =>
    [⟨src, g, 2, 2, reqPayload endCode qp code 0 t serial (BitVec.ofNat 64 (wsat.toNat + 2 * spilled.toNat)) 0 []⟩]
  | _ => []

/-- The module sends a message outside. -/
def sendOut (s : State) (o : OutMsg) : State :=
  { s with mod := { s.mod with out := s.mod.out ++ [o], txq := s.mod.txq ++ flitsOf s.mod.nextTag o } }

/-- The next TAG is taken. -/
def bumpTag (s : State) : State := { s with mod := { s.mod with nextTag := s.mod.nextTag % (2 ^ 32 - 1) + 1 } }

/-- A die asks something of a die of another module; the response will carry the TAG `s.mod.nextTag`. -/
def askRemote (s : State) (src gdie asid va : Nat) (op : RemoteOp) : State :=
  bumpTag (sendOut s (.remote src gdie { op := op, asid := asid, va := va, tag := s.mod.nextTag }))

/-! ### Steps that ask other modules' dies (01 R20)

A step that needs something of a die of another module before it can go on is tried: where the response is not there yet nothing of the step is made,
its request is sent, and the step is tried again later. So is one that meets a page that migrates. -/

/-- n free bytes (log 1). -/
def freeBytes (s : State) (n : Nat) : State × List Byte :=
  ({ s with freeCtr := s.freeCtr + (n + 7) / 8 },
   (List.range n).map fun i => BitVec.ofNat 8 ((Config.freeValue (s.freeCtr + i / 8)).toNat / 2 ^ (8 * (i % 8))))

/-- The step in hand lacks something: what it lacks first decides. -/
def lacks (s : State) (w : Want) : State := { s with mod := { s.mod with want := if s.mod.want = .nothing then w else s.mod.want } }

/-- The state `old`, in which the step in hand lacks what it lacks in `s`. -/
def lackingIn (old s : State) : State := { old with mod := { old.mod with want := s.mod.want, taken := s.mod.taken } }

/-- What a die of another module answers to a request of the step in hand; none: the response is not there. A request that no step waits for is sent,
and counts as answered with open data (log 1). -/
def ask (s : State) (src gdie asid va : Nat) (op : RemoteOp) : State × Option (RemoteReply × Option Granule) :=
  let req : RemoteReq := { op := op, asid := asid, va := va }
  if s.mod.asker = .none then
    let (s, bs) := freeBytes (askRemote s src gdie asid va op) 64
    (s, some ({ tag := 0 }, some { data := bs }))
  else match (s.mod.exchanges.filter fun x => x.asker == s.mod.asker)[s.mod.taken]? with
  | some x =>
    if x.gdie = gdie ∧ { x.req with tag := 0 } = req then
      match x.reply with
      | some a => ({ s with mod := { s.mod with taken := s.mod.taken + 1 } }, some a)
      | none => (lacks s .response, none)
    else (lacks s (.request src gdie req), none)
  | none => (lacks s (.request src gdie req), none)

/-- A step is begun for an asker. -/
def beginAsking (s : State) (k : Asker) : State := { s with mod := { s.mod with asker := k, taken := 0, want := .nothing } }

/-- The exchanges of an asker are over. -/
def dropExchanges (s : State) (k : Asker) : State := { s with mod := { s.mod with exchanges := s.mod.exchanges.filter fun x => x.asker != k } }

/-- The exchanges of a context's held bundle are over. -/
def dropBundle (s : State) (core ctx : Nat) : State :=
  if s.mod.exchanges.isEmpty then s
  else { s with mod := { s.mod with exchanges := s.mod.exchanges.filter fun x =>
    match x.asker with
    | .bundle c y _ => !(c == core && y == ctx)
    | _ => true } }

/-- The first n exchanges of an asker, and every other one. -/
def keepExchanges (k : Asker) : Nat → List Exchange → List Exchange
  | _, [] => []
  | n, x :: l => if x.asker != k then x :: keepExchanges k n l else match n with
    | 0 => keepExchanges k 0 l
    | n + 1 => x :: keepExchanges k n l

/-- A request of an asker is sent, after those whose responses the step had taken. -/
def sendRequest (s : State) (k : Asker) (taken src gdie : Nat) (req : RemoteReq) : State :=
  let tag := s.mod.nextTag
  let s := askRemote s src gdie req.asid req.va req.op
  { s with mod := { s.mod with exchanges := keepExchanges k taken s.mod.exchanges ++ [{ asker := k, gdie := gdie, req := { req with tag := tag } }] } }

/-- What a try that lacked nothing leaves: its exchanges are over, and whose step is in hand is as in `s`. -/
def asked (s t : State) (k : Asker) : State :=
  let t := dropExchanges t k
  { t with mod := { t.mod with asker := s.mod.asker, taken := s.mod.taken, want := s.mod.want } }

/-- The end of a try: `t` is what the step made of `s`. Where it lacked nothing it is made, and its exchanges are over; else `s` stands, with the
request sent. The flag says that it waits. -/
def endAsking (s t : State) (k : Asker) : State × Bool :=
  match t.mod.want with
  | .nothing => (asked s t k, false)
  | .response | .page => (s, true)
  | .request src gdie req => (sendRequest s k t.mod.taken src gdie req, true)

/-- A step of an asker is tried. -/
def asking (k : Asker) (s : State) (f : State → State) : State × Bool := endAsking s (f (beginAsking s k)) k

/-- In place of a status: the access waits for a page that migrates, or for another module's die. -/
def waitPage : Nat := 254

/-- An operation with an outcome is tried for an asker; where it waits, its outcome says so and nothing of it is made. As a part of a step that is tried
it asks as that step. -/
def askingFor {α : Type} (k : Asker) (s : State) (f : State → State × Except Nat α) : State × Except Nat α :=
  if s.mod.asker ≠ .none then f s else
  let r := f (beginAsking s k)
  let t := match r.2 with
    | .error e => if waitPage ≤ e then lacks r.1 .page else r.1
    | .ok _ => r.1
  let e := endAsking s t k
  if e.2 then (e.1, .error waitPage) else (e.1, r.2)

/-- The status of a response to an access (06 R159): 2 for a translation that failed and for a page that is not resident, 3 for PROT, 6 for a check
that failed. -/
def replyStatus (r : RemoteReply) : Nat := if r.cause = 0x09 then 3 else if r.cause = 0x0F then 6 else if r.cause = 0 ∧ r.p7 then 0 else 2

/-- n bytes of a granule from an address on. -/
def Granule.bytes (g : Granule) (va n : Nat) : List Byte := (g.data.drop (va % 64)).take n

end Sys2Proof.Machine
end

