-- ==== Sys2Proof/Machine/Num.lean ====
section
/-! DEFINITION. Number formats and arithmetic (11): types, exact values, the rounding function,
stochastic draws, the long accumulator, block floating point, conversions and special functions. -/

namespace Sys2Proof

/-! ### Values -/

/-- The value is NaN. -/
def Val.isNan : Val → Bool
  | .nan => true
  | _ => false

/-- The value is a zero. -/
def Val.isZero : Val → Bool
  | .fin _ m _ => m == 0
  | _ => false

/-- The value is infinite. -/
def Val.isInf : Val → Bool
  | .inf _ => true
  | _ => false

/-- The sign of a value, true for negative. -/
def Val.sign : Val → Bool
  | .nan => false
  | .inf n => n
  | .fin n _ _ => n

/-- The value with its sign inverted. -/
def Val.neg : Val → Val
  | .nan => .nan
  | .inf n => .inf (!n)
  | .fin n m e => .fin (!n) m e

/-- The value without its sign. -/
def Val.abs : Val → Val
  | .nan => .nan
  | .inf _ => .inf false
  | .fin _ m e => .fin false m e

/-- An integer's value. -/
def Val.ofInt (i : Int) : Val := .fin (decide (i < 0)) i.natAbs 0

/-- +0. -/
def Val.zero : Val := .fin false 0 0

end Sys2Proof

namespace Sys2Proof.Machine

/-! ### Type codes (11 R281) -/

/-- A floating type: codes 0 to 5. -/
def isFloatTy (t : Nat) : Bool := t ≤ 5

/-- Block floating point: code 6. -/
def isBfpTy (t : Nat) : Bool := t == 6

/-- A signed integer type: codes 7 to 10. -/
def isSIntTy (t : Nat) : Bool := 7 ≤ t && t ≤ 10

/-- An unsigned integer type: codes 11 to 13. -/
def isUIntTy (t : Nat) : Bool := 11 ≤ t && t ≤ 13

/-- An integer type. -/
def isIntTy (t : Nat) : Bool := 7 ≤ t && t ≤ 13

/-- The width in bits of an element; block floating point has none of its own. -/
def tyWidth : Nat → Nat
  | 0 => 32 | 1 => 64 | 2 => 16 | 3 => 16 | 4 => 8 | 5 => 8
  | 7 => 8 | 8 => 16 | 9 => 32 | 10 => 64 | 11 => 8 | 12 => 16 | 13 => 32
  | _ => 8

/-- The fraction bits of a floating type (11 R282). -/
def tyFrac : Nat → Nat
  | 0 => 23 | 1 => 52 | 2 => 7 | 3 => 10 | 4 => 3 | _ => 2

/-- The exponent bits of a floating type. -/
def tyExpBits : Nat → Nat
  | 0 => 8 | 1 => 11 | 2 => 8 | 3 => 5 | 4 => 4 | _ => 5

/-- The bias of a floating type. -/
def tyBias (t : Nat) : Nat := 2 ^ (tyExpBits t - 1) - 1

/-- The exponent of the smallest normal value of a floating type. -/
def tyEmin (t : Nat) : Int := 1 - (tyBias t : Int)

/-- The exponent of the last place of the smallest normal value. -/
def tyQmin (t : Nat) : Int := tyEmin t - tyFrac t

/-- The encoding of the largest finite magnitude of a floating type (11 R282). -/
def tyMaxBits (t : Nat) : Nat :=
  if t = 4 then 0x7E else (2 ^ tyExpBits t - 1) * 2 ^ tyFrac t - 1

/-- The encoding of +infinity; E4M3 has none and its NaN stands here. -/
def tyInfBits (t : Nat) : Nat := if t = 4 then 0x7F else (2 ^ tyExpBits t - 1) * 2 ^ tyFrac t

/-- The encoding of the canonical NaN (11 R282). -/
def tyNanBits (t : Nat) : Nat := if t = 4 then 0x7F else tyInfBits t + 2 ^ (tyFrac t - 1)

/-- The sign bit of a floating type. -/
def tySignBit (t : Nat) : Nat := 2 ^ (tyWidth t - 1)

/-! ### Encodings and values -/

/-- The value a floating encoding stands for (11 R283). -/
def decodeFp (t b : Nat) : Val :=
  let k := tyFrac t
  let neg := decide (b / tySignBit t % 2 = 1)
  let x := b / 2 ^ k % 2 ^ tyExpBits t
  let f := b % 2 ^ k
  if x = 0 then .fin neg f (tyQmin t)
  else if x = 2 ^ tyExpBits t - 1 && t != 4 then (if f = 0 then .inf neg else .nan)
  else if t = 4 && x = 15 && f = 7 then .nan
  else .fin neg (2 ^ k + f) (tyQmin t + (x - 1 : Nat))

/-- The value an encoding of any type but BFP stands for. -/
def decodeVal (t b : Nat) : Val :=
  if isFloatTy t then decodeFp t b
  else if isSIntTy t then Val.ofInt (toSigned (tyWidth t) b)
  else .fin false (b % 2 ^ tyWidth t) 0

/-- Numbers on a common exponent: the integer multiples of 2^e that two finite values are. -/
def scaleTo (neg : Bool) (m : Nat) (e e0 : Int) : Int :=
  let v : Int := (m * 2 ^ (e - e0).toNat : Nat)
  if neg then -v else v

/-- -1, 0 or 1 as the first value is less than, equal to or greater than the second; neither is NaN. -/
def cmpVal : Val → Val → Int
  | .inf a, .inf b => if a == b then 0 else if a then -1 else 1
  | .inf a, _ => if a then -1 else 1
  | _, .inf b => if b then 1 else -1
  | .fin n m e, .fin n' m' e' =>
    let e0 := min e e'
    let d := scaleTo n m e e0 - scaleTo n' m' e' e0
    if d < 0 then -1 else if d = 0 then 0 else 1
  | _, _ => 0

/-! ### Flags (11 R288) -/

/-- STAT.NV -/
def flagNV : Nat := 0x1
/-- STAT.DZ -/
def flagDZ : Nat := 0x2
/-- STAT.OF -/
def flagOF : Nat := 0x4
/-- STAT.UF -/
def flagUF : Nat := 0x8
/-- STAT.NX -/
def flagNX : Nat := 0x10
/-- STAT.LAO -/
def flagLAO : Nat := 0x100
/-- STAT.AMXN -/
def flagAMXN : Nat := 0x200
/-- STAT.WSAT -/
def flagWSAT : Nat := 0x800
/-- STAT.SCOPEX -/
def flagSCOPEX : Nat := 0x1000
/-- STAT.QDROP -/
def flagQDROP : Nat := 0x2000
/-- STAT.NRES -/
def flagNRES : Nat := 0x4000
/-- STAT.PGERR -/
def flagPGERR : Nat := 0x8000

/-- A result with the flags it raises. -/
structure Res1 (α : Type) where
  /-- the result -/
  val   : α
  /-- STAT bits raised -/
  flags : Nat
  deriving DecidableEq, Repr

/-! ### Rounding (11 R285 to R292) -/

/-- What a rounding needs beside its value: the mode, the generator's state and FMT.SAT. -/
structure RndEnv where
  /-- 0 RNE, 1 RTZ, 2 RDN, 3 RUP, 4 RNA, 5 SR -/
  mode : Nat
  /-- SRS (11 R292) -/
  srs  : Nat
  /-- FMT.SAT -/
  sat  : Bool
  deriving DecidableEq, Repr

/-- Round to nearest even, without saturation. -/
def rne : RndEnv := ⟨0, 1, false⟩

/-- DRAW16 of a flat index (11 R291). -/
def draw16 (srs i : Nat) : Nat :=
  let z := (srs ^^^ i) % 2 ^ 32
  let y := ((z ^^^ (z >>> 16)) * 0x045D9F3B) % 2 ^ 32
  (y ^^^ (y >>> 16)) % 2 ^ 16

/-- SRS advanced once (11 R292). -/
def srsNext (srs : Nat) : Nat := (srs >>> 1) ^^^ (if srs % 2 = 1 then 0x80200003 else 0)

/-- The upper neighbour is chosen: `n` the lower multiple of the last place, `rem / 2^d` the part above it, not zero. -/
def roundsUp (r : RndEnv) (neg : Bool) (n rem d i : Nat) : Bool :=
  match r.mode with
  | 0 => 2 ^ d < 2 * rem || (2 * rem == 2 ^ d && n % 2 == 1)
  | 1 => false
  | 2 => neg
  | 3 => !neg
  | 4 => decide (2 ^ d ≤ 2 * rem)
  | _ => decide (draw16 r.srs i < rem * 2 ^ 16 / 2 ^ d)

/-- The mode rounds toward zero for a sign (11 R287). -/
def towardZero (r : RndEnv) (neg : Bool) : Bool := r.mode == 1 || (r.mode == 2 && !neg) || (r.mode == 3 && neg)

/-- INFINITE (11 R287). -/
def infiniteBits (t : Nat) (sat neg : Bool) : Res1 Nat :=
  let sg := if neg then tySignBit t else 0
  if t = 4 then
    if sat then ⟨sg + tyMaxBits 4, flagNX⟩ else ⟨tyNanBits 4, flagNX + flagNV⟩
  else ⟨sg + tyInfBits t, 0⟩

/-- OVERFLOW (11 R287). -/
def overflowBits (t : Nat) (r : RndEnv) (neg : Bool) : Res1 Nat :=
  let sg := if neg then tySignBit t else 0
  if towardZero r neg then ⟨sg + tyMaxBits t, flagOF + flagNX⟩
  else if t = 4 then
    if r.sat then ⟨sg + tyMaxBits 4, flagOF + flagNX⟩ else ⟨tyNanBits 4, flagOF + flagNX + flagNV⟩
  else if t = 5 && r.sat then ⟨sg + tyMaxBits 5, flagOF + flagNX⟩
  else ⟨sg + tyInfBits t, flagOF + flagNX⟩

/-- ROUND to a floating type (11 R286, R287, R289): the encoding of the result and the flags. -/
def roundFp (t : Nat) (r : RndEnv) (i : Nat) : Val → Res1 Nat
  | .nan => ⟨tyNanBits t, 0⟩
  | .inf neg => infiniteBits t r.sat neg
  | .fin neg m e =>
    let sg := if neg then tySignBit t else 0
    if m = 0 then ⟨sg, 0⟩ else
    let top : Int := e + (Nat.log2 m : Nat)
    let q : Int := (if top < tyEmin t then tyEmin t else top) - tyFrac t
    let d := (q - e).toNat
    let n := if q ≤ e then m * 2 ^ (e - q).toNat else m / 2 ^ d
    let rem := if q ≤ e then 0 else m % 2 ^ d
    let n' := if rem = 0 then n else if roundsUp r neg n rem d i then n + 1 else n
    let bits := (q - tyQmin t).toNat * 2 ^ tyFrac t + n'
    if tyMaxBits t < bits then overflowBits t r neg
    else
      let fl := if rem = 0 then 0 else if top < tyEmin t then flagNX + flagUF else flagNX
      ⟨sg + bits, fl⟩

/-- ROUND to an integer, without limit (11 R286 with q = 1): the integer and whether it is exact. -/
def roundToInt (r : RndEnv) (i : Nat) (neg : Bool) (m : Nat) (e : Int) : Int × Bool :=
  let d := (-e).toNat
  let n := if 0 ≤ e then m * 2 ^ e.toNat else m / 2 ^ d
  let rem := if 0 ≤ e then 0 else m % 2 ^ d
  let n' := if rem = 0 then n else if roundsUp r neg n rem d i then n + 1 else n
  (if neg then -(n' : Int) else n', rem == 0)

/-- The least value of an integer type. -/
def tyLo (t : Nat) : Int := if isSIntTy t then -((2 ^ (tyWidth t - 1) : Nat) : Int) else 0

/-- The greatest value of an integer type. -/
def tyHi (t : Nat) : Int := if isSIntTy t then ((2 ^ (tyWidth t - 1) : Nat) : Int) - 1 else ((2 ^ tyWidth t : Nat) : Int) - 1

/-- Conversion of a value to an integer type (11 R297): the encoding and the flags. The rounding to a whole number raises NX
(R289); the limiting after it raises NV, and NX no second time (log 39). -/
def roundIntTy (t : Nat) (r : RndEnv) (i : Nat) : Val → Res1 Nat
  | .nan => ⟨0, flagNV⟩
  | .inf neg => ⟨ofSigned (tyWidth t) (if neg then tyLo t else tyHi t), flagNV⟩
  | .fin neg m e =>
    let (v, exact) := roundToInt r i neg m e
    let nx := if exact then 0 else flagNX
    if v < tyLo t then ⟨ofSigned (tyWidth t) (tyLo t), flagNV ||| nx⟩
    else if tyHi t < v then ⟨ofSigned (tyWidth t) (tyHi t), flagNV ||| nx⟩
    else ⟨ofSigned (tyWidth t) v, nx⟩

/-- Conversion of a value to any type but BFP. -/
def roundTy (t : Nat) (r : RndEnv) (i : Nat) (v : Val) : Res1 Nat :=
  if isFloatTy t then roundFp t r i v else roundIntTy t r i v

/-! ### Exact arithmetic (11 R293) -/

/-- The sum of two values; the flag set is NV for opposite infinities. A zero sum is -0 when both are -0 or the mode is RDN. -/
def addVal (rdn : Bool) : Val → Val → Val × Nat
  | .nan, _ => (.nan, 0)
  | _, .nan => (.nan, 0)
  | .inf a, .inf b => if a == b then (.inf a, 0) else (.nan, flagNV)
  | .inf a, _ => (.inf a, 0)
  | _, .inf b => (.inf b, 0)
  | .fin n m e, .fin n' m' e' =>
    let e0 := min e e'
    let v := scaleTo n m e e0 + scaleTo n' m' e' e0
    if v = 0 then (.fin ((n && n' && m == 0 && m' == 0) || rdn) 0 0, 0)
    else (.fin (decide (v < 0)) v.natAbs e0, 0)

/-- The product of two values; NV for zero times infinity. -/
def mulVal : Val → Val → Val × Nat
  | .nan, _ => (.nan, 0)
  | _, .nan => (.nan, 0)
  | .inf a, b => if b.isZero then (.nan, flagNV) else (.inf (a != b.sign), 0)
  | a, .inf b => if a.isZero then (.nan, flagNV) else (.inf (a.sign != b), 0)
  | .fin n m e, .fin n' m' e' => (.fin (n != n') (m * m') (e + e'), 0)

/-- a times b plus c, exactly; a NaN addend decides before zero times infinity (11 R293). -/
def fmaVal (rdn : Bool) (a b c : Val) : Val × Nat :=
  if a.isNan || b.isNan || c.isNan then (.nan, 0)
  else
    let (p, f) := mulVal a b
    if f != 0 then (.nan, f) else addVal rdn p c

/-- The smaller of two values: a NaN gives NaN, -0 is smaller than +0 (11 R293). -/
def minVal (a b : Val) : Val :=
  if a.isNan || b.isNan then .nan
  else if a.isZero && b.isZero then (if a.sign then a else b)
  else if cmpVal a b ≤ 0 then a else b

/-- The larger of two values, as `minVal`. -/
def maxVal (a b : Val) : Val :=
  if a.isNan || b.isNan then .nan
  else if a.isZero && b.isZero then (if a.sign then b else a)
  else if 0 ≤ cmpVal a b then a else b

/-- The floating conditions of FCMP and VCMP (14 R385). -/
def fcond (c : Nat) (a b : Val) : Bool :=
  let un := a.isNan || b.isNan
  match c with
  | 0 => !un && cmpVal a b == 0
  | 1 => un || cmpVal a b != 0
  | 2 => !un && decide (cmpVal a b < 0)
  | 3 => !un && decide (cmpVal a b ≤ 0)
  | 4 => un
  | _ => !un

/-- FMA32: one rounding to FP32 to nearest even (11 R290). -/
def fma32 (a b c : Val) : Res1 Nat :=
  let (v, f) := fmaVal false a b c
  let x := roundFp 0 rne 0 v
  ⟨x.val, x.flags ||| f⟩

/-! ### Containment and AMX (11 R296, R298) -/

/-- Type `t` contains floating or BFP type `u`; BFP sources are exact in FP32 and FP64. -/
def tyContains (t u : Nat) : Bool :=
  t == u || t == 1 || (t == 0 && u != 1) || ((t == 2 || t == 3) && (u == 4 || u == 5))

/-- Floating type `t` contains integer type `u` (11 R296): every value of `u` is a value of `t`. -/
def tyHoldsInt (t u : Nat) : Bool := isFloatTy t && decide (tyWidth u - (if isSIntTy u then 1 else 0) ≤ tyFrac t + 1)

/-- A conversion from `u` to `t` is narrowing (11 R296). BFP to BFP depends on the two m. -/
def narrowing (u t : Nat) (sameM : Bool) : Bool :=
  if isIntTy u then false
  else if isIntTy t then true
  else if isBfpTy t then true || sameM
  else !tyContains t u

/-- The 63-bit magnitude AMX takes of a value (11 R298): its FP64 encoding without the sign. NaN gives none. -/
def amxOf (v : Val) : Option Nat :=
  match v with
  | .nan => none
  | .inf _ => some 0x7FF0000000000000
  | v => some ((roundFp 1 ⟨1, 1, false⟩ 0 v.abs).val)

/-! ### The long accumulator (11 R299, R300) -/

/-- A long accumulator: N of 336 bits, window exponent and flags PINF 1, NINF 2, NAN 4. -/
structure LA where
  /-- N, unsigned image of the 336-bit two's complement integer -/
  n  : Nat
  /-- W -/
  w  : Int
  /-- FL -/
  fl : Nat
  deriving DecidableEq, Repr

/-- An empty accumulator of a window. -/
def LA.empty (w : Int) : LA := ⟨0, w, 0⟩

/-- The quotient of an integer multiple of 2^e by 2^w, rounded toward minus infinity. -/
def floorShift (v : Int) (e w : Int) : Int :=
  if w ≤ e then v * (2 ^ (e - w).toNat : Nat) else v / (2 ^ (w - e).toNat : Nat)

/-- LA_ADD (11 R300). -/
def laAdd (a : LA) : Val → LA
  | .nan => { a with fl := a.fl ||| 4 }
  | .inf neg => { a with fl := a.fl ||| (if neg then 2 else 1) }
  | .fin neg m e =>
    let t := floorShift (if neg then -(m : Int) else m) e a.w
    { a with n := (((a.n : Int) + t) % (2 ^ 336 : Nat)).toNat }

/-- LA_CVT (11 R300): the encoding in a floating type and the flags. -/
def laCvt (a : LA) (t : Nat) (r : RndEnv) (i : Nat) : Res1 Nat :=
  let nan := bitsOf a.fl 2 2 == 1
  let pinf := bitsOf a.fl 0 0 == 1
  let ninf := bitsOf a.fl 1 1 == 1
  if nan || (pinf && ninf) then ⟨tyNanBits t, if nan then 0 else flagNV⟩
  else if pinf then infiniteBits t r.sat false
  else if ninf then infiniteBits t r.sat true
  else
    let v := toSigned 336 a.n
    if v < -(2 ^ 319 : Nat) || (2 ^ 319 : Nat) ≤ v then ⟨tyNanBits t, flagLAO⟩
    else if v = 0 then ⟨0, 0⟩
    else roundFp t r i (.fin (decide (v < 0)) v.natAbs a.w)

/-- An accumulator from the 48 bytes of its slot (11 R299). -/
def laOfSlot (b : Nat) : LA := ⟨b % 2 ^ 336, toSigned 16 (b / 2 ^ 336), b / 2 ^ 352 % 8⟩

/-- The 48 bytes of an accumulator's slot: bits the format does not use are zero. -/
def slotOfLa (a : LA) : Nat := a.n % 2 ^ 336 + ofSigned 16 a.w * 2 ^ 336 + a.fl % 8 * 2 ^ 352

/-- The unbiased exponent R301 takes of a term: denormals and zero count as -1022. -/
def termExp : Val → Int
  | .fin _ m e => if m = 0 then -1022 else max (-1022) (e + (Nat.log2 m : Nat))
  | _ => -1022

/-- The window of a sum of terms of a type (11 R301). -/
def sumWindow (t : Nat) (terms : List Val) : Int :=
  if t = 1 then (terms.map termExp).foldl max (-1022) - 310 else -160

/-- The exact sum of terms, rounded once (16 R415). -/
def sumVals (dt : Nat) (w : Int) (r : RndEnv) (i : Nat) (terms : List Val) : Res1 Nat :=
  laCvt (terms.foldl laAdd (LA.empty w)) dt r i

/-! ### Block floating point (11 R302 to R304) -/

/-- The value of a BFP element: block exponent, mantissa bits and mantissa field. -/
def decodeBfp (m ex c : Nat) : Val :=
  if ex = 0 then .zero
  else if ex = 255 then .nan
  else
    let v := toSigned m c
    .fin (decide (v < 0)) v.natAbs ((ex : Int) - 127 - m + 2)

/-- The bytes of a storage line. -/
def bfpLineBytes (m : Nat) : Nat := 8 + 32 * m

/-- The lines of a row of n elements. -/
def bfpLines (n : Nat) : Nat := (n + 255) / 256

/-- Element j of a row of storage lines, the row a number of bytes in little-endian order. -/
def bfpElem (m row j : Nat) : Val :=
  let line := row / 2 ^ (8 * bfpLineBytes m * (j / 256))
  let l := j % 256
  decodeBfp m (line / 2 ^ (8 * (l / 32)) % 256) (line / 2 ^ (64 + m * l) % 2 ^ m)

/-- The exponent of a block's largest element, or none for an infinity. -/
def blockTop : List Val → Option (Option Int)
  | [] => none
  | v :: l =>
    match v, blockTop l with
    | .inf _, _ => some none
    | _, some none => some none
    | .fin _ m e, r =>
      if m = 0 then r
      else
        let t := e + (Nat.log2 m : Nat)
        match r with
        | some (some u) => some (some (max t u))
        | _ => some (some t)
    | .nan, r => r

/-- One mantissa of a conversion to BFP (11 R303). -/
def bfpMant (m ex : Nat) (r : RndEnv) (i : Nat) (v : Val) : Res1 Nat :=
  let lim : Int := ((2 ^ (m - 1) : Nat) : Int) - 1
  match v with
  | .nan => ⟨0, 0⟩
  | .inf neg => ⟨ofSigned m (if neg then -lim else lim), flagOF⟩
  | .fin neg a e =>
    let (c, exact) := roundToInt r i neg a (e - ((ex : Int) - 127 - m + 2))
    let c' := if lim < c then lim else if c < -lim then -lim else c
    ⟨ofSigned m c', if exact && c' == c then 0 else flagNX⟩

/-- A block of up to 32 elements converted to BFP: its exponent, its mantissas and the flags; `i0` is the flat index of the first. -/
def toBfpBlock (m : Nat) (r : RndEnv) (i0 : Nat) (xs : List Val) : Nat × List Nat × Nat :=
  if xs.any Val.isNan then (255, xs.map fun _ => 0, 0)
  else match blockTop xs with
    | none => (0, xs.map fun _ => 0, 0)
    | some none =>
      let cs := (List.range xs.length).zip xs |>.map fun p => bfpMant m 254 r (i0 + p.1) p.2
      (254, cs.map (·.val), cs.foldl (fun f c => f ||| c.flags) flagOF)
    | some (some t) =>
      let e := t + 127
      let ex := (clampInt 1 254 e).toNat
      let cs := (List.range xs.length).zip xs |>.map fun p => bfpMant m ex r (i0 + p.1) p.2
      (ex, cs.map (·.val), cs.foldl (fun f c => f ||| c.flags) (if 254 < e then flagOF else 0))

/-- The blocks of a row: lists of up to 32 elements. -/
def blocksOf (fuel : Nat) (xs : List Val) : List (List Val) :=
  match fuel with
  | 0 => []
  | f + 1 => if xs.isEmpty then [] else xs.take 32 :: blocksOf f (xs.drop 32)

/-- A row converted to storage lines: the bytes as a number, and the flags; `i0` is the flat index of the row's first element. -/
def toBfpRow (m : Nat) (r : RndEnv) (i0 : Nat) (xs : List Val) : Nat × Nat :=
  let bs := blocksOf (xs.length / 32 + 1) xs
  let out := (List.range bs.length).zip bs |>.map fun p => (p.1, toBfpBlock m r (i0 + 32 * p.1) p.2)
  out.foldl (fun acc p =>
    let (b, ex, cs, fl) := p
    let base := 8 * bfpLineBytes m * (b / 8)
    let l0 := 32 * (b % 8)
    let cbits := (List.range cs.length).zip cs |>.foldl (fun a q => a + q.2 * 2 ^ (64 + m * (l0 + q.1))) 0
    (acc.1 + (ex * 2 ^ (8 * (b % 8)) + cbits) * 2 ^ base, acc.2 ||| fl)) (0, 0)

/-! ### Special functions (16 R417): exact values as numbers with a sticky last bit

A real result is handed to `roundFp` as a number whose leading bits are its own and whose last bit, far below
the place rounded to, is set when anything was cut off. -/

/-- Bits kept of a result: enough for the precision of FP64, the 16 bits SR compares and a sticky bit. -/
def keepBits : Nat := 96

/-- The integer square root by bits: `b` the next bit to try, `r` the root so far. -/
def isqrtGo (n : Nat) : Nat → Nat → Nat
  | 0, r => r
  | b + 1, r =>
    let r' := r + 2 ^ b
    isqrtGo n b (if r' * r' ≤ n then r' else r)

/-- The integer square root. -/
def isqrt (n : Nat) : Nat := isqrtGo n (Nat.log2 n / 2 + 1) 0

/-- A positive number known as `num / den`, cut to a mantissa with a sticky bit. -/
def ofRatio (neg : Bool) (num den : Nat) (e : Int) : Val :=
  let sh := keepBits + Nat.log2 den - min (Nat.log2 num) (keepBits + Nat.log2 den)
  let n := num * 2 ^ sh
  let q := n / den
  .fin neg (2 * q + (if n % den = 0 then 0 else 1)) (e - sh - 1)

/-- The reciprocal of a nonzero finite value. -/
def rcpVal (neg : Bool) (m : Nat) (e : Int) : Val := ofRatio neg 1 m (-e)

/-- The square root of a positive finite value. -/
def sqrtVal (m : Nat) (e : Int) : Val :=
  let sh := 2 * keepBits + (if e % 2 = 0 then 0 else 1)
  let n := m * 2 ^ sh
  let r := isqrt n
  .fin false (2 * r + (if r * r = n then 0 else 1)) ((e - sh) / 2 - 1)

/-- One over the square root of a positive finite value. -/
def rsqrtVal (m : Nat) (e : Int) : Val :=
  -- 1/sqrt(m 2^e) = sqrt(2^(2s) / m) 2^(-s) 2^(-e/2): the root of a quotient, cut twice, exact only when both are
  let odd := e % 2 ≠ 0
  let m' := if odd then 2 * m else m
  let e' := if odd then e - 1 else e
  let s := 2 * keepBits + Nat.log2 m'
  let n := 2 ^ (2 * s)
  let q := n / m'
  let r := isqrt q
  .fin false (2 * r + (if n % m' = 0 && r * r = q then 0 else 1)) (-(s : Int) - e' / 2 - 1)

/-- Bounds of a real number: `lo * 2^exp` to `hi * 2^exp`. -/
structure Bounds where
  /-- lower bound -/
  lo  : Nat
  /-- upper bound -/
  hi  : Nat
  /-- exponent of both -/
  exp : Int
  deriving DecidableEq, Repr

/-- The number whose bounds agree in `keepBits` leading bits, with a sticky bit: the real is never a number of so few bits here. -/
def ofBounds (neg : Bool) (b : Bounds) : Option Val :=
  let d := Nat.log2 b.lo - min (Nat.log2 b.lo) keepBits
  if b.lo ≠ 0 && keepBits ≤ Nat.log2 b.lo && b.lo / 2 ^ d = b.hi / 2 ^ d then some (.fin neg (2 * (b.lo / 2 ^ d) + 1) (b.exp + d - 1))
  else none

/-- The first agreement of bounds at rising working precision; at the last one the number just above the lower bound. -/
def refine (neg : Bool) (f : Nat → Bounds) : Nat → Nat → Val
  | 0, p => .fin neg (2 * (f p).lo + 1) ((f p).exp - 1)
  | fuel + 1, p =>
    match ofBounds neg (f p) with
    | some v => v
    | none => refine neg f fuel (2 * p)

/-- Working precisions tried: 192 bits doubled up to eight times, to 49152 bits. The real is never a number of `keepBits` bits here, and the bounds of an
operand of at most 64 bits agree long before (log 1). -/
def refineFuel : Nat := 8

/-- The sum of a series by terms: `step k t` is term k + 1 from term k; the terms fall to zero. -/
def series (step : Nat → Int → Int) : Nat → Nat → Int → Int → Int
  | 0, _, _, acc => acc
  | fuel + 1, k, t, acc => if t = 0 then acc else series step fuel (k + 1) (step k t) (acc + t)

/-- ln 2 in units of 2^-p, within p units: the sum of 1 / (k 2^k). -/
def ln2Fix (p : Nat) : Nat :=
  ((List.range (p + 2)).map fun k => if k = 0 then 0 else 2 ^ p / (k * 2 ^ k)).foldl (· + ·) 0

/-- e^y in units of 2^-p for y in units of 2^-p with |y| below 1, within 4p units. -/
def expFix (p : Nat) (y : Int) : Int :=
  series (fun k t => t * y / ((2 ^ p : Nat) : Int) / ((k + 1 : Nat) : Int)) (p + 8) 0 ((2 ^ p : Nat) : Int) 0

/-- atanh z in units of 2^-p for z in units of 2^-p with |z| at most 1/2, within 4p units: the sum of z^(2k+1) / (2k+1). -/
def atanhFix (p : Nat) (z : Int) : Int :=
  let u : Int := ((2 ^ p : Nat) : Int)
  let z2 := z * z / u
  ((List.range (p + 2)).foldl (fun (a : Int × Int) k => (a.1 * z2 / u, a.2 + a.1 / ((2 * k + 1 : Nat) : Int))) (z, 0)).2

/-- arctan (1/n) in units of 2^-p, within 4p units. -/
def atanInvFix (p n : Nat) : Int :=
  let t0 : Int := ((2 ^ p / n : Nat) : Int)
  let n2 : Int := ((n * n : Nat) : Int)
  ((List.range (p + 2)).foldl (fun (a : Int × Int) k =>
    (a.1 / n2, if k % 2 = 0 then a.2 + a.1 / ((2 * k + 1 : Nat) : Int) else a.2 - a.1 / ((2 * k + 1 : Nat) : Int))) (t0, 0)).2

/-- pi in units of 2^-p, within 100p units (Machin's formula). -/
def piFix (p : Nat) : Int := 16 * atanInvFix p 5 - 4 * atanInvFix p 239

/-- A number in units of 2^-p, cut toward minus infinity. -/
def toFix (p : Nat) (neg : Bool) (m : Nat) (e : Int) : Int :=
  floorShift (if neg then -(m : Int) else m) e (-(p : Int))

/-- Bounds around an approximation in units of 2^-p that is within `err` units. -/
def around (a : Int) (err : Nat) (p : Nat) : Bounds := ⟨(a - err).toNat, (a + err).toNat, -(p : Int)⟩

/-- A number just below or just above a value of few bits. -/
def justBelow (neg : Bool) (m : Nat) (e : Int) : Val := .fin neg (m * 2 ^ keepBits - 1) (e - keepBits)
/-- A number just above a value of few bits. -/
def justAbove (neg : Bool) (m : Nat) (e : Int) : Val := .fin neg (m * 2 ^ keepBits + 1) (e - keepBits)

/-- 2^a of a finite nonzero value. Values beyond every format are given as such. -/
def exp2Val (neg : Bool) (m : Nat) (e : Int) : Val :=
  let top := e + (Nat.log2 m : Nat)
  if 12 ≤ top then (if neg then .fin false 1 (-100000) else .fin false 1 100000)
  else if top < -100 then (if neg then justBelow false 1 0 else justAbove false 1 0)
  else
    let n := floorShift (if neg then -(m : Int) else m) e 0
    if 0 ≤ e || (m % 2 ^ (-e).toNat = 0) then .fin false 1 n
    else
      match refine false (fun p =>
        let f := toFix p neg m e - n * ((2 ^ p : Nat) : Int)
        let y := f * ((ln2Fix p : Nat) : Int) / ((2 ^ p : Nat) : Int)
        around (expFix p y) (16 * p) p) refineFuel 192 with
      | .fin s a x => .fin s a (x + n)
      | v => v

/-- log2 of a positive finite value. -/
def log2Val (m : Nat) (e : Int) : Val :=
  let t := Nat.log2 m
  let ex : Int := e + t
  if m = 2 ^ t then Val.ofInt ex
  else
    -- m 2^-t lies in (1, 2): its natural logarithm is 2 atanh ((m - 2^t) / (m + 2^t))
    let lg := fun (p : Nat) =>
      let u : Int := ((2 ^ p : Nat) : Int)
      let z : Int := (((m - 2 ^ t) * 2 ^ p / (m + 2 ^ t) : Nat) : Int)
      ex * u + 2 * atanhFix p z * u / ((ln2Fix p : Nat) : Int)
    refine (decide (ex < 0)) (fun p =>
      let a := lg p
      around (if ex < 0 then -a else a) (64 * p) p) refineFuel 192

/-- tanh of a finite nonzero value. -/
def tanhVal (neg : Bool) (m : Nat) (e : Int) : Val :=
  let top := e + (Nat.log2 m : Nat)
  if top < -100 then justBelow neg m e
  else if 9 ≤ top then justBelow neg 1 0
  else
    refine neg (fun p0 =>
      -- e^(2x) = (e^(x / 2^10))^(2^11); 1 - 2 / (e^(2x) + 1)
      let p := p0 + 2048
      let u : Nat := 2 ^ p
      let y := toFix p false m (e - 10)
      let ez := (expFix p y).toNat
      let up := fun (z : Nat) => (List.range 11).foldl (fun a _ => a * a / u) z
      let lo := up (ez - 8 * p)
      let hi := up (ez + 8 * p) + 4096
      -- the bounds rise with e^(2x)
      ⟨(lo - u) * u / (lo + u), (hi - u) * u / (hi + u) + 1, -(p : Int)⟩) refineFuel 192

/-- sin y and cos y in units of 2^-p for |y| at most 1, within 8p units. -/
def sinFix (p : Nat) (y : Int) : Int :=
  let u : Int := ((2 ^ p : Nat) : Int)
  let y2 := y * y / u
  series (fun k t => -(t * y2 / u / (((2 * k + 2) * (2 * k + 3) : Nat) : Int))) (p + 8) 0 y 0

/-- The cosine, as `sinFix`. -/
def cosFix (p : Nat) (y : Int) : Int :=
  let u : Int := ((2 ^ p : Nat) : Int)
  let y2 := y * y / u
  series (fun k t => -(t * y2 / u / (((2 * k + 1) * (2 * k + 2) : Nat) : Int))) (p + 8) 0 u 0

/-- Bounds of |sin| or |cos| of a positive number at working precision p, with the sign of the result:
the argument is reduced by quarters of the circle. -/
def trigBounds (cos : Bool) (m : Nat) (e : Int) (p : Nat) : Bounds × Bool :=
  let big := (e + (Nat.log2 m : Nat)).toNat
  let g := p + big + 16
  let u : Int := ((2 ^ g : Nat) : Int)
  let x := toFix g false m e
  let halfPi := piFix g / 2
  -- nearest multiple of pi/2
  let k := (2 * x + halfPi) / (2 * halfPi)
  let y := x - k * halfPi
  let kk := if cos then k + 1 else k
  let v := if kk % 2 = 0 then sinFix g y else cosFix g y
  let err := (200 * g + 16) * (k.natAbs + 1)
  let neg := decide (v < 0) != decide (kk % 4 = 2 ∨ kk % 4 = 3)
  let _ := u
  (around (if v < 0 then -v else v) err g, neg)

/-- sin or cos of a finite nonzero value (the sign of the argument is taken out for sin). -/
def trigVal (cos : Bool) (neg : Bool) (m : Nat) (e : Int) : Val :=
  let top := e + (Nat.log2 m : Nat)
  if top < -100 then (if cos then justBelow false 1 0 else justBelow neg m e)
  else
    let sg := (trigBounds cos m e 1400).2
    refine (if cos then sg else sg != neg) (fun p => (trigBounds cos m e p).1) refineFuel 192

/-- The special functions of VSF (16 R417), by function number: the value that rounds as the exact one does, and the flags of the
special cases. -/
def vsfVal (fn : Nat) (a : Val) : Val × Nat :=
  match a with
  | .nan => (.nan, 0)
  | .inf neg =>
    match fn with
    | 0 => (if neg then .zero else .inf false, 0)
    | 1 => if neg then (.nan, flagNV) else (.inf false, 0)
    | 2 => (.fin neg 0 0, 0)
    | 3 => if neg then (.nan, flagNV) else (.zero, 0)
    | 4 => if neg then (.nan, flagNV) else (.inf false, 0)
    | 5 => (.fin neg 1 0, 0)
    | _ => (.nan, flagNV)
  | .fin neg m e =>
    if m = 0 then
      match fn with
      | 0 => (.fin false 1 0, 0)
      | 1 => (.inf true, flagDZ)
      | 2 => (.inf neg, flagDZ)
      | 3 => (.inf neg, flagDZ)
      | 4 => (.fin neg 0 0, 0)
      | 5 => (.fin neg 0 0, 0)
      | 6 => (.fin neg 0 0, 0)
      | _ => (.fin false 1 0, 0)
    else
      match fn with
      | 0 => (exp2Val neg m e, 0)
      | 1 => if neg then (.nan, flagNV) else (log2Val m e, 0)
      | 2 => (rcpVal neg m e, 0)
      | 3 => if neg then (.nan, flagNV) else (rsqrtVal m e, 0)
      | 4 => if neg then (.nan, flagNV) else (sqrtVal m e, 0)
      | 5 => (tanhVal neg m e, 0)
      | 6 => (trigVal false neg m e, 0)
      | _ => (trigVal true neg m e, 0)

/-! ### Noise digits (06 R134) -/

/-- x rotated left by n bits in 32 bits. -/
def rotl32 (x n : Nat) : Nat := (x * 2 ^ n + x / 2 ^ (32 - n)) % 2 ^ 32

/-- The mixing step Q on four 32-bit words. -/
def mixQ (x : Nat × Nat × Nat × Nat) : Nat × Nat × Nat × Nat :=
  let (x0, x1, x2, x3) := x
  let x0 := (x0 + x1) % 2 ^ 32
  let x3 := rotl32 (x3 ^^^ x0) 16
  let x2 := (x2 + x3) % 2 ^ 32
  let x1 := rotl32 (x1 ^^^ x2) 12
  let x0 := (x0 + x1) % 2 ^ 32
  let x3 := rotl32 (x3 ^^^ x0) 8
  let x2 := (x2 + x3) % 2 ^ 32
  let x1 := rotl32 (x1 ^^^ x2) 7
  (x0, x1, x2, x3)

/-- The key state of a seed and a tensor. -/
def noiseKey (seed tensor : Nat) : Nat × Nat × Nat × Nat :=
  mixQ (seed % 2 ^ 32, seed / 2 ^ 32 % 2 ^ 32, tensor % 2 ^ 32, 0x9E3779B9)

/-- The digit of an element from its key state (06 R134). -/
def digitOf (key : Nat × Nat × Nat × Nat) (row col : Nat) : Int :=
  let (x0, x1, x2, x3) := key
  let (x0, x1, x2, x3) := mixQ (mixQ (mixQ (x0 ^^^ (row % 2 ^ 32), x1 ^^^ (col % 2 ^ 32), x2, x3)))
  let o := x0 ^^^ x1 ^^^ x2 ^^^ x3
  ((bitsOf o 7 0 + bitsOf o 15 8 + bitsOf o 23 16 + bitsOf o 31 24 : Nat) : Int) - 510

/-- DIGIT(seed, tensor, row, col). -/
def noiseDigit (seed tensor row col : Nat) : Int := digitOf (noiseKey seed tensor) row col

/-- A digit times 2^-e. -/
def digitVal (d : Int) (e : Nat) : Val := .fin (decide (d < 0)) d.natAbs (-(e : Int))

/-- A weight perturbed at fetch (06 R136): w its FP32 value, `neg` for s = -1. -/
def perturb (w : Val) (d : Int) (e : Nat) (neg : Bool) : Val :=
  if d = 0 then (if w.isNan then .nan else w)
  else
    let t := digitVal (if neg then -d else d) e
    decodeFp 0 (roundFp 0 rne 0 (addVal false w t).1).val

end Sys2Proof.Machine
end

