-- ==== Sys2Proof/Machine/Accum.lean ====
section
/-! DEFINITION. The accumulator store's write port (08 R199, R200), dendritic branches (12 R324 to R326) and
what a matrix command writes at its completion (12 R313 to R316, 17 R452, R454). -/

namespace Sys2Proof.Machine

/-- The page of an LA slot counted from page 0 (12 R315). -/
def slotPage (slot : Nat) : Nat := slot / 85

/-- The first bit of an LA slot in its page. -/
def slotBit (slot : Nat) : Nat := 8 * (48 * (slot % 85))

/-- The 48 bytes of a slot. -/
def slotRaw (k : Core) (slot : Nat) : Nat := (accPage k (slotPage slot)).toNat / 2 ^ slotBit slot % 2 ^ 384

/-- The core with the 48 bytes of a slot written. -/
def setSlotRaw (k : Core) (slot v : Nat) : Core :=
  let p := slotPage slot
  let b := slotBit slot
  setAccPage k p (mergeBits (accPage k p) (BitVec.ofNat 32768 (v % 2 ^ 384 * 2 ^ b)) (BitVec.ofNat 32768 ((2 ^ 384 - 1) * 2 ^ b)))

/-- The accumulator in a slot. -/
def slotLa (k : Core) (slot : Nat) : LA := laOfSlot (slotRaw k slot)

/-- The core with an accumulator stored in a slot. -/
def setSlotLa (k : Core) (slot : Nat) (a : LA) : Core := setSlotRaw k slot (slotOfLa a)

/-- The value at a byte offset of the store, w bytes. -/
def accBytes (k : Core) (off w : Nat) : Nat := (accPage k (off / 4096)).toNat / 2 ^ (8 * (off % 4096)) % 2 ^ (8 * w)

/-- The core with w bytes at an offset of the store written. -/
def setAccBytes (k : Core) (off w v : Nat) : Core :=
  let p := off / 4096
  let b := 8 * (off % 4096)
  setAccPage k p (mergeBits (accPage k p) (BitVec.ofNat 32768 (v % 2 ^ (8 * w) * 2 ^ b)) (BitVec.ofNat 32768 ((2 ^ (8 * w) - 1) * 2 ^ b)))

/-- One write-port operation (08 R199): the core and the flags it raises for a party that takes them. -/
def applyAccOp (k : Core) : AccOp → Core × Nat
  | .put off w v => (setAccBytes k off w v, 0)
  | .addF32 off x =>
    let (v, f) := addVal false (decodeFp 0 (accBytes k off 4)) x
    let r := roundFp 0 rne 0 v
    (setAccBytes k off 4 r.val, f ||| r.flags)
  | .lax slot x => (setSlotLa k slot (laAdd (slotLa k slot) x), 0)
  | .openSlot slot w => (setSlotLa k slot (LA.empty w), 0)
  | .clearSlot slot => (setSlotRaw k slot 0, 0)

/-- Write-port operations in order. -/
def applyAccOps (k : Core) (ops : List AccOp) : Core × Nat :=
  ops.foldl (fun a op => let r := applyAccOp a.1 op; (r.1, a.2 ||| r.2)) (k, 0)

/-- The value of an accumulator, not rounded, with the flags of LA_CVT's special cases (11 R300). -/
def laVal (a : LA) : Val × Nat :=
  let nan := bitsOf a.fl 2 2 == 1
  let pinf := bitsOf a.fl 0 0 == 1
  let ninf := bitsOf a.fl 1 1 == 1
  if nan then (.nan, 0)
  else if pinf && ninf then (.nan, flagNV)
  else if pinf then (.inf false, 0)
  else if ninf then (.inf true, 0)
  else
    let v := toSigned 336 a.n
    if v < -(2 ^ 319 : Nat) || (2 ^ 319 : Nat) ≤ v then (.nan, flagLAO)
    else (.fin (decide (v < 0)) v.natAbs a.w, 0)

/-! ### Branch maps (12 R324) -/

/-- A branch of a map: its first chain k, the k after its last, its curve and whether it taps. -/
structure Branch where
  /-- FIRSTK -/
  first : Nat
  /-- the next entry's FIRSTK, or KTOT -/
  stop  : Nat
  /-- CURVE -/
  curve : Nat
  /-- TAP -/
  tap   : Bool
  deriving DecidableEq, Repr

/-- Entry e of a context's branch map. -/
def bmapEntry (t : Ctx) (e : Nat) : BitVec 32 := tabGet 0 t.bmap e

/-- The entries before the first END, and KTOT. -/
def branchSpan (t : Ctx) : Nat → Nat → Nat × Nat
  | 0, _ => (32, 65536)
  | fuel + 1, e =>
    if bitOf (bmapEntry t e) 20 then (e, if fld (bmapEntry t e) 15 0 = 0 then 65536 else fld (bmapEntry t e) 15 0)
    else branchSpan t fuel (e + 1)

/-- NB and KTOT of a context's branch map. -/
def branchCount (t : Ctx) : Nat × Nat := branchSpan t 32 0

/-- The branches of a context's map. -/
def branches (t : Ctx) : List Branch :=
  let (nb, ktot) := branchCount t
  (List.range nb).map fun b =>
    let e := bmapEntry t b
    ⟨fld e 15 0, if b + 1 < nb then fld (bmapEntry t (b + 1)) 15 0 else ktot, fld e 18 16, bitOf e 19⟩

/-- The map passes the tests of MXCB (12 R324): branch 0 begins at 0, FIRSTK rises strictly through END, NB is not 0. -/
def bmapOk (t : Ctx) : Bool :=
  let bs := branches t
  !bs.isEmpty && (bs.head?.map (·.first)).getD 1 == 0 && bs.all fun b => decide (b.first < b.stop)

/-- The branch that covers chain k. -/
def branchOf (bs : List Branch) (k : Nat) : Option Nat := bs.findIdx? fun b => decide (b.first ≤ k) && decide (k < b.stop)

/-- The first slot of a chain, counted from page 0. -/
def chainBase (j : MxJob) : Nat := 85 * j.page

/-- The slot of an output. -/
def outSlot (j : MxJob) (i jj : Nat) : Nat := chainBase j + i * j.n + jj

/-- The slot of branch b's sum for an output. -/
def branchSlot (j : MxJob) (b i jj : Nat) : Nat := chainBase j + j.m * j.n * (1 + b) + i * j.n + jj

/-- The bit offset of a coverage word in the store: slot and bit (17 R453). -/
def coverageSlot (j : MxJob) (nb b : Nat) : Nat := chainBase j + j.m * j.n * (1 + nb) + b / 12

/-- The coverage count of a branch. -/
def coverage (k : Core) (j : MxJob) (nb b : Nat) : Nat := slotRaw k (coverageSlot j nb b) / 2 ^ (32 * (b % 12)) % 2 ^ 32

/-- The core with a coverage count raised. -/
def addCoverage (k : Core) (j : MxJob) (nb b n : Nat) : Core :=
  let s := coverageSlot j nb b
  let raw := slotRaw k s
  let old := raw / 2 ^ (32 * (b % 12)) % 2 ^ 32
  setSlotRaw k s (raw - old * 2 ^ (32 * (b % 12)) + (old + n) % 2 ^ 32 * 2 ^ (32 * (b % 12)))

/-- IDX of a branch sum in a curve (12 R326). -/
def curveIdx (x x0 : Val) (sc : Int) : Nat :=
  match x, x0 with
  | .inf neg, _ => if neg then 0 else 63
  | _, .inf neg => if neg then 63 else 0
  | x, x0 =>
    match (addVal false x x0.neg).1 with
    | .fin neg m e => (clampInt 0 63 (floorShift (if neg then -(m : Int) else m) (e + sc) 0)).toNat
    | _ => 0

/-- A branch sum through its curve (12 R326): the FP32 encodings of x and slope, y, and the flags. -/
def curveApply (curve : BitVec 4160) (a : LA) : Nat × Nat × Val × Nat :=
  let rx := laCvt a 0 rne 0
  let x := decodeFp 0 rx.val
  let x0 := decodeFp 0 (fld curve 31 0)
  if x.isNan || x0.isNan then (rx.val, tyNanBits 0, .nan, rx.flags)
  else
    let i := curveIdx x x0 (toSigned 8 (fld curve 39 32))
    let ab := fld curve (64 + 64 * i + 31) (64 + 64 * i)
    let bb := fld curve (64 + 64 * i + 63) (64 + 64 * i + 32)
    let y := fma32 (decodeFp 0 bb) x (decodeFp 0 ab)
    (rx.val, bb, decodeFp 0 y.val, rx.flags ||| y.flags)

/-- The address of a tap (12 R326). -/
def tapVa (j : MxJob) (nb b i jj : Nat) : Nat := (j.tap.toNat + ((i * nb + b) * j.n + jj) * 8) % 2 ^ 64

/-- The outputs of a job. -/
def outputsOf (j : MxJob) : List (Nat × Nat) := (List.range j.m).flatMap fun i => (List.range j.n).map fun jj => (i, jj)

/-- Not a status: the access waits for a table pointer that migrates (10 R255). -/
def waitTable : Nat := 255

/-- The status of a failed resolution (06 R159): 3 for PROT, else 2; or that it waits. -/
def failStatus : AccFail → Nat
  | .prot => 3
  | .wait false => waitPage
  | .wait true => waitTable
  | .transl _ _ => 2

/-- The places of the taps of closing branches, or the status of the first that fails (12 R326): one in system space fails protection, whatever its
window. A tap at another module's die is looked up there. No place: it waits for a page that migrates (10 R262), or for that die. -/
def resolveTaps (s : State) (c asid : Nat) : List Nat → State × Except Nat (List (Nat × Option Loc))
  | [] => (s, .ok [])
  | va :: vs =>
    let go := fun (s : State) (o : Option Loc) =>
      let (s, rest) := resolveTaps s c asid vs
      (s, rest.map fun l => (va, o) :: l)
    if va / 2 ^ 56 = 0xFF then (s, .error 3)
    else
      let (s, r) := resolve s (clusterOfCore c) asid va 8 ⟨false, true, true, false⟩
      match r with
      | .error (.wait _) => go s none
      | .error f => (s, .error (failStatus f))
      | .ok (.home _ _ _ _ _ true) => (s, .error 2)
      | .ok (.home die pa ca ce i false) => go s (some (.home die pa ca ce i false))
      | .ok (.remote g) =>
        match ask s (dieOfCore c) g asid va (.probe false true) with
        | (s, none) => go s none
        | (s, some (r, _)) => if replyStatus r = 0 then go s (some (.remote g)) else (s, .error (replyStatus r))
      | .ok _ => (s, .error 3)

/-- Bytes within one 64-byte line are held at the owner of a virtual address until a migration publishes (10 R262). -/
def holdWrite (s : State) (asid va : Nat) (bs : List Byte) : State :=
  match localDie s (va / 2 ^ 56) with
  | none => s
  | some d =>
    let o := va % 64
    modDie s d fun k => { k with heldBacks := k.heldBacks ++
      [{ asid := asid, line := va / 64, data := BitVec.ofNat 512 (leNat bs * 2 ^ (8 * o)), dirty := BitVec.ofNat 64 ((2 ^ bs.length - 1) * 2 ^ o) }] }

/-- A tap is written (12 R326). -/
def putTap (s : State) (c asid : Nat) (p : Nat × Option Loc) (bs : List Byte) : State :=
  match p.2 with
  | some (.home die pa _ _ _ _) => physWrite s die pa bs
  | some (.remote g) => (ask s (dieOfCore c) g asid p.1 (.write bs .engine)).1
  | _ => s

/-- The closing of branches (12 R326): all of them, or none when a tap address fails. The code `waitPage`: a tap waits, and so does the completion. -/
def closeBranches (s : State) (c x : Nat) (j : MxJob) (bs : List Branch) (which : List Nat) : State × Nat × Nat :=
  let nb := bs.length
  let asid := (ctxOf s c x).asid
  let taps := which.flatMap fun b =>
    if (bs.getD b ⟨0, 0, 0, false⟩).tap then (outputsOf j).map fun o => tapVa j nb b o.1 o.2 else []
  let (s, r) := resolveTaps s c asid taps
  match r with
  | .error st => (s, st, 0)
  | .ok places =>
    if places.any fun p => p.2.isNone then (s, waitPage, 0) else
    let t := ctxOf s c x
    let out := which.foldl (fun (acc : State × Nat × List (Nat × Option Loc)) b =>
      let br := bs.getD b ⟨0, 0, 0, false⟩
      (outputsOf j).foldl (fun acc o =>
        let k := coreOf acc.1 c
        let (xb, sb, y, fl) := curveApply (tabGet 0 t.curves br.curve) (slotLa k (branchSlot j b o.1 o.2))
        let s' := setCore acc.1 c (setSlotLa k (outSlot j o.1 o.2) (laAdd (slotLa k (outSlot j o.1 o.2)) y))
        match br.tap, acc.2.2 with
        | true, p :: rest => (putTap s' c asid p (leBytes 4 xb ++ leBytes 4 sb), acc.2.1 ||| fl, rest)
        | _, l => (s', acc.2.1 ||| fl, l)) acc) (s, 0, places)
    let s := modCtx out.1 c x fun t => { t with closed := which.foldl (fun w b => w ||| BitVec.ofNat 32 (2 ^ b)) t.closed }
    (s, 0, out.2.1)

/-! ### Matrix completions -/

/-- The exact terms of an output, each with its weight row k, and the NV flag of products of zero and infinity (12 R313).
Where two values stand at one dense position, both products are terms (12 R319). -/
def outTerms (j : MxJob) (i jj : Nat) : List (Nat × Val) × Nat :=
  let row := j.rows.getD i []
  let ws := ((List.range j.k).map fun k => (k, (j.wts.rows.getD k []).getD jj .zero)) ++
    j.wts.dup.filterMap fun d => if d.2.1 = jj ∧ d.1 < j.k then some (d.1, d.2.2) else none
  let ts := ws.map fun p => (p.1, mulVal (row.getD p.1 .zero) p.2)
  (ts.map fun t => (t.1, t.2.1), ts.foldl (fun f t => f ||| t.2.2) 0)

/-- The rounding environment a job took at its issue. -/
def jobRnd (j : MxJob) : RndEnv := ⟨j.rmode, j.srs, bitOf j.fmt 20⟩

/-- An MXA lands (12 R313, R316, R326; 17 R452): the state, the code of its token and the flags of STAT. -/
def landMxa (s : State) (c x : Nat) (j : MxJob) : State × Nat × Nat :=
  if j.mode < 2 then
    let out := (outputsOf j).foldl (fun (acc : Core × Nat) o =>
      let (ts, fl) := outTerms j o.1 o.2
      let la := ts.foldl (fun a p => laAdd a p.2) (LA.empty j.w)
      let e := o.1 * j.n + o.2
      let off := 4096 * (j.page + e / 1024) + 4 * (e % 1024)
      if j.mode = 0 then
        let r := laCvt la 0 (jobRnd j) e
        (setAccBytes acc.1 off 4 r.val, acc.2 ||| fl ||| r.flags)
      else
        let (v, f1) := laVal la
        let (t, f2) := addVal false (decodeFp 0 (accBytes acc.1 off 4)) v
        let r := roundFp 0 rne 0 t
        (setAccBytes acc.1 off 4 r.val, acc.2 ||| fl ||| f1 ||| f2 ||| r.flags)) (coreOf s c, 0)
    (setCore s c out.1, 0, out.2)
  else
    let t := ctxOf s c x
    let bs := if j.den then branches t else []
    let out := (outputsOf j).foldl (fun (acc : Core × Nat) o =>
      let (ts, fl) := outTerms j o.1 o.2
      let k := if j.den then
          ts.foldl (fun k p =>
            match branchOf bs (j.crow + p.1) with
            | some b => if t.closed.getLsbD b then k
                else setSlotLa k (branchSlot j b o.1 o.2) (laAdd (slotLa k (branchSlot j b o.1 o.2)) p.2)
            | none => k) acc.1
        else setSlotLa acc.1 (outSlot j o.1 o.2) (ts.foldl (fun a p => laAdd a p.2) (slotLa acc.1 (outSlot j o.1 o.2)))
      (k, acc.2 ||| fl)) (coreOf s c, 0)
    if j.den then
      let nb := bs.length
      let k := (List.range nb).foldl (fun k b =>
        let br := bs.getD b ⟨0, 0, 0, false⟩
        let n := min br.stop (j.crow + j.k) - max br.first j.crow
        if n = 0 then k else addCoverage k j nb b n) out.1
      let which := (List.range nb).filter fun b =>
        let br := bs.getD b ⟨0, 0, 0, false⟩
        !t.closed.getLsbD b && decide (br.stop - br.first ≤ coverage k j nb b)
      let (s, code, fl) := closeBranches (setCore s c k) c x j bs which
      (s, code, out.2 ||| fl)
    else (setCore s c out.1, 0, out.2)

/-- The byte address of byte b of row i of a scratchpad operand (08 R197). -/
def rotAddr (base : Nat) (pitch : Word) (i b : Nat) : Nat :=
  let rp := fld pitch 47 0
  let rot := fld pitch 51 48
  if rot = 0 then base + i * rp + b
  else base + i * rp + b / 1024 * 1024 + (b % 1024 + 32 * ((i * rot) % 32)) % 1024

/-- The types MXCE writes (13 R345 OT). -/
def otType : Nat → Nat
  | 0 => 0 | 1 => 2 | 2 => 3 | _ => 4

/-- The bits of its destination tile that an MXCE writes. -/
def mxceSel (j : MxJob) : Nat := 2 ^ (tyWidth (otType (fld j.fmt 19 18)) * j.m * j.n) - 1

/-- An MXCE lands (12 R316, R326; 17 R454): the state, the code of its token and the flags of STAT. -/
def landMxce (s : State) (c x : Nat) (j : MxJob) : State × Nat × Nat :=
  let t := ctxOf s c x
  let bs := if j.den then branches t else []
  let which := (List.range bs.length).filter fun b => !t.closed.getLsbD b
  let (s, code, fl0) := closeBranches s c x j bs which
  if code ≠ 0 then (s, code, 0)
  else
    let ty := otType (fld j.fmt 19 18)
    let w := tyWidth ty / 8
    let k := coreOf s c
    let cvt := (List.range j.m).map fun i => (List.range j.n).map fun jj => laCvt (slotLa k (outSlot j i jj)) ty (jobRnd j) (i * j.n + jj)
    let fl := cvt.foldl (fun f r => r.foldl (fun f e => f ||| e.flags) f) fl0
    let s := match j.dst with
      | .tile n =>
        let bits := (cvt.flatten).foldr (fun e a => a * 2 ^ (8 * w) + e.val) 0
        setCore s c (setVReg k n (mergeBits (vReg k n) (BitVec.ofNat 262144 bits) (BitVec.ofNat 262144 (mxceSel j))))
      | .spad base pitch =>
        ((List.range j.m).zip cvt).foldl (fun s r =>
          ((List.range j.n).zip r.2).foldl (fun s e =>
            let va := rotAddr base.toNat pitch r.1 (w * e.1)
            let off := va % 2 ^ 56
            physWrite s (dieOfCore c) (spadBase (clusterOfCore c % 4) + off) (leBytes w e.2.val)) s) s
    let s := modCtx s c x fun t => { t with mx := { t.mx with acc := setFld t.mx.acc 31 31 0 } }
    (s, 0, fl)

end Sys2Proof.Machine
end

