-- ==== Sys2Proof/Machine/Landing.lean ====
section
/-! DEFINITION. Landing: control registers (13 R344, 14 R364), results in flight (07 R181 to R187), completion tokens
(17 R443) and what a load or an owner's reply brings (07 R183, 15 R387). -/

namespace Sys2Proof.Machine

/-! ### Control registers (13 R344) -/

/-- The default of a copy register (17 R460, 08 R217). -/
def cpDefault (id : Nat) : Word := if id ≤ 5 then 1 else if id = 0x30 then 1 else if id = 0x33 then 3 else 0

/-- A copy register. -/
def cpReg (t : Ctx) (id : Nat) : Word := tabGet (cpDefault id) t.cp id

/-- The value a copy register takes of a write (17 R460, 08 R217; reserved fields read as zero, 00 R7). -/
def cpMask (id : Nat) (v : Word) : Word :=
  if id ≤ 5 then v &&& 0xFFFFFFFF
  else if id = 0x30 then v &&& 0x7F
  else if id = 0x31 then v &&& 0xFFFFFFFF800FFFFF
  else if id = 0x32 then v &&& 0xFFFFFFFFFFFFFFF9
  else if id = 0x33 then v &&& 3
  else v

/-- The register an id of MXSET names, and the value it takes of a write (12 R309; reserved fields read as zero, 00 R7). -/
def mxField (r : Nat) (v : Word) : MxReg × Word :=
  if r = 1 then (.m, v &&& 0x1FF)
  else if r = 2 then (.k, v &&& 0xF03FF)
  else if r = 3 then (.n, v &&& 0x3F)
  else if r = 4 then (.acc, setFld (v &&& 0x71FF) 30 20 (ofSigned 11 (clampInt (-400) (-100) (toSigned 11 (fld v 30 20)))))
  else if r = 5 then (.crow, v &&& 0xFFFFFFFF)
  else if r = 6 then (.ccol, v &&& 0xFFFFFFFF)
  else (.clus, v &&& 0x1FFFFFF)

/-- The matrix registers as a save area's words give them: reserved fields read as zero (00 R7), MX_ACC.OPEN as saved. -/
def mxOfWords (w : Nat → Word) : MxRegs :=
  { m := (mxField 1 (w 0)).2, k := (mxField 2 (w 1)).2, n := (mxField 3 (w 2)).2, acc := setFld (mxField 4 (w 3)).2 31 31 (fld (w 3) 31 31),
    crow := (mxField 5 (w 4)).2, ccol := (mxField 6 (w 5)).2, clus := (mxField 7 (w 6)).2, pds := w 7, pdp := w 8 &&& 0x3FFFFFFFFFF,
    tap := w 9 &&& ~~~(7 : Word), spm := w 10 }

/-- The value a control register takes of a write: reserved fields read as zero (00 R7), and the special cases of 14 R364. -/
def crMask (cr : Nat) (v : Word) : Word :=
  if cr = 1 then v &&& 0xDFFFFF
  else if cr = 2 then v &&& 0x1FFFFF
  else if cr = 3 then (if fld v 2 0 = 6 ∨ fld v 2 0 = 7 then 0 else v &&& 7)
  else if cr = 4 then (if fld v 31 0 = 0 then 1 else v &&& 0xFFFFFFFF)
  else if cr = 5 then v &&& 0x7FFFFFFFFFFFFFFF
  else if cr = 6 then v &&& 0x1FFFF
  else if cr = 7 then v &&& 0xFB1F
  else if 0x20 ≤ cr ∧ cr ≤ 0x2B then (if cr % 2 = 0 then v else v &&& 0x800000003FFFFFFF)
  else if 0x40 ≤ cr ∧ cr ≤ 0x5F then (if cr % 2 = 0 then v else v &&& 0x3FFFFFFFFF)
  else if cr = 0x800 ∨ cr = 0x801 then v &&& 0x3FFFF
  else if cr = 0x802 then v &&& 0x0CF0FFFF
  else if 0x900 ≤ cr then v &&& 0x1F
  else v

/-- The state with a control register of a context or its core written. -/
def writeCr (s : State) (c x cr : Nat) (v0 : Word) : State :=
  let v := crMask cr v0
  if cr = 1 then modCtx s c x fun t => { t with fmt := v }
  else if cr = 2 then modCtx s c x fun t => { t with shp := v }
  else if cr = 3 then modCtx s c x fun t => { t with rmode := v }
  else if cr = 4 then modCtx s c x fun t => { t with srs := v }
  else if cr = 5 then modCtx s c x fun t => { t with amx := v }
  else if cr = 6 then modCtx s c x fun t => { t with feb := v }
  else if cr = 7 then modCtx s c x fun t => { t with stat := v }
  else if 0x20 ≤ cr ∧ cr ≤ 0x2B then
    (if cr % 2 = 0 then modCtx s c x fun t => { t with lsCnt := tabSet 0 t.lsCnt ((cr - 0x20) / 2) v }
     else modCtx s c x fun t => { t with lsBody := tabSet 0 t.lsBody ((cr - 0x20) / 2) v })
  else if 0x40 ≤ cr ∧ cr ≤ 0x5F then modCtx s c x fun t => { t with handles := tabSet 0 t.handles cr v }
  else if cr = 0x800 then modCtx s c x fun t => { t with tvec := v }
  else if cr = 0x801 then modCtx s c x fun t => { t with epc := v }
  else if cr = 0x802 then modCtx s c x fun t => { t with ecause := v }
  else if cr = 0x803 then modCtx s c x fun t => { t with einfo := v }
  else if cr = 0x804 then modCtx s c x fun t => { t with csa := v }
  else if cr = 0x805 then modCore s c fun k => { k with tslice := v }
  else if 0x900 ≤ cr ∧ cr ≤ 0xAFF then modCore s c fun k => { k with atag := tabSet 0 k.atag (cr - 0x900) v }
  else if 0xB00 ≤ cr ∧ cr ≤ 0xB3F then modCore s c fun k => { k with vtag := tabSet 0 k.vtag (cr - 0xB00) v }
  else s

/-- COREID (13 R344): core in its die, and global die. -/
def coreIdWord (s : State) (c : Nat) : Word := BitVec.ofNat 64 (idxOfCore c + globalDie s (dieOfCore c) * 64)

/-- The value of a control register as it stands. -/
def readCr (s : State) (c x cr : Nat) : Word :=
  let k := coreOf s c
  let t := coreCtx k x
  if cr = 1 then t.fmt else if cr = 2 then t.shp else if cr = 3 then t.rmode else if cr = 4 then t.srs
  else if cr = 5 then t.amx else if cr = 6 then t.feb else if cr = 7 then t.stat
  else if cr = 0x10 then BitVec.ofNat 64 x
  else if cr = 0x11 then coreIdWord s c
  else if cr = 0x12 then (dieOf s (dieOfCore c)).beat
  else if 0x20 ≤ cr ∧ cr ≤ 0x2B then
    (if cr % 2 = 0 then tabGet 0 t.lsCnt ((cr - 0x20) / 2) else tabGet 0 t.lsBody ((cr - 0x20) / 2))
  else if 0x40 ≤ cr ∧ cr ≤ 0x5F then tabGet 0 t.handles cr
  else if cr = 0x800 then t.tvec else if cr = 0x801 then t.epc else if cr = 0x802 then t.ecause
  else if cr = 0x803 then t.einfo else if cr = 0x804 then t.csa else if cr = 0x805 then k.tslice
  else if 0x900 ≤ cr ∧ cr ≤ 0xAFF then tabGet 0 k.atag (cr - 0x900)
  else if 0xB00 ≤ cr ∧ cr ≤ 0xB3F then tabGet 0 k.vtag (cr - 0xB00)
  else 0

/-! ### Neighbour queues (07 R178, R179) -/

/-- The core of the cluster that a push to code q reaches: q0 the next, q1 the one before, q2 four on, q3 four back. -/
def neighbour (c q : Nat) : Nat :=
  let i := idxInCluster c
  let j := match q with
    | 0 => i + 1
    | 1 => i + 15
    | 2 => i + 4
    | _ => i + 12
  16 * clusterOfCore c + j % 16

/-- The cluster of a core is gated (04 R96). -/
def gatedCore (s : State) (c : Nat) : Bool := (dieOf s (dieOfCore c)).gated.getLsbD (clusterOfCore c % 4)

/-- A push reaches a context: its core is neither the firmware's, retired nor gated, and the context id is resident there. -/
def pushReaches (s : State) (n x : Nat) : Bool :=
  !isFirmwareCore s n && !(coreOf s n).retired && !gatedCore s n && (ctxOf s n x).resident

/-- STAT with flags added. -/
def orStat (s : State) (c x : Nat) (f : Word) : State := modCtx s c x fun t => { t with stat := t.stat ||| f }

/-- A push lands (07 R178): into the neighbour's queue, or discarded with STAT.QDROP. -/
def landPush (s : State) (c x q : Nat) (v : Word) : State :=
  let n := neighbour c q
  if pushReaches s n x then modCore s n fun k => setQueue k x q (queueOf k x q ++ [v])
  else orStat s c x (BitVec.ofNat 64 flagQDROP)

/-! ### Completion tokens (17 R443) -/

/-- The 64 bits of a token. -/
def tokenWord (serial op code : Nat) : Word := BitVec.ofNat 64 (serial % 2 ^ 32 * 2 ^ 32 + op % 256 * 2 ^ 24 + code % 256)

/-- The serial of a token. -/
def tokenSerial (w : Word) : Nat := fld w 63 32

/-- Serial `a` was issued before serial `b` (modulo 2^32). -/
def serialBefore (a b : Nat) : Bool := decide (0 < (b + 2 ^ 32 - a) % 2 ^ 32) && decide ((b + 2 ^ 32 - a) % 2 ^ 32 < 2 ^ 31)

/-- The serial a result in flight will push a matrix token with. -/
def landSerial : Land → Option Nat
  | .token n _ _ => some n
  | .mxa j => some j.serial
  | .mxce j => some j.serial
  | _ => none

/-- A command of an engine issued before `serial` has not completed. -/
def earlierPending (k : Core) (x engine serial : Nat) : Bool :=
  if engine = 0 then
    k.pend.any (fun p => p.ctx == x && (match landSerial p.land with | some n => serialBefore n serial | none => false)) ||
      (match k.coop with | some (y, _, _, j) => y == x && serialBefore j.serial serial | none => false)
  else
    k.engs.any fun e => e.tok && serialBefore e.serial serial &&
      (match e.owner with | .ctx _ y => y == x | _ => false) &&
      (match e.work with
       | .copy .. => engine == 1
       | .gather .. => engine == 2
       | .trpop .. => engine == 3)

/-- Tokens enter q6 (17 R443, 07 R179): in order within an engine, while the queue has room.
`waiting` holds the engines whose earlier token still waits. -/
def enterTokens (k : Core) : List Token → List (Nat × Nat) → Core
  | [], _ => k
  | t :: ts, waiting =>
    let q := queueOf k t.ctx 6
    if waiting.contains (t.ctx, t.engine) || earlierPending k t.ctx t.engine (tokenSerial t.entry) || decide (queueDepth ≤ q.length) then
      let k := enterTokens k ts ((t.ctx, t.engine) :: waiting)
      { k with tokens := t :: k.tokens }
    else enterTokens (setQueue k t.ctx 6 (q ++ [t.entry])) ts waiting

/-- The waiting tokens of a core enter as far as they can. -/
def flushTokens (k : Core) : Core := enterTokens { k with tokens := [] } k.tokens []

/-- A token in its place among the waiting ones: before the first of its engine that was issued later. -/
def insertToken (t : Token) : List Token → List Token
  | [] => [t]
  | u :: l => if u.ctx == t.ctx && u.engine == t.engine && serialBefore (tokenSerial t.entry) (tokenSerial u.entry) then t :: u :: l
    else u :: insertToken t l

/-- An earlier run of the interval has pushed a matrix token and a bundle of it has taken it: the record holds it (10 R276). -/
def tokenTaken (k : Core) (x : Nat) (w : Word) : Bool :=
  match k.shadow with
  | some h => h.id == x && !serialBefore (tokenSerial w) h.ctx.serial.toNat &&
      (h.log ++ (coreCtx k x).replay).any fun r => r.heads.contains (6, w)
  | none => false

/-- A token becomes ready. -/
def pushToken (k : Core) (x engine serial op code : Nat) : Core :=
  let w := tokenWord serial op code
  if engine = 0 ∧ tokenTaken k x w then flushTokens k else flushTokens { k with tokens := insertToken ⟨x, engine, w⟩ k.tokens }

/-! ### Signatures (10 R278, 13 R331) -/

/-- The bytes of a number that a pattern of bits touches. -/
def touchedBytes (n sel v : Nat) : List Byte :=
  (List.range n).filterMap fun i => if sel / 2 ^ (8 * i) % 256 = 0 then none else some (BitVec.ofNat 8 (v / 2 ^ (8 * i)))

/-- The signature's entry of a control register: its code, its number and its value. -/
def crSig (s : State) (c x cr : Nat) : List Byte := 0xC0 :: (leBytes 2 cr ++ leBytes 8 (readCr s c x cr).toNat)

/-- The signature's entry of a tile: its code and the bytes written. -/
def tileSig (s : State) (c n sel : Nat) : List Byte := BitVec.ofNat 8 (0x40 + n) :: touchedBytes 32768 sel (vReg (coreOf s c) n).toNat

/-- The code and bytes a landed register write adds to the signature, from the state it leaves. -/
def sigBytes (s : State) (c x : Nat) : Land → List Byte
  | .scalar n v => BitVec.ofNat 8 n :: leBytes 8 v.toNat
  | .addr n v => BitVec.ofNat 8 (0x80 + n) :: leBytes 8 v.toNat
  | .pred n b => [BitVec.ofNat 8 (0x90 + n), BitVec.ofNat 8 b.toNat]
  | .mask n v => BitVec.ofNat 8 (0xA0 + n) :: leBytes 1024 v.toNat
  | .tile n _ sel => tileSig s c n sel.toNat
  | .control cr _ => crSig s c x cr
  | .flags _ => crSig s c x 7
  | .amx _ => crSig s c x 5
  | _ => []

/-- Bytes enter the signature while an interval is run again: the CRC-64 of 01 R19, continued. -/
def sigAdd (k : Core) (bs : List Byte) : Core :=
  match k.rerun, k.shadow with
  | some _, some h =>
    if bs.isEmpty then k
    else { k with shadow := some { h with sig := BitVec.ofNat 64 (crc64Go (h.sig.toNat ^^^ (2 ^ 64 - 1)) bs ^^^ (2 ^ 64 - 1)) } }
  | _, _ => k

/-- The entry of STAT, where a landing gave it flags. -/
def statSig (s : State) (c x : Nat) (f : Nat) : State := if f = 0 then s else modCore s c (sigAdd · (crSig s c x 7))

/-! ### Landing -/

/-- The matrix registers with one written; MX_ACC.OPEN is read-only (12 R309). -/
def setMx (m : MxRegs) (r : MxReg) (v : Word) : MxRegs :=
  match r with
  | .m => { m with m := v } | .k => { m with k := v } | .n => { m with n := v } | .acc => { m with acc := setFld v 31 31 (fld m.acc 31 31) }
  | .crow => { m with crow := v } | .ccol => { m with ccol := v } | .clus => { m with clus := v }
  | .pds => { m with pds := v } | .pdp => { m with pdp := v } | .tap => { m with tap := v } | .spm => { m with spm := v }

/-- A matrix register's value. -/
def getMx (m : MxRegs) : MxReg → Word
  | .m => m.m | .k => m.k | .n => m.n | .acc => m.acc | .crow => m.crow | .ccol => m.ccol | .clus => m.clus
  | .pds => m.pds | .pdp => m.pdp | .tap => m.tap | .spm => m.spm

/-- The pages that write-port operations touch. -/
def opPages (ops : List AccOp) : List Nat :=
  ops.map fun o => match o with
    | .put off _ _ => off / 4096
    | .addF32 off _ => off / 4096
    | .lax slot _ => slot / 85
    | .openSlot slot _ => slot / 85
    | .clearSlot slot => slot / 85

/-- DIRTY is set on pages as their writes land (07 R192, 21 R500). -/
def markAcc (k : Core) (ps : List Nat) : Core := { k with atag := ps.foldl (fun t p => tabSet 0 t p (setFld (tabGet 0 t p) 4 4 1)) k.atag }

/-- DIRTY is set on the pages that write-port operations write. -/
def markOps (k : Core) (ops : List AccOp) : Core := markAcc k (opPages ops)

/-- DIRTY is set on a tile as its write lands. -/
def markTile (k : Core) (n : Nat) : Core := { k with vtag := tabSet 0 k.vtag n (setFld (tabGet 0 k.vtag n) 4 4 1) }

/-- The pages that a job's landing writes: its outputs, or its chain's slots. -/
def jobPages (t : Ctx) (j : MxJob) : List Nat :=
  let nb := if j.den then (branches t).length else 0
  let n := if j.mode < 2 then (j.m * j.n + 1023) / 1024 else (j.m * j.n * (1 + nb) + (nb + 11) / 12 + 84) / 85
  (List.range n).map (j.page + ·)

/-- A completion of the matrix engine waits on: it stands in front, behind those that wait already. -/
def requeue (s : State) (c : Nat) (p : Pend) : State :=
  let land := match p.land with
    | .mxa j => Land.mxa { j with waits := true }
    | .mxce j => .mxce { j with waits := true }
    | l => l
  modCore s c fun k =>
    let (old, rest) := k.pend.span fun q => q.waits
    { k with pend := old ++ { p with due := k.ic, land := land } :: rest }

/-- An MXA or MXCE completes (17 R452, R454): the state and its code; none when its completion waits. -/
def landMx (s : State) (c : Nat) (p : Pend) : State × Option Nat :=
  let x := p.ctx
  let finish := fun (s : State) (serial op code fl : Nat) =>
    let s := statSig (orStat s c x (BitVec.ofNat 64 fl)) c x fl
    (modCore s c (pushToken · x 0 serial op code), some code)
  let try_ := fun (serial : Nat) (f : State → State × Nat × Nat) =>
    askingFor (.step (.matrixComplete (Fin.ofNat 256 c)) x serial) s fun s =>
      let r := f s
      (r.1, if r.2.1 = waitPage then .error waitPage else .ok r.2)
  match p.land with
  | .mxa j =>
    match try_ j.serial fun s => landMxa s c x j with
    | (s, .ok r) => finish (modCore s c (markAcc · (jobPages (ctxOf s c x) j))) j.serial 0x03 r.1 r.2
    | (s, .error _) => (requeue s c p, none)
  | .mxce j =>
    match try_ j.serial fun s => landMxce s c x j with
    | (s, .ok r) =>
      let s := if r.1 = 0 ∧ j.den then modCore s c (markAcc · (jobPages (ctxOf s c x) { j with mode := 2 })) else s
      let s := match j.dst with
        | .tile n => if r.1 = 0 then modCore s c (markTile · n) else s
        | .spad _ _ => s
      finish s j.serial 0x05 r.1 r.2
    | (s, .error _) => (requeue s c p, none)
  | _ => (s, none)

/-- The write of a result that lands (07 R181), without its entry in the signature. -/
def landWrite (s : State) (c : Nat) (p : Pend) : State :=
  let x := p.ctx
  match p.land with
  | .scalar n v => modCtx s c x (setSReg · n v)
  | .addr n v => modCtx s c x (setAReg · n v)
  | .pred n b => modCtx s c x (setPReg · n b)
  | .mask n v => modCtx s c x (setMReg · n v)
  | .tile n v sel => modCore s c fun k => markTile (setVReg k n (mergeBits (vReg k n) v sel)) n
  | .push q v => landPush s c x q v
  | .flags f => orStat s c x f
  | .amx m => modCtx s c x fun t => if t.amx.toNat < m.toNat then { t with amx := m } else t
  | .control cr v => writeCr s c x cr v
  | .acc ops =>
    let r := applyAccOps (coreOf s c) ops
    statSig (orStat (setCore s c (markOps r.1 ops)) c x (BitVec.ofNat 64 r.2)) c x r.2
  | .accAt o ops => setCore s o (markOps (applyAccOps (coreOf s o) ops).1 ops)
  | .mx r v => modCtx s c x fun t => { t with mx := setMx t.mx r v }
  | .cp id v => modCtx s c x fun t => { t with cp := tabSet (cpDefault id) t.cp id v }
  | .bmap e v => modCtx s c x fun t => { t with bmap := tabSet 0 t.bmap e v }
  | .curve n v => modCtx s c x fun t => { t with curves := tabSet 0 t.curves n v }
  | .weights w => modCore s c fun k => 
      { k with wActive := w, wOther := k.wActive, otherFree := k.activeFree, activeFree := k.otherFree,
               coop := k.coop.map fun m => (m.1, m.2.1, m.2.2.1, { m.2.2.2 with swapped := !m.2.2.2.swapped }) }
  | .mxOpen w => modCtx s c x fun t =>
    { t with mx := { t.mx with acc := setFld (setFld t.mx.acc 30 20 (ofSigned 11 w)) 31 31 1 }, closed := 0 }
  | .mxa _ | .mxce _ => (landMx s c p).1
  | .token n op code => modCore s c (pushToken · x 0 n op code)

/-- A result lands (07 R181), and enters the signature of a rerun (10 R278). -/
def applyLand (s : State) (c : Nat) (p : Pend) : State :=
  let s := landWrite s c p
  modCore s c (sigAdd · (sigBytes s c p.ctx p.land))

/-- A landing that precedes the others of its cycle: an MTC to STAT or AMX (11 R307). -/
def landsFirst (p : Pend) : Bool :=
  match p.land with
  | .control cr _ => cr == 5 || cr == 7
  | _ => false

/-- A completion of the matrix engine precedes other write-port operations of its cycle (16 R437). -/
def matrixLand (p : Pend) : Bool :=
  match p.land with
  | .mxa _ | .mxce _ => true
  | .acc ops => ops.any fun o => match o with | .openSlot _ _ | .clearSlot _ => true | _ => false
  | _ => false

/-- A curve table is in force at the cycle it lands at (17 R458). -/
def curveLand (p : Pend) : Bool :=
  match p.land with
  | .curve _ _ => true
  | _ => false

/-- An accumulator atomic follows the other write-port operations of its cycle (16 R437). -/
def atomicLand (p : Pend) : Bool :=
  match p.land with
  | .accAt _ _ => true
  | _ => false

/-- The tile that an MXCE has written as it completed with a code, once more in its place among the cycle's landings. -/
def mxceTile (s : State) (c : Nat) (p : Pend) (code : Option Nat) : List Pend :=
  match p.land with
  | .mxce j =>
    match j.dst with
    | .tile n => if code = some 0 then [{ p with land := .tile n (vReg (coreOf s c) n) (BitVec.ofNat _ (mxceSel j)) }] else []
    | .spad _ _ => []
  | _ => []

/-- The completions of the matrix engine of one cycle. Of each the write of its tile keeps its place among the cycle's landings, so that the
instruction issued last decides (07 R182). Behind one that waits the others wait. -/
def landMatrix (c : Nat) : List Pend → State → State × List Pend
  | [], s => (s, [])
  | p :: ps, s =>
    if !matrixLand p then
      let r := landMatrix c ps s
      (r.1, p :: r.2)
    else if (coreOf s c).pend.any (·.waits) then landMatrix c ps (requeue s c p)
    else
      let (t, code) := match p.land with
        | .acc _ => (applyLand s c p, none)
        | _ => landMx s c p
      let r := landMatrix c ps t
      (r.1, mxceTile t c p code ++ r.2)

/-- Results of one issue cycle land, in their order but for those that come first or last. -/
def landCycle (s : State) (c : Nat) (ps : List Pend) : State :=
  let s := (ps.filter fun p => landsFirst p || curveLand p).foldl (fun s p => applyLand s c p) s
  let (s, ps) := landMatrix c (ps.filter fun p => !landsFirst p && !curveLand p) s
  let s := (ps.filter fun p => !atomicLand p).foldl (fun s p => applyLand s c p) s
  (ps.filter atomicLand).foldl (fun s p => applyLand s c p) s

/-- The results of a list land cycle by cycle. The list is in the order of its cycles. -/
def landCycles (s : State) (c : Nat) : Nat → List Pend → State
  | 0, _ => s
  | _ + 1, [] => s
  | fuel + 1, p :: ps =>
    let now := (p :: ps).takeWhile fun q => q.due == p.due
    landCycles (landCycle s c now) c fuel (ps.dropWhile fun q => q.due == p.due)

/-- The results due by the core's present issue cycle land (07 R181). -/
def landDue (s : State) (c : Nat) : State :=
  let k := coreOf s c
  let due := k.pend.takeWhile fun p => decide (p.due ≤ k.ic)
  if due.isEmpty then s
  else landCycles (setCore s c { k with pend := k.pend.drop due.length }) c due.length due

/-- A write of an accumulator store that a release publishes: an ACCWR or an accumulator atomic in flight. -/
def storeLand (p : Pend) : Bool :=
  match p.land with
  | .acc _ => !matrixLand p
  | _ => atomicLand p

/-- The accumulator writes and atomics that a core has in flight are performed. -/
def performAtomics (s : State) (c : Nat) : State :=
  let ps := (coreOf s c).pend.filter storeLand
  if ps.isEmpty then s
  else ps.foldl (fun s p => applyLand s c p) (modCore s c fun k => { k with pend := k.pend.filter (!storeLand ·) })

/-- What a release on an object publishes (09 R239): the lines bound to it, and what is not held in a first-level cache, the accumulator writes and
atomics in flight with it (15 R406). -/
def releaseBound (s : State) (c : Nat) (o : BindObj) : State := performAtomics (publishBound s c o) c

/-- What a release-half fence publishes (09 R239, 15 R406). -/
def releaseAll (s : State) (c : Nat) : State := performAtomics (publishAll s c) c

/-! ### Loads and replies (07 R183, 15 R387) -/

/-- The low bytes a load asked for, extended to 64 bits (15 R389). -/
def extendBytes (n : Nat) (signed : Bool) (v : Nat) : Word :=
  if signed then BitVec.ofInt 64 (toSigned (8 * n) v) else BitVec.ofNat 64 (v % 2 ^ (8 * n))

/-- The predicates an access writes, unless a later access of the context that writes them is still awaited or has arrived (15 R387). -/
def arrivePreds (later : List Arrival) (a : Arrival) : List Land :=
  let p6 := if a.old6 || later.any (fun b => b.ctx == a.ctx && b.p6.isSome) then none else a.p6
  let p7 := if a.old7 || later.any (fun b => b.ctx == a.ctx && b.p7.isSome) then none else a.p7
  (match p6 with | some b => [Land.pred 6 b] | none => []) ++ (match p7 with | some b => [Land.pred 7 b] | none => [])

/-- Accesses awaited before one that arrives: the predicates it writes are theirs no more (15 R387). -/
def overtaken (before : List Arrival) (a : Arrival) : List Arrival :=
  before.map fun b => if b.ctx = a.ctx then { b with old6 := b.old6 || a.p6.isSome, old7 := b.old7 || a.p7.isSome } else b

/-- The lands of an awaited access whose data are `v`. -/
def arrivalLands (a : Arrival) (v : Word) : List Land :=
  (match a.dst with | some n => dstLand (BitVec.ofNat 6 n) v | none => []) ++
  (match a.adst with | some (n, w) => [.addr n w] | none => []) ++
  (match a.tile with | some (n, w, sel) => [.tile n w sel] | none => []) ++
  (match a.mask with | some (n, w) => [.mask n w] | none => []) ++
  (if a.flags = 0 then [] else [.flags a.flags])

/-- What an access to the outside brings: the data given, with what an ordered task had written laid over them. -/
def outsideVal (n : Nat) (signed : Bool) (laid : List (Nat × Byte)) (given : List Byte) : Word :=
  extendBytes n signed (leNat ((List.range n).map fun i => tabGet (given.getD i 0) laid i))

/-- An awaited access arrives: `rest` are the accesses issued after it. The data of an access to the outside are `given`. An acquire on an
object of another module drops what is bound to it now (09 R240). -/
def applyArrival (s : State) (c : Nat) (a : Arrival) (rest : List Arrival) (given : List Byte) : State :=
  let v := match a.val with
    | .data v => v
    | .outside n signed _ laid => outsideVal n signed laid given
    | .held _ => 0
  let s := match a.acq with
    | some (o, scope) => dropBound s c o scope
    | none => s
  (arrivalLands a v ++ arrivePreds rest a).foldl (fun s z => applyLand s c ⟨0, a.ctx, z⟩) s

/-- The data of an access are known inside the module. -/
def Arrival.known (a : Arrival) : Bool :=
  match a.val with
  | .data _ => true
  | .outside _ _ _ _ => false
  | .held _ => false

/-- The awaited accesses that satisfy a test and whose data are known arrive, oldest first; the others stay. -/
def arriveIf (s : State) (c : Nat) (p : Arrival → Bool) : List Arrival → List Arrival → State
  | [], kept => modCore s c fun k => { k with arrivals := kept }
  | a :: l, kept =>
    if p a && a.known then arriveIf (applyArrival s c a l []) c p l (overtaken kept a)
    else arriveIf s c p l (kept ++ [a])

/-- The awaited accesses of a core that satisfy a test arrive. -/
def arriveWhere (s : State) (c : Nat) (p : Arrival → Bool) : State := arriveIf s c p (coreOf s c).arrivals []

/-- A context waits for an answer: data from outside the module, or an access held at its owner. -/
def awaitsOutside (k : Core) (x : Nat) : Bool := k.arrivals.any fun a => a.ctx == x && !a.known

/-- Every result in flight and every awaited access of a core lands (07 R186): what comes from outside is still awaited. The core waits for it, which
takes it past the issue cycle of the last landing. -/
def landAll (s : State) (c : Nat) : State :=
  let k := coreOf s c
  let s := landCycles (setCore s c { k with pend := [], ic := (k.pend.map (·.due)).foldl max k.ic }) c k.pend.length k.pend
  arriveWhere s c fun _ => true

end Sys2Proof.Machine
end

