-- ==== Sys2Proof/Machine/Operands.lean ====
section
/-! DEFINITION. Operand forms: immediates and addresses (13 R337, 15 R386), the registers each instruction reads and
writes as the group check and the interlocks see them (07 R175, R183; 15 R387), and the kinds of instruction that issue
treats apart (10 R276; 08 R209; 13 R335). -/

namespace Sys2Proof.Machine

/-! ### Immediates and addresses -/

/-- An immediate sign-extended to 64 bits (13 R337). -/
def sext {n : Nat} (v : BitVec n) : Word := BitVec.ofInt 64 v.toInt

/-- The address of an M-format access: base plus offset in units of its size (15 R386). -/
def mAddr (t : Ctx) (ab : AReg) (sz : Nat) (off : BitVec 12) : Word := aReg t ab.toNat + sext off * BitVec.ofNat 64 (2 ^ sz)

/-- A counter id: bits [19:0] of an operand (15 R396). -/
def ctrId (w : Word) : Nat := fld w 19 0

/-! ### Registers read and written (07 R175) -/

/-- The register a scalar code names as a source: none for s0, a queue's head for 56 to 63. -/
def srcReg (c : SCode) : List Reg :=
  let n := c.toNat
  if n = 0 then [] else if n < 56 then [.s n] else [.q (n - 56)]

/-- The register a scalar code names as a destination: none for s0, and none for a push. -/
def dstReg (c : SCode) : List Reg :=
  let n := c.toNat
  if n = 0 then [] else if n < 56 then [.s n] else []

/-- A predicate; p0 forms no dependence. -/
def pReg' (p : PReg) : List Reg := if p = 0 then [] else [.p p.toNat]

/-- A mask; m0 forms no dependence. -/
def mReg' (m : MReg) : List Reg := if m = 0 then [] else [.m m.toNat]

/-- An address register. -/
def aReg' (a : AReg) : List Reg := [.a a.toNat]

/-- A tile. -/
def vReg' (v : VReg) : List Reg := [.v v.toNat]

/-- The vb field: a tile, or a scalar code when vf is set (16 R411). -/
def vbReg (vb : BitVec 6) (vf : Bool) : List Reg := if vf then srcReg vb else vReg' vb

/-- The registers an instruction reads. -/
def regsRead : Instr → List Reg
  | .brp p _ _ => pReg' p
  | .calli a | .jmpi a | .loop a _ | .mtc a _ | .ctxsw a _ => srcReg a
  | .ret => [.s 55]
  | .spawn d a b _ => srcReg d ++ srcReg a ++ srcReg b
  | .join _ a => srcReg a
  | .tkill _ a b => srcReg a ++ srcReg b
  | .add _ a b | .sub _ a b | .mul _ a b | .mulh _ a b | .mulhu _ a b | .div _ a b | .divu _ a b | .rem _ a b | .remu _ a b
  | .and _ a b | .or _ a b | .xor _ a b | .andn _ a b | .shl _ a b | .shr _ a b | .sar _ a b | .rol _ a b | .min _ a b
  | .max _ a b | .minu _ a b | .maxu _ a b => srcReg a ++ srcReg b
  | .clz _ a | .popc _ a => srcReg a
  | .sel _ a b p => srcReg a ++ srcReg b ++ pReg' p
  | .addi _ a _ | .andi _ a _ | .ori _ a _ | .xori _ a _ | .shli _ a _ | .shri _ a _ | .sari _ a _ | .roli _ a _ => srcReg a
  | .insh d _ _ => srcReg d
  | .pcmp _ a b _ => srcReg a ++ srcReg b
  | .pcmpi _ _ a _ => srcReg a
  | .plog _ pa pb _ => pReg' pa ++ pReg' pb
  | .amov _ a => srcReg a
  | .aadd _ aa b => aReg' aa ++ srcReg b
  | .aaddi _ aa _ => aReg' aa
  | .aget _ aa => aReg' aa
  | .fadd _ a b _ | .fsub _ a b _ | .fmul _ a b _ | .fmin _ a b _ | .fmax _ a b _ => srcReg a ++ srcReg b
  | .ffma d a b _ => srcReg d ++ srcReg a ++ srcReg b
  | .fcvt _ a _ _ => srcReg a
  | .fcmp _ a b _ _ => srcReg a ++ srcReg b
  | .ld _ ab _ _ | .lds _ ab _ _ | .ldlu _ ab _ _ | .cflush ab _ | .cdisc ab _ | .cpref ab _ => aReg' ab
  | .st b ab _ _ => srcReg b ++ aReg' ab
  | .ldw _ aa _ _ | .ldc _ aa _ _ | .ldct _ aa _ _ | .feq _ aa _ _ | .publ aa _ => aReg' aa
  | .stf aa b _ _ | .stft aa b _ _ | .femk aa b _ _ | .unbind aa b | .pgreq aa b | .accad aa b _ | .tlbi aa b => aReg' aa ++ srcReg b
  | .vld _ ab ps mk _ => aReg' ab ++ srcReg ps ++ mReg' mk
  | .vst v ab ps mk _ => vReg' v ++ aReg' ab ++ srcReg ps ++ mReg' mk
  | .cadd _ a b _ _ | .cwait _ a b _ _ => srcReg a ++ srcReg b
  | .cread _ a _ _ | .rbacq _ a _ | .rbrel a _ => srcReg a
  | .bind d aa b _ => srcReg d ++ aReg' aa ++ srcReg b
  | .vadd _ va vb mk vf | .vsub _ va vb mk vf | .vmul _ va vb mk vf | .vmin _ va vb mk vf | .vmax _ va vb mk vf
  | .vclamp _ va vb mk vf | .vand _ va vb mk vf | .vor _ va vb mk vf | .vxor _ va vb mk vf | .vshl _ va vb mk vf
  | .vshr _ va vb mk vf | .vsar _ va vb mk vf | .vpadd _ va vb mk vf | .vsel _ va vb mk vf => vReg' va ++ vbReg vb vf ++ mReg' mk
  | .vfma vd va vb mk vf | .vfms vd va vb mk vf | .vfnma vd va vb mk vf => vReg' vd ++ vReg' va ++ vbReg vb vf ++ mReg' mk
  | .vabs _ va mk | .vneg _ va mk | .vnot _ va mk | .vtrn _ va mk | .vsegred _ va mk | .vcompact _ va mk | .vbcast _ va mk
  | .vmov _ va mk => vReg' va ++ mReg' mk
  | .vsf _ va _ mk | .vcvt _ va _ mk => vReg' va ++ mReg' mk
  | .vcmp _ va vb _ vf => vReg' va ++ vbReg vb vf
  | .vperm _ va vb mk => vReg' va ++ vReg' vb ++ mReg' mk
  | .vred _ va _ _ mk | .vscan _ va _ _ mk => vReg' va ++ mReg' mk
  | .vbcastScalar _ b mk => srcReg b ++ mReg' mk
  | .vins _ a b => srcReg a ++ srcReg b
  | .vext _ va b => vReg' va ++ srcReg b
  | .viota _ _ mk => mReg' mk
  | .viotaBase _ _ b mk => srcReg b ++ mReg' mk
  | .nzgen _ _ _ b mk => srcReg b ++ mReg' mk
  | .rngd _ va _ _ mk => vReg' va ++ mReg' mk
  | .vreplay vd va mk => vReg' vd ++ vReg' va ++ mReg' mk
  | .accrd _ a _ mk => srcReg a ++ mReg' mk
  | .accwr vs a _ mk => vReg' vs ++ srcReg a ++ mReg' mk
  | .mlog _ ma mb _ => mReg' ma ++ mReg' mb
  | .mcnt _ ma _ => mReg' ma
  | .mxset _ a | .mxcb a | .mxdn _ a | .mxcv _ a | .mxtap a | .mxsp a | .cpset _ a | .scput _ a | .scred _ a | .gsig a => srcReg a
  | .mxw a b | .mxa a b | .mxce a b | .mxpd a b | .cpgo _ a b | .trpush _ _ a b | .trpop _ _ a b | .gthr _ a b | .sctr _ a b
  | .qppost _ a b | .gnode a b => srcReg a ++ srcReg b
  | .mxwTile v | .mxaTile v => vReg' v
  | _ => []

/-- The registers an instruction writes: p6 and p7 written without being named are `pi` (15 R387). -/
def regsWritten : Instr → List Reg
  | .call _ | .calli _ => [.s 55]
  | .mfc d _ => dstReg d
  | .spawn d _ _ _ | .join d _ | .tkill d _ _ => dstReg d
  | .add d _ _ | .sub d _ _ | .mul d _ _ | .mulh d _ _ | .mulhu d _ _ | .div d _ _ | .divu d _ _ | .rem d _ _ | .remu d _ _
  | .and d _ _ | .or d _ _ | .xor d _ _ | .andn d _ _ | .shl d _ _ | .shr d _ _ | .sar d _ _ | .rol d _ _ | .min d _ _
  | .max d _ _ | .minu d _ _ | .maxu d _ _ => dstReg d
  | .clz d _ | .popc d _ => dstReg d
  | .sel d _ _ _ => dstReg d
  | .addi d _ _ | .andi d _ _ | .ori d _ _ | .xori d _ _ | .shli d _ _ | .shri d _ _ | .sari d _ _ | .roli d _ _ => dstReg d
  | .movi d _ => dstReg d
  | .insh d _ _ => dstReg d
  | .pcmp pd _ _ _ => pReg' pd
  | .pcmpi _ pd _ _ => pReg' pd
  | .plog pd _ _ _ => pReg' pd
  | .amov ad _ => aReg' ad
  | .aadd ad _ _ => aReg' ad
  | .aaddi ad _ _ => aReg' ad
  | .aget d _ => dstReg d
  | .lidx d _ => dstReg d
  | .fadd d _ _ _ | .fsub d _ _ _ | .fmul d _ _ _ | .ffma d _ _ _ | .fmin d _ _ _ | .fmax d _ _ _ => dstReg d
  | .fcvt d _ _ _ => dstReg d
  | .fcmp pd _ _ _ _ => pReg' pd
  | .ld d _ _ _ | .lds d _ _ _ | .ldlu d _ _ _ => dstReg d ++ [.pi 7]
  | .st _ _ _ _ => [.pi 7]
  | .ldw d _ _ _ | .ldc d _ _ _ | .feq d _ _ _ => dstReg d ++ [.pi 7]
  | .stf _ _ _ _ | .femk _ _ _ _ | .accad _ _ _ => [.pi 7]
  | .ldct d _ _ _ => dstReg d ++ [.pi 6, .pi 7]
  | .stft _ _ _ _ => [.pi 6, .pi 7]
  | .vld v _ _ mk _ => vReg' v ++ mReg' mk
  | .vst _ _ _ mk _ => mReg' mk
  | .cadd d _ _ _ _ | .cwait d _ _ _ _ => dstReg d
  | .cread d _ _ _ => dstReg d
  | .rbacq ad _ _ => aReg' ad
  | .vadd vd _ _ _ _ | .vsub vd _ _ _ _ | .vmul vd _ _ _ _ | .vmin vd _ _ _ _ | .vmax vd _ _ _ _ | .vclamp vd _ _ _ _
  | .vand vd _ _ _ _ | .vor vd _ _ _ _ | .vxor vd _ _ _ _ | .vshl vd _ _ _ _ | .vshr vd _ _ _ _ | .vsar vd _ _ _ _
  | .vpadd vd _ _ _ _ | .vsel vd _ _ _ _ | .vfma vd _ _ _ _ | .vfms vd _ _ _ _ | .vfnma vd _ _ _ _ => vReg' vd
  | .vabs vd _ _ | .vneg vd _ _ | .vnot vd _ _ | .vtrn vd _ _ | .vsegred vd _ _ | .vcompact vd _ _ | .vbcast vd _ _
  | .vmov vd _ _ => vReg' vd
  | .vsf vd _ _ _ | .vcvt vd _ _ _ => vReg' vd
  | .vcmp _ _ _ md _ => mReg' md
  | .vperm vd _ _ _ => vReg' vd
  | .vred vd _ _ _ _ | .vscan vd _ _ _ _ => vReg' vd
  | .vbcastScalar vd _ _ => vReg' vd
  | .vins vd _ _ => vReg' vd
  | .vext d _ _ => dstReg d
  | .viota vd _ _ => vReg' vd
  | .viotaBase vd _ _ _ => vReg' vd
  | .nzgen vd _ _ _ _ => vReg' vd
  | .rngd vd _ _ _ _ => vReg' vd
  | .vreplay vd _ _ => vReg' vd
  | .accrd vd _ _ _ => vReg' vd
  | .mlog md _ _ _ => mReg' md
  | .mcnt d _ _ => dstReg d
  | .mxceTile v => vReg' v
  | _ => []

/-- The queue a destination code pushes to. -/
def pushCode (c : SCode) : List Nat := if 56 ≤ c.toNat ∧ c.toNat < 60 then [c.toNat - 56] else []

/-- The neighbour queues an instruction pushes to (07 R178). -/
def pushes : Instr → List Nat
  | .mfc d _ | .spawn d _ _ _ | .join d _ | .tkill d _ _ => pushCode d
  | .add d _ _ | .sub d _ _ | .mul d _ _ | .mulh d _ _ | .mulhu d _ _ | .div d _ _ | .divu d _ _ | .rem d _ _ | .remu d _ _
  | .and d _ _ | .or d _ _ | .xor d _ _ | .andn d _ _ | .shl d _ _ | .shr d _ _ | .sar d _ _ | .rol d _ _ | .min d _ _
  | .max d _ _ | .minu d _ _ | .maxu d _ _ => pushCode d
  | .clz d _ | .popc d _ | .movi d _ | .aget d _ | .lidx d _ => pushCode d
  | .sel d _ _ _ | .fadd d _ _ _ | .fsub d _ _ _ | .fmul d _ _ _ | .fmin d _ _ _ | .fmax d _ _ _ | .fcvt d _ _ _ => pushCode d
  | .addi d _ _ | .andi d _ _ | .ori d _ _ | .xori d _ _ | .shli d _ _ | .shri d _ _ | .sari d _ _ | .roli d _ _ => pushCode d
  | .ld d _ _ _ | .lds d _ _ _ | .ldlu d _ _ _ | .ldw d _ _ _ | .ldc d _ _ _ | .ldct d _ _ _ | .feq d _ _ _ => pushCode d
  | .cadd d _ _ _ _ | .cwait d _ _ _ _ | .cread d _ _ _ => pushCode d
  | .vext d _ _ | .mcnt d _ _ => pushCode d
  | _ => []

/-! ### Kinds -/

/-- A once-only operation (10 R276). E-slot commands count when their completion raises a counter, fills a flag or pushes
a token. -/
def onceOnly (t : Ctx) : Instr → Bool
  | .spawn _ _ _ _ | .tkill _ _ _ => true
  | .ldc _ _ _ _ | .stf _ _ _ _ | .ldct _ _ _ _ | .stft _ _ _ _ | .femk _ _ _ _ => true
  | .cadd _ _ _ _ _ | .rbacq _ _ _ | .rbrel _ _ | .accad _ _ _ | .publ _ _ | .pgreq _ _ => true
  | .qppost _ _ _ | .scput _ _ | .scred _ _ | .gnode _ _ | .gsig _ => true
  | .cpgo tok _ _ | .gthr tok _ _ | .sctr tok _ _ => tok || bitOf (cpReg t 0x31) 31 || bitOf (cpReg t 0x32) 0
  | .trpop tok _ _ _ => tok
  | _ => false

/-- An operation whose value is recorded for reruns without being once-only (10 R276). -/
def replayed : Instr → Bool
  | .cread _ _ _ _ | .cwait _ _ _ _ _ => true
  | .mfc _ cr => cr == 0x12
  | _ => false

/-- An operation that can hold its bundle at issue and, once its hold has ended, keeps its outcome (08 R209). -/
def keepsOutcome : Instr → Bool
  | .spawn _ _ _ _ | .tkill _ _ _ | .ldc _ _ _ _ | .stf _ _ _ _ | .rbacq _ _ _ | .publ _ _ => true
  | _ => false

/-- An instruction that issues without a trap only in privileged mode (13 R335). -/
def needsPriv : Instr → Bool
  | .eret _ | .ctxsw _ _ | .halt _ | .tlbi _ _ => true
  | .mtc _ cr | .mfc _ cr => decide (0x800 ≤ cr.toNat)
  | _ => false

/-- The implicit predicate a register entry stands for. -/
def implicitOf : Reg → Option Nat
  | .pi n => some n
  | _ => none

/-- A write by one bundle that a read or write of a later bundle of its group depends on (07 R175, 15 R387).
An implicit write and an explicit access of one predicate are a dependence; two implicit writes are none. -/
def hitsWrite (w r : Reg) : Bool :=
  match w, r with
  | .pi n, .p m => n == m
  | .p n, .pi m => n == m
  | .pi _, .pi _ => false
  | w, r => w == r

/-- An explicit read of a predicate that a later bundle of the group writes without naming it (15 R387). -/
def hitsImplicit (r w : Reg) : Bool :=
  match r, w with
  | .p n, .pi m => n == m
  | _, _ => false

/-- A later bundle with these registers depends on an earlier one of its group (07 R175). -/
def dependsOn (g : GroupBundle) (reads writes : List Reg) : Bool :=
  reads.any (fun r => g.writes.any fun w => hitsWrite w r) ||
  writes.any (fun r => g.writes.any fun w => hitsWrite w r) ||
  writes.any (fun w => g.reads.any fun r => hitsImplicit r w) ||
  reads.any (fun r => g.pops.any fun q => r == .q q)

/-- Two slots of one bundle write the same register (07 R175). -/
def sameWrites : List (List Reg) → Bool
  | [] => false
  | ws :: rest => rest.any (fun us => ws.any fun w => us.any fun u => hitsWrite w u) || sameWrites rest

end Sys2Proof.Machine
end

