-- ==== Sys2Proof/Machine/Sync.lean ====
section
/-! DEFINITION. Synchronisation objects and what releases and acquires do (09 R228 to R240): scopes, counters
(15 R396), bindings (09 R233, R234), publication of first-level lines, and memory outside the module. -/

namespace Sys2Proof.Machine

/-! ### Parties and scopes (09 R228, R231) -/

/-- The scope a party's operation acts at: that of the smallest unit it belongs to, when the scope named is smaller. -/
def actingScope (p : Party) (scope : Nat) : Nat :=
  match p with
  | .core _ => scope
  | .cluster _ => max scope 1
  | .die _ => max scope 2
  | .abroad _ => scope
  | .host => 5

/-- The cluster a party belongs to. -/
def Party.cluster? : Party → Option Nat
  | .core c => some (clusterOfCore c)
  | .cluster k => some k
  | _ => none

/-- The die a party belongs to. -/
def Party.die? : Party → Option Nat
  | .core c => some (dieOfCore c)
  | .cluster k => some (k / 4)
  | .die d => some d
  | .abroad _ => none
  | .host => none

/-- The global die of another module that a party asks from. -/
def Party.abroad? : Party → Option Nat
  | .abroad g => some g
  | _ => none

/-- Scope `scope` of party p covers party q. Of those that ask from one die of another module no more than the die is known: scopes below it do
not cover them (DESIGN CHOICE, log 19). -/
def covers (scope : Nat) (p q : Party) : Bool :=
  match actingScope p scope with
  | 0 => p.abroad?.isNone && p == q
  | 1 => p.cluster?.isSome && p.cluster? == q.cluster?
  | 2 => (p.die?.isSome && p.die? == q.die?) || (p.abroad?.isSome && p.abroad? == q.abroad?)
  | 3 => p != .host && q != .host && p.abroad?.map (· / 4) == q.abroad?.map (· / 4)
  | 4 => p != .host && q != .host
  | _ => true

/-! ### Releases carried by objects (09 R232, R236) -/

/-- A release is made on an object of a die. -/
def postRelease (s : State) (die : Nat) (r : Release) : State :=
  modDie s die fun d => if d.rels.contains r then d else { d with rels := d.rels ++ [r] }

/-- An object carries no release any more: a CTRSET, or a write to a word that is no release. -/
def clearReleases (s : State) (die : Nat) (o : SyncObj) : State :=
  modDie s die fun d => { d with rels := d.rels.filter fun r => r.obj != o }

/-- A release that an acquire by q at a scope observes without coverage both ways sets SCOPEX (09 R232). -/
def scopeMiss (s : State) (die : Nat) (o : SyncObj) (q : Party) (scope : Nat) : Bool :=
  (dieOf s die).rels.any fun r => r.obj == o && !(covers r.scope r.party q && covers scope q r.party)

/-- STAT.SCOPEX of the acquiring context, when an acquire needs it. -/
def acquireFlag (s : State) (die : Nat) (o : SyncObj) (q : Party) (scope : Nat) : Word :=
  if scopeMiss s die o q scope then BitVec.ofNat 64 flagSCOPEX else 0

/-! ### Counters (01 R12, 15 R396) -/

/-- The global die of a counter id. -/
def ctrDie (id : Nat) : Nat := id / 4096 % 256

/-- The index of a counter in its die. -/
def ctrIdx (id : Nat) : Nat := id % 4096

/-- The largest value of a counter. -/
def ctrMax : Nat := 2 ^ 64 - 1

/-- The value of a counter of a local die. -/
def ctrVal (s : State) (d n : Nat) : Word := tabGet 0 (dieOf s d).ctr n

/-- The state with a counter of a local die written. -/
def setCtr (s : State) (d n : Nat) (v : Word) : State := modDie s d fun k => { k with ctr := tabSet 0 k.ctr n v }

/-- An addition to a counter of a local die: it saturates; the flag tells that it did. -/
def ctrAdd (s : State) (d n : Nat) (inc : Word) : State × Bool :=
  let v := (ctrVal s d n).toNat + inc.toNat
  if ctrMax < v then (setCtr s d n (BitVec.ofNat 64 ctrMax), true) else (setCtr s d n (BitVec.ofNat 64 v), false)

/-! ### Buffer rings (08 R221 to R223, 15 R399) -/

/-- The ring descriptors of a die are zero (08 R221). -/
def clearRings (d : Die) : Die := { d with mem := memWrite d.mem d.rbBase (List.replicate 0x8000 0) }

/-- A ring descriptor read from its 32 bytes. -/
def ringDescOf (raw : List Byte) : RingDesc :=
  let f := fun o n => leNat ((raw.drop o).take n)
  { base := BitVec.ofNat 64 (f 0 8), stride := f 8 4, n := f 12 1, acq := BitVec.ofNat 20 (f 16 4), rel := BitVec.ofNat 20 (f 20 4) }

/-- Physical address of a ring descriptor. -/
def ringAddr (d : Die) (id : Nat) : Nat := d.rbBase + 32 * id

/-- A ring descriptor of a die, as its DRAM holds it. -/
def ringOf (s : State) (d id : Nat) : RingDesc := ringDescOf (physRead s d (ringAddr (dieOf s d) id) 32)

/-- REL of a ring, where its counter is of this module. -/
def ringRel (s : State) (d id : Nat) : Option Nat :=
  let r := (ringOf s d id).rel.toNat
  (localDie s (ctrDie r)).map fun e => (ctrVal s e (ctrIdx r)).toNat

/-- An increment of a counter by its id, as a release (09 R235): the state and whether it saturated. A counter of another module's die is added to
there. -/
def ctrReleaseAt (s : State) (id : Nat) (inc : Word) (p : Party) (scope : Nat) : State × Bool :=
  match localDie s (ctrDie id) with
  | some d =>
    let (s, sat) := ctrAdd s d (ctrIdx id) inc
    (postRelease s d ⟨.ctr (ctrIdx id), p, actingScope p scope⟩, sat)
  | none =>
    match ask s ((p.die?).getD 0) (ctrDie id) 0 id (.ctrAdd inc (actingScope p scope) true) with
    | (s, some (r, _)) => (s, r.cause == 0x10)
    | (s, none) => (s, false)

/-- Ring releases that a die owes and whose turn has come; one that its ring has passed is owed no more (15 R399). -/
def payDebts (s : State) (d : Nat) : Nat → State
  | 0 => s
  | fuel + 1 =>
    let s := modDie s d fun k => { k with debts := k.debts.filter fun b => match ringRel s d b.1 with
      | some n => decide (n ≤ b.2.toNat)
      | none => true }
    match (dieOf s d).debts.find? fun b => ringRel s d b.1 == some b.2.toNat with
    | none => s
    | some b => payDebts (ctrReleaseAt (modDie s d fun k => { k with debts := k.debts.erase b }) (ringOf s d b.1).rel.toNat 1 (.die d) 5).1 d fuel

/-- Every die's ring releases whose turn has come are made: a ring's REL may lie on any die of the module. -/
def payAll (s : State) : State :=
  (List.range 4).foldl (fun s d => if (dieOf s d).debts.isEmpty then s else payDebts s d ((dieOf s d).debts.length + 1)) s

/-- The completion increment of a counter by its id, as a release (09 R235): the state and whether it saturated. -/
def ctrRelease (s : State) (id : Nat) (inc : Word) (p : Party) (scope : Nat) : State × Bool :=
  let r := ctrReleaseAt s id inc p scope
  (payAll r.1, r.2)

/-- A counter of a ring is set: the ring is restarted, and owes nothing (08 R222). -/
def restartRings (s : State) (id : Nat) : State :=
  (List.range 4).foldl (fun s d => if (dieOf s d).debts.isEmpty then s else modDie s d fun k => { k with debts := k.debts.filter fun b =>
    (ringOf s d b.1).rel.toNat != id % 2 ^ 20 && (ringOf s d b.1).acq.toNat != id % 2 ^ 20 }) s

/-- The write of a counter by die `src`, which alone may lower it (03 R73). -/
def ctrWrite (s : State) (src id : Nat) (v : Word) : State :=
  match localDie s (ctrDie id) with
  | some d => restartRings (clearReleases (setCtr s d (ctrIdx id) v) d (.ctr (ctrIdx id))) id
  | none => (ask s src (ctrDie id) 0 id (.ctrSet v)).1

/-! ### Memory outside the module (02 R48) -/

/-- A byte of host or cellar memory as the module last wrote it, else an open one. -/
def extByte (s : State) (target a : Nat) : Byte :=
  match (tabGet [] s.mod.ext target).find? fun c => c.1 == a with
  | some c => c.2
  | none => Config.outsideByte target a

/-- n bytes of host or cellar memory. -/
def extRead (s : State) (target a n : Nat) : List Byte := (List.range n).map fun i => extByte s target (a + i)

/-- Bytes of a table written one after the other. -/
def putBytes (t : Tab Byte) (a : Nat) : List Byte → Tab Byte
  | [] => t
  | b :: bs => putBytes (tabPut t a b) (a + 1) bs

/-- Bytes of host or cellar memory written. -/
def extWrite (s : State) (target a : Nat) (bs : List Byte) : State :=
  { s with mod := { s.mod with ext := tabPut s.mod.ext target (putBytes (tabGet [] s.mod.ext target) a bs) } }

/-- A granule of memory outside the module is poisoned. -/
def extPoison (s : State) (target g : Nat) : Bool :=
  match (tabGet [] s.mod.pois target).find? fun c => c.1 == g with
  | some c => c.2
  | none => Config.outsidePoison target g

/-- A read of cellar memory returns poison (02 R54): a granule of it is poisoned. -/
def readPoison (s : State) (target a n : Nat) : Bool := decide (2 ≤ target) && (granulesOf a n).any (extPoison s target)

/-- Bytes an engine, a firmware command or a vector load reads outside the module: host and cellar memory as it stands,
a peer's as free values; none when the peer's completion says so or does not come (02 R51), which is open (log 1). -/
def systemRead (s : State) (target a n : Nat) : State × Option (List Byte) :=
  if target = 1 then
    if bitOf (Config.freeValue s.freeCtr) 0 then (bumpFree s, none)
    else
      let (s, bs) := freeBytes (bumpFree s) n
      (s, some bs)
  else (s, some (extRead s target a n))

/-- Bytes written outside the module: kept for host and cellar memory, and sent, poisoned or not (02 R53). A granule written in part stays
poisoned. -/
def systemWrite (s : State) (target : Nat) (a : Word) (bs : List Byte) (poison : Bool) : State :=
  let s := if target = 1 then s else
    let p := (granulesOf a.toNat bs.length).foldl (fun t g =>
      tabPut t g (poison || (!wholeGranule a.toNat bs.length g && extPoison s target g))) (tabGet [] s.mod.pois target)
    let s := extWrite s target a.toNat bs
    { s with mod := { s.mod with pois := tabPut s.mod.pois target p } }
  sendOut s (.store target a bs poison)

/-! ### Commands -/

/-- A command of a die. -/
def cmdOf (s : State) (d cid : Nat) : Option Cmd := ((dieOf s d).cmds.find? fun e => e.1 == cid).map (·.2)

/-- The state with a command changed. -/
def modCmd (s : State) (d cid : Nat) (f : Cmd → Cmd) : State :=
  match cmdOf s d cid with
  | some c => modDie s d fun k => { k with cmds := tabPut k.cmds cid (f c) }
  | none => s

/-- A step of firmware on a command becomes due. -/
def due (s : State) (i : Instr) (d cid : Nat) : State := { s with agenda := s.agenda ++ [⟨i, ⟨d, cid⟩⟩] }

/-- In place of an error code: a page that the command needs migrates, and the command is tried again (10 R255, R262). -/
def waitErr : Nat := 0xFE

/-- A step that cannot be made yet is made again when other things have had their turn. -/
def postpone (s : State) (i : Instr) (d cid : Nat) : State := { s with mail := s.mail ++ [⟨i, ⟨d, cid⟩⟩] }

/-- A command has come to its end: its finish becomes due, with an error code; or its step lacks a page that migrates, and is made later as a whole. -/
def finishCmd (s : State) (d cid err : Nat) : State :=
  if err = waitErr then lacks s .page
  else due (modCmd s d cid fun c => { c with err := if c.err = 0 then err else c.err, waits := false }) .commandFinish d cid

/-- The error code of a COPY from its engine's status (03 R73). -/
def engErr (status : Nat) : Nat :=
  match status with
  | 0 => 0
  | 2 => 0x0B
  | 3 => 0x0C
  | 4 => 0x0E
  | 6 => 0x0D
  | 8 => 0x0F
  | 254 | 255 => waitErr
  | _ => 0x03

end Sys2Proof.Machine
end

