-- ==== Sys2Proof/Machine/Engines.lean ====
section
/-! DEFINITION. The cluster's copy, gather and transpose engines at work (08 R217 to R219, 10 R259, R260, 12 R323,
17 R441 to R444, R460 to R468): the accesses of an engine, the moves of a command and its completion actions. -/

namespace Sys2Proof.Machine

/-! ### Accesses of an engine -/

/-- The pieces of a range that lie in one 64-byte line each: address and length. -/
def pieces (va : Nat) : Nat → Nat → List (Nat × Nat)
  | 0, _ => []
  | _, 0 => []
  | fuel + 1, n =>
    let m := min n (64 - va % 64)
    (va, m) :: pieces (va + m) fuel (n - m)

/-- The pieces of n bytes from an address on, modulo 2^64. -/
def piecesOf (va n : Nat) : List (Nat × Nat) := (pieces (va % 2 ^ 64) (n / 64 + 2) n).map fun p => (p.1 % 2 ^ 64, p.2)

/-- The place of one piece for an engine, or its status: 3 for the accumulator range (08 R199) and PROT, else 2; or that it waits. -/
def engLoc (s : State) (cl asid va n : Nat) (wr : Bool) : State × Except Nat Loc :=
  let (s, r) := resolve s cl asid va n ⟨!wr, wr, wr, false⟩
  match r with
  | .error f => (s, .error (failStatus f))
  | .ok (.accum _ _ _) => (s, .error 3)
  | .ok (.home _ _ _ _ _ true) => (s, .error 2)
  | .ok l => (s, .ok l)

/-- What an engine reads: bytes, F of the word each comes from, and whether any of them is poisoned. -/
structure Fetched where
  /-- bytes -/
  data : List Byte := []
  /-- F of the word of each byte; host memory, peers and the cellar carry none (08 R219) -/
  full : List Bool := []
  /-- some come poisoned -/
  pois : Bool := false
  deriving DecidableEq, Repr

/-- The bytes of one place, with the status 6 where a carry check fails (08 R224). A die of another module answers with its granule, whose check is
verified here (01 R24). -/
def engGet (s : State) (cl asid va : Nat) (l : Loc) (n : Nat) : State × Except Nat Fetched :=
  match l with
  | .home die pa _ _ _ _ =>
    if badCheck s die pa n then (foundBad s die pa n, .error 6)
    else (s, .ok ⟨physRead s die pa n, (List.range n).map fun i => fullBit (dieOf s die) (pa + i), false⟩)
  | .system target _ a =>
    match systemRead s target a.toNat n with
    | (s, some bs) => (s, .ok ⟨bs, List.replicate n false, readPoison s target a.toNat n⟩)
    | (s, none) => (s, .error 2)
  | .accum _ _ _ => (s, .error 3)
  | .remote g =>
    match ask s (cl / 4) g asid va (.read n) with
    | (s, none) => (s, .error waitPage)
    | (s, some (r, x)) =>
      if replyStatus r ≠ 0 then (s, .error (replyStatus r))
      else match x with
        | none => (s, .error 2)
        | some x =>
          if x.check ≠ 0 then (countCc s 1, .error 6)
          else (s, .ok ⟨x.bytes va n, (List.range n).map fun i => x.full.getD (va % 64 / 8 + (va % 8 + i) / 8) false, false⟩)

/-- An engine reads n bytes. -/
def engFetch (s : State) (cl asid va n : Nat) : State × Except Nat Fetched :=
  (piecesOf va n).foldl (fun acc p =>
    match acc.2 with
    | .error e => (acc.1, .error e)
    | .ok x =>
      let (s, r) := engLoc acc.1 cl asid p.1 p.2 false
      match r with
      | .error e => (s, .error e)
      | .ok l =>
        let (s, r) := engGet s cl asid p.1 l p.2
        match r with
        | .error e => (s, .error e)
        | .ok y => (s, .ok ⟨x.data ++ y.data, x.full ++ y.full, x.pois || y.pois⟩)) (s, .ok {})

/-- An engine reads n bytes, poisoned or not. -/
def engRead (s : State) (cl asid va n : Nat) : State × Except Nat (List Byte) :=
  let (s, r) := engFetch s cl asid va n
  (s, r.map (·.data))

/-- The bytes of a range as they stand, whatever their checks say: zeros where no home gives them. -/
def rawBytes (s : State) (cl asid va n : Nat) : List Byte :=
  (piecesOf va n).flatMap fun p =>
    match (engLoc s cl asid p.1 p.2 false).2 with
    | .ok l => homeBytes s l p.2
    | .error _ => List.replicate p.2 0

/-- Every byte of a range has its home in this module's memory. -/
def homesOnly (s : State) (cl asid va n : Nat) : Bool :=
  (piecesOf va n).all fun p => match (engLoc s cl asid p.1 p.2 false).2 with
    | .ok (.home _ _ _ _ _ _) => true
    | _ => false

/-- F of the words touched is written. -/
def setFullRange (s : State) (die pa n : Nat) (f : Option Bool) : State :=
  match f with
  | none => s
  | some b => modDie s die fun d => (wordsTouched pa n).foldl (fun d w => setFull d (8 * w) b) d

/-- An engine writes bytes: those with a home on this module by `put`, those of another module's die as a request of a kind. -/
def engPut (kind : WriteKind) (put : State → Nat → Nat → List Byte → State) (s : State) (cl asid va : Nat) (bs : List Byte) : State × Except Nat Unit :=
  ((piecesOf va bs.length).foldl (fun acc p =>
    match acc.2.2 with
    | .error e => (acc.1, acc.2.1, .error e)
    | .ok _ =>
      let (s, r) := engLoc acc.1 cl asid p.1 p.2 true
      let now := acc.2.1.take p.2
      let rest := acc.2.1.drop p.2
      match r with
      | .error e => (s, rest, .error e)
      | .ok (.home die pa _ _ _ _) => (put s die pa now, rest, .ok ())
      | .ok (.system target _ a) => (systemWrite s target a now false, rest, .ok ())
      | .ok (.remote g) =>
        match ask s (cl / 4) g asid p.1 (.write now kind) with
        | (s, none) => (s, rest, .error waitPage)
        | (s, some (r, _)) => (s, rest, if replyStatus r = 0 then .ok () else .error (replyStatus r))
      | .ok (.accum _ _ _) => (s, rest, .error 3))
    (s, bs, .ok ())) |> fun r => (r.1, r.2.2)

/-- An engine writes bytes, and F of the words written. -/
def engWrite (s : State) (cl asid va : Nat) (bs : List Byte) (f : Option Bool) : State × Except Nat Unit :=
  engPut (match f with | none => .engine | some true => .full | some false => .empty)
    (fun s die pa now => setFullRange (physWrite s die pa now) die pa now.length f) s cl asid va bs

/-- A write under KEEP: a word whose data stay as they were keeps its W and wakes nobody (08 R217). -/
def keepWrite (s : State) (die pa : Nat) (now : List Byte) : State :=
  let old := physRead s die pa now.length
  let same := (wordsTouched pa now.length).filter fun w =>
    tabGet false (dieOf s die).waits w && (List.range now.length).all fun i => (pa + i) / 8 != w || old.getD i 0 == now.getD i 0
  let s := modDie s die fun d => { d with waits := same.foldl (fun t w => tabSet false t w false) d.waits }
  modDie (physWrite s die pa now) die fun d => { d with waits := same.foldl (fun t w => tabSet false t w true) d.waits }

/-! ### Pages of a command (10 R259, R260) -/

/-- The address is mapped by a page table: its owner byte names a die. -/
def ptePaged (va : Nat) : Bool := decide (va / 2 ^ 56 < 0xFC)

/-- The 64 KiB pages of a list of ranges, each once. -/
def pagesOf (rs : List (Nat × Nat)) : List Nat :=
  rs.foldl (fun l r =>
    if r.2 = 0 then l
    else ((List.range ((r.1 + r.2 - 1) / 65536 - r.1 / 65536 + 1)).map (r.1 / 65536 + ·)).foldl
      (fun l p => if l.contains (p % 2 ^ 48) then l else l ++ [p % 2 ^ 48]) l) []

/-- The first failure of the pages of ranges for a command: unmapped, not resident or migrating 2, without the permission 3; or that a table
pointer on its walk migrates, for which it waits. -/
def pageFail (s : State) (cl asid : Nat) (wr : Bool) : List Nat → Nat
  | [] => 0
  | p :: ps =>
    let va := p * 65536
    if !ptePaged va then pageFail s cl asid wr ps
    else
      match (engLoc s cl asid va 1 wr).2 with
      | .error e => if e = waitPage then 2 else e
      | .ok _ => pageFail s cl asid wr ps

/-- The pages are marked dirty: all of them, after every one has passed (10 R259). -/
def markPages (s : State) (cl asid : Nat) (ps : List Nat) : State :=
  ps.foldl (fun s p => if ptePaged (p * 65536) then (engLoc s cl asid (p * 65536) 1 true).1 else s) s

/-- The ranges outside the page tables that a command cannot reach: system space, the cluster window. -/
def rangeFail (s : State) (cl asid : Nat) (wr : Bool) : List (Nat × Nat) → Nat
  | [] => 0
  | (a, n) :: rs =>
    if n = 0 || ptePaged a then rangeFail s cl asid wr rs
    else
      match (engLoc s cl asid a n wr).2 with
      | .error e => e
      | .ok _ => rangeFail s cl asid wr rs

/-! ### Copies (17 R462) -/

/-- The elements of a copy, source and destination, the innermost dimension fastest: dimensions from the outermost. -/
def copyElems : List (Nat × Nat × Nat) → Nat → Nat → List (Nat × Nat)
  | [], a, b => [(a % 2 ^ 64, b % 2 ^ 64)]
  | (e, ss, ds) :: r, a, b => (List.range e).flatMap fun i => copyElems r (a + i * ss) (b + i * ds)

/-- The dimensions of a copy from the outermost. -/
def copyDims (ext : List Nat) (sstr dstr : List Word) : List (Nat × Nat × Nat) :=
  ((ext.zip (sstr.zip dstr)).map fun p => (p.1, p.2.1.toNat, p.2.2.toNat)).reverse

/-- Destination runs: maximal sequences of elements with contiguous bytes in ascending element order. -/
def destRuns (bytes : Nat) : List (Nat × Nat) → List (Nat × Nat)
  | [] => []
  | (_, b) :: r =>
    match destRuns bytes r with
    | (a, n) :: rest => if a = b + bytes then (b, n + bytes) :: rest else (b, bytes) :: (a, n) :: rest
    | [] => [(b, bytes)]

/-- TARGET of a system-space address on a die, where it has a window. -/
def systemTarget (s : State) (d va : Nat) : Option Nat :=
  if va / 2 ^ 56 = 0xFF then some (fld (tabGet 0 (dieOf s d).swtLo (bitsOf va 55 50)) 11 8) else none

/-- The destination bytes so far whose bytes came from an empty source word, after one more element: `fs` says F of the word each of its bytes
comes from. -/
def nextEmpty (b : Nat) (fs : List Bool) (l : List Nat) : List Nat :=
  (l.filter fun y => decide (fs.length ≤ (y + 2 ^ 64 - b) % 2 ^ 64)) ++
    ((List.range fs.length).filter fun i => !fs.getD i false).map fun i => (b + i) % 2 ^ 64

/-- The words of an element's destination that take a byte from an empty source word are empty. -/
def clearMixed (s : State) (cl asid b n : Nat) (l : List Nat) : State :=
  l.foldl (fun s y =>
    if (y / 8 * 8 + 7 + 2 ^ 64 - b) % 2 ^ 64 < n + 7 then
      match engLoc s cl asid y 1 true with
      | (s, .ok (.home die pa _ _ _ _)) => setFullRange s die pa 1 (some false)
      | (s, .ok (.remote g)) => (ask s (cl / 4) g asid (y / 8 * 8) (.fe 7 0 0 0 none)).1
      | (s, _) => s
    else s) s

/-- An element lands with F by the mode (08 R217): under PRESERVE a destination word is full only when every source word its bytes come from was full,
read with its data (17 R463); `l` are the destination bytes from empty words so far. -/
def landElem (s : State) (cl asid mode b : Nat) (x : Fetched) (l : List Nat) : State × Except Nat Unit × List Nat :=
  match mode with
  | 0 =>
    let l := nextEmpty b x.full l
    let (s, y) := engWrite s cl asid b x.data (some true)
    match y with
    | .ok _ => (clearMixed s cl asid b x.data.length l, y, l)
    | .error _ => (s, y, l)
  | 1 => let (s, y) := engWrite s cl asid b x.data (some true); (s, y, l)
  | 2 => let (s, y) := engWrite s cl asid b x.data (some false); (s, y, l)
  | _ => let (s, y) := engPut .keep keepWrite s cl asid b x.data; (s, y, l)

/-- Bytes that differ from those before the copy come from the copy itself; which of the two a destination takes, with the F read beside it, is open
(17 R463): bit i of a free value decides for byte i. -/
def openMerge (s : State) (old now : Fetched) : State × Fetched :=
  if old.data = now.data ∧ old.full = now.full then (s, now)
  else
    let w := Config.freeValue s.freeCtr
    let n := List.range now.data.length
    (bumpFree s, { now with data := n.map fun i => if bitOf w i then now.data.getD i 0 else old.data.getD i 0,
                            full := n.map fun i => if bitOf w i then now.full.getD i false else old.full.getD i false })

/-- What moving elements has come to. -/
structure Moved where
  /-- the state -/
  s : State
  /-- status: 0 so far, or the first failure -/
  status : Nat := 0
  /-- destination bytes so far whose bytes came from an empty source word -/
  empties : List Nat := []
  /-- lines of destinations so far that took poisoned data (02 R54) -/
  poisoned : List Nat := []
  /-- destinations so far -/
  dsts : List Nat := []
  deriving DecidableEq, Repr

/-- The granules an element's destination lies in take a check that does not match: its data came poisoned (02 R54). -/
def poisonDst (s : State) (cl asid b n : Nat) : State :=
  (piecesOf b n).foldl (fun s p =>
    match engLoc s cl asid p.1 p.2 true with
    | (s, .ok (.home die pa _ _ _ _)) => enterBad s die (pa / 64)
    | (s, _) => s) s

/-- Poisoned data leave the module poisoned for the part of a destination that lies outside it (02 R53). -/
def sendPoison (s : State) (cl asid b : Nat) (bs : List Byte) : State :=
  ((piecesOf b bs.length).foldl (fun acc p =>
    let now := acc.2.take p.2
    match engLoc acc.1 cl asid p.1 p.2 true with
    | (s, .ok (.system target _ q)) => (systemWrite s target q now true, acc.2.drop p.2)
    | (s, _) => (s, acc.2.drop p.2)) (s, bs)).1

/-- Some byte of a destination lies outside the module. -/
def leavesModule (s : State) (cl b n : Nat) : Bool := (piecesOf b n).any fun p => (systemTarget s (cl / 4) p.1).isSome

/-- One element moves. Data whose check fails, and poisoned data, go poisoned to a destination outside the module, and end the command with status 6
(02 R53, 08 R224); poisoned data that stay in the module are stored with checks that do not match (02 R54). -/
def moveElem (old : State) (cl asid n mode : Nat) (m : Moved) (a b : Nat) : Moved :=
  let (s, x) := engFetch m.s cl asid a n
  match x with
  | .error e => if e = 6 then { m with s := sendPoison s cl asid b (rawBytes s cl asid a n), status := 6 } else { m with s := s, status := e }
  | .ok now =>
    if now.pois ∧ leavesModule s cl b n then { m with s := sendPoison s cl asid b now.data, status := 6 }
    else
      let (s, x) := if homesOnly old cl asid a n then
          (match (engFetch old cl asid a n).2 with
            | .ok before => openMerge s before now
            | .error _ => (s, now))
        else (s, now)
      match landElem s cl asid mode b x m.empties with
      | (s, .error e, _) => { m with s := s, status := e }
      | (s, .ok _, l) =>
        { m with s := if now.pois then poisonDst s cl asid b n else s, empties := l, dsts := m.dsts ++ [b],
                 poisoned := if now.pois then m.poisoned ++ (piecesOf b n).map (·.1 / 64) else m.poisoned }

/-- The elements of a command move in order, to the first failure; `old` is the state before the command. An element that `bad` refuses ends
the command with status 7. -/
def moveElems (old : State) (cl asid n mode : Nat) (bad : Nat × Nat → Bool) : List (Nat × Nat) → Moved → Moved
  | [], m => m
  | p :: r, m =>
    if bad p then { m with status := 7 }
    else
      let m := moveElem old cl asid n mode m p.1 p.2
      if m.status = 0 then moveElems old cl asid n mode bad r m else m

/-- Every byte of a line is written by an element of n bytes. -/
def lineCovered (n : Nat) (dsts : List Nat) (line : Nat) : Bool :=
  (List.range 64).all fun i => dsts.any fun b => decide ((64 * line + i + 2 ^ 64 - b) % 2 ^ 64 < n)

/-- The check of a granule that the command wrote whole, element by element, is computed anew (08 R218, R224). -/
def computeChecks (cl asid n : Nat) (m : Moved) : State :=
  m.dsts.foldl (fun s b => (piecesOf b n).foldl (fun s p =>
    match engLoc s cl asid p.1 p.2 true with
    | (s, .ok (.home die pa _ _ _ _)) =>
      if granuleBad (dieOf s die) (pa / 64) && !m.poisoned.contains (p.1 / 64) && lineCovered n m.dsts (p.1 / 64) then setCheck s die (pa / 64) 0 else s
    | (s, _) => s) s) m.s

/-- Elements of n bytes move (17 R462, R463, R468): the state and its status. -/
def runMoves (s : State) (cl asid n mode : Nat) (bad : Nat × Nat → Bool) (es : List (Nat × Nat)) : State × Nat :=
  let m := moveElems s cl asid n mode bad es { s := s }
  (computeChecks cl asid n m, m.status)

/-- A copy moves (17 R462, R463): the state and its status. -/
def runCopy (s : State) (cl asid : Nat) (src dst : Word) (ext : List Nat) (sstr dstr : List Word) (bytes mode : Nat) : State × Nat :=
  runMoves s cl asid bytes mode (fun _ => false) (copyElems (copyDims ext sstr dstr) src.toNat dst.toNat)

/-! ### Gathers and scatters (17 R468) -/

/-- The indices of a list: 4 or 8 bytes each. -/
def readIndices (s : State) (cl asid idx count iw : Nat) : State × Except Nat (List Nat) :=
  let w := if iw = 0 then 4 else 8
  (List.range count).foldl (fun acc j =>
    match acc.2 with
    | .error e => (acc.1, .error e)
    | .ok l =>
      let (s, r) := engRead acc.1 cl asid (idx + w * j) w
      match r with
      | .error e => (s, .error e)
      | .ok bs => (s, .ok (l ++ [leNat bs]))) (s, .ok [])

/-- The moves of a gather or scatter from a list of indices: table element and buffer address. -/
def gatherMoves (tbase stride buf esz : Nat) (xs : List Nat) : List (Nat × Nat) :=
  ((List.range xs.length).zip xs).map fun p => ((tbase + p.2 * stride) % 2 ^ 64, (buf + p.1 * 2 ^ esz) % 2 ^ 64)

/-- The moves of a gather or scatter as source and destination, and those whose table element is not aligned. -/
def runMovesOf (s : State) (cl asid esz mode : Nat) (scatter : Bool) (ms : List (Nat × Nat)) : State × Nat :=
  runMoves s cl asid (2 ^ esz) mode (fun p => (if scatter then p.2 else p.1) % 2 ^ esz != 0) (if scatter then ms.map fun p => (p.2, p.1) else ms)

/-- A gather or scatter moves. -/
def runGather (s : State) (cl asid : Nat) (scatter : Bool) (tbase idx : Word) (count esz iw : Nat) (stride buf : Word) (mode : Nat)
    (list : Option (List Nat)) : State × Nat :=
  match list with
  | some xs => runMovesOf s cl asid esz mode scatter (gatherMoves tbase.toNat stride.toNat buf.toNat esz xs)
  | none =>
    let (s, r) := readIndices s cl asid idx.toNat count iw
    match r with
    | .error e => (s, e)
    | .ok xs => runMovesOf s cl asid esz mode scatter (gatherMoves tbase.toNat stride.toNat buf.toNat esz xs)

/-! ### Transposed tiles (12 R323, 17 R466) -/

/-- Element (i, j) of a tile of w-byte elements. -/
def trElem (t : TrTile) (w i j : Nat) : List Byte := ((t.rows.getD i []).drop (w * j)).take w

/-- The rows a TRPOP writes: the first byte of each (exponents in front of a column-scaled tile), the bytes, the flags. -/
def trRows (t : TrTile) (rb : Bool) (r : RndEnv) : List Byte × List (List Byte) × Nat :=
  if t.kind < 2 then
    let w := if t.kind = 0 then 2 else 4
    ([], (List.range 32).map fun j => (List.range 32).flatMap fun i => trElem t w i j, 0)
  else
    let m := t.bfpM
    let row := fun i => leNat (t.rows.getD i [])
    let ex := fun i => row i % 256
    let mant := fun i j => row i / 2 ^ (64 + m * j) % 2 ^ m
    if rb then
      let out := (List.range 32).map fun j => toBfpRow m r (32 * j) ((List.range 32).map fun i => decodeBfp m (ex i) (mant i j))
      ([], out.map fun o => leBytes (bfpLineBytes m) o.1, out.foldl (fun f o => f ||| o.2) 0)
    else
      ((List.range 32).map fun i => BitVec.ofNat 8 (ex i),
       (List.range 32).map fun j => leBytes (4 * m) ((List.range 32).foldl (fun a i => a + mant i j * 2 ^ (m * i)) 0), 0)

/-- The addresses a row of a rotated operand is written at: runs of 32 bytes keep together (08 R197). -/
def rowWrites (base : Nat) (pitch : Word) (i : Nat) (bs : List Byte) : List (Nat × List Byte) :=
  if fld pitch 51 48 = 0 then [(rotAddr base pitch i 0 % 2 ^ 64, bs)]
  else (List.range ((bs.length + 31) / 32)).map fun q => (rotAddr base pitch i (32 * q) % 2 ^ 64, (bs.drop (32 * q)).take 32)

/-- Everything a TRPOP writes. -/
def trWrites (t : TrTile) (rb : Bool) (dst pitch : Word) (r : RndEnv) : List (Nat × List Byte) × Nat :=
  let (head, rows, fl) := trRows t rb r
  let base := dst.toNat + head.length
  ((if head.isEmpty then [] else [(dst.toNat, head)]) ++
    (List.range rows.length).flatMap fun j => rowWrites base pitch j (rows.getD j []), fl)

/-- Writes in order, to the first failure. -/
def writeList (cl asid : Nat) : List (Nat × List Byte) → State → State × Nat
  | [], s => (s, 0)
  | (a, bs) :: r, s =>
    let (s, y) := engWrite s cl asid a bs none
    match y with
    | .error e => (s, e)
    | .ok _ => writeList cl asid r s

/-- A transposed tile is written: the state, its status and the flags of STAT. -/
def runTrpop (s : State) (cl asid : Nat) (t : TrTile) (rb : Bool) (dst pitch : Word) (rmode srs : Nat) (fmt : Word) : State × Nat × Nat :=
  let (ws, fl) := trWrites t rb dst pitch ⟨rmode, srs, bitOf fmt 20⟩
  let (s, st) := writeList cl asid ws s
  (s, st, if st = 0 then fl else 0)

/-! ### Completion (17 R444, 08 R218) -/

/-- The party an engine command's writes belong to. -/
def engParty (cl : Nat) : EngOwner → Party
  | .ctx _ _ => .cluster cl
  | .firmware d _ => .die d

/-- The flag word of a command is filled, where its address is valid for it: an engine's write, which lands in a curtain's back (09 R241). A word
of another module's die is written and turned full there. One whose walk meets a table pointer that migrates waits (10 R255). -/
def fillFlag (s : State) (cl asid : Nat) (flag : Word) (status : Nat) : State :=
  if !bitOf flag 0 then s
  else
    let va := fld flag 63 3 * 8
    match resolve s cl asid va 8 ⟨true, true, true, false⟩ with
    | (s, .ok (.home die pa _ _ _ false)) =>
      setFullRange (physWrite s die pa (leBytes 8 status)) die pa 8 (some true)
    | (s, .ok (.remote g)) => (ask s (cl / 4) g asid va (.write (leBytes 8 status) .full)).1
    | (s, .error (.wait _)) => lacks s .page
    | (s, _) => s

/-- The status a bad counter or flag word gives a command: 0 when both are good (08 R218). -/
def doneFail (s : State) (cl asid : Nat) (cnt flag : Word) : Nat :=
  if bitOf cnt 31 && !routed s (ctrDie (fld cnt 19 0)) then 2
  else if !bitOf flag 0 then 0
  else
    match (resolve s cl asid (fld flag 63 3 * 8) 8 ⟨true, true, true, false⟩).2 with
    | .ok (.home _ _ _ _ _ false) => 0
    | .ok (.home _ _ _ _ _ true) => 2
    | .ok (.remote _) => 0
    | .ok _ => 3
    | .error f => if failStatus f = waitPage then 2 else failStatus f

/-- The completion actions of a cluster-engine command of core c (17 R444): counter, flag, token. -/
def engDone (s : State) (c : Nat) (e : EngCmd) (status : Nat) : State :=
  let cl := clusterOfCore c
  let (s, status) :=
    if bitOf e.cnt 31 && status = 0 then
      let (s, sat) := ctrRelease s (fld e.cnt 19 0) (BitVec.ofNat 64 (fld e.cnt 63 32)) (engParty cl e.owner) 4
      (s, if sat then 8 else 0)
    else (s, status)
  let s := fillFlag s cl e.asid e.flag status
  match e.owner with
  | .ctx _ x => if e.tok then modCore s c (pushToken · x
      (match e.work with | .copy .. => 1 | .gather .. => 2 | .trpop .. => 3) e.serial e.op status) else s
  | .firmware d cid => finishCmd s d cid (engErr status)

/-- What a command's work comes to: the state, its status and the flags of STAT. -/
def engMoves (s : State) (c : Nat) (e : EngCmd) : State × Nat × Nat :=
  let cl := clusterOfCore c
  if e.status ≠ 0 then (s, e.status, 0)
  else match e.work with
    | .copy src dst ext sstr dstr bytes mode => let r := runCopy s cl e.asid src dst ext sstr dstr bytes mode; (r.1, r.2, 0)
    | .gather sc tb ix n ez iw str bf mode xs => let r := runGather s cl e.asid sc tb ix n ez iw str bf mode xs; (r.1, r.2, 0)
    | .trpop t rb dst pitch rm srs fmt => runTrpop s cl e.asid t rb dst pitch rm srs fmt

/-- The flags that a once-only command gives stay in its context when the interval is rolled back, for a rerun does not make it again (10 R276). -/
def keepStat (s : State) (c x : Nat) (once : Bool) (f : Word) : State :=
  if !once then s
  else modCore s c fun k => { k with shadow := k.shadow.map fun h => if h.id = x then { h with ctx := { h.ctx with stat := h.ctx.stat ||| f } } else h }

/-- A command is tried, already taken out of its engine: what it moves, then its completion actions. The flag says that it waits, for a page or a table
pointer that migrates (10 R255, R262) or for a die of another module. -/
def engTry (s : State) (c : Nat) (e : EngCmd) : State × Bool :=
  asking (.engine e.owner e.serial) s fun s =>
    let (s, st, fl) := engMoves s c e
    if waitPage ≤ st then lacks s .page
    else
      let s := match e.owner with
        | .ctx _ x => if fl = 0 then s else keepStat (orStat s c x (BitVec.ofNat 64 fl)) c x e.tok (BitVec.ofNat 64 fl)
        | .firmware _ _ => s
      engDone s c e st

/-- The command would wait. -/
def engWaits (s : State) (c : Nat) (e : EngCmd) : Bool := (engTry s c e).2

/-- The engine of a command: 1 copy, 2 gather, 3 transpose. -/
def engNo (e : EngCmd) : Nat :=
  match e.work with
  | .copy .. => 1
  | .gather .. => 2
  | .trpop .. => 3

/-- The first command that satisfies a test, and the others. -/
def takeEng (p : EngCmd → Bool) : List EngCmd → Option (EngCmd × List EngCmd)
  | [] => none
  | e :: l => if p e then some (e, l) else (takeEng p l).map fun r => (r.1, e :: r.2)

/-- The first command of a core that satisfies a test completes; without one nothing happens, and one that waits stays. -/
def completeOwn (s : State) (c : Nat) (p : EngCmd → Bool) : State :=
  match takeEng p (coreOf s c).engs with
  | none => s
  | some (e, l) =>
    let (t, waits) := engTry (modCore s c fun k => { k with engs := l }) c e
    if waits then modCore t c fun k => { k with engs := (coreOf s c).engs } else t

/-- The core of a cluster's copy engine whose oldest copy arrived first, before a step (17 R464): commands of other cores that arrived earlier are
served earlier. -/
def earlierCopy (s : State) (c since : Nat) : Option Nat :=
  let cands := (List.range 16).filterMap fun i =>
    let o := 16 * clusterOfCore c + i
    if o = c then none else ((coreOf s o).engs.find? fun e => engNo e == 1).bind fun e => if e.since < since then some (e.since, o) else none
  cands.foldl (fun b r => match b with
    | none => some r
    | some a => if r.1 < a.1 then some r else some a) none |>.map (·.2)

/-- The copies of other cores of the cluster that arrived before a step complete first; the flag says that one of them waits. -/
def serveEarlier (c since : Nat) : Nat → State → State × Bool
  | 0, s => (s, (earlierCopy s c since).isSome)
  | fuel + 1, s =>
    match earlierCopy s c since with
    | none => (s, false)
    | some o =>
      let t := completeOwn s o fun e => engNo e == 1
      if (coreOf t o).engs.length = (coreOf s o).engs.length then (t, true) else serveEarlier c since fuel t

/-- The oldest command of a core that satisfies a test completes, behind the copies of its cluster that arrived before it. -/
def completeEng (s : State) (c : Nat) (p : EngCmd → Bool) : State :=
  match takeEng p (coreOf s c).engs with
  | none => s
  | some (e, _) =>
    if engNo e = 1 then
      match serveEarlier c e.since 256 s with
      | (s, false) => completeOwn s c p
      | (s, true) => s
    else completeOwn s c p

/-- Every command of a core that satisfies a test completes, oldest first. -/
def completeEngs (c : Nat) (p : EngCmd → Bool) : Nat → State → State
  | 0, s => s
  | fuel + 1, s => completeEngs c p fuel (completeEng s c p)

/-- A command whose completion has an issue cycle, and that has come (17 R466). -/
def overdue (ic : Nat) (e : EngCmd) : Bool := match e.due with | some n => decide (n ≤ ic) | none => false

/-- A TRPOP to the cluster's scratchpad completes no later than a fixed number of issue cycles behind its issue (17 R466, 07 R185); those
before it in the engine complete first. -/
def dueEngs (s : State) (c : Nat) : State :=
  let k := coreOf s c
  if k.engs.any (overdue k.ic) then completeEngs c (fun e => engNo e == 3) (k.engs.filter fun e => engNo e == 3).length s else s

/-- Every result in flight, every reply and every cluster-engine command of a core is done (07 R186, 17 R445), and a PHASE
drain is over (14 R365): what comes from outside the module is still awaited. -/
def settle (s : State) (c : Nat) : State :=
  let s := modCore (landAll s c) c fun k => { k with drain := none }
  completeEngs c (fun _ => true) (coreOf s c).engs.length s

end Sys2Proof.Machine
end

