-- ==== Sys2Proof/Machine/Ctxlife.lean ====
section
/-! DEFINITION. The life of a context: its save area (07 R190, 17 R447), checkpoints (10 R274), switches (05 R130, R131),
its end (05 R118 to R122, 14 R370), kills (05 R119, R120), joins (05 R117) and what they tell their commands. -/

namespace Sys2Proof.Machine

/-! ### The eager state in the save area (07 R190) -/

/-- Words as bytes. -/
def wordBytes (ws : List Word) : List Byte := ws.flatMap fun w => leBytes 8 w.toNat

/-- n zero bytes. -/
def zeros (n : Nat) : List Byte := List.replicate n 0

/-- The 256 bytes of the engine registers (17 R447). -/
def engineImage (t : Ctx) : List Byte :=
  wordBytes [t.mx.m, t.mx.k, t.mx.n, t.mx.acc, t.mx.crow, t.mx.ccol, t.mx.clus, t.mx.pds, t.mx.pdp, t.mx.tap, t.mx.spm,
    t.serial.setWidth 64] ++
  (List.range 6).flatMap (fun i => leBytes 4 (cpReg t i).toNat) ++
  wordBytes ((List.range 6).map fun i => cpReg t (0x10 + i)) ++
  wordBytes ((List.range 6).map fun i => cpReg t (0x20 + i)) ++
  wordBytes [cpReg t 0x30, cpReg t 0x31, cpReg t 0x32, cpReg t 0x33, 0]

/-- The eager state up to the owner words: bytes 0x0_0000 to 0x0_52FF of a save area. `ids` are CTXID, COREID and TIME. The
bytes to which the layout gives no content (0x1C0 to 0x1FF, 0x2F0 to 0x2FF, 0x16C0 to 0x16FF and the places of 0x300 to 0x3FF that no control register
takes) are written as zeros (DESIGN CHOICE, log 64: 07 R190 gives them no content). -/
def eagerImage (ids : List Word) (t : Ctx) : List Byte :=
  wordBytes ((List.range 56).map (sReg t)) ++ zeros 64 ++
  wordBytes ((List.range 16).map (aReg t)) ++
  (List.range 8).map (fun n => BitVec.ofNat 8 (pReg t n).toNat) ++
  wordBytes [t.pc.setWidth 64] ++
  wordBytes ((List.range 6).flatMap fun j => [tabGet 0 t.lsCnt j, tabGet 0 t.lsBody j]) ++ zeros 16 ++
  wordBytes [0, t.fmt, t.shp, t.rmode, t.srs, t.amx, t.feb, t.stat] ++ zeros 64 ++ wordBytes ids ++ zeros 104 ++
  wordBytes ((List.range 32).map fun i => tabGet 0 t.handles (0x40 + i)) ++
  engineImage t ++
  (List.range 32).flatMap (fun e => leBytes 4 (tabGet 0 t.bmap e).toNat) ++
  (List.range 8).flatMap (fun c => leBytes 520 (tabGet 0 t.curves c).toNat) ++ zeros 64 ++
  (List.range 15).flatMap (fun i => leBytes 1024 (mReg t (i + 1)).toNat)

/-- Word i of the bytes from an offset on. -/
def imageWord (bs : List Byte) (off i : Nat) : Word := BitVec.ofNat 64 (leNat ((bs.drop (off + 8 * i)).take 8))

/-- A table filled from a list of numbers. -/
def tabOf {α : Type} [DecidableEq α] (d : α) (ns : List Nat) (f : Nat → α) : Tab α := ns.foldl (fun t n => tabSet d t n (f n)) []

/-- The context with its eager state read from a save area's bytes: reserved fields read as zero (00 R7). -/
def restoreEager (t : Ctx) (bs : List Byte) : Ctx :=
  let w := imageWord bs
  { t with
    s := tabOf 0 ((List.range 55).map (· + 1)) (w 0)
    a := tabOf 0 (List.range 16) (w 0x200)
    p := (List.range 8).foldl (fun p n => if n ≠ 0 ∧ bs.getD (0x280 + n) 0 ≠ 0 then setFld p n n 1 else p) 0
    pc := (w 0x288 0).setWidth 18
    lsCnt := tabOf 0 (List.range 6) fun j => w 0x290 (2 * j)
    lsBody := tabOf 0 (List.range 6) fun j => crMask 0x21 (w 0x290 (2 * j + 1))
    fmt := crMask 1 (w 0x300 1), shp := crMask 2 (w 0x300 2), rmode := crMask 3 (w 0x300 3), srs := crMask 4 (w 0x300 4),
    amx := crMask 5 (w 0x300 5), feb := crMask 6 (w 0x300 6), stat := crMask 7 (w 0x300 7)
    handles := tabOf 0 ((List.range 32).map (· + 0x40)) fun n => crMask n (w 0x400 (n - 0x40))
    mx := mxOfWords (w 0x500)
    serial := (w 0x500 11).setWidth 32
    cp := (((List.range 6).foldl (fun c i => tabSet (cpDefault i) c i (BitVec.ofNat 64 (leNat ((bs.drop (0x560 + 4 * i)).take 4)))) []
      |> fun c => (List.range 6).foldl (fun c i => tabSet 0 c (0x10 + i) (w 0x578 i)) c)
      |> fun c => (List.range 6).foldl (fun c i => tabSet 0 c (0x20 + i) (w 0x5A8 i)) c)
      |> fun c => (List.range 4).foldl (fun c i => tabSet (cpDefault (0x30 + i)) c (0x30 + i) (cpMask (0x30 + i) (w 0x5D8 i))) c
    bmap := tabOf 0 (List.range 32) fun e => BitVec.ofNat 32 (leNat ((bs.drop (0x600 + 4 * e)).take 4)) &&& 0x1FFFFF
    curves := tabOf 0 (List.range 8) fun c => BitVec.ofNat 4160 (leNat ((bs.drop (0x680 + 520 * c)).take 520))
    m := tabOf 0 ((List.range 15).map (· + 1)) fun n => BitVec.ofNat 8192 (leNat ((bs.drop (0x1700 + 1024 * (n - 1))).take 1024)) }

/-- Bytes of the eager image ahead of VSAVED and ASAVED. -/
def eagerBytes : Nat := 0x5300

/-- Bytes of the eager state (07 R190). -/
def eagerSize : Nat := 0x5348

/-- First-level lines of the save area leave the cache before the core writes or reads it. -/
def flushSaveArea (s : State) (c : Nat) (t : Ctx) : State :=
  let o := l1Core s c
  let ls := (coreOf s o).l1.filter fun l => l.asid == t.asid && decide (t.csa.toNat / 64 ≤ l.line) && decide (l.line < t.csa.toNat / 64 + 0x210000 / 64)
  ls.foldl (fun s l => l1FlushLine s c l.asid l.line) s

/-- CTXID, COREID and TIME as a context reads them (13 R344). -/
def idWords (s : State) (c x : Nat) : List Word := [readCr s c x 0x10, readCr s c x 0x11, readCr s c x 0x12]

/-- The eager save of a context (07 R190): to memory where software has chosen the save areas, else it stays with the context. VSAVED and ASAVED are
written as they stand there: the handler that sets and clears them (07 R192) works on the save area (log 14). -/
def saveEager (s : State) (c x : Nat) : State × Except Nat Unit :=
  let t := ctxOf s c x
  let (s, r) := engRead (flushSaveArea s c t) (clusterOfCore c) t.asid (t.csa.toNat + eagerBytes) (eagerSize - eagerBytes)
  match r with
  | .error e => (s, .error e)
  | .ok owned => engWrite s (clusterOfCore c) t.asid t.csa.toNat (eagerImage (idWords s c x) t ++ owned) none

/-- The eager save, which waits while a page of the save area migrates (10 R262) or another module's die has not answered. -/
def eagerSave (s : State) (c x : Nat) : State × Except Nat Unit :=
  if (coreOf s c).hook.isNone then (s, .ok ()) else askingFor (.step (.preemptLand (Fin.ofNat 256 c)) 0 x) s fun s => saveEager s c x

/-- The eager restore of a context; there is none before its first run. It waits as the save does. -/
def eagerRestore (s : State) (c x : Nat) : State × Except Nat Unit :=
  let t := ctxOf s c x
  if (coreOf s c).hook.isNone || t.fresh then (s, .ok ())
  else askingFor (.step (.preemptLand (Fin.ofNat 256 c)) 1 x) s fun s =>
    let (s, r) := engRead (flushSaveArea s c t) (clusterOfCore c) t.asid t.csa.toNat eagerSize
    match r with
    | .error e => (s, .error e)
    | .ok bs => (setCtx s c x (restoreEager t bs), .ok ())

/-! ### Checkpoints (10 R274, R275) -/

/-- The copy a checkpoint takes. -/
def snapshot (k : Core) (x : Nat) : Shadow :=
  { id := x, ctx := coreCtx k x, v := k.v, acc := k.acc, wts := (k.wActive, k.wOther), trq := k.trq }

/-- A CHECKPOINT is taken: every write in flight lands, every access is answered, and the eager state is copied. -/
def takeCheckpoint (s : State) (c x : Nat) : State :=
  let s := modCtx (landAll s c) c x fun t => { t with replayTo := 0 }
  modCore s c fun k => { k with shadow := some (snapshot k x) }

/-- An exchange is of a context's bundle. -/
def Exchange.ofBundle (e : Exchange) (c x : Nat) : Bool :=
  match e.asker with
  | .bundle c' x' _ => c' == c && x' == x
  | _ => false

/-- A request is under way, or its response stands for something done that may not be done twice: not one that reads, that of a failed attempt, or
that of an operation which may be made again. -/
def Exchange.counts (e : Exchange) : Bool :=
  match e.req.op, e.reply with
  | .ctrGet _ _, _ => false
  | _, none => true
  | .fe op _ _ _ _, some (r, _) => op != 1 && r.p6 && r.cause == 0
  | .publ _, some (r, _) => r.cause == 0
  | _, some _ => false

/-- A bundle of a context has asked another module's die for something that must be answered, and taken, before it is interrupted (07 R186); the wait
of a CWAIT does not count, for its bundle stands at a landing point (15 R396). -/
def asksOutside (s : State) (c x : Nat) : Bool := s.mod.exchanges.any fun e => e.ofBundle c x && e.counts

/-- A bundle of a context waits for a response of another module's die. -/
def asksNow (s : State) (c x : Nat) : Bool := s.mod.exchanges.any fun e => e.ofBundle c x && e.reply.isNone

/-- The die of another module where the attempt of a bundle parks, or has parked, its context (08 R210). -/
def parkAsked (s : State) (c x : Nat) : Option Nat :=
  (s.mod.exchanges.find? fun e => e.ofBundle c x && (match e.req.op, e.reply with
    | .fe _ _ _ _ (some _), none => true
    | .fe _ _ _ _ (some _), some (r, _) => r.park == 1
    | _, _ => false)).map (·.gdie)

/-- The context awaits an answer, a matrix completion a tap's page, or a cooperative MXA of the core its group (07 R186); or what it asks. -/
def awaitingBut (s : State) (c x : Nat) (asks : Bool) : Bool :=
  awaitsOutside (coreOf s c) x || (coreOf s c).coop.isSome || (coreOf s c).pend.any (·.waits) || asks

/-- The context awaits an answer (07 R186). -/
def awaiting (s : State) (c x : Nat) : Bool := awaitingBut s c x (asksOutside s c x)

/-- An engine command of the context waits for a page move or another module's die (10 R262). -/
def engsWait (s : State) (c x : Nat) : Bool :=
  (coreOf s c).engs.any fun e => (match e.owner with | .ctx c' x' => c' == c && x' == x | _ => false) && engWaits s c e

/-- The core still waits for something an interruption needs (07 R186): an answer, one that its bundle has still to take among them, or an engine
command. -/
def unsettled (s : State) (c x : Nat) : Bool := awaiting s c x || engsWait s c x

/-- The core waits for an answer that has not come, or an engine command: what a trap of the bundle itself, or a kill at it, waits for. -/
def unanswered (s : State) (c x : Nat) : Bool :=
  awaitingBut s c x (s.mod.exchanges.any fun e => e.ofBundle c x && e.reply.isNone && e.counts) || engsWait s c x

/-- A response has come that the bundle takes before anything interrupts it: its operation is performed. -/
def replyReady (s : State) (c x : Nat) : Bool := s.mod.exchanges.any fun e => e.ofBundle c x && e.reply.isSome && e.counts

/-- A response has come with which the held bundle goes on: any but that of a failed attempt. -/
def answeredNow (s : State) (c x : Nat) : Bool :=
  s.mod.exchanges.any fun e => e.ofBundle c x && (match e.reply with | some (r, _) => r.p6 || !r.p7 || r.cause != 0 | none => false)

/-! ### Joins and commands (05 R117, R118) -/

/-- Bit of a cause's fault class in a summary (05 R118). -/
def classBit (cause : Nat) : Nat :=
  if cause ∈ [0x01, 0x02, 0x03, 0x04, 0x05, 0x06, 0x07] then 0
  else if cause ∈ [0x08, 0x09, 0x0A] then 1
  else if cause = 0x0F then 2
  else if cause ∈ [0x0B, 0x10, 0x0C] then 3
  else if cause = 0x11 then 4
  else if cause = 0x12 then 5
  else if cause = 0x16 then 7
  else 6

/-- How a context or a waiting task ends. -/
inductive EndKind where
  /-- ended clean -/
  | clean
  /-- faulted, with its cause -/
  | fault (cause : Nat)
  /-- faulted with class INTEGRITY whatever its cause (10 R275, R279) -/
  | integrity
  /-- killed -/
  | killed
  deriving DecidableEq, Repr

/-- The summary word of an end. -/
def EndKind.summary : EndKind → BitVec 32
  | .clean => 0
  | .fault c => BitVec.ofNat 32 (2 ^ classBit c)
  | .integrity => 4
  | .killed => 0x40000000

/-- The cause an end records as a first fault: none when clean or killed. -/
def EndKind.cause : EndKind → Option Nat
  | .clean => none
  | .fault c => some c
  | .integrity => some 0x0F
  | .killed => none

/-- A join record. -/
def joinOf (s : State) (d j : Nat) : Option JoinRec := ((dieOf s d).joins.find? fun e => e.1 == j).map (·.2)

/-- The state with a join record written. -/
def setJoin (s : State) (d j : Nat) (r : JoinRec) : State := modDie s d fun k => { k with joins := tabPut k.joins j r }

/-- A join record is freed. -/
def freeJoin (s : State) (d j : Nat) : State := modDie s d fun k => { k with joins := tabDel k.joins j }

/-- The lowest free join record of a die. -/
def lowestFreeJoin (s : State) (d : Nat) : Option Nat := (List.range 4096).find? fun j => (joinOf s d j).isNone

/-- The id of a join record (05 R117). -/
def joinId (s : State) (d j : Nat) : Word := BitVec.ofNat 64 (2 ^ 31 + globalDie s d * 4096 + j)

/-- The count of a join: its own, or that of its counter. -/
def joinCount (s : State) (r : JoinRec) : Word :=
  if r.creator.isSome then r.count
  else match localDie s (ctrDie r.ctr) with
    | some d => ctrVal s d (ctrIdx r.ctr)
    | none => r.count

/-- A task or child counts into its join (05 R117, R118, R122): a release at system scope by its core. -/
def countIntoJoin (s : State) (c d j child : Nat) (e : EndKind) : State :=
  match joinOf s d j with
  | none => s
  | some r =>
    let first := match r.first, e.cause with
      | none, some q => some (child, q, globalDie s (dieOfCore c) * 64 + idxOfCore c)
      | f, _ => f
    let r := { r with summary := r.summary ||| e.summary, first := first,
                      count := if r.creator.isSome then r.count + 1 else r.count }
    let s := setJoin s d j r
    let s := if r.creator.isSome then s else (ctrRelease s r.ctr 1 (.core c) 5).1
    if r.creator.isSome && r.orphan && decide (r.target.toNat ≤ r.count.toNat) then freeJoin s d j else s

/-- The first fault of a command's work enters its record. -/
def noteFault (s : State) (d cid c : Nat) (e : EndKind) : State :=
  modCmd s d cid fun k =>
    let k := if k.fcause = 0 then
        match e.cause with
        | some q => { k with fcause := q, fcore := globalDie s (dieOfCore c) * 64 + idxOfCore c }
        | none => k
      else k
    { k with fsum := k.fsum ||| e.summary }

/-- The error a command of launched work ends with: FAULT when its summary is not zero, CORE_RETIRED when that ended it. -/
def launchErr (k : Cmd) : Nat := if k.err ≠ 0 then k.err else if k.fsum = 0 then 0 else 0x09

/-- An end is told to the command that launched the work; the members of its gang that are to be killed are returned. -/
def tellCommand (s : State) (c : Nat) (l : Launch) (e : EndKind) : State × List Nat :=
  match l with
  | .gang d cid =>
    let s := noteFault s d cid c e
    match cmdOf s d cid with
    | none => (s, [])
    | some k =>
      match k.work with
      | .gang cores ended rel =>
        let s := modCmd s d cid fun k => { k with work := .gang cores (ended + 1) rel }
        if ended + 1 = cores.length then (finishCmd s d cid (launchErr k), [])
        else (s, if e.cause.isSome then cores.filter (· != c) else [])
      | _ => (s, [])
  | .task d cid _ =>
    match cmdOf s d cid with
    | none => (s, [])
    | some k =>
      match k.work with
      | .tasks j total ended =>
        let s := modCmd s d cid fun k => { k with work := .tasks j total (ended + 1) }
        if ended + 1 = total then
          let s := match joinOf s d j with
            | none => s
            | some r => modCmd s d cid fun k =>
                let k := { k with fsum := r.summary }
                match r.first with
                | some (_, q, co) => { k with fcause := q, fcore := co }
                | none => k
          let err := match cmdOf s d cid with
            | some k => launchErr k
            | none => 0
          (finishCmd (freeJoin s d j) d cid err, [])
        else (s, [])
      | _ => (s, [])
  | .child => (s, [])
  | .ordered d cid _ => (noteFault s d cid c e, [])

/-! ### The end of a context -/

/-- What a kill reaches. -/
inductive Target where
  /-- a context of a core -/
  | ctx (c x : Nat)
  /-- a task that waits on a core, or to be placed: created under this join with this number -/
  | waiting (d j child : Nat)
  deriving DecidableEq, Repr

/-- The contexts that were created under a join of a die, and have not ended. -/
def joinCtxs (s : State) (d j : Nat) : List (Target × Nat) :=
  s.cores.flatMap fun e => e.2.ctxs.filterMap fun p =>
    match p.2.under with
    | some (o, n) => if o == (d, j) && p.2.status != .none then some (.ctx e.1 p.1, n) else none
    | none => none

/-- The children created under a join that wait to start. -/
def joinWaiting (s : State) (d j : Nat) : List (Target × Nat) :=
  let f := fun (r : TaskReq) => match r.under with
    | some (o, n) => if o == (d, j) then some (Target.waiting d j n, n) else none
    | none => none
  (s.cores.flatMap fun e => e.2.waitq.filterMap f) ++ ((dieOf s d).placing.flatMap fun p => p.reqs.filterMap f)

/-- The unended children of a join, with their numbers. -/
def joinChildren (s : State) (d j : Nat) : List (Target × Nat) := joinCtxs s d j ++ joinWaiting s d j

/-- The joins a context created, by record. -/
def joinsOf (s : State) (c x : Nat) : List Nat :=
  ((dieOf s (dieOfCore c)).joins.filter fun e => e.2.creator == some (c, x) && !e.2.orphan).map (·.1)

/-- The joins of a context that ends keep counting without it; those that are full are freed. -/
def orphanJoins (s : State) (c x : Nat) : State :=
  let d := dieOfCore c
  (joinsOf s c x).foldl (fun s j =>
    match joinOf s d j with
    | some r => if r.target.toNat ≤ r.count.toNat then freeJoin s d j else setJoin s d j { r with orphan := true, creator := some (c, 8) }
    | none => s) s

/-- The tickets of a killed context are released for it when their turn comes (15 R399); one that its ring has passed is released already. -/
def oweTickets (s : State) (d : Nat) (t : Ctx) : State :=
  payAll (modDie s d fun k => { k with debts := k.debts ++ (t.bufs ++ t.ticket.toList) })

/-- A park record is a context's (08 R212). -/
def parkOf (s : State) (c x : Nat) (p : Park) : Bool := p.core == idxOfCore c && p.die == globalDie s (dieOfCore c) && p.ctx == x

/-- The park record of a context in the green room of another module's die leaves it, or takes another core and context. -/
def tellPark (s : State) (c x : Nat) (goal : Option (Nat × Nat)) : State :=
  match (match (ctxOf s c x).status with | .abroad g => some g | _ => parkAsked s c x) with
  | some g => askRemote s (dieOfCore c) g 0 0 (.repark (idxOfCore c) x goal)
  | none => s

/-- The park record of a context leaves the green room (05 R119). -/
def dropParks (s : State) (c x : Nat) : State :=
  (List.range 4).foldl (fun s d => if (dieOf s d).parked.isEmpty then s else modDie s d (dropParksWhere · (parkOf s c x))) s

/-- The start of tasks on a core becomes due. -/
def dueStart (s : State) (c : Nat) : State :=
  let i : Due := { step := .taskStart (Fin.ofNat 256 c) }
  if s.agenda.contains i then s else { s with agenda := s.agenda ++ [i] }

/-- A context ENDS (05 R118 to R122): its writes are published at system scope, its reservations are released, and it is
counted; what its end kills in turn is returned. Its registers and queues stay as they are until its id is used again (20 R494). The landings and engine work of the context are done before. -/
def endContext (s : State) (c x : Nat) (e : EndKind) : State × List Target :=
  let t := ctxOf s c x
  if t.status = .none then (s, [])
  else
    let s := publishAll s c
    let s := if e = .killed then dropParks (tellPark (oweTickets s (dieOfCore c) t) c x none) c x else s
    let kids := if e = .killed then (joinsOf s c x).flatMap fun j => (joinChildren s (dieOfCore c) j).map (·.1) else []
    let s := orphanJoins s c x
    let s := dropBundle s c x
    let gone : Ctx := { t with status := .none, spec := none, join := none, under := none, held := none, kept := none, replay := [] }
    let s := modCore s c fun k => { k with ctxs := tabPut k.ctxs x gone, pend := k.pend.filter (fun p => p.ctx != x),
                                           arrivals := k.arrivals.filter (fun a => a.ctx != x),
                                           tokens := k.tokens.filter (fun a => a.ctx != x),
                                           shadow := match k.shadow with | some h => if h.id = x then none else some h | none => none,
                                           rerun := if k.run = some x then none else k.rerun }
    let s := match t.join with
      | some (d, j) => countIntoJoin s c d j t.child e
      | none => s
    let (s, members) := tellCommand s c t.launch e
    let s := if (coreOf s c).waitq.isEmpty then s else dueStart s c
    (s, kids ++ members.flatMap fun m => (coreOf s m).ctxs.filterMap fun p => if p.2.launch == t.launch then some (.ctx m p.1) else none)

/-- What a child that waits to go on after its core's retirement leaves behind when it is killed (05 R119): its park record goes, its tickets
are released for it, and its own joins' children are killed in turn. -/
def endMoved (s : State) (r : TaskReq) : State × List Target :=
  match r.moved with
  | none => (s, [])
  | some t =>
    let (c, x) := r.old
    let s := dropParks (oweTickets s (dieOfCore c) t) c x
    let kids := (joinsOf s c x).flatMap fun j => (joinChildren s (dieOfCore c) j).map (·.1)
    (orphanJoins s c x, kids)

/-- A waiting task is removed and counted as killed; its core, or its die's launches, may go on (05 R114, R119). -/
def endWaiting (s : State) (d j child : Nat) : State × List Target :=
  let hit := fun (r : TaskReq) => r.under == some ((d, j), child)
  let old := (s.cores.flatMap fun e => e.2.waitq.filter hit) ++ (dieOf s d).placing.flatMap fun p => p.reqs.filter hit
  let on := (s.cores.filter fun e => e.2.waitq.any hit).map (·.1)
  let s := { s with cores := s.cores.map fun e => if e.2.waitq.any hit then (e.1, { e.2 with waitq := e.2.waitq.filter fun r => !hit r }) else e }
  let s := modDie s d fun k => { k with placing := k.placing.map fun p => { p with reqs := p.reqs.filter fun r => !hit r } }
  let s := if on.isEmpty then dueStart s (64 * d + tabGet 0 s.mod.fwCore d) else on.foldl dueStart s
  old.foldl (fun (acc : State × List Target) r =>
    let (s, l) := endMoved acc.1 r
    let s := match r.join with
      | some (e, k) => countIntoJoin s (64 * d) e k r.child .killed
      | none => s
    (s, acc.2 ++ l)) (s, [])

/-- Kills reach their targets (05 R119): a running context ends at its next bundle boundary, the others at once. -/
def killAll : Nat → List Target → State → State
  | 0, _, s => s
  | _ + 1, [], s => s
  | fuel + 1, t :: ts, s =>
    match t with
    | .ctx c x =>
      if (ctxOf s c x).status = .none then killAll fuel ts s
      else if (coreOf s c).run = some x then killAll fuel ts (modCtx s c x fun t => { t with killed := true })
      else
        let (s, more) := endContext s c x .killed
        killAll fuel (ts ++ more) s
    | .waiting d j child =>
      let (s, more) := endWaiting s d j child
      killAll fuel (ts ++ more) s

/-- More kills than one step can set off. -/
def killFuel : Nat := 1000000

/-! ### Choosing and switching contexts (05 R130) -/

/-- Context ids a core offers: 7 while a hook stands (21 R496). -/
def ctxIds (k : Core) : Nat := if k.hook.isSome then 7 else 8

/-- The first ready context in ascending id after `from`, wrapping around to it. -/
def nextReady (k : Core) (x : Nat) : Option Nat :=
  ((List.range 8).map fun i => (x + 1 + i) % 8).find? fun y => (coreCtx k y).status == .ready

/-- A context is ended, what its end kills is killed, and the core has no running context. -/
def endAndKill (s : State) (c x : Nat) (e : EndKind) : State :=
  let s := modCore s c fun k => if k.run = some x then { k with run := none, lastCtx := x, sliceUsed := 0 } else k
  let (s, more) := endContext s c x e
  killAll killFuel more s

/-- The cause of a failed save or restore (07 R190). -/
def saveCause (status : Nat) : Nat := if status = 3 then 0x09 else 0x0A

/-- A context begins to run: its eager state is restored, its slice is full and a checkpoint is taken. -/
def enter (s : State) (c x : Nat) : State :=
  let s := modCore s c fun k => { k with run := some x, lastCtx := x, sliceUsed := 0, preempt := false, rerun := none }
  let s := modCtx s c x fun t => { t with fresh := false, grp := [], held := none, atLand := false, status := .ready }
  modCore s c fun k => { k with shadow := some (snapshot k x) }

/-- The commit of an ordered launch is looked at again. -/
def dueCommit (s : State) : Launch → State
  | .ordered d cid _ => due s .taskCommit d cid
  | _ => s

/-- A context whose save or restore failed ends as faulted (07 R190). -/
def endUnsaved (s : State) (c x status : Nat) : State :=
  dueCommit (endAndKill s c x (.fault (saveCause status))) (ctxOf s c x).launch

/-- The core goes on with the next ready context after `from`, or idles; while the module suspends it idles (04 R97). A context whose restore
fails ends as faulted; one whose restore waits keeps the core idle, which tries again. -/
def runNext (c : Nat) : Nat → Nat → State → State
  | 0, _, s => s
  | fuel + 1, x, s =>
    match (if s.mod.susp then none else nextReady (coreOf s c) x) with
    | none => modCore s c fun k => { k with run := none, lastCtx := x, sliceUsed := 0, preempt := false }
    | some y =>
      let (s, r) := eagerRestore s c y
      match r with
      | .ok _ => enter s c y
      | .error st =>
        if waitPage ≤ st then modCore s c fun k => { k with run := none, lastCtx := (y + 7) % 8, sliceUsed := 0, preempt := false }
        else runNext c fuel y (endUnsaved s c y st)

/-- The core leaves its running context x, which stays resident with a status, and goes on with the next one. While its save waits the context
stands on the core and issues nothing. -/
def switchAway (s : State) (c x : Nat) (st : CtxStatus) : State :=
  let s := modCtx (dropBundle s c x) c x fun t => { t with status := st, grp := [], held := none }
  if st = .ready ∧ !s.mod.susp ∧ nextReady (coreOf s c) x = some x then enter s c x
  else
    let (s, r) := eagerSave s c x
    let count := ((coreOf s c).shadow.map (·.count)).getD 0
    match r with
    | .ok _ => runNext c 9 x (modCtx s c x fun t => { t with replayTo := t.replayTo - count })
    | .error e => if waitPage ≤ e then modCtx s c x fun t => { t with held := some (.leave .away) } else runNext c 9 x (endUnsaved s c x e)

/-- The running context leaves its core in the status it has, its save area's page having come; a kill that waited takes it there. -/
def goAway (s : State) (c x : Nat) : State :=
  let s := switchAway s c x (ctxOf s c x).status
  if (ctxOf s c x).killed ∧ (coreOf s c).run ≠ some x ∧ (ctxOf s c x).status ≠ .none then endAndKill s c x .killed else s

/-- A context becomes ready; an idle core runs it. -/
def makeReady (s : State) (c x : Nat) : State :=
  let s := modCtx s c x fun t => if t.status = .none then t else { t with status := .ready }
  if (coreOf s c).run.isNone then runNext c 9 (x + 7) s else s

/-- An ordered task ends for its launch: it waits to commit (05 R125, R126). -/
def endOrdered (s : State) (c x : Nat) (e : EndKind) : State :=
  modCtx s c x fun t => { t with spec := t.spec.map fun q => { q with ended := some (e.cause.getD 0) } }

/-! ### Ordered tasks: signatures and aborts (05 R124, R125) -/

/-- The contexts that run tasks of an ORDERED command: core, context and position. -/
def orderedCtxs (s : State) (d cid : Nat) : List (Nat × Nat × Nat) :=
  s.cores.flatMap fun e => e.2.ctxs.filterMap fun p =>
    match p.2.launch with
    | .ordered d' cid' ix => if d' = d ∧ cid' = cid ∧ p.2.status ≠ .none then some (e.1, p.1, ix) else none
    | _ => none

/-- The tasks of an ORDERED command behind one of them, in its order. -/
def laterTasks (s : State) (d cid ix : Nat) : List Nat :=
  match cmdOf s d cid with
  | some c =>
    match c.work with
    | .ordered order _ => (order.dropWhile (· != ix)).drop 1
    | _ => []
  | none => []

/-- The bits a granule sets in a read-set signature (05 R124). -/
def sigBits (g : Nat) : List Nat := [(g ^^^ (g / 2 ^ 10)) % 1024, (g * 0x9E3779B9) / 2 ^ 22 % 1024]

/-- A granule of a write set hits a task's read-set signature. -/
def sigHit (q : Spec) (g : Nat) : Bool :=
  let sig := q.readSet.flatMap fun r => sigBits (r % 2 ^ 50)
  (sigBits (g % 2 ^ 50)).all sig.contains

/-- An ordered task is aborted (05 R125, R127): what it kept back goes, its tickets are released for it, its core's first-level lines go, so
that its rerun reads what the commits before it published (09 R245, R249), and it starts again from its first bundle with its first
registers, its accumulator pages as they were (09 R245). A park record it has stays until its wake walk, which then finds no parked context (08 R215). -/
def abortTask (s : State) (c x : Nat) : State :=
  let t := ctxOf s c x
  match t.spec with
  | none => s
  | some q =>
    let s := dropAllClean (oweTickets (dropBundle (tellPark s c x none) c x) (dieOfCore c) t) c
    let s := modCore s c fun k => q.undo.foldl (fun k p => setAccPage k p.1 p.2) k
    let s := modCore s c fun k =>
      { k with pend := k.pend.filter (fun p => p.ctx != x), arrivals := k.arrivals.filter (fun a => a.ctx != x),
               tokens := k.tokens.filter (fun a => a.ctx != x), rerun := if k.run = some x then none else k.rerun,
               late := if k.run = some x then none else k.late,
               shadow := match k.shadow with | some h => if h.id = x then none else some h | none => none }
    let base := match t.res.windows with | w :: _ => w.1 | [] => 0
    let u : Ctx := { asid := t.asid, launch := t.launch, join := t.join, child := t.child, under := t.under, order := t.order, strm := t.strm, pool := t.pool,
                     res := t.res,
                     s := q.init, pc := BitVec.ofNat 18 base, spec := some { init := q.init }, tvec := t.tvec, csa := t.csa,
                     killed := t.killed, fresh := (coreOf s c).run ≠ some x, status := .ready }
    let s := setCtx s c x u
    if (coreOf s c).run = some x then modCore s c fun k => { k with shadow := some (snapshot k x) } else makeReady s c x

/-- Later started tasks whose signatures a write set hits are aborted. -/
def abortHits (s : State) (d cid : Nat) (later : List Nat) (gs : List Nat) : State :=
  (orderedCtxs s d cid).foldl (fun s p =>
    match (ctxOf s p.1 p.2.1).spec with
    | some q => if later.contains p.2.2 && gs.any (sigHit q) then abortTask s p.1 p.2.1 else s
    | none => s) s

/-- The lines of every core that hold a granule of a list go (09 R245). -/
def evictGranules (s : State) (asid : Nat) (gs : List Nat) : State :=
  s.cores.foldl (fun s e => l1Evict s e.1 fun l => l.asid == asid && gs.contains l.line) s

/-- A direct task that ends has published its writes: they are tested as a commit's are, and no core keeps what stood there before (05 R124, R125, 09
R245). -/
def directHits (s : State) (d cid ix : Nat) (t : Ctx) : State :=
  evictGranules (abortHits s d cid (laterTasks s d cid ix) t.direct) t.asid t.direct

/-- The running context of a core ENDS, once everything it has in flight has landed, and the core goes on. -/
def endRunning (s : State) (c x : Nat) (e : EndKind) : State :=
  let s := settle s c
  let t := ctxOf s c x
  match t.launch, t.spec, e with
  | .ordered _ _ _, _, .killed => runNext c 9 x (endAndKill s c x e)
  | .ordered d cid _, some _, e => due (switchAway (endOrdered s c x e) c x .ended) .taskCommit d cid
  | .ordered d cid ix, none, e => due (runNext c 9 x (endAndKill (directHits (publishAll s c) d cid ix t) c x e)) .taskCommit d cid
  | _, _, _ => runNext c 9 x (endAndKill s c x e)

/-- A TRAP is taken by the running context (10 R272): in privileged mode it ends the context as faulted. -/
def trapRunning (s : State) (c x : Nat) (t : TrapInfo) : State :=
  let s := modCtx (settle (dropBundle s c x) c) c x fun t => { t with replay := [], replayTo := 0 }
  if (ctxOf s c x).priv then endRunning s c x (.fault t.cause)
  else takeTrap s c x t

end Sys2Proof.Machine
end

