-- ==== Sys2Proof/Machine/Frames.lean ====
section
/-! DEFINITION. Frames and the operations that move a page (10 R264 to R267): each begins with RES := 2 and ends with its publication; and
the fetch of what firmware reads (03 R511). -/

namespace Sys2Proof.Machine

/-! ### Frames and entries -/

/-- A frame for a page on a die: the next one Amigen has free; without one the choice is open (log 1). -/
def takeFrame (s : State) (d : Nat) : State × Nat :=
  match (dieOf s d).freeFrames with
  | f :: l => (modDie s d fun k => { k with freeFrames := l }, f * 65536)
  | [] => (bumpFree s, fld (Config.freeValue s.freeCtr) 20 0 * 65536)

/-- What a table keeps of other frames than the one at `pa`, which holds n of its keys. -/
def offFrame {α : Type} (t : Tab α) (n pa : Nat) : Tab α := t.filter fun e => e.1 / n != pa / 65536

/-- What a table keeps of the frame at `pa`, by index in the page. -/
def inFrame {α : Type} (t : Tab α) (n pa : Nat) : List (Nat × α) := (t.filter fun e => e.1 / n == pa / 65536).map fun e => (e.1 % n, e.2)

/-- A frame is free again: its F bits, checks and ECC marks mean nothing any more. -/
def freeFrame (s : State) (d pa : Nat) : State :=
  modDie s d fun k => { k with freeFrames := k.freeFrames ++ [pa / 65536], full := offFrame k.full 8192 pa,
                               badck := offFrame k.badck 1024 pa, ecc := offFrame k.ecc 1024 pa, entryBad := offFrame k.entryBad 1024 pa }

/-- A translation leaves the TLB, and the pointers of its walk with it (10 R257). -/
def dropTlb (s : State) (d asid va : Nat) : State :=
  modDie s d fun k => { k with tlb := k.tlb.filter fun e => !(e.asid == asid && e.vpn == va / 2 ^ e.log),
                               tlbPtrs := k.tlbPtrs.filter fun e => !(e.asid == asid && e.vpn == bitsOf va 55 (46 - 10 * e.lvl)) }

/-- A leaf is rewritten and its translation dropped in one step (10 R265, R266). -/
def publishLeaf (s : State) (d asid va ptePa : Nat) (p : Word) : State := dropTlb (writePte s d ptePa p) d asid va

/-- A leaf with a frame of a die, resident. -/
def residentLeaf (s : State) (p : Word) (d pa : Nat) : Word :=
  setFld (setFld (setFld p 63 56 (globalDie s d)) 47 13 (pa / 8192)) 8 7 0

/-- What a page carries from frame to frame: its bytes, the words that are full, and by granule its check as a difference and whether its
fault came in through a port. -/
structure PageImage where
  /-- its 65536 bytes -/
  data  : List Byte
  /-- words with F = 1, by index -/
  full  : List Nat
  /-- granules whose check fails, with the difference -/
  check : List (Nat × BitVec 16)
  /-- of those, the ones whose fault came in through a port (02 R54) -/
  entry : List Nat
  deriving DecidableEq, Repr

/-- The page in a frame. -/
def pageImage (s : State) (d pa : Nat) : PageImage :=
  let k := dieOf s d
  { data := physRead s d pa 65536,
    full := (inFrame k.full 8192 pa).filterMap fun e => if e.2 then some e.1 else none,
    check := ((inFrame k.badck 1024 pa).filter fun e => e.2 != 0 && !tabGet false k.ecc (pa / 64 + e.1)) ++
      (inFrame k.ecc 1024 pa).filterMap fun e => if e.2 then some (e.1, checkFlip) else none,
    entry := (inFrame k.entryBad 1024 pa).filterMap fun e => if e.2 then some e.1 else none }

/-- A page comes into a frame; every W is 0. -/
def fillFrame (s : State) (d pa : Nat) (i : PageImage) : State :=
  modDie s d fun k =>
    { k with mem := memWrite k.mem pa i.data,
             full := i.full.foldl (fun t w => tabSet false t (pa / 8 + w) true) (offFrame k.full 8192 pa),
             waits := offFrame k.waits 8192 pa,
             badck := i.check.foldl (fun t g => tabSet 0 t (pa / 64 + g.1) g.2) (offFrame k.badck 1024 pa),
             ecc := offFrame k.ecc 1024 pa,
             entryBad := i.entry.foldl (fun t g => tabPut t (pa / 64 + g) true) (offFrame k.entryBad 1024 pa) }

/-! ### The three operations on one page (10 R265) -/

/-- The backing of a page, and where its data lie outside the module; none when they cannot be reached (02 R56). -/
def backingOf (s : State) (d asid va : Nat) : Option (Backing × Nat × Nat) :=
  match (dieOf s d).backings.find? fun b => b.asid == asid && b.page == va / 65536 with
  | none => none
  | some b =>
    match systemLoc s d b.addr.toNat 65536 ⟨true, false, false, false⟩ with
    | .ok (.system target _ a) => some (b, target, a.toNat)
    | _ => none

/-- A page has a backing that is known and cannot be reached. -/
def backingLost (s : State) (d asid va : Nat) : Bool :=
  ((dieOf s d).backings.any fun b => b.asid == asid && b.page == va / 65536) && (backingOf s d asid va).isNone

/-- The page that comes from a backing: its checks are computed at entry (02 R53), but a poisoned granule's is the complement (02 R54); its F
bits come from the tag block (08 R220). -/
def backingImage (s : State) (b : Backing) (target a : Nat) (bs : List Byte) : PageImage :=
  let bad := (List.range 1024).filter fun g => readPoison s target (a + 64 * g) 64
  { data := bs, full := b.tags, check := bad.map fun g => (g, checkFlip), entry := bad }

/-- The data of a fetched page come into a frame, and it is published. A page whose backing Amigen alone knows comes with open contents (log
1); one that cannot be reached stays non-resident. -/
def fetchData (s : State) (d asid va : Nat) (l : Leaf) : State × Bool :=
  if backingLost s d asid va then (publishLeaf s d asid va l.ptePa (setFld l.pte 8 7 1), false)
  else
    let (s, i) := match backingOf s d asid va with
      | none => let (s, bs) := freeBytes s 65536; (s, (⟨bs, [], [], []⟩ : PageImage))
      | some (b, target, a) =>
        let (s, r) := systemRead s target a 65536
        (s, backingImage s b target a (r.getD []))
    let (s, pa) := takeFrame s d
    let key := pageKeyOf s d asid
    let s := modDie (fillFrame s d pa i) d fun k => { k with backings := k.backings.filter fun z => !(z.asid == asid && z.page == va / 65536),
                                                             pageKeys := tabSet 0 k.pageKeys (pa / 65536) key }
    (publishLeaf s d asid va l.ptePa (residentLeaf s l.pte d pa), true)

/-- A page leaves for its backing granule by granule, verified at egress: one whose check fails goes poisoned (02 R53). -/
def sendPage (s : State) (home pa target : Nat) (a : Word) : State :=
  (List.range 1024).foldl (fun s g =>
    systemWrite s target (a + BitVec.ofNat 64 (64 * g)) (physRead s home (pa + 64 * g) 64) (badCheck s home (pa + 64 * g) 64))
    (foundBad s home pa 65536)

/-- A page is evicted to a system-space address, with its tag block, and published; one whose window is gone stays resident. -/
def evictData (s : State) (d asid va : Nat) (l : Leaf) (addr : Word) : State × Bool :=
  match systemLoc s d addr.toNat 65536 ⟨false, true, false, false⟩ with
  | .ok (.system target _ a) =>
    let home := (localDie s (pteFdie l.pte)).getD d
    let pa := pteFrame l.pte
    let s := if keyMissing s d asid then s else underKey s d asid home pa
    let b : Backing := ⟨asid, va / 65536, addr, (pageImage s home pa).full⟩
    let s := sendPage s home pa target a
    let s := modDie s d fun k => { k with backings := k.backings.filter (fun z => !(z.asid == asid && z.page == va / 65536)) ++ [b] }
    (freeFrame (publishLeaf s d asid va l.ptePa (setFld l.pte 8 7 1)) home pa, true)
  | _ => (publishLeaf s d asid va l.ptePa (setFld l.pte 8 7 0), false)

/-- A page moves to a frame of another die of the module, and is published. -/
def migrateData (s : State) (d asid va : Nat) (l : Leaf) (goal : Nat) : State :=
  let home := (localDie s (pteFdie l.pte)).getD d
  let pa := pteFrame l.pte
  let key := tabGet 0 (dieOf s home).pageKeys (pa / 65536)
  let (s, q) := takeFrame s goal
  let s := modDie (fillFrame s goal q (pageImage s home pa)) goal fun k => { k with pageKeys := tabSet 0 k.pageKeys (q / 65536) key }
  freeFrame (publishLeaf s d asid va l.ptePa (residentLeaf s l.pte goal q)) home pa

/-- A page operation begins: RES := 2 and its TLBI. -/
def startMove (s : State) (d asid va : Nat) (l : Leaf) (k : MoveKind) : State :=
  modDie (publishLeaf s d asid va l.ptePa (setFld l.pte 8 7 2)) d fun x => { x with moves := x.moves ++ [⟨asid, va / 65536, k⟩] }

/-- The operation in progress on a page. -/
def moveOf (s : State) (d asid va : Nat) : Option Move := (dieOf s d).moves.find? fun m => m.asid == asid && m.page == va / 65536

/-- The start of tasks becomes due on every core that has some waiting. -/
def dueStarts (s : State) : State := s.cores.foldl (fun s e => if e.2.waitq.isEmpty then s else dueStart s e.1) s

/-- A page operation ends with its publication; what the page held up goes on (10 R262, R266). The flag tells that it succeeded. -/
def endMove (s : State) (d : Nat) (m : Move) : State × Bool :=
  let va := m.page * 65536
  let s := modDie s d fun x => { x with moves := x.moves.filter fun z => !(z.asid == m.asid && z.page == m.page) }
  let r := match walk s d m.asid va with
    | .ok l =>
      if pteRes l.pte ≠ 2 then (s, true)
      else match m.kind with
        | .fetch => fetchData s d m.asid va l
        | .evict a => evictData s d m.asid va l a
        | .migrate goal => (migrateData s d m.asid va l goal, true)
    | .error _ => (s, true)
  (dueStarts (retryBacks r.1 d), r.2)

/-- A page is fetched as a whole. -/
def fetchPage (s : State) (d asid va : Nat) (l : Leaf) : State × Bool :=
  if backingLost s d asid va then (s, false) else endMove (startMove s d asid va l .fetch) d ⟨asid, va / 65536, .fetch⟩

/-! ### Table nodes (10 R267) -/

/-- The entry of a table node that is not resident on the walk of an address: its physical address. -/
def tableEntry (s : State) (d : Nat) (va : Nat) : Nat → Nat → Nat → Option Nat
  | 0, _, _ => none
  | fuel + 1, lvl, t =>
    let pa := tableSlot t va lvl
    let p : Word := BitVec.ofNat 64 (leNat (physRead s d pa 8))
    if !bitOf p 0 || bitOf p 1 then none
    else if pteRes p = 1 then some pa
    else tableEntry s d va fuel (lvl + 1) (pteFrame p)

/-- Amigen fetches the table nodes on the walk of an address: their entries become resident (log 20). -/
def fetchTables (d asid va : Nat) : Nat → State → State
  | 0, s => s
  | fuel + 1, s =>
    match walk s d asid va with
    | .error (.transl 6 _) =>
      match tableEntry s d va 4 0 (rootOf s d asid) with
      | some pa => fetchTables d asid va fuel (writePte s d pa (setFld (BitVec.ofNat 64 (leNat (physRead s d pa 8)) : Word) 8 7 0))
      | none => s
    | _ => s

/-! ### Firmware's fetches (03 R511) -/

/-- One page of a range that firmware uses: a page operation in progress on it is over first, and one that is not resident is fetched,
by the firmware of its owner. -/
def fetchOnePage (src asid p : Nat) (s : State) : State :=
  let va := p * 65536
  match localDie s (va / 2 ^ 56) with
  | none => if va / 2 ^ 56 < 0xFC ∧ routed s (va / 2 ^ 56) then (ask s src (va / 2 ^ 56) asid va .bring).1 else s
  | some d =>
    let s := fetchTables d asid (frameVa s d asid va false) 4 (fetchTables d asid va 4 s)
    let fva := outVa s d asid va
    let s := match moveOf s d asid fva with
      | some m => (endMove s d m).1
      | none => s
    match walk s d asid fva with
    | .ok l => if pteRes l.pte = 1 then (fetchPage s d asid fva l).1 else s
    | .error _ => s

/-- The pages of a range that are not resident are fetched first. -/
def fetchRange (src asid : Nat) (ps : List Nat) (s : State) : State := ps.foldl (fun s p => fetchOnePage src asid p s) s

end Sys2Proof.Machine
end

