-- ==== Sys2Proof/Machine/Flags.lean ====
section
/-! DEFINITION. The flags of STAT, AMX and SRS as instructions raise and advance them (11 R288, R292, R298, R307). -/

namespace Sys2Proof.Machine

/-- What lands in STAT beside a result. -/
def flagLand (f : Nat) : List Land := if f = 0 then [] else [.flags (BitVec.ofNat 64 f)]

/-- The rounding environment of an instruction at its issue: RMODE, SRS and FMT.SAT as in force (11 R290). -/
def rndOf (t : Ctx) : RndEnv := ⟨fld t.rmode 2 0, fld t.srs 31 0, bitOf t.fmt 20⟩

/-- SRS advanced once, by an instruction that rounds under RMODE = 5 (11 R292). -/
def advanceSrs (t : Ctx) : Ctx :=
  if fld t.rmode 2 0 = 5 then { t with srs := BitVec.ofNat 64 (srsNext (fld t.srs 31 0)) } else t

/-- The state with a context's SRS advanced, when the instruction rounds. -/
def srsStep (s : State) (c x : Nat) (rounds : Bool) : State := if rounds then modCtx s c x advanceSrs else s

/-- A conversion rounds under RMODE: all but integer to integer, to a type that contains its source, and BFP to FP32 or
FP64 (11 R292). `sameM`: two BFP types of one m. -/
def convRounds (src dst : Nat) (sameM : Bool) : Bool :=
  if isIntTy src && isIntTy dst then false
  else if isIntTy src then !tyHoldsInt dst src
  else if isIntTy dst then true
  else if isBfpTy src && isBfpTy dst then !sameM
  else if isBfpTy dst then true
  else !tyContains dst src

/-- What narrowing conversions of values give AMX and STAT.AMXN (11 R298). -/
def amxLands (narrow : Bool) (vs : List Val) : List Land :=
  if !narrow then []
  else
    let m := vs.foldl (fun a v => match amxOf v with | some x => max a x | none => a) 0
    flagLand (if vs.any Val.isNan then flagAMXN else 0) ++ (if m = 0 then [] else [.amx (BitVec.ofNat 64 m)])

/-- DZ of a division by zero (11 R295). -/
def divFlag (y : Word) : Nat := if y = 0 then flagDZ else 0

end Sys2Proof.Machine
end

