-- ==== Sys2Proof/Machine/Shapes.lean ====
section
/-! DEFINITION. Shapes, element types and operands of vector instructions (13 R345, R346; 16 R409 to R415), their
occupancy and latency (16 R413, 13 R348), and the tiles and accumulator pages an instruction uses (07 R192). -/

namespace Sys2Proof.Machine

/-- Rows of SHP. -/
def shpRows (t : Ctx) : Nat := fld t.shp 7 0 + 1

/-- Columns of SHP. -/
def shpCols (t : Ctx) : Nat := fld t.shp 20 8 + 1

/-- Elements of SHP. -/
def shpN (t : Ctx) : Nat := shpRows t * shpCols t

/-- FMT.VT -/
def fmtVT (t : Ctx) : Nat := fld t.fmt 3 0

/-- FMT.AM, the m of BFP vector tiles. -/
def fmtAM (t : Ctx) : Nat := fld t.fmt 14 12 + 2

/-- FMT.BM, the m of BFP weights and of BFP destinations of VCVT. -/
def fmtBM (t : Ctx) : Nat := fld t.fmt 17 15 + 2

/-- A type code with the m it has if it is BFP. -/
abbrev TyM := Nat × Nat

/-- Bytes of a tile of SHP in a type (16 R409). -/
def tileBytes (t : Ctx) (ty : TyM) : Nat :=
  if isBfpTy ty.1 then shpRows t * (bfpLines (shpCols t) * bfpLineBytes ty.2) else shpN t * (tyWidth ty.1 / 8)

/-- A type field holds 14 or 15, or a BFP field used holds 7 (11 R281). -/
def tyInvalid (ty : TyM) : Bool := decide (14 ≤ ty.1) || (isBfpTy ty.1 && ty.2 == 9)

/-- The types a vector instruction uses. -/
def vTypes (t : Ctx) : Instr → List TyM
  | .vcvt _ _ dt _ => [(fmtVT t, fmtAM t), (dt.toNat, fmtBM t)]
  | .mlog _ _ _ _ | .mcnt _ _ _ => []
  | _ => [(fmtVT t, fmtAM t)]

/-- The type an instruction accepts in VT (16). -/
def vtAccepted (t : Ctx) (i : Instr) : Bool :=
  let v := fmtVT t
  match i with
  | .vsf _ _ _ _ => v ≤ 3
  | .vshl _ _ _ _ _ | .vshr _ _ _ _ _ | .vsar _ _ _ _ _ => isIntTy v
  | .vcvt _ _ _ _ => true
  | .vpadd _ _ _ _ _ => v == 4 || v == 5
  | .vmov _ _ mk => !isBfpTy v || mk == 0
  | .nzgen _ val _ _ _ | .rngd _ _ val _ _ => if val then v == 0 || v == 1 else v == 8 || v == 9 || v == 10 || v == 3 || v == 0 || v == 1
  | .vreplay _ _ _ => v == 0
  | .accrd _ _ la _ => if la then v ≤ 5 else !isBfpTy v
  | .accwr _ _ mode _ => if mode == 1 then v == 0 else !isBfpTy v
  | .mlog _ _ _ _ | .mcnt _ _ _ => true
  | _ => !isBfpTy v

/-- The mask whose presence limits a shape to 8192 elements (16 R410). -/
def vMask : Instr → MReg
  | .vadd _ _ _ mk _ | .vsub _ _ _ mk _ | .vmul _ _ _ mk _ | .vfma _ _ _ mk _ | .vfms _ _ _ mk _ | .vfnma _ _ _ mk _
  | .vmin _ _ _ mk _ | .vmax _ _ _ mk _ | .vclamp _ _ _ mk _ | .vsel _ _ _ mk _ | .vand _ _ _ mk _ | .vor _ _ _ mk _
  | .vxor _ _ _ mk _ | .vshl _ _ _ mk _ | .vshr _ _ _ mk _ | .vsar _ _ _ mk _ | .vpadd _ _ _ mk _ => mk
  | .vabs _ _ mk | .vneg _ _ mk | .vnot _ _ mk | .vtrn _ _ mk | .vsegred _ _ mk | .vcompact _ _ mk | .vbcast _ _ mk
  | .vmov _ _ mk | .vreplay _ _ mk | .vbcastScalar _ _ mk | .viota _ _ mk => mk
  | .vsf _ _ _ mk | .vcvt _ _ _ mk | .vperm _ _ _ mk | .viotaBase _ _ _ mk | .accrd _ _ _ mk | .accwr _ _ _ mk => mk
  | .vred _ _ _ _ mk | .vscan _ _ _ _ mk | .nzgen _ _ _ _ mk | .rngd _ _ _ _ mk => mk
  | .vld _ _ _ mk _ | .vst _ _ _ mk _ => mk
  | _ => 0

/-- LA modes of ACCRD and ACCWR. -/
def accLaMode : Instr → Bool
  | .accrd _ _ la _ => la
  | .accwr _ _ m _ => m == 2
  | _ => false

/-- B: the bytes an occupancy counts (16 R413). -/
def vBytes (t : Ctx) (i : Instr) : Nat :=
  match i with
  | .mlog _ _ _ _ | .mcnt _ _ _ => 1024
  | .rngd _ _ _ _ _ => max (8 * shpN t) (tileBytes t (fmtVT t, fmtAM t))
  | i =>
    let b := ((vTypes t i).map (tileBytes t)).foldl max 0
    if accLaMode i then max b (48 * shpN t) else b

/-- The multiplier of an occupancy (16 R413). -/
def vMult (t : Ctx) (i : Instr) : Nat :=
  match i with
  | .vsf _ _ _ _ => 4
  | .vperm _ _ _ _ | .vtrn _ _ _ => if (vTypes t i).any (·.1 == 1) then 4 else 2
  | i => if (vTypes t i).any (·.1 == 1) then 4 else 1

/-- Issue cycles a vector instruction holds its slot. -/
def vOcc (t : Ctx) (i : Instr) : Nat := (vBytes t i + 1023) / 1024 * vMult t i

/-- Latency of a vector instruction. -/
def vLat (t : Ctx) (i : Instr) : Nat :=
  6 + vOcc t i + (match i with | .vred _ _ _ _ _ | .vscan _ _ _ _ _ => 12 | _ => 0)

/-- SHAPE of a vector instruction for its tiles and its mask (16 R409, R410, R418, R421, R423, R432). -/
def vShapeBad (t : Ctx) (i : Instr) : Bool :=
  (vTypes t i).any (fun ty => !tyInvalid ty && decide (32768 < tileBytes t ty)) ||
  (vMask i != 0 && decide (8192 < shpN t)) ||
  (match i with
   | .vcmp _ _ _ _ _ => decide (8192 < shpN t)
   | .vperm _ _ _ _ => decide (32768 < 4 * shpN t)
   | .rngd _ _ _ _ _ => decide (4096 < shpN t)
   | .vcvt _ _ dt mk => (isBfpTy (fmtVT t) || isBfpTy dt.toNat) && mk != 0
   | _ => false)

/-- FMT_INVALID of a vector instruction (16 R409). -/
def vFmtBad (t : Ctx) (i : Instr) : Bool := (vTypes t i).any tyInvalid || !vtAccepted t i

/-! ### Tiles and pages used (07 R192) -/

/-- The tiles an instruction uses, with true where it writes. -/
def tileUses (i : Instr) : List (Nat × Bool) :=
  ((regsRead i).filterMap fun r => match r with | .v n => some (n, false) | _ => none) ++
  ((regsWritten i).filterMap fun r => match r with | .v n => some (n, true) | _ => none)

/-- Pages from one byte offset of the store to another, both counted in. -/
def pageRange (lo hi : Nat) : List Nat := (List.range (hi / 4096 - lo / 4096 + 1)).map (lo / 4096 + ·)

/-- Slots of an LA operand of ACCRD and ACCWR from an offset: the first slot counted from page 0. -/
def laSlot0 (off : Nat) : Nat := 85 * (off / 4096) + off % 4096 / 48

/-- The pages ACCRD and ACCWR touch (16 R435). -/
def accPages (t : Ctx) (i : Instr) (off : Nat) : List Nat :=
  if accLaMode i then
    let s0 := laSlot0 off
    (List.range ((s0 + shpN t - 1) / 85 - s0 / 85 + 1)).map (s0 / 85 + ·)
  else
    let w := match i with | .accwr _ _ m _ => if m == 1 then 4 else tyWidth (fmtVT t) / 8 | _ => tyWidth (fmtVT t) / 8
    pageRange off (off + w * shpN t - 1)

/-- Bytes of a row of n elements of a type. -/
def rowBytes (ty : TyM) (n : Nat) : Nat := if isBfpTy ty.1 then bfpLines n * bfpLineBytes ty.2 else n * (tyWidth ty.1 / 8)

/-- M of the matrix registers. -/
def mxM (t : Ctx) : Nat := fld t.mx.m 8 0 + 1

/-- K of the matrix registers. -/
def mxK (t : Ctx) : Nat := fld t.mx.k 9 0 + 1

/-- N of the matrix registers. -/
def mxN (t : Ctx) : Nat := fld t.mx.n 5 0 + 1

/-- MX_ACC.PAGE -/
def mxPage (t : Ctx) : Nat := fld t.mx.acc 8 0

/-- MX_ACC.MODE -/
def mxMode (t : Ctx) : Nat := fld t.mx.acc 13 12

/-- MX_ACC.DEN -/
def mxDen (t : Ctx) : Bool := bitOf t.mx.acc 14

/-- MX_ACC.OPEN -/
def mxOpen (t : Ctx) : Bool := bitOf t.mx.acc 31

/-- MX_ACC.W -/
def mxW (t : Ctx) : Int := toSigned 11 (fld t.mx.acc 30 20)

/-- Slots of a chain (17 R453). -/
def chainSlots (t : Ctx) : Nat :=
  let nb := (branchCount t).1
  if mxDen t then mxM t * mxN t * (1 + nb) + (nb + 11) / 12 else mxM t * mxN t

/-- Pages of a chain. -/
def chainPages (t : Ctx) : Nat := (chainSlots t + 84) / 85

/-- Pages of the outputs of MODE 0 and 1. -/
def outPages (t : Ctx) : Nat := (mxM t * mxN t + 1023) / 1024

/-- Pages that hold branch slots of a chain (12 R318). -/
def branchPages (t : Ctx) : Nat :=
  let o := mxM t * mxN t
  if mxDen t then (o * (1 + (branchCount t).1) - 1) / 85 - o / 85 + 1 else 0

/-- The pages a matrix command names. -/
def mxPages (t : Ctx) (i : Instr) : List Nat :=
  let from' := fun n => (List.range n).map (mxPage t + ·)
  match i with
  | .mxa _ _ | .mxaTile _ => if mxMode t < 2 then from' (outPages t) else from' (chainPages t)
  | .mxcb _ => from' (chainPages t)
  | .mxce _ _ | .mxceTile _ => from' (chainPages t)
  | _ => []

/-- The page of a core's own accumulator store that an address of the window names, for that core (08 R199). -/
def ownAccPage (c va : Nat) : Option Nat :=
  let off := va % 2 ^ 56
  let lo := 0x10000000 + idxInCluster c * 0x200000
  if va / 2 ^ 56 = 0xFD ∧ lo ≤ off ∧ off < lo + 0x200000 then some ((off - lo) / 4096) else none

/-- The accumulator pages an instruction uses as operands, with true where it writes. -/
def pageUses (k : Core) (c x : Nat) (i : Instr) : List (Nat × Bool) :=
  let t := coreCtx k x
  match i with
  | .accrd _ a _ _ => (accPages t i (fld (srcVal k x a) 20 0)).map (·, false)
  | .accwr _ a _ _ => (accPages t i (fld (srcVal k x a) 20 0)).map (·, true)
  | .mxa _ _ | .mxaTile _ | .mxcb _ => (mxPages t i).map (·, true)
  | .mxce _ _ | .mxceTile _ => (mxPages t i).map (·, mxDen t)
  | .ld _ ab sz off | .lds _ ab sz off | .ldlu _ ab sz off =>
    ((ownAccPage c (mAddr t ab sz.toNat off).toNat).toList).map (·, false)
  | .st _ ab sz off => ((ownAccPage c (mAddr t ab sz.toNat off).toNat).toList).map (·, true)
  | .accad aa _ _ => ((ownAccPage c (aReg t aa.toNat).toNat).toList).map (·, true)
  | _ => []

/-- An owner entry lets a context use its unit (07 R192): it names the context, or nobody. -/
def ownerOk (e : Word) (x : Nat) : Bool := !bitOf e 3 || fld e 2 0 == x

/-- The first unit of a list whose entry names another context. -/
def ownerBad (tags : Tab Word) (x : Nat) (l : List (Nat × Bool)) : Option Nat :=
  (l.find? fun p => !ownerOk (tabGet 0 tags p.1) x).map (·.1)

/-- An owner entry after a use by a context: claimed. A claim starts with DIRTY 0, which tells of writes since the claim, and a write sets it as it
lands (07 R191, R192, 21 R500; DEDUCED, log 45). -/
def ownerUse (e : Word) (x : Nat) : Word := BitVec.ofNat 64 (8 + x + (if bitOf e 3 then fld e 4 4 * 16 else 0))

/-- The owner entries after the uses of a list. -/
def ownerClaims (tags : Tab Word) (x : Nat) (l : List (Nat × Bool)) : Tab Word :=
  l.foldl (fun t p => tabSet 0 t p.1 (ownerUse (tabGet 0 t p.1) x)) tags

/-! ### Occupancy of the matrix paths (12 R312, R318) -/

/-- Issue cycles MXCE holds the stream path. -/
def mxceOcc (t : Ctx) : Nat := (mxM t * mxN t + 63) / 64 + branchPages t

/-- A cooperative MXA that cannot take part: its MASK omits its core or names one outside the pool (12 R321). -/
def coopBad (c : Nat) (t : Ctx) : Bool :=
  !bitOf t.mx.clus (idxInCluster c) ||
    (List.range 16).any fun j => bitOf t.mx.clus j && !t.pool.getLsbD (16 * (clusterOfCore c % 4) + j)

/-- A matrix command occupies its path from the core's present issue cycle on, whether it executes or is nullified. -/
def holdPath (k : Core) (c x : Nat) (i : Instr) : Core :=
  let t := coreCtx k x
  match i with
  | .mxw _ _ | .mxwTile _ => { k with mxwFree := max k.mxwFree (k.ic + 80) }
  | .mxcv _ _ => { k with mxcvFree := max k.mxcvFree (k.ic + 9) }
  | .mxa _ _ | .mxaTile _ =>
    if bitOf t.mx.clus 24 && coopBad c t then k
    else
      { k with streamFree := max k.streamFree (k.ic + mxM t),
               activeFree := if bitOf t.mx.clus 24 then k.activeFree else max k.activeFree (k.ic + mxM t) }
  | .mxcb _ => { k with streamFree := max k.streamFree (k.ic + chainPages t) }
  | .mxce _ _ | .mxceTile _ => { k with streamFree := max k.streamFree (k.ic + mxceOcc t) }
  | _ => k

/-- A vector instruction occupies its slot from the present issue cycle on; a longer hold stands. -/
def holdSlot (k : Core) (x slot : Nat) (i : Instr) : Core :=
  if slot = 4 then { k with v0Free := max k.v0Free (k.ic + vOcc (coreCtx k x) i) }
  else if slot = 5 then { k with v1Free := max k.v1Free (k.ic + vOcc (coreCtx k x) i) }
  else k

end Sys2Proof.Machine
end

