-- ==== Sys2Proof/Machine/Issue.lean ====
section
/-! DEFINITION. The issue of a bundle (07 R170 to R189, 10 R271 to R278, 13 R334 to R347): fetch, checks, holds, the effects of
its slots, and the advance to the next bundle. Every slot instruction runs through `runBundle`. -/

namespace Sys2Proof.Machine

/-! ### Instruction memory (05 R107, 13 R334) -/

/-- The windows of instruction memory a context may run in: its own, and the hook's 2 KiB in privileged mode (21 R496). -/
def windowsOf (k : Core) (x : Nat) (priv : Bool) : List (Nat × Nat) :=
  (coreCtx k x).res.windows ++ (if priv && k.hook.isSome then [(0x3F800, 2048)] else [])

/-- The bytes of instruction memory from an address to the end of the window it lies in, at most a bundle's 32. -/
def imemAt (k : Core) (x : Nat) (priv : Bool) (pc : Nat) : List Byte :=
  match (windowsOf k x priv).find? fun w => decide (w.1 ≤ pc) && decide (pc < w.1 + w.2) with
  | some w => memRead k.imem pc (min 32 (w.1 + w.2 - pc))
  | none => []

/-- NEXT(x): the header address after the bundle at x (14). -/
def nextAddr (k : Core) (pc : Nat) : Nat := pc + (decodeHeader (leNat (memRead k.imem pc 4))).size

/-- The address of the bundle n bundles on. -/
def walkBundles (k : Core) : Nat → Nat → Nat
  | 0, pc => pc
  | n + 1, pc => walkBundles k n (nextAddr k pc)

/-- A transfer of control may go to an address (14 R355). -/
def targetOk (k : Core) (x : Nat) (priv : Bool) (w : Word) : Bool :=
  fld w 1 0 == 0 && decide (w.toNat < 2 ^ 18) &&
    (match decodeBundle (imemAt k x priv w.toNat) with
     | .ok _ => true
     | .error _ => false)

/-! ### Loops (07 R168, 14 R359) -/

/-- Entry j of the loop stack is active. -/
def loopActive (t : Ctx) (j : Nat) : Bool := bitOf (tabGet 0 t.lsBody j) 63

/-- The innermost active loop: the highest entry with V = 1. -/
def innermost (t : Ctx) : Option Nat := [5, 4, 3, 2, 1, 0].find? (loopActive t)

/-- START of an entry. -/
def loopStart (t : Ctx) (j : Nat) : Nat := fld (tabGet 0 t.lsBody j) 17 0

/-- Address of the last body bundle of an entry. -/
def loopLast (k : Core) (t : Ctx) (j : Nat) : Nat := walkBundles k (fld (tabGet 0 t.lsBody j) 29 18 - 1) (loopStart t j)

/-- The end of an iteration at the bundle at `pc`, which ended without a transfer (14 R359): the context, the address that
follows when it is not the next bundle, and whether an iteration ended. -/
def endIteration (k : Core) (pc : Nat) : Nat → Ctx → Ctx × Option Nat × Bool
  | 0, t => (t, none, false)
  | fuel + 1, t =>
    match innermost t with
    | none => (t, none, false)
    | some j =>
      if loopLast k t j ≠ pc then (t, none, false)
      else
        let cnt := tabGet 0 t.lsCnt j
        let ix := (fld cnt 63 32 + 1) % 2 ^ 32
        let t := { t with lsCnt := tabSet 0 t.lsCnt j (setFld cnt 63 32 ix) }
        if ix < fld cnt 31 0 then (t, some (loopStart t j), true)
        else
          let t := { t with lsBody := tabSet 0 t.lsBody j (setFld (tabGet 0 t.lsBody j) 63 63 0) }
          let r := endIteration k pc fuel t
          (r.1, r.2.1, true)

/-! ### Rollback (10 R273, R278) -/

/-- The registers named in a list come back from a copy. -/
def restoreUnits {α : Type} [DecidableEq α] (d : α) (now old : Tab α) (l : List Nat) : Tab α :=
  l.foldl (fun t n => tabSet d t n (tabGet d old n)) now

/-- The tokens of q6 that matrix commands of the interval pushed are discarded. -/
def keepTokens (since : BitVec 32) (l : List Word) : List Word :=
  l.filter fun w => !(decide (1 ≤ fld w 31 24) && decide (fld w 31 24 ≤ 10) && !serialBefore (tokenSerial w) since.toNat)

/-- A ROLLBACK to the last checkpoint: the eager state without queues, the copied tiles and pages, and the engine's buffers
come back; what once-only operations left stays. -/
def rollback (s : State) (c x : Nat) : State :=
  let s := landAll (dropBundle s c x) c
  match (coreOf s c).shadow with
  | none => s
  | some h =>
    modCore s c fun k =>
      let t := coreCtx k x
      let u := { h.ctx with q := t.q, status := t.status, killed := t.killed, kept := t.kept, ticket := t.ticket, replay := t.replay, replayTo := t.replayTo, bufs := t.bufs,
                            spec := t.spec, vsaved := t.vsaved, asaved := t.asaved, saveV := t.saveV, saveA := t.saveA,
                            held := none, grp := [], atLand := false }
      let k := setCoreCtx k x u
      let k := setQueue k x 6 (keepTokens h.ctx.serial (queueOf k x 6))
      { k with v := restoreUnits 0 k.v h.v h.wrV, acc := restoreUnits 0 k.acc h.acc (h.wrA.take 16),
               wActive := h.wts.1, wOther := h.wts.2, trq := h.trq,
               tokens := k.tokens.filter (fun z => !(z.ctx == x && z.engine == 0)),
               v0Free := k.ic, v1Free := k.ic, streamFree := k.ic, mxwFree := k.ic, mxcvFree := k.ic, otherFree := k.ic, activeFree := k.ic,
               shadow := some { h with wrV := [], wrA := [], count := 0, sig := 0, reached := max h.reached h.count } }

/-- A rerun begins: the interval runs again from its checkpoint with its recorded outcomes. -/
def startRerun (s : State) (c x : Nat) (r : Rerun) : State :=
  let s := rollback s c x
  modCore s c fun k => { k with rerun := some { r with replay := (k.shadow.map (·.log)).getD [] } }

/-- A rerun of a rehearsal reaches the end of its run (10 R278): the second run begins, or the two are compared. -/
def stopRerun (s : State) (c x : Nat) : State :=
  let s := landAll s c
  match (coreOf s c).rerun, (coreOf s c).shadow with
  | some r, some h =>
    match r.first with
    | none => startRerun s c x { r with first := some (h.count, h.sig) }
    | some f => { s with agenda := s.agenda ++ [{ step := .rehearsalCompare (Fin.ofNat 256 c) (decide (f = (h.count, h.sig))) }] }
  | _, _ => s

/-- The core is in a rerun of a rehearsal. -/
def rehearsing (k : Core) : Bool :=
  match k.rerun with
  | some r => r.trap.isNone
  | none => false

/-! ### Effects of slots -/

/-- Where an instruction issues. -/
structure Env where
  /-- core -/
  core : Nat
  /-- context -/
  ctx  : Nat
  /-- header address of its bundle -/
  pc   : Nat
  /-- header address after its bundle -/
  next : Nat
  /-- slot number -/
  slot : Nat
  /-- slot word -/
  word : Word
  deriving DecidableEq, Repr

/-- What the C slot does to the sequencer. -/
inductive Ctl where
  /-- nothing -/
  | next
  /-- a transfer of control -/
  | jump (x : Nat)
  /-- LOOP and LOOPI end the group (14 R358) -/
  | loop
  /-- the context leaves the core -/
  | leave (l : Leave)
  deriving DecidableEq, Repr

/-- The outcome of an instruction at its issue. -/
inductive Res where
  /-- it takes effect: the state, results with their latencies, and replies it awaits -/
  | ok (s : State) (lands : List (Nat × Land)) (arrs : List Arrival) (ctl : Ctl)
  /-- a trap found at issue -/
  | trap (cause : Nat) (info : Word)
  /-- a cause found away from the core (10 R273): what stays changed all the same, cause, subcause, level, EINFO -/
  | late (keep : State → State) (cause sub level : Nat) (info : Word)
  /-- its bundle is held -/
  | hold (s : State) (h : Hold)

/-- The effect of an instruction. -/
abbrev Eff := Env → State → Res

/-- A slot of a bundle. -/
structure SlotWork where
  /-- the slot -/
  slot : Slot
  /-- its word -/
  word : Nat
  /-- its instruction -/
  ins  : Except Reject Instr
  /-- the effect of its instruction -/
  eff  : Eff

/-- A bundle at issue. -/
structure Issue where
  /-- header address -/
  pc    : Nat
  /-- header address of the bundle after it -/
  next  : Nat
  /-- header -/
  hdr   : Header
  /-- its slots, in order -/
  works : List SlotWork

/-- The instruction of a slot, where it has one. -/
def SlotWork.instr? (w : SlotWork) : Option Instr :=
  match w.ins with
  | .ok i => some i
  | .error _ => none

/-- The instructions of a bundle. -/
def Issue.instrs (b : Issue) : List Instr := b.works.filterMap SlotWork.instr?

/-- The fields of 6 bits of a rejected word that its instruction cannot hold as they stand: their codes name no register (13 R330, R338). -/
def badCodes (i : Instr) (w : Nat) : List Nat :=
  let v := (encodeNat i).getD w
  [0, 6, 12, 18].filter fun f => v / 2 ^ f % 64 != w / 2 ^ f % 64

/-- The places, in a list of the registers an instruction names, of those that a field of its word names: they change with the field. -/
def fieldPlaces (regs : Instr → List Reg) (sl : Slot) (i : Instr) (f : Nat) : List Nat :=
  let v := (encodeNat i).getD 0
  match (match decodeSlot sl (if v / 2 ^ f % 2 = 0 then v + 2 ^ f else v - 2 ^ f) with | .ok j => some j | .error r => r.named?) with
  | none => []
  | some j => (List.range (regs i).length).filter fun n => (regs i)[n]? != (regs j)[n]?

/-- The registers that a slot's word names, a group's dependences being those of every word (13 R347; log 61): of a rejected word those whose codes
are in range. -/
def SlotWork.regs (regs : Instr → List Reg) (w : SlotWork) : List Reg :=
  match w.ins with
  | .ok i => regs i
  | .error r =>
    match r.named? with
    | none => []
    | some i =>
      let out := (badCodes i w.word).flatMap (fieldPlaces regs w.slot i)
      ((List.range (regs i).length).filter fun n => !out.contains n).filterMap fun n => (regs i)[n]?

/-- The queues a bundle pops. -/
def Issue.pops (b : Issue) : List Nat := (List.range 8).filter fun n => b.hdr.pop.getLsbD n

/-- The registers a bundle reads, its guard among them. -/
def Issue.reads (b : Issue) : List Reg := pReg' b.hdr.guard ++ b.works.flatMap (SlotWork.regs regsRead)

/-- The registers a bundle writes. -/
def Issue.writes (b : Issue) : List Reg := b.works.flatMap (SlotWork.regs regsWritten)

/-- The queues a bundle reads or pops. -/
def Issue.heads (b : Issue) : List Nat := (List.range 8).filter fun n => b.pops.contains n || (b.instrs.flatMap regsRead).contains (.q n)

/-- The guard lets the bundle execute (13 R332). -/
def Issue.guardOn (b : Issue) (t : Ctx) : Bool := pReg t b.hdr.guard.toNat != b.hdr.gneg

/-! ### Checks before the effects -/

/-- The bundles an ILLEGAL_GROUP may name: the earlier bundles of the group that form a dependence, and the bundle itself where two of
its slots do (07 R175, R176; 10 R268). -/
def groupCauses (t : Ctx) (b : Issue) : List Nat :=
  (t.grp.filter fun g => dependsOn g b.reads b.writes).map (·.pc) ++
    (if sameWrites (b.works.map (SlotWork.regs regsWritten)) then [b.pc] else [])

/-- ILLEGAL_GROUP: EINFO is the address of the bundle that forms the dependence; of several, a free choice (log 1). -/
def groupTrap (n : Nat) (t : Ctx) (b : Issue) : Option TrapInfo :=
  match groupCauses t b with
  | [] => none
  | a :: l => some { cause := 4, info := BitVec.ofNat 64 ((a :: l).getD ((Config.freeValue n).toNat % (l.length + 1)) a) }

/-- The registers an awaited access interlocks (07 R183, 15 R387). -/
def arrivalRegs (a : Arrival) : List Reg :=
  (match a.dst with | some n => dstReg (BitVec.ofNat 6 n) | none => []) ++
  (match a.adst with | some (n, _) => [.a n] | none => []) ++
  (match a.tile with | some (n, _, _) => [.v n] | none => []) ++
  (match a.mask with | some (n, _) => [.m n] | none => []) ++
  (match a.p6 with | some _ => [.pi 6] | none => []) ++
  (match a.p7 with | some _ => [.pi 7] | none => [])

/-- A bundle makes accesses: its L or its E slot holds an instruction. -/
def Issue.accesses (b : Issue) : Bool := b.works.any fun w => w.slot.num == 3 || w.slot.num == 6

/-- An awaited access interlocks a bundle: they meet at a register, or the access is an acquire and the bundle makes accesses, which come after it
(09 R240). -/
def interlocks (b : Issue) (a : Arrival) : Bool :=
  ((arrivalRegs a).any fun w => b.reads.any (hitsWrite w) || b.writes.any (hitsWrite w)) || (a.acq.isSome && b.accesses)

/-- Entries on their way to queue q of the neighbour. -/
def pushesInFlight (k : Core) (x q : Nat) : Nat :=
  (k.pend.filter fun p => p.ctx == x && (match p.land with | .push n _ => n == q | _ => false)).length +
  (k.arrivals.filter fun a => a.ctx == x && a.dst == some (56 + q)).length

/-- A push of the bundle has no room at the neighbour (07 R179). -/
def pushFull (s : State) (c x : Nat) (b : Issue) : Bool :=
  let ps := b.instrs.flatMap pushes
  ps.any fun q =>
    pushReaches s (neighbour c q) x &&
      decide (queueDepth < (queueOf (coreOf s (neighbour c q)) x q).length + pushesInFlight (coreOf s c) x q + (ps.filter (· == q)).length)

/-- The bundle's outcomes are recorded for reruns (10 R276). -/
def needsRec (t : Ctx) (b : Issue) : Bool := !b.heads.isEmpty || b.instrs.any fun i => onceOnly t i || replayed i

/-- The outcomes an earlier run of the interval recorded and this one has not taken yet. -/
def replays (k : Core) (x : Nat) : List Rec := (match k.rerun with | some r => r.replay | none => []) ++ (coreCtx k x).replay

/-- The record an earlier run of the interval left for the bundle. -/
def replayRec (k : Core) (x : Nat) (b : Issue) : Option Rec :=
  if needsRec (coreCtx k x) b then (replays k x).head? else none

/-- A bundle reads or pops an empty queue (07 R180). -/
def emptyQueue (k : Core) (x : Nat) (b : Issue) : Bool :=
  (replayRec k x b).isNone && b.heads.any fun q => (queueOf k x q).isEmpty

/-- Tiles the bundle writes. -/
def tilesWritten (b : Issue) : List Nat :=
  b.instrs.flatMap fun i => (tileUses i).filterMap fun p => if p.2 then some p.1 else none

/-- Pages the bundle writes. -/
def pagesWritten (k : Core) (c x : Nat) (b : Issue) : List Nat :=
  b.instrs.flatMap fun i => (pageUses k c x i).filterMap fun p => if p.2 then some p.1 else none

/-- The list with the elements of another it has not. -/
def addNew (l m : List Nat) : List Nat := m.foldl (fun l n => if l.contains n then l else l ++ [n]) l

/-- One instruction of the bundle names more than 16 pages (10 R275). -/
def manyPages (k : Core) (c x : Nat) (b : Issue) : Bool := b.instrs.any fun i => decide (16 < (pageUses k c x i).length)

/-- A checkpoint stands right before the bundle already: one just taken, or the one that a rerun begins at. -/
def justChecked (k : Core) (x : Nat) : Bool :=
  match k.shadow with
  | some h => h.id == x && h.count == 0 && k.pend.isEmpty && k.arrivals.isEmpty
  | none => false

/-- New units of a bundle do not fit the rest of a copy buffer of n (10 R275). -/
def overfills (n : Nat) (old new : List Nat) : Bool :=
  decide (old.length < (addNew old new).length) && decide (n < (addNew old new).length)

/-- A checkpoint is due before the bundle (10 R274 to R276). -/
def needCheckpoint (k : Core) (c x : Nat) (b : Issue) : Bool :=
  let t := coreCtx k x
  match k.shadow with
  | none => true
  | some h =>
    !justChecked k x &&
      (b.instrs.any (fun i => onceOnly t i || i == .ckpt) ||
        overfills 8 h.wrV (tilesWritten b) || overfills 16 h.wrA (pagesWritten k c x b) ||
        manyPages k c x b || (needsRec t b && decide (256 ≤ h.log.length)))

/-- An instruction that ends its interval or its context. -/
def endsInterval : Instr → Bool
  | .exit | .yield | .eret _ | .ctxsw _ _ | .halt _ => true
  | _ => false

/-! ### Advance (07 R171, R174, R188; 14 R359) -/

/-- The issue cycles a bundle takes: four with a transfer (07 R174). -/
def bundleCycles (jump : Option Nat) : Nat := if jump.isSome then 4 else 1

/-- A LOOP or LOOPI bundle: it ends its group, whatever its guard (14 R358; log 61). -/
def Issue.isLoop (b : Issue) : Bool :=
  b.works.any fun w =>
    match w.ins with
    | .ok (.loop _ _) | .ok (.loopi _ _) => true
    | _ => false

/-- The context behind a bundle that has issued: the group, the loops and the program counter go on. A LOOP that pushes its
loop ends no iteration of the loop around it: its body comes next (14 R361; log 61). -/
def advanceCtx (k : Core) (b : Issue) (jump : Option Nat) (endGroup : Bool) (t : Ctx) : Ctx :=
  let r := match jump with
    | some _ => (t, none, false)
    | none => if b.isLoop && b.guardOn t then (t, none, false) else endIteration k b.pc 6 t
  let stop := endGroup || b.hdr.stop || jump.isSome || r.2.2
  { r.1 with
    pc := BitVec.ofNat 18 (jump.getD (r.2.1.getD b.next))
    grp := if stop then [] else r.1.grp ++ [⟨b.pc, b.reads, b.writes, b.pops⟩]
    atLand := r.2.2
    held := none, kept := none }

/-- The core behind a bundle that has issued: its issue cycles are counted. -/
def advanceCore (k : Core) (x : Nat) (b : Issue) (jump : Option Nat) (endGroup : Bool) : Core :=
  let n := bundleCycles jump
  { setCoreCtx k x (advanceCtx k b jump endGroup (coreCtx k x)) with
    ic := k.ic + n, sliceUsed := k.sliceUsed + n, shadow := k.shadow.map fun h => { h with count := h.count + n } }

/-- The end of a context's slice and of a PHASE drain come due (05 R130, 08 R198). -/
def noteTimes (s : State) (c : Nat) : State :=
  let k := coreOf s c
  let ends := if k.tslice ≠ 0 ∧ k.tslice.toNat ≤ k.sliceUsed ∧ !k.preempt then [{ step := .sliceEnd (Fin.ofNat 256 c) }] else []
  let drained := match k.drain with
    | some (n, _) => if n ≤ k.ic then [{ step := .phaseDrainEnd (Fin.ofNat 256 c) }] else []
    | none => []
  { s with agenda := s.agenda ++ ends ++ drained }

/-- A group has ended and no loop is active: a landing point (07 R188). -/
def groupEnds (t : Ctx) : Bool := t.grp.isEmpty && (innermost t).isNone

/-- The landing point behind a bundle is judged once its own writes of the loop stack have landed. -/
def noteLanding (s : State) (c x : Nat) : State := modCtx s c x fun t => { t with atLand := t.atLand || groupEnds t }

/-- The bundle has issued: the context and the core go on, and what is due lands. -/
def advance (s : State) (c x : Nat) (b : Issue) (jump : Option Nat) (endGroup : Bool) : State :=
  noteTimes (noteLanding (dueEngs (landDue (setCore s c (advanceCore (coreOf s c) x b jump endGroup)) c) c) c x) c

/-- The slots of a bundle occupy their units, whether it executes or is nullified (07 R172). -/
def holdUnits (k : Core) (c x : Nat) (b : Issue) : Core :=
  b.works.foldl (fun k w =>
    match w.ins with
    | .ok i => holdPath (holdSlot k x w.slot.num i) c x i
    | .error _ => k) k

/-- A nullified bundle (07 R172). -/
def nullify (s : State) (c x : Nat) (b : Issue) : State := advance (modCore s c (holdUnits · c x b)) c x b none b.isLoop

/-- A trap found at issue is taken, once the context waits for nothing from outside; in a rehearsal's rerun the run ends here. -/
def issueTrap (s : State) (c x : Nat) (t : TrapInfo) : State :=
  let k := coreOf s c
  if unanswered s c x then s
  else if rehearsing k then stopRerun s c x
  else
    let s := modCore s c fun k => { k with rerun := none }
    if t.cause = 0x11 then endRunning s c x (.fault 0x11) else trapRunning s c x t

/-- A nullified bundle still takes ILLEGAL_GROUP (07 R172). -/
def nullifyIn (s : State) (c x : Nat) (b : Issue) : State :=
  match groupTrap s.freeCtr (ctxOf s c x) b with
  | some z => issueTrap (bumpFree s) c x z
  | none => nullify s c x b

/-- The bundle waits at issue; a pre-emption request may land here. -/
def stallAtLanding (s : State) (c x : Nat) : State := modCtx s c x fun t => { t with atLand := true }

/-- The trap a rerun stops at, when it has reached its bundle (10 R273). -/
def rerunTrap (k : Core) : Option TrapInfo :=
  match k.rerun, k.shadow with
  | some r, some h =>
    match r.trap with
    | some (n, t) => if n ≤ h.count then some t else none
    | none => none
  | _, _ => none

/-! ### Effects of a bundle -/

/-- Why a slot traps before its effect (13 R335, R347): privilege, an occupied V slot, an L slot during a PHASE drain. -/
def preTrap (k : Core) (t : Ctx) (sl : Nat) (i : Instr) : Option Nat :=
  if needsPriv i && !t.priv then some 2
  else if (sl = 4 ∧ k.ic < k.v0Free) ∨ (sl = 5 ∧ k.ic < k.v1Free) then some 3
  else if sl = 3 ∧ k.drain.isSome then some 3
  else none

/-- The outcome of a slot that is not made again: kept from a hold, or recorded for a rerun. An accumulator atomic on another core's store has been
performed; one on the core's own store is performed again, for the rollback has undone it (10 R276, 15 R405). -/
def recorded (c : Nat) (t : Ctx) (b : Issue) (r : Option Rec) (sl : Nat) (i : Instr) : Option Out :=
  match r with
  | some r =>
    if onceOnly t i || replayed i then
      (r.outs.find? (·.slot == sl)).map fun o => { o with lands := o.lands.filter fun z => match z.2 with | .accAt k _ => k == c | _ => true }
    else none
  | none =>
    match t.kept with
    | some (pc, outs) => if pc = b.pc ∧ keepsOutcome i then outs.find? (·.slot == sl) else none
    | none => none

/-- The next serial is taken. -/
def takeSerial (s : State) (c x : Nat) : State := modCtx s c x fun t => { t with serial := t.serial + 1 }

/-- The serial of a command that may push a token. -/
def maybeSerial (s : State) (c x : Nat) (tok : Bool) : State := if tok then takeSerial s c x else s

/-- What a rerun makes of an operation that it does not perform again: what the rollback has undone of it (10 R276): the serial of its token, and of
TRPOP the tile popped and the step of SRS. -/
def redo (s : State) (c x : Nat) : Instr → State
  | .cpgo tok _ _ | .gthr tok _ _ | .sctr tok _ _ => maybeSerial s c x tok
  | .trpop tok rb _ _ =>
    match (coreOf s c).trq with
    | [] => maybeSerial s c x tok
    | tile :: rest => modCore (maybeSerial (srsStep s c x (rb && tile.kind == 2)) c x tok) c fun k => { k with trq := rest }
  | .gnode _ _ | .gsig _ => takeSerial s c x
  | _ => s

/-- A task of an ORDERED command is started and not committed: its context is resident, or moves from a retired core. -/
def orderedLive (s : State) (d cid ix : Nat) : Bool :=
  let moves := fun (r : TaskReq) => r.moved.isSome && r.launch == .ordered d cid ix
  ((orderedCtxs s d cid).any fun p => p.2.2 == ix) || (s.cores.any fun e => e.2.waitq.any moves) ||
    (dieOf s d).placing.any fun p => p.reqs.any moves

/-- The task is the oldest of its ORDERED launch: of its started and uncommitted tasks none stands before it (05 R123). -/
def isOldest (s : State) (t : Ctx) : Bool :=
  match t.launch with
  | .ordered d cid ix =>
    match cmdOf s d cid with
    | some k => (match k.work with | .ordered order _ => (order.takeWhile (· != ix)).all (fun j => !orderedLive s d cid j) | _ => true)
    | none => true
  | _ => true

/-- A counter lies on another die than the core's. -/
def foreignCtr (s : State) (c id : Nat) : Bool := ctrDie id != globalDie s (dieOfCore c)

/-- An MXA would close a branch that taps (17 R448): its coverage, with what dendritic MXAs in flight add, reaches its length. An MXCB in flight opens
the chain anew: no branch is closed or covered behind it. -/
def tapsAtMxa (k : Core) (t : Ctx) : Bool :=
  mxDen t && mxMode t == 2 &&
    (let bs := branches t
     let j : MxJob := { m := mxM t, k := mxK t, n := mxN t, mode := 2, den := true, page := mxPage t, w := 0, crow := fld t.mx.crow 31 0,
                        rmode := 0, srs := 0, fmt := 0, tap := 0, serial := 0 }
     let isOpen := fun (p : Pend) => match p.land with | .mxOpen _ => true | _ => false
     let opens := k.pend.any isOpen
     let afterOpen := (k.pend.reverse.takeWhile fun p => !isOpen p)
     let adds := fun (crow kk : Nat) (br : Branch) => min br.stop (crow + kk) - max br.first crow
     (List.range bs.length).any fun b =>
       let br := bs.getD b ⟨0, 0, 0, false⟩
       let inFlight := (afterOpen.filterMap fun p => match p.land with | .mxa z => if z.den then some (adds z.crow z.k br) else none | _ => none).foldl (· + ·) 0
       let before := if opens then 0 else coverage k j bs.length b
       br.tap && (opens || !t.closed.getLsbD b) && decide (br.stop - br.first ≤ before + inFlight + adds j.crow j.k br))

/-- An MXCE would close a branch that taps: one that is still open. -/
def tapsAtMxce (t : Ctx) : Bool :=
  mxDen t && (let bs := branches t
              (List.range bs.length).any fun b => (bs.getD b ⟨0, 0, 0, false⟩).tap && !t.closed.getLsbD b)

/-- An operation that a speculative ordered task may not do (05 R126, 17 R448). -/
def sideOp (s : State) (c x : Nat) (i : Instr) : Bool :=
  let k := coreOf s c
  (coreCtx k x).spec.isSome &&
    (match i with
     | .ldc _ _ _ _ | .stf _ _ _ _ | .ldct _ _ _ _ | .stft _ _ _ _ | .femk _ _ _ _ => true
     | .qppost _ _ _ | .scput _ _ | .scred _ _ | .cpgo _ _ _ | .gthr _ _ _ | .sctr _ _ _ | .trpop _ _ _ _
     | .gnode _ _ | .gsig _ | .mxce _ _ => true
     | .mxa _ _ | .mxaTile _ => tapsAtMxa k (coreCtx k x)
     | .mxceTile _ => tapsAtMxce (coreCtx k x)
     | .cadd _ a _ _ _ => foreignCtr s c (ctrId (srcVal k x a))
     | .rbacq _ a _ => let r := ringOf s (dieOfCore c) (fld (srcVal k x a) 9 0); r.n != 0 && foreignCtr s c r.acq.toNat
     | .rbrel a _ => let r := ringOf s (dieOfCore c) (fld (srcVal k x a) 9 0); r.n != 0 && foreignCtr s c r.rel.toNat
     | _ => false)

/-- The owner trap of a slot (07 R192): the lowest code first. -/
def ownerTrap (k : Core) (c x : Nat) (i : Instr) : Option (Nat × Word) :=
  match ownerBad k.atag x (pageUses k c x i) with
  | some n => some (0x0D, BitVec.ofNat 64 n)
  | none =>
    match ownerBad k.vtag x (tileUses i) with
    | some n => some (0x0E, BitVec.ofNat 64 n)
    | none => none

/-- The outcome of a slot with the ownership check: within a slot the lowest cause decides (10 R271). -/
def withOwner (o : Option (Nat × Word)) (r : Res) : Res :=
  match o, r with
  | some (n, w), .trap cause info => if cause < n then .trap cause info else .trap n w
  | some (n, w), _ => .trap n w
  | none, r => r

/-- An operation that a speculative task may not do (05 R126): another cause of the slot with a lower code decides (10 R271); else the trap is
held until the task is the oldest. -/
def withSide (s : State) (t : Ctx) (word : Word) (r : Res) : Res :=
  let side := if isOldest s t then Res.trap 0x11 word else .hold s .ordered
  match r with
  | .trap cause info => if cause < 0x11 then .trap cause info else side
  | _ => side

/-- A slot's effect, which asks dies of other modules as its slot: where it lacks a response, or a page, its bundle is held, and its request is sent. -/
def askingSlot (s : State) (c x n : Nat) (f : State → Res) : Res :=
  let k := Asker.bundle c x n
  let clear := fun (t : State) => { t with mod := { t.mod with asker := s.mod.asker, taken := s.mod.taken, want := s.mod.want } }
  let send := fun (t : State) => match t.mod.want with
    | .request src g req => clear (sendRequest t k t.mod.taken src g req)
    | _ => clear t
  match f (beginAsking s k) with
  | .ok t lands arrs ctl =>
    if t.mod.want = .nothing then .ok (clear t) lands arrs ctl
    else .hold (send (lackingIn s t)) (if t.mod.want = .page then .owner else .remote)
  | .hold t h => .hold (send t) h
  | r => r

/-- The outcome of one slot. -/
def slotRes (s : State) (c x : Nat) (b : Issue) (r : Option Rec) (w : SlotWork) : Res :=
  let k := coreOf s c
  let t := coreCtx k x
  let word : Word := BitVec.ofNat 64 w.word
  match w.ins with
  | .error (.wrongSlot _) => .trap 3 word
  | .error _ => .trap 2 word
  | .ok i =>
    match preTrap k t w.slot.num i with
    | some z => .trap z word
    | none =>
      match recorded c t b r w.slot.num i with
      | some o => .ok (if r.isSome then redo s c x i else s) o.lands o.arrs .next
      | none =>
        let o := withOwner (ownerTrap k c x i) (askingSlot s c x w.slot.num (w.eff ⟨c, x, b.pc, b.next, w.slot.num, word⟩))
        if sideOp s c x i then withSide s t word o else o

/-- A slot with its outcome. -/
abbrev SlotOut := SlotWork × Res

/-- The slots of a bundle, each on the state the ones before it left. -/
def runSlots (c x : Nat) (b : Issue) (r : Option Rec) : List SlotWork → State → List SlotOut
  | [], _ => []
  | w :: ws, s =>
    let o := slotRes s c x b r w
    (w, o) :: runSlots c x b r ws (match o with | .ok s' _ _ _ => s' | _ => s)

/-- The trap of the lowest slot found at issue. -/
def firstTrap (rs : List SlotOut) : Option TrapInfo :=
  rs.findSome? fun p => match p.2 with
    | .trap cause info => some { cause := cause, slot := p.1.slot.num, info := info }
    | _ => none

/-- The recorded heads of a rerun stand in front of the queues while the bundle runs. -/
def primed (s : State) (c x : Nat) (r : Option Rec) : State :=
  match r with
  | some r => modCore s c fun k => r.heads.foldl (fun (k : Core) (p : Nat × Word) => setQueue k x p.1 (p.2 :: queueOf k x p.1)) k
  | none => s

/-- The bundle of a context that is not killed is admitted to its effects: the state it issues in, or what happens instead (07 R172 to
R189). -/
def admitLive (s : State) (c x : Nat) (b : Issue) : Except State State :=
  let k := coreOf s c
  match rerunTrap k with
  | some z => .error (if unanswered s c x then s else trapRunning (modCore s c fun k => { k with rerun := none }) c x z)
  | none =>
    let s := if k.arrivals.any (interlocks b) then arriveWhere s c (interlocks b) else s
    let k := coreOf s c
    let checks := needCheckpoint k c x b
    let ends := b.instrs.any endsInterval
    if k.arrivals.any (interlocks b) then .error s
    else if !b.guardOn (coreCtx k x) then .error (nullifyIn s c x b)
    else if (checks && awaiting s c x && !answeredNow s c x) || (ends && unsettled s c x) then .error s
    else if rehearsing k && (checks || ends) then .error (if unsettled s c x then s else stopRerun s c x)
    else
      let s := if needCheckpoint k c x b then takeCheckpoint s c x else s
      let k := coreOf s c
      if !b.guardOn (coreCtx k x) then .error (nullifyIn s c x b)
      else if emptyQueue k x b then .error (stallAtLanding s c x)
      else if pushFull s c x b then .error s
      else
        match groupTrap s.freeCtr (coreCtx k x) b with
        | some z => .error (issueTrap (bumpFree s) c x z)
        | none => .ok s

/-- The trap that a bundle takes at its issue, if any (10 R271): a bundle that waits for a queue has not issued. -/
def bundleTrap (s : State) (c x : Nat) (b : Issue) : Option TrapInfo :=
  let k := coreOf s c
  let t := coreCtx k x
  match if emptyQueue k x b && b.guardOn t then none else groupTrap s.freeCtr t b with
  | some z => some z
  | none =>
    match admitLive s c x b with
    | .error _ => none
    | .ok s =>
      let r := replayRec (coreOf s c) x b
      firstTrap (runSlots c x b r b.works (primed s c x r))

/-- A killed context reaches a bundle boundary: a trap of the bundle there comes first (07 R189, 05 R120). -/
def killedAt (s : State) (c x : Nat) (trap : Option TrapInfo) : State :=
  match trap with
  | some z => issueTrap s c x z
  | none => if unanswered s c x then s else endRunning s c x .killed

/-- The bundle is admitted to its effects, or a kill takes its context at the boundary before it. -/
def admitted (s : State) (c x : Nat) (b : Issue) : Except State State :=
  if (ctxOf s c x).killed then .error (killedAt s c x (bundleTrap s c x b)) else admitLive s c x b

/-- The cause of the lowest slot found away from the core. -/
def firstLate (rs : List SlotOut) : Option TrapInfo :=
  rs.findSome? fun p => match p.2 with
    | .late _ cause sub level info => some { cause := cause, sub := sub, level := level, slot := p.1.slot.num, late := true, info := info }
    | _ => none

/-- What stays of the instruction whose cause was found away from the core: a counter that has saturated (15 R397). -/
def keptState (s : State) (rs : List SlotOut) : State :=
  (rs.findSome? fun p => match p.2 with
    | .late keep _ _ _ _ => some (keep s)
    | _ => none).getD s

/-- What holds the bundle, by slot. -/
def holdsOf (rs : List SlotOut) : List (Nat × Hold) :=
  rs.filterMap fun p => match p.2 with
    | .hold _ h => some (p.1.slot.num, h)
    | _ => none

/-- What holds the bundle first: an L-slot wait before the others. -/
def firstHold (rs : List SlotOut) : Option Hold :=
  let hs := holdsOf rs
  match hs.find? fun p => p.1 == 3 with
  | some p => some p.2
  | none => hs.head?.map (·.2)

/-- The outcome of a slot as it is kept. -/
def outOf (p : SlotOut) : Option Out :=
  match p.2 with
  | .ok _ lands arrs _ => some ⟨p.1.slot.num, arrs, lands⟩
  | _ => none

/-- The hold's slots and the once-only operations that have ended take their effect on the held bundle's state (08 R209). -/
def holdState (c x : Nat) (b : Issue) (r : Option Rec) : List SlotWork → State → State
  | [], s => s
  | w :: ws, s =>
    let s := match slotRes s c x b r w, w.instr? with
      | .ok s' _ _ _, some i => if keepsOutcome i then s' else s
      | .hold s' _, _ => s'
      | _, _ => s
    holdState c x b r ws s

/-- Failed retries go on counting while a wait goes on (08 R210). -/
def mergeHold (old : Option Hold) (new : Hold) : Hold :=
  match old, new with
  | some (.fe op va _ n), .fe op' va' v m => if op = op' ∧ va = va' then .fe op va v n else .fe op' va' v m
  | _, h => h

/-- A hold is a landing point (08 R209, 14 R369, 15 R396, R399). -/
def Hold.lands : Hold → Bool
  | .owner | .engineRoom => false
  | _ => true

/-- The bundle is held at issue. -/
def holdBundle (s : State) (c x : Nat) (b : Issue) (r : Option Rec) (rs : List SlotOut) (h : Hold) : State :=
  let s := holdState c x b r b.works s
  let outs := (rs.filter fun p => match p.1.instr? with | some i => keepsOutcome i | none => false).filterMap outOf
  let s := outs.foldl (fun s o => dropExchanges s (.bundle c x o.slot)) s
  modCtx s c x fun t => { t with held := some (mergeHold t.held h), kept := if outs.isEmpty then t.kept else some (b.pc, outs),
                                 atLand := (holdsOf rs).any (·.2.lands) }

/-- The queues after the bundle: named ones advance; a rerun takes its recorded heads away again. -/
def popQueues (k : Core) (x : Nat) (b : Issue) (r : Option Rec) : Core :=
  let qs : List Nat := match r with
    | some r => r.heads.map (·.1)
    | none => b.pops
  if qs.isEmpty then k else flushTokens (qs.foldl (fun k q => setQueue k x q (queueOf k x q).tail) k)

/-- A bundle that reads q4 or a token of q6 acquires what the record or the completion stands for before its slots access memory: its core's
first-level lines go, a superset of what the rules name (06 R145, 09 R240, R244; log 21). -/
def acquireHeads (s : State) (c : Nat) (b : Issue) : State := if b.heads.contains 4 || b.heads.contains 6 then dropAllClean s c else s

/-- A bundle's outcomes enter the interval's record. -/
def keepRec (k : Core) (r : Rec) : Core := { k with shadow := k.shadow.map fun h => { h with log := h.log ++ [r] } }

/-- What the bundle did enters the interval's record, or leaves the record it was taken from (10 R276). -/
def recordBundle (k : Core) (x : Nat) (b : Issue) (r : Option Rec) (rs : List SlotOut) : Core :=
  match r with
  | some o =>
    match k.rerun with
    | some ⟨_ :: l, t, n, f⟩ => { k with rerun := some ⟨l, t, n, f⟩ }
    | _ => keepRec (setCoreCtx k x { coreCtx k x with replay := (coreCtx k x).replay.tail }) o
  | none =>
    let t := coreCtx k x
    if needsRec t b then
      let outs := (rs.filter fun p => match p.1.instr? with | some i => onceOnly t i || replayed i | none => false).filterMap outOf
      keepRec k ⟨b.heads.map fun q => (q, ((queueOf k x q).head?).getD 0), outs⟩
    else k

/-- The tiles and pages a bundle uses are claimed, and what it writes is copied for a rollback (07 R192, 10 R275). -/
def claimUnits (k : Core) (c x : Nat) (b : Issue) : Core :=
  let vs := b.instrs.flatMap tileUses
  let ps := b.instrs.flatMap (pageUses k c x)
  if vs.isEmpty && ps.isEmpty then k
  else
    { k with vtag := ownerClaims k.vtag x vs, atag := ownerClaims k.atag x ps,
             shadow := k.shadow.map fun h => { h with wrV := addNew h.wrV (tilesWritten b), wrA := addNew h.wrA (pagesWritten k c x b),
                                                      uncopied := h.uncopied || manyPages k c x b } }

/-- An earlier run of the interval has issued the bundle: its queue pushes are not repeated (10 R276). -/
def runBefore (k : Core) (x : Nat) : Bool :=
  match k.shadow with
  | some h => decide (h.count < (if k.rerun.isSome then h.reached else 0)) || decide (h.count < (coreCtx k x).replayTo)
  | none => false

/-- A result is the push that an earlier run made: it is not made again. -/
def madeBefore (s : State) (c x : Nat) (z : Nat × Land) : Bool :=
  match z.2 with
  | .push q _ => pushReaches s (neighbour c q) x
  | _ => false

/-- A reply without the push that an earlier run made. -/
def muteArrival (s : State) (c x : Nat) (a : Arrival) : Arrival :=
  match a.dst with
  | some n => if 56 ≤ n && pushReaches s (neighbour c (n - 56)) x then { a with dst := none } else a
  | none => a

/-- The results of the slots are on their way. -/
def sendOuts (s : State) (c : Nat) (k : Core) (x : Nat) (rs : List SlotOut) : Core :=
  rs.foldl (fun (k : Core) (p : SlotOut) =>
    match p.2 with
    | .ok _ lands arrs _ =>
      let old := runBefore k x
      let lands := if old then lands.filter (!madeBefore s c x ·) else lands
      let arrs := if old then arrs.map (muteArrival s c x) else arrs
      let k := lands.foldl (fun k (z : Nat × Land) => addLands k x z.1 [z.2]) k
      { k with arrivals := k.arrivals ++ arrs.map fun a => { a with mark := ((k.shadow.map (·.count)).getD 0) } }
    | _ => k) k

/-- The sequencer's part of a bundle: that of its C slot. -/
def ctlOf (rs : List SlotOut) : Ctl :=
  (rs.findSome? fun p => match p.2 with
    | .ok _ _ _ .next => none
    | .ok _ _ _ c => some c
    | _ => none).getD .next

/-- The state the last slot left. -/
def lastState (s : State) (rs : List SlotOut) : State :=
  rs.foldl (fun s p => match p.2 with | .ok s' _ _ _ => s' | _ => s) s

/-- CTXSW's choice is the interrupted context itself (14 R374): the one its operand names, else the next ready one when no other is. -/
def choosesSelf (s : State) (c x : Nat) (a : Word) : Bool :=
  let y := fld a 2 0
  if !bitOf a 3 && (y == x || (coreCtx (coreOf s c) y).status == .ready) then y == x
  else !s.mod.susp && !(List.range 8).any fun z => z != x && (coreCtx (coreOf s c) z).status == .ready

/-- CTXSW's choice (14 R374). -/
def switchTo (s : State) (c x : Nat) (a : Word) : State :=
  let s := settle s c
  let y := fld a 2 0
  if !bitOf a 3 && (y == x || (coreCtx (coreOf s c) y).status == .ready) then
    if y = x then enter s c x
    else
      let s := modCtx s c x fun t => { t with status := .ready, grp := [], held := none }
      let (s, r) := eagerSave s c x
      match r with
      | .error e => if waitPage ≤ e then modCtx s c x fun t => { t with held := some (.leave .away) } else runNext c 9 x (endUnsaved s c x e)
      | .ok _ =>
        let (s, r) := eagerRestore s c y
        match r with
        | .ok _ => enter s c y
        | .error e => if waitPage ≤ e then modCore s c fun k => { k with run := none, lastCtx := (y + 7) % 8, sliceUsed := 0 } else runNext c 9 y (endUnsaved s c y e)
  else switchAway s c x .ready

/-- A context leaves its core behind the bundle that says so. -/
def leaveNow (s : State) (c x : Nat) (l : Leave) : State :=
  match l with
  | .yield => if (nextReady (coreOf s c) x).any (· != x) then switchAway (settle s c) c x .ready else modCtx s c x fun t => { t with held := none }
  | .exit => endRunning s c x .clean
  | .eret y => takeCheckpoint (leaveTrap (settle s c) c x (BitVec.ofNat 18 y)) c x
  | .ctxsw a y => switchTo (leaveTrap (settle s c) c x (BitVec.ofNat 18 y)) c x a
  | .halt y => switchAway (leaveTrap (settle s c) c x (BitVec.ofNat 18 y)) c x .halted
  | .away => goAway s c x

/-- It leaves once every access that it has sent is answered (07 R186); until then it issues nothing. -/
def leaveCore (s : State) (c x : Nat) (l : Leave) : State :=
  if unsettled s c x then modCtx s c x fun t => { t with held := some (.leave l) } else leaveNow s c x l

/-- The sequencer goes on after a bundle that took effect. A YIELD with no other context ready goes on at once. -/
def follow (s : State) (c x : Nat) (b : Issue) (ctl : Ctl) : State :=
  match ctl with
  | .next => advance s c x b none false
  | .loop => advance s c x b none true
  | .jump y => advance s c x b (some y) false
  | .leave .yield =>
    let s := advance s c x b none false
    if (nextReady (coreOf s c) x).any (· != x) then leaveCore s c x .yield else s
  | .leave (.eret y) => leaveCore (advance s c x b (some y) false) c x (.eret y)
  | .leave (.ctxsw a y) => leaveCore (advance s c x b (if choosesSelf s c x a then some y else none) false) c x (.ctxsw a y)
  | .leave l => leaveCore (advance s c x b none false) c x l

/-- A speculative task keeps the accumulator pages of its core as they stood before it first wrote them (09 R245). -/
def noteUndo (s : State) (c x : Nat) (k : Core) (ps : List Nat) : State :=
  if ps.isEmpty then s
  else modCtx s c x fun t => { t with spec := t.spec.map fun q =>
    { q with undo := ps.foldl (fun u p => if u.any (·.1 == p) then u else tabPut u p (accPage k p)) q.undo } }

/-- A bundle whose slots all take effect. -/
def commit (s : State) (c x : Nat) (b : Issue) (r : Option Rec) (rs : List SlotOut) : State :=
  let s := noteUndo (dropBundle (lastState s rs) c x) c x (coreOf s c) (pagesWritten (coreOf s c) c x b)
  let s := modCore s c fun k =>
    let k := recordBundle k x b r rs
    let k := claimUnits (holdUnits k c x b) c x b
    popQueues (sendOuts s c k x rs) x b r
  follow s c x b (ctlOf rs)

/-- An admitted bundle: its traps, its holds, or its effect as a whole (10 R271, 08 R209). -/
def execute (s : State) (c x : Nat) (b : Issue) : State :=
  let r := replayRec (coreOf s c) x b
  let s1 := acquireHeads (primed s c x r) c b
  let rs := runSlots c x b r b.works s1
  match firstTrap rs with
  | some z => issueTrap s c x z
  | none =>
    match firstHold rs with
    | some h => holdBundle s c x b r rs h
    | none =>
      match firstLate rs with
      | some z =>
        if unanswered s c x then s
        else if rehearsing (coreOf s c) then stopRerun s c x
        else trapRunning (modCore (keptState s rs) c fun k => { k with rerun := none }) c x z
      | none => commit s1 c x b r rs

/-- A bundle issues. -/
def runBundle (s : State) (c x : Nat) (b : Issue) : State :=
  match admitted s c x b with
  | .error t => t
  | .ok s => execute s c x b

/-! ### One instruction -/

/-- The bundle that holds one instruction at the context's program counter and ends its group. -/
def soloIssue (k : Core) (x : Nat) (i : Instr) (eff : Eff) : Issue :=
  let pc := (coreCtx k x).pc.toNat
  let sl := i.homeSlot.getD .c
  ⟨pc, pc + 8, soloHeader sl, [⟨sl, (encodeNat i).getD 0, if i.wf then .ok i else .error (.badField i), eff⟩]⟩

/-- A slot instruction as the core whose turn it is runs it: alone in its bundle (log 5). -/
def issueOne (i : Instr) (eff : Eff) (s : State) : Host.Outcome State Fault Refusal :=
  match (coreOf s s.turn).run with
  | none => .fault .noContext
  | some x => .next (runBundle s s.turn x (soloIssue (coreOf s s.turn) x i eff))

end Sys2Proof.Machine
end

