-- ==== Sys2Proof/Machine/Launch.lean ====
section
/-! DEFINITION. Launches of tasks (05 R102, R103, R112 to R117): the pool, the admission of a table, placement, and the start of
a task on a core. -/

namespace Sys2Proof.Machine

/-! ### The pool and its resources (05 R102, R103) -/

/-- A core is in the pool of its die. -/
def inPool (s : State) (c : Nat) : Bool := !isFirmwareCore s c && !(coreOf s c).retired && !gatedCore s c

/-- The masked pool of a die as cores, ascending. -/
def poolCores (s : State) (d : Nat) (mask : BitVec 64) : List Nat :=
  ((List.range 64).filter fun i => mask.getLsbD i && inPool s (64 * d + i)).map (64 * d + ·)

/-- A core's capacity covers the needs of a task: context slots, scratchpad, pages, barrier counters. -/
def capacityCovers (s : State) (c spad pages bars : Nat) : Bool :=
  decide (spad ≤ (coreOf s c).spadUnits * 64) && decide (pages ≤ 512) && decide (bars ≤ 16)

/-- The lowest run of n units below `cap` that keeps clear of the runs taken. -/
def lowestRun (taken : List (Nat × Nat)) (n cap : Nat) : Option Nat :=
  let starts := 0 :: taken.map fun r => r.1 + r.2
  let ok := starts.filter fun a => decide (a + n ≤ cap) && taken.all fun r => r.2 == 0 || n == 0 || decide (a + n ≤ r.1) || decide (r.1 + r.2 ≤ a)
  if ok.isEmpty then none else some (ok.foldl min cap)

/-- What the resident contexts of a core have reserved, by a projection. -/
def takenRuns (k : Core) (f : Reserved → Nat × Nat) : List (Nat × Nat) :=
  k.ctxs.filterMap fun p => if p.2.status = .none then none else some (f p.2.res)

/-- The lowest free context id of a core. -/
def freeCtxId (k : Core) : Option Nat :=
  (List.range (ctxIds k)).find? fun x => !(coreCtx k x).resident && k.ctxs.all fun p => p.2.status = .none || p.2.res.windows.all fun w => w.1 + w.2 ≤ 0x8000 * x || 0x8000 * (x + 1) ≤ w.1

/-! ### Tables (05 R112, R113, R123) -/

/-- A little-endian number in bytes `off` to `off + n - 1`. -/
def fieldOf (bs : List Byte) (off n : Nat) : Nat := leNat ((bs.drop off).take n)

/-- A word at a byte offset. -/
def wordAt (bs : List Byte) (off : Nat) : Word := BitVec.ofNat 64 (fieldOf bs off 8)

/-- The coordinate hash (05 R116). -/
def coordHash (x y z : Nat) : Nat :=
  ((x * 0x9E3779B1) ^^^ (y * 0x85EBCA77) ^^^ (z * 0xC2B2AE3D)) % 2 ^ 32

/-- A join id as its die of this module and its record (05 R117). -/
def joinOfId (s : State) (w : Nat) : Option (Nat × Nat) :=
  if w / 2 ^ 31 % 2 = 1 ∧ w % 2 ^ 31 / 2 ^ 20 = 0 then (localDie s (bitsOf w 19 12)).map fun d => (d, w % 4096) else none

/-- The join id of a table entry: with bit 31 set, the bits it does not use are zero (05 R117). -/
def joinField (w : Nat) : Bool := w / 2 ^ 31 == 0 || w % 2 ^ 31 / 2 ^ 20 == 0

/-- The fields of a table entry are in range and its reserved bytes are zero. -/
def entryOk (bs : List Byte) (ordered : Bool) : Bool :=
  fieldOf bs 0 8 % 4 == 0 && decide (4 ≤ fieldOf bs 8 4) && decide (fieldOf bs 8 4 ≤ 32768) && fieldOf bs 8 4 % 4 == 0 &&
    decide (fieldOf bs 24 2 ≤ 512) && decide (fieldOf bs 26 2 ≤ 512) && decide (fieldOf bs 28 1 ≤ 16) &&
    fieldOf bs 29 3 == 0 && fieldOf bs 36 4 == 0 &&
    (if ordered then fieldOf bs 12 4 == 0 && fieldOf bs 28 1 == 0 else fieldOf bs 22 2 == 0 && joinField (fieldOf bs 32 4))

/-- The task of a table entry; its launch, join and child number are the launch's to set. -/
def entryTask (s : State) (asid pos : Nat) (bs : List Byte) (ordered : Bool) : TaskReq :=
  { asid := asid, code := wordAt bs 0, bytes := fieldOf bs 8 4, index := pos,
    group := if ordered then fieldOf bs 16 8 else fieldOf bs 12 4,
    hash := coordHash (fieldOf bs 16 2) (fieldOf bs 18 2) (fieldOf bs 20 2),
    args := [wordAt bs 40, wordAt bs 48, wordAt bs 56], spad := fieldOf bs 24 2, pages := fieldOf bs 26 2, bars := fieldOf bs 28 1,
    launch := .child, join := if ordered then none else joinOfId s (fieldOf bs 32 4),
    named := if !ordered && fieldOf bs 32 4 / 2 ^ 31 == 1 then fieldOf bs 32 4 else 0, child := 0, strm := (0, 0), pool := 0 }

/-- The code of an error of an access, as R79 numbers it: TRANSL, PROT, CCHK; or that the command waits. -/
def accessErr (status : Nat) : Nat :=
  if status = 3 then 0x0C else if status = 6 then 0x0D else if waitPage ≤ status then waitErr else 0x0B

/-- A page as instruction memory reads it: mapped, resident and with X (10 R256). -/
def codeLoc (s : State) (asid va : Nat) : State × Except Nat Loc :=
  let ob := va / 2 ^ 56
  if ob = 0xFD ∨ ob = 0xFF then (s, .error 0x0C)
  else match localDie s ob with
    | none => (s, if ob < 0xFC ∧ routed s ob then .ok (.remote ob) else .error 0x0B)
    | some d =>
      let (s, r) := translate s d asid va
      match r with
      | .error (.wait _) => (s, .error waitErr)
      | .error _ => (s, .error 0x0B)
      | .ok l =>
        if !pteX l.pte || keyMissing s d asid then (s, .error 0x0C)
        else if pteRes l.pte = 2 then (s, .error waitErr)
        else if pteRes l.pte ≠ 0 then (s, .error 0x0B)
        else
          let home := (localDie s (pteFdie l.pte)).getD d
          let pa := pteFrame l.pte + va % 2 ^ l.log
          (underKey s d asid home pa, .ok (.home home pa 0 (pteCe l.pte) false false))

/-- What a die of another module answers about code; an R79 code of its failure, or that the step waits. -/
def askCode (s : State) (src g asid va n : Nat) : State × Except Nat (List Byte) :=
  match ask s src g asid va (.code n) with
  | (s, none) => (s, .error waitErr)
  | (s, some (r, x)) =>
    if replyStatus r ≠ 0 then (s, .error (accessErr (replyStatus r)))
    else match x with
      | some x => if x.check ≠ 0 then (countCc s 1, .error 0x0D) else (s, .ok (x.bytes va n))
      | none => (s, .error 0x0B)

/-- Bytes read into instruction memory by a die, with the R79 code of a failure. -/
def codeRead (s : State) (src asid va n : Nat) : State × Except Nat (List Byte) :=
  (piecesOf va n).foldl (fun acc p =>
    match acc.2 with
    | .error e => (acc.1, .error e)
    | .ok bs =>
      let (s, r) := codeLoc acc.1 asid p.1
      match r with
      | .error e => (s, .error e)
      | .ok (.home die pa _ _ _ _) =>
        if badCheck s die pa p.2 then (foundBad s die pa p.2, .error 0x0D) else (s, .ok (bs ++ physRead s die pa p.2))
      | .ok (.remote g) =>
        let (s, r) := askCode s src g asid p.1 p.2
        (s, r.map (bs ++ ·))
      | .ok _ => (s, .error 0x0B)) (s, .ok [])

/-- The first failure of the code pages of tasks. -/
def codeFail (s : State) (src : Nat) : List TaskReq → State × Nat
  | [] => (s, 0)
  | t :: ts =>
    let (s, e) := (pagesOf [(t.code.toNat, t.bytes)]).foldl (fun (acc : State × Nat) p =>
      if acc.2 ≠ 0 then acc
      else match codeLoc acc.1 t.asid (max (p * 65536) t.code.toNat) with
        | (s, .ok (.remote g)) =>
          match askCode s src g t.asid (max (p * 65536) t.code.toNat) 4 with
          | (s, .ok _) => (s, 0)
          | (s, .error e) => (s, e)
        | (s, .ok _) => (s, 0)
        | (s, .error e) => (s, e)) (s, 0)
    if e ≠ 0 then (s, e) else codeFail s src ts

/-- The 64-byte entries of a table's bytes. -/
def entriesOf : Nat → List Byte → List (List Byte)
  | 0, _ => []
  | n + 1, bs => bs.take 64 :: entriesOf n (bs.drop 64)

/-- The tasks of a table of n entries, or an R79 code. -/
def readTable (s : State) (cl asid : Nat) (tab : Word) (n : Nat) (ordered : Bool) : State × Except Nat (List TaskReq) :=
  let (s, r) := engRead s cl asid tab.toNat (64 * n)
  match r with
  | .error e => (s, .error (accessErr e))
  | .ok bs =>
    let es := entriesOf n bs
    if !es.all (entryOk · ordered) then (s, .error 0x03)
    else (s, .ok (((List.range n).zip es).map fun p => entryTask s asid p.1 p.2 ordered))

/-- Some masked core's capacity covers a task; with coordinate hash, its hashed core's does (05 R113, R116). -/
def taskFits (s : State) (cores : List Nat) (hash : Bool) (t : TaskReq) : Bool :=
  if hash then (match cores[t.hash % max cores.length 1]? with | some c => capacityCovers s c t.spad t.pages t.bars | none => false)
  else cores.any fun c => capacityCovers s c t.spad t.pages t.bars

/-- A die's cores with the scratchpad sizes they had when a launch was accepted. -/
def withSizes (s : State) (d : Nat) (sizes : List Nat) : State :=
  ((List.range sizes.length).zip sizes).foldl (fun s p => modCore s (64 * d + p.1) fun k => { k with spadUnits := p.2 }) s

/-- The join of a launch for its tasks whose JOIN names none (05 R112). A named join of another module counts nowhere here (log 27). -/
def TaskReq.countInto (t : TaskReq) (own : Nat × Nat) : TaskReq := { t with join := if t.named ≠ 0 then t.join else some own }

/-- ADMISSION of a table of n entries for masked cores (05 R113, R116): its tasks, or an R79 code. -/
def admitTable (s : State) (cl asid : Nat) (tab : Word) (n : Nat) (cores : List Nat) (hash ordered : Bool) : State × Except Nat (List TaskReq) :=
  let (s, r) := readTable s cl asid tab n ordered
  match r with
  | .error e => (s, .error e)
  | .ok ts =>
    if !ts.all (taskFits s cores hash) then (s, .error 0x07)
    else
      let (s, e) := codeFail s (cl / 4) ts
      if e ≠ 0 then (s, .error e) else (s, .ok ts)

/-! ### Placement (05 R114, R116) -/

/-- A task in its place in ascending order of (group, position). -/
def insertTask (t : TaskReq) : List TaskReq → List TaskReq
  | [] => [t]
  | u :: l => if t.group < u.group ∨ (t.group = u.group ∧ t.index < u.index) then t :: u :: l else u :: insertTask t l

/-- The tasks in the order of placement. -/
def sortTasks (ts : List TaskReq) : List TaskReq := ts.foldl (fun l t => insertTask t l) []

/-- The step of the pointer to the core that takes a task: the first whose capacity covers it, from the pointer on. -/
def fitFrom (s : State) (cores : List Nat) (ptr : Nat) (t : TaskReq) : Option (Nat × Nat) :=
  (List.range cores.length).findSome? fun i =>
    let j := (ptr + i) % cores.length
    match cores[j]? with
    | some c => if capacityCovers s c t.spad t.pages t.bars then some (c, (j + 1) % cores.length) else none
    | none => none

/-- The tasks of one launch are placed as far as the waiting lists have room; what is left is returned. An admitted task that no core of the pool
covers any more (PHASE shrank a scratchpad, or a core was retired) stays at the head and waits (DESIGN CHOICE, log 64: 05 R114 says nothing of it). -/
def placeTasks (s : State) (d : Nat) : Nat → Placing → State × Placing
  | 0, p => (s, p)
  | fuel + 1, p =>
    match p.reqs with
    | [] => (s, p)
    | t :: ts =>
      let cores := poolCores s d p.pool
      let spot := if p.hash then (cores[t.hash % max cores.length 1]?).map fun c => (c, p.ptr) else fitFrom s cores p.ptr t
      match spot with
      | none => (s, p)
      | some (c, ptr) =>
        if 8 ≤ (coreOf s c).waitq.length then (s, p)
        else
          let s := dueStart (modCore s c fun k => { k with waitq := k.waitq ++ [{ t with pool := p.pool }] }) c
          placeTasks s d fuel { p with reqs := ts, ptr := ptr }

/-- Some child of a SPAWN of a die has not ended: it is resident, waits on a core, or waits to be placed. -/
def spawnLives (s : State) (d n : Nat) : Bool :=
  (s.cores.any fun e => (e.2.ctxs.any fun p => p.2.spawned == n && p.2.resident && dieOfCore e.1 == d) ||
    e.2.waitq.any fun r => r.spawned == n && dieOfCore e.1 == d) ||
  (dieOf s d).placing.any fun p => p.reqs.any fun r => r.spawned == n

/-- A launch all of whose tasks are placed is kept while its command, or a child of its SPAWN, runs: its pointer may have to go on (05 R132). -/
def keepsPointer (s : State) (d : Nat) (p : Placing) : Bool :=
  match p.owner with
  | some cid => if 2 ^ 65 ≤ cid then spawnLives s d (cid - 2 ^ 65) else ((cmdOf s d cid).map (·.state)) == some 2
  | none => false

/-- What launched a task: its command, or its SPAWN. -/
def ownerOf (t : TaskReq) : Option Nat :=
  match t.launch with
  | .task _ cid _ | .ordered _ cid _ => some cid
  | _ => if t.spawned = 0 then none else some (2 ^ 65 + t.spawned)

/-- A stream of a die. -/
def streamOf (s : State) (d n : Nat) : Stream := tabGet {} (dieOf s d).streams n

/-- STRM_CFG.PRIO -/
def Stream.prio (t : Stream) : Nat := fld t.cfg 7 6

/-- A stream's effective priority. -/
def effPrio (t : Stream) : Nat := min 3 (t.prio + t.raised)

/-- The priority of a launch: that of the stream whose command launched it (05 R106), on
whichever die. -/
def launchPrio (s : State) (p : Placing) : Nat :=
  match p.reqs with
  | t :: _ => effPrio (streamOf s t.strm.1 t.strm.2)
  | [] => 0

/-- The launches of one priority place what they can, oldest first. -/
def placeLevel (d p : Nat) (s : State) : State :=
  (List.range (dieOf s d).placing.length).foldl (fun s i =>
    match (dieOf s d).placing[i]? with
    | some q =>
      if launchPrio s q = p then
        let (s, q) := placeTasks s d q.reqs.length q
        modDie s d fun k => { k with placing := k.placing.set i q }
      else s
    | none => s) s

/-- Every launch of a die places what it can: those of a higher priority first, among equals the oldest first. -/
def placeAll (s : State) (d : Nat) : State :=
  let s := [3, 2, 1, 0].foldl (fun s p => placeLevel d p s) s
  modDie s d fun k => { k with placing := k.placing.filter fun q => !q.reqs.isEmpty || keepsPointer s d q }

/-- A launch's tasks are queued for placement. -/
def queueTasks (s : State) (d : Nat) (ts : List TaskReq) (pool : BitVec 64) (hash : Bool) : State :=
  if ts.isEmpty then s
  else
    let p : Placing := { reqs := sortTasks ts, pool := pool, hash := hash, owner := ts.head?.bind ownerOf }
    placeAll (modDie s d fun k => { k with placing := k.placing ++ [p] }) d

/-! ### The start of a task (05 R109, R115) -/

/-- The registers of a context from a list of initial scalar registers, s1 first. -/
def initialS (ws : List Word) : Tab Word :=
  ((List.range ws.length).zip ws).foldl (fun t p => tabSet 0 t (p.1 + 1) p.2) []

/-- CSA and TVEC of a context made resident: a hook's (21 R496), or Amigen's own, which the spec leaves open (log 1). -/
def trapRegs (s : State) (c x : Nat) : State × Word × Word :=
  match (coreOf s c).hook with
  | some (_, base) => (s, 0x3F800, base + BitVec.ofNat 64 (0x800000 * x))
  | none =>
    ({ s with freeCtr := s.freeCtr + 2 }, Config.freeValue s.freeCtr &&& 0x3FFFF, Config.freeValue (s.freeCtr + 1) &&& 0xFFFFFFFFFFFF0000)

/-- Code enters a window of instruction memory, unless the window holds it still; firmware fetches its pages first (03 R511). -/
def loadCode (s : State) (c x : Nat) (t : TaskReq) : State × Except Nat Unit :=
  if tabGet (0, 0, 0) (coreOf s c).loaded x = (t.asid, t.code, t.bytes) then (s, .ok ())
  else
    let (s, r) := askingFor (.step (.taskStart (Fin.ofNat 256 c)) 0 x) s fun s =>
      codeRead (fetchRange (dieOfCore c) t.asid (pagesOf [(t.code.toNat, t.bytes)]) s) (dieOfCore c) t.asid t.code.toNat t.bytes
    match r with
    | .error e => (s, .error e)
    | .ok bs => (modCore s c fun k => { k with imem := memWrite k.imem (0x8000 * x) bs,
                                                loaded := tabPut k.loaded x (t.asid, t.code, t.bytes) }, .ok ())

/-- The join id a task reads in s8: that of the join it counts into, also of one on another module's die. Of a task of an ORDERED command, which counts
into none, it is 0 (DESIGN CHOICE, log 64: 05 R115 gives no value). -/
def taskJoinId (s : State) (t : TaskReq) : Word :=
  match t.join with
  | some (d, j) => joinId s d j
  | none => BitVec.ofNat 64 t.named

/-- The context of a task that starts. -/
def taskCtx (s : State) (c x : Nat) (t : TaskReq) (res : Reserved) : Ctx :=
  let regs := initialS (t.args ++ [BitVec.ofNat 64 t.index,
    BitVec.ofNat 64 (globalDie s (dieOfCore c) * 4096 + 3072 + 16 * idxOfCore c + res.bars.1),
    BitVec.ofNat 64 (0xFD * 2 ^ 56 + 0x80000 * idxInCluster c + res.spad.1), BitVec.ofNat 64 res.pages.1, taskJoinId s t])
  { asid := t.asid, launch := t.launch, join := t.join, child := t.child, under := t.under, order := (t.group, t.index), spawned := t.spawned,
    strm := t.strm, pool := t.pool, res := res, s := regs,
    pc := BitVec.ofNat 18 (0x8000 * x),
    spec := match t.launch with | .ordered _ _ _ => some { init := regs } | _ => none }

/-- A context moved from a retired core in its new place (05 R132, R133). Its program counter and its loops move with its window
(DESIGN CHOICE, log 15). -/
def movedCtx (t : Ctx) (x : Nat) (res : Reserved) : Ctx :=
  let base := match t.res.windows with | w :: _ => w.1 | [] => 0
  let go := fun (a : Nat) => a - base + 0x8000 * x
  { t with res := res, fresh := true, held := none, grp := [], atLand := false, pc := BitVec.ofNat 18 (go t.pc.toNat),
           lsBody := t.lsBody.map fun p => (p.1, setFld p.2 17 0 (go (fld p.2 17 0))) }

/-- A park record follows its context, on whichever die it lies (05 R133). -/
def followPark (s : State) (t : Ctx) (old new : Nat × Nat) : State :=
  let goal := (64 * globalDie s (dieOfCore new.1) + idxOfCore new.1, new.2)
  let s := match t.status with
    | .abroad g => askRemote s (dieOfCore old.1) g 0 0 (.repark (idxOfCore old.1) old.2 (some goal))
    | _ => s
  (List.range 4).foldl (fun s d =>
    if (dieOf s d).parked.isEmpty then s
    else modDie s d (movePark · (parkOf s old.1 old.2) (idxOfCore new.1) (globalDie s (dieOfCore new.1)) new.2)) s

/-- What names a context follows it to its new place: the joins it made, its page requests and its work entries (05 R133). -/
def moveNames (s : State) (old new : Nat × Nat) : State :=
  let j := fun (r : JoinRec) => if r.creator == some old then { r with creator := some new } else r
  let g := fun (r : PgReq) => if (r.core, r.ctx) = old then { r with core := new.1, ctx := new.2 } else r
  let w := fun (e : WorkEntry) => if e.poster == Poster.ctx old.1 old.2 then { e with poster := .ctx new.1 new.2 } else e
  (List.range 4).foldl (fun s d => modDie s d fun k =>
    { k with joins := k.joins.map fun e => (e.1, j e.2), pgreqs := k.pgreqs.map g,
             qps := k.qps.map fun e => (e.1, { e.2 with entries := e.2.entries.map w }) }) s

/-- Where a save area holds units (07 R190): VSAVED and ASAVED, the tiles `vs` and the pages `ps`, each as the context carries it. -/
def savedWrites (t : Ctx) (vs ps : List Nat) : List (Nat × List Byte) :=
  (0x5300, leBytes 8 t.vsaved.toNat ++ leBytes 64 t.asaved.toNat) ::
    (vs.map fun n => (0x10000 + 0x8000 * n, leBytes 32768 (tabGet 0 t.saveV n).toNat)) ++
    ps.map fun n => (0x210000 + 0x1000 * n, leBytes 4096 (tabGet 0 t.saveA n).toNat)

/-- Bytes are written to offsets of a context's save area, up to the first that fails. -/
def writeArea (s : State) (c x : Nat) (ws : List (Nat × List Byte)) : State × Except Nat Unit :=
  let t := ctxOf s c x
  ws.foldl (fun acc p =>
    match acc.2 with
    | .error e => (acc.1, .error e)
    | .ok _ => engWrite acc.1 (clusterOfCore c) t.asid (t.csa.toNat + p.1) p.2 none) (s, .ok ())

/-- The units a moved context carries are written to a save area that software has chosen (10 R279). -/
def placeSaved (s : State) (c x : Nat) : State × Except Nat Unit :=
  let t := ctxOf s c x
  if (coreOf s c).hook.isNone || (t.vsaved == 0 && t.asaved == 0) then (s, .ok ())
  else
    let r := writeArea s c x (savedWrites t ((List.range 64).filter fun n => bitOf t.vsaved n) ((List.range 512).filter fun n => bitOf t.asaved n))
    (modCtx r.1 c x fun t => { t with vsaved := 0, asaved := 0, saveV := [], saveA := [] }, r.2)

/-- A task that cannot start ends as faulted: its join and its command are told, and an ORDERED command's order goes on (05 R126). -/
def failTask (s : State) (c : Nat) (t : TaskReq) (e : EndKind) : State :=
  let s := match t.join with
    | some (d, j) => countIntoJoin s c d j t.child e
    | none => s
  let s := (tellCommand s c t.launch e).1
  match t.launch with
  | .ordered d cid _ => due s .taskCommit d cid
  | _ => s

/-- Tasks of an ORDERED command that are started and not committed: those that move from a retired core are among them. -/
def orderedStarted (s : State) (d cid : Nat) : Nat :=
  let mine := fun (l : Launch) => match l with | .ordered d' cid' _ => d' == d && cid' == cid | _ => false
  let moves := fun (r : TaskReq) => r.moved.isSome && mine r.launch
  ((s.cores.flatMap fun e => e.2.ctxs).filter fun p => p.2.status != .none && mine p.2.launch).length +
    ((s.cores.flatMap fun e => e.2.waitq).filter moves).length + (((dieOf s d).placing.flatMap fun p => p.reqs).filter moves).length

/-- One more task of its ORDERED launch may start: at most 64 are started and uncommitted (05 R123); one that moves is started already. -/
def orderedRoom (s : State) (t : TaskReq) : Bool :=
  match t.launch with
  | .ordered d cid _ => t.moved.isSome || decide (orderedStarted s d cid < 64)
  | _ => true

/-- What a task needs on a core, when the core has room for all of it: a context id and its reservations. -/
def roomFor (s : State) (c : Nat) (t : TaskReq) : Option (Nat × Reserved) :=
  let k := coreOf s c
  if !orderedRoom s t then none
  else match freeCtxId k, lowestRun (takenRuns k (·.spad)) (t.spad * 1024) (k.spadUnits * 65536), lowestRun (takenRuns k (·.pages)) t.pages 512,
    lowestRun (takenRuns k (·.bars)) t.bars 16 with
  | some x, some a, some p, some b => some (x, ⟨[(0x8000 * x, 0x8000)], (a, t.spad * 1024), (p, t.pages), (b, t.bars)⟩)
  | _, _, _, _ => none

/-- One task starts on a core with what it needs; `r` tells whether its code came. -/
def startTask (s : State) (c : Nat) (t : TaskReq) (x : Nat) (res : Reserved) (r : Except Nat Unit) : State :=
  match r with
  | .error e => failTask s c t (.fault (if e = 0x0C then 0x09 else if e = 0x0D then 0x0F else 0x0A))
  | .ok _ =>
    let (s, tv, csa) := trapRegs s c x
    match t.moved with
    | none => makeReady (setCtx s c x { taskCtx s c x t res with status := .loaded, tvec := tv, csa := csa }) c x
    | some u =>
      let s := moveNames (followPark s u t.old (c, x)) t.old (c, x)
      let v := { movedCtx u x res with tvec := tv, csa := csa }
      let (s, r) := placeSaved (setCtx s c x v) c x
      match r with
      | .error e => endAndKill s c x (.fault (saveCause e))
      | .ok _ => if v.status = .ready then makeReady s c x else s

/-- The tasks that wait on a core start in their order, while the core has room; one whose code migrates waits. -/
def startTasks (c : Nat) : Nat → State → State
  | 0, s => s
  | fuel + 1, s =>
    match (coreOf s c).waitq with
    | [] => s
    | t :: ts =>
      match roomFor s c t with
      | none => s
      | some (x, res) =>
        let (s, r) := loadCode s c x t
        if (match r with | .error e => e == waitErr | .ok _ => false) then s
        else startTasks c fuel (startTask (modCore s c fun k => { k with waitq := ts }) c t x res r)

/-- TASK_START (05 R115): the waiting tasks of a core start, and the launches of its die place what they can. -/
def execTaskStart (core : CoreId) (s : State) : Host.Outcome State Fault Refusal :=
  let c := core.val
  .next (placeAll (if (coreOf s c).retired || isFirmwareCore s c then s else startTasks c 8 s) (dieOfCore c))

end Sys2Proof.Machine
end

