-- ==== Sys2Proof/Machine/Results.lean ====
section
/-! DEFINITION. Short names for what an effect reads and answers (14, 13 R350). -/

namespace Sys2Proof.Machine

/-- SRC(c) at issue. -/
def Env.src (e : Env) (s : State) (c : SCode) : Word := srcVal (coreOf s e.core) e.ctx c

/-- The context that issues. -/
def Env.t (e : Env) (s : State) : Ctx := ctxOf s e.core e.ctx

/-- A[n] at issue. -/
def Env.areg (e : Env) (s : State) (n : AReg) : Word := aReg (e.t s) n.toNat

/-- P[n] at issue. -/
def Env.preg (e : Env) (s : State) (n : PReg) : Bool := pReg (e.t s) n.toNat

/-- An effect that only sends results on their way, all with one latency. -/
def done (s : State) (lat : Nat) (ls : List Land) : Res := .ok s (ls.map (lat, ·)) [] .next

/-- DST(d, v) after a latency, and flags with it. -/
def result (s : State) (lat : Nat) (d : SCode) (v : Word) (f : Nat) : Res := done s lat (dstLand d v ++ flagLand f)

/-- P[d] after a latency. -/
def resultP (s : State) (lat : Nat) (d : PReg) (b : Bool) : Res := done s lat [.pred d.toNat b]

/-- A[d] after one issue cycle. -/
def resultA (s : State) (d : AReg) (v : Word) : Res := done s 1 [.addr d.toNat v]

/-- No effect. -/
def nothing (s : State) : Res := done s 1 []

/-- The writes of a context stand at their homes before an engine reads memory for it (09 R243): the core's dirty lines are written back,
which also publishes those of its other contexts early (09 R248). -/
def ownLinesHome (s : State) (e : Env) : State := publishAll s e.core

end Sys2Proof.Machine
end

