-- ==== Sys2Proof/Machine/Control.lean ====
section
/-! DEFINITION. Instructions of the C slot (14 R355 to R376). -/

namespace Sys2Proof.Machine

/-! ### Transfers of control (14 R355 to R357) -/

/-- A transfer of control to x, with results that land: BAD_TARGET when x fails its tests. -/
def transfer (e : Env) (s : State) (x : Word) (ls : List Land) : Res :=
  if targetOk (coreOf s e.core) e.ctx (e.t s).priv x then .ok s (ls.map (1, ·)) [] (.jump x.toNat) else .trap 5 x

/-- The target of a displacement. -/
def dispTarget (e : Env) (disp : BitVec 20) : Word := BitVec.ofNat 64 e.pc + sext disp * 4

/-- What CALL and CALLI leave in lk. -/
def linkLand (e : Env) : Land := .scalar 55 (BitVec.ofNat 64 e.next)

/-- BR (14 R356). -/
def effBr (disp : BitVec 20) : Eff := fun e s => transfer e s (dispTarget e disp) []

/-- BRP (14 R356). -/
def effBrp (p : PReg) (n : Bool) (disp : BitVec 20) : Eff := fun e s => if e.preg s p != n then transfer e s (dispTarget e disp) [] else nothing s

/-- CALL (14 R356). -/
def effCall (disp : BitVec 20) : Eff := fun e s => transfer e s (dispTarget e disp) [linkLand e]

/-- CALLI (14 R357). -/
def effCalli (a : SCode) : Eff := fun e s => transfer e s (e.src s a) [linkLand e]

/-- JMPI (14 R357). -/
def effJmpi (a : SCode) : Eff := fun e s => transfer e s (e.src s a) []

/-- RET (14 R357). -/
def effRet : Eff := fun e s => transfer e s (sReg (e.t s) 55) []

/-- BR (14 R356) alone in a bundle. -/
def execBr (disp : BitVec 20) (s : State) : Host.Outcome State Fault Refusal :=
  issueOne (.br disp) (effBr disp) s

/-- BRP (14 R356) alone in a bundle. -/
def execBrp (p : PReg) (n : Bool) (disp : BitVec 20) (s : State) : Host.Outcome State Fault Refusal :=
  issueOne (.brp p n disp) (effBrp p n disp) s

/-- CALL (14 R356) alone in a bundle. -/
def execCall (disp : BitVec 20) (s : State) : Host.Outcome State Fault Refusal :=
  issueOne (.call disp) (effCall disp) s

/-- CALLI (14 R357) alone in a bundle. -/
def execCalli (a : SCode) (s : State) : Host.Outcome State Fault Refusal :=
  issueOne (.calli a) (effCalli a) s

/-- JMPI (14 R357) alone in a bundle. -/
def execJmpi (a : SCode) (s : State) : Host.Outcome State Fault Refusal :=
  issueOne (.jmpi a) (effJmpi a) s

/-- RET (14 R357) alone in a bundle. -/
def execRet (s : State) : Host.Outcome State Fault Refusal :=
  issueOne .ret effRet s

/-! ### Loops (14 R358 to R362) -/

/-- LS_CNT and LS_BODY of entry j as a loop's beginning writes them. -/
def loopLands (e : Env) (j count len : Nat) : List Land :=
  [.control (0x20 + 2 * j) (BitVec.ofNat 64 count), .control (0x21 + 2 * j) (BitVec.ofNat 64 (2 ^ 63 + len * 2 ^ 18 + e.next))]

/-- LOOP and LOOPI with their count (14 R361). -/
def beginLoop (count len : Nat) : Eff := fun e s =>
  if count = 0 then transfer e s (BitVec.ofNat 64 (walkBundles (coreOf s e.core) len e.next)) []
  else
    match [0, 1, 2, 3, 4, 5].find? fun j => !loopActive (e.t s) j with
    | none => .trap 0x12 e.word
    | some j => .ok s ((loopLands e j count len).map (1, ·)) [] .loop

/-- LOOP (14 R361). -/
def effLoop (a : SCode) (len : BitVec 12) : Eff := fun e s => beginLoop (fld (e.src s a) 31 0) len.toNat e s

/-- LOOPI (14 R361). -/
def effLoopi (cnt len : BitVec 12) : Eff := fun e s => beginLoop cnt.toNat len.toNat e s

/-- LBRK (14 R362). -/
def effLbrk : Eff := fun e s =>
  let t := e.t s
  match innermost t with
  | none => nothing s
  | some j =>
    transfer e s (BitVec.ofNat 64 (nextAddr (coreOf s e.core) (loopLast (coreOf s e.core) t j)))
      [.control (0x21 + 2 * j) (setFld (tabGet 0 t.lsBody j) 63 63 0)]

/-- LOOP (14 R361) alone in a bundle. -/
def execLoop (a : SCode) (len : BitVec 12) (s : State) : Host.Outcome State Fault Refusal :=
  issueOne (.loop a len) (effLoop a len) s

/-- LOOPI (14 R361) alone in a bundle. -/
def execLoopi (cnt len : BitVec 12) (s : State) : Host.Outcome State Fault Refusal :=
  issueOne (.loopi cnt len) (effLoopi cnt len) s

/-- LBRK (14 R362) alone in a bundle. -/
def execLbrk (s : State) : Host.Outcome State Fault Refusal :=
  issueOne .lbrk effLbrk s

/-! ### Control registers (14 R364) -/

/-- The latency of a write of a control register (07 R187). -/
def crLatency (cr : BitVec 12) : Nat := if cr = 1 ∨ cr = 2 ∨ cr = 3 then 5 else 1

/-- MTC (14 R364). -/
def effMtc (a : SCode) (cr : BitVec 12) : Eff := fun e s => done s (crLatency cr) [.control cr.toNat (e.src s a)]

/-- MFC (14 R364). -/
def effMfc (d : SCode) (cr : BitVec 12) : Eff := fun e s => result s 1 d (readCr s e.core e.ctx cr.toNat) 0

/-- MTC (14 R364) alone in a bundle. -/
def execMtc (a : SCode) (cr : BitVec 12) (s : State) : Host.Outcome State Fault Refusal :=
  issueOne (.mtc a cr) (effMtc a cr) s

/-- MFC (14 R364) alone in a bundle. -/
def execMfc (d : SCode) (cr : BitVec 12) (s : State) : Host.Outcome State Fault Refusal :=
  issueOne (.mfc d cr) (effMfc d cr) s

/-! ### Phases, checkpoints and yielding (14 R365 to R367) -/

/-- Everything a range of a die's memory holds is lost: words with waiters post their wakes, and zero, empty words with a
matching check are left (08 R198). -/
def loseRange (s : State) (die pa n : Nat) : State :=
  let hit := fun (a size : Nat) => decide (pa ≤ a * size) && decide (a * size < pa + n)
  let ws := ((dieOf s die).waits.filter fun w => hit w.1 8).map (·.1)
  let s := modDie s die fun d =>
    { d with mem := d.mem.filter (fun b => !hit b.1 1), full := d.full.filter (fun b => !hit b.1 8), badck := d.badck.filter (fun b => !hit b.1 64),
             ecc := d.ecc.filter (fun b => !hit b.1 64), entryBad := d.entryBad.filter (fun b => !hit b.1 64),
             rels := d.rels.filter fun r => !(match r.obj with | .word a => hit a 1 | .ctr _ | .curtain _ _ => false) }
  ws.foldl (fun s w => wakeWord s die w) s

/-- A line lies in a core's slice of its first-level cache: every line of a private one; of a fused one the lines of the sets that its own
memory holds, the sets being counted core by core (DESIGN CHOICE, log 7). -/
def inSlice (s : State) (c : Nat) (l : Line) : Bool :=
  if !(dieOf s (dieOfCore c)).fused.getLsbD (clusterOfCore c % 4) then true
  else
    let own := fun j => (512 * 1024 - spadBytes (coreOf s (16 * clusterOfCore c + j))) / 256
    let before := ((List.range (idxInCluster c)).map own).foldl (· + ·) 0
    let set := l.line % max 1 (l1Sets s c)
    decide (before ≤ set) && decide (set < before + own (idxInCluster c))

/-- The boundary between scratchpad and first-level cache moves to u units of 64 KiB, with its drain (08 R198). -/
def moveBoundary (s : State) (c u : Nat) : State :=
  let k := coreOf s c
  let o := k.spadUnits
  let base := spadBase (clusterOfCore c % 4) + 0x80000 * idxInCluster c
  let s := if u < o then loseRange s (dieOfCore c) (base + u * 65536) ((o - u) * 65536)
    else l1Evict s c (inSlice s c)
  modCore s c fun k => { k with spadUnits := u, drain := some (k.ic + 256 * (max u o - min u o), o) }

/-- A run reserved for another context at or above a size: of several that of the lowest context id (DESIGN CHOICE, log 62: the spec does not
say which PHASE names). -/
def runAbove (k : Core) (x u : Nat) : Option Nat :=
  (k.ctxs.find? fun p => p.1 != x && p.2.status != .none && p.2.res.spad.2 != 0 && decide (u * 65536 < p.2.res.spad.1 + p.2.res.spad.2)).map (·.2.res.spad.1)

/-- PHASE (14 R365). -/
def effPhase (units : BitVec 12) : Eff := fun e s =>
  let k := coreOf s e.core
  let u := units.toNat
  if k.drain.isSome then .trap 3 e.word
  else if u = k.spadUnits then nothing s
  else
    match if u < k.spadUnits then runAbove k e.ctx u else none with
    | some a => .trap 9 (BitVec.ofNat 64 (0xFD * 2 ^ 56 + 0x80000 * idxInCluster e.core + a))
    | none => nothing (moveBoundary s e.core u)

/-- PHASE_DRAIN_END (08 R198): the boundary is in force and L-slot issue resumes. -/
def execPhaseDrainEnd (core : CoreId) (s : State) : Host.Outcome State Fault Refusal :=
  .next (modCore s core.val fun k => { k with drain := none })

/-- CKPT (14 R366): its checkpoint is taken before its bundle issues. -/
def effCkpt : Eff := fun _ s => nothing s

/-- YIELD (14 R367). -/
def effYield : Eff := fun _ s => .ok s [] [] (.leave .yield)

/-- PHASE (14 R365) alone in a bundle. -/
def execPhase (units : BitVec 12) (s : State) : Host.Outcome State Fault Refusal :=
  issueOne (.phase units) (effPhase units) s

/-- CKPT (14 R366) alone in a bundle. -/
def execCkpt (s : State) : Host.Outcome State Fault Refusal :=
  issueOne .ckpt effCkpt s

/-- YIELD (14 R367) alone in a bundle. -/
def execYield (s : State) : Host.Outcome State Fault Refusal :=
  issueOne .yield effYield s

/-! ### Child tasks (14 R368 to R371) -/

/-- A join id names a live join of this die that the context created: its record number. -/
def ownJoin (s : State) (e : Env) (w : Word) : Option (Nat × JoinRec) :=
  let d := dieOfCore e.core
  if fld w 63 32 ≠ 0 then none
  else match joinOfId s w.toNat with
    | some (d', j) =>
      if d' ≠ d then none
      else match joinOf s d j with
        | some r => if r.creator = some (e.core, e.ctx) ∧ !r.orphan then some (j, r) else none
        | none => none
    | none => none

/-- The pool of a SPAWN: the cores of the issuing core's cluster, or of its die. -/
def spawnPool (c : Nat) (die : Bool) : BitVec 64 :=
  if die then BitVec.allOnes 64 else BitVec.ofNat 64 (0xFFFF * 2 ^ (16 * (clusterOfCore c % 4)))

/-- SPAWN's children as tasks: they count into their entry's join or into j, and are created under j, numbered on from the join's children. -/
def childTasks (t : Ctx) (d j made spawned : Nat) (pool : BitVec 64) (ts : List TaskReq) : List TaskReq :=
  ts.map fun r =>
    let n := made + r.index
    { r.countInto (d, j) with launch := .child, child := n, under := some ((d, j), n), strm := t.strm, pool := pool, spawned := spawned }

/-- SPAWN (14 R368): the state and its result; its R79 code when admission fails. -/
def spawnRun (s : State) (e : Env) (j tab n : Word) (die : Bool) : State × Word :=
  let d := dieOfCore e.core
  let t := e.t s
  let own := ownJoin s e j
  if fld tab 5 0 ≠ 0 ∨ 4096 < n.toNat then (s, 3)
  else if j ≠ 0 ∧ own.isNone then (s, 3)
  else if j = 0 ∧ (lowestFreeJoin s d).isNone then (s, 0xFF)
  else
    let pool := spawnPool e.core die
    let (s, r) := admitTable s (clusterOfCore e.core) t.asid tab n.toNat (poolCores s d pool) false false
    match r with
    | .error c => (s, BitVec.ofNat 64 c)
    | .ok ts =>
      let (i, rec') := match own with
        | some p => p
        | none => ((lowestFreeJoin s d).getD 0, { creator := some (e.core, e.ctx) })
      let s := setJoin s d i { rec' with target := rec'.target + n, made := rec'.made + n.toNat }
      let n := (dieOf s d).spawns + 1
      (queueTasks (modDie s d fun k => { k with spawns := n }) d (childTasks t d i rec'.made n pool ts) pool false, joinId s d i)

/-- SPAWN (14 R368). While its admission meets a migrating page its bundle stays held (10 R262). -/
def effSpawn (d a b : SCode) (pool : Bool) : Eff := fun e s =>
  let r := spawnRun s e (e.src s d) (e.src s a) (e.src s b) pool
  if r.2.toNat = waitErr then .hold (lackingIn s r.1) .owner else result r.1 1 d r.2 0

/-- What JOIN returns of a join (14 R369). -/
def joinWord (r : JoinRec) : Word :=
  let f := match r.first with
    | some (i, cause, _) => i % 2 ^ 16 * 2 ^ 32 + cause % 256 * 2 ^ 48
    | none => 0
  BitVec.ofNat 64 (r.summary.toNat + f)

/-- JOIN (14 R369). -/
def effJoin (d a : SCode) : Eff := fun e s =>
  match ownJoin s e (e.src s a) with
  | none => result s 1 d 0x80000000 0
  | some (j, r) =>
    if r.target.toNat ≤ r.count.toNat then result (dropAllClean s e.core) 1 d (joinWord r) 0 else .hold s (.join j)

/-- EXIT (14 R370). -/
def effExit : Eff := fun _ s => .ok s [] [] (.leave .exit)

/-- TKILL (14 R371). -/
def effTkill (d a b : SCode) : Eff := fun e s =>
  match ownJoin s e (e.src s a) with
  | none => result s 1 d 0 0
  | some (j, _) =>
    let k := e.src s b
    let set := (joinChildren s (dieOfCore e.core) j).filter fun p => k == BitVec.allOnes 64 || p.2 == k.toNat
    result (killAll killFuel (set.map (·.1)) s) 1 d (BitVec.ofNat 64 set.length) 0

/-- SPAWN (14 R368) alone in a bundle. -/
def execSpawn (d a b : SCode) (pool : Bool) (s : State) : Host.Outcome State Fault Refusal :=
  issueOne (.spawn d a b pool) (effSpawn d a b pool) s

/-- JOIN (14 R369) alone in a bundle. -/
def execJoin (d a : SCode) (s : State) : Host.Outcome State Fault Refusal :=
  issueOne (.join d a) (effJoin d a) s

/-- EXIT (14 R370) alone in a bundle. -/
def execExit (s : State) : Host.Outcome State Fault Refusal :=
  issueOne .exit effExit s

/-- TKILL (14 R371) alone in a bundle. -/
def execTkill (d a b : SCode) (s : State) : Host.Outcome State Fault Refusal :=
  issueOne (.tkill d a b) (effTkill d a b) s

/-! ### Traps and privileged control (14 R372 to R375) -/

/-- A program trap with its immediate. -/
def programTrap (cause : Nat) (imm : BitVec 18) : Res := .trap cause (imm.setWidth 64)

/-- TRAP (14 R372). -/
def effTrap (imm : BitVec 18) : Eff := fun _ _ => programTrap 0x14 imm

/-- SYSC (14 R372). -/
def effSysc (imm : BitVec 18) : Eff := fun _ _ => programTrap 0x13 imm

/-- BRK (14 R372). -/
def effBrk (imm : BitVec 18) : Eff := fun _ _ => programTrap 0x15 imm

/-- Where an interrupted context goes on: EPC, or NEXT(EPC). -/
def resumeAddr (e : Env) (s : State) (nx : Bool) : Nat :=
  let a := fld (e.t s).epc 17 0
  if nx then nextAddr (coreOf s e.core) a else a

/-- ERET (14 R373): a target that fails is a trap in privileged mode. -/
def effEret (nx : Bool) : Eff := fun e s =>
  let x := resumeAddr e s nx
  if targetOk (coreOf s e.core) e.ctx false (BitVec.ofNat 64 x) then .ok s [] [] (.leave (.eret x)) else .trap 5 (BitVec.ofNat 64 x)

/-- CTXSW (14 R374): where it chooses the interrupted context it is ERET, whose target may fail. -/
def effCtxsw (a : SCode) (nx : Bool) : Eff := fun e s =>
  let x := resumeAddr e s nx
  if choosesSelf s e.core e.ctx (e.src s a) && !targetOk (coreOf s e.core) e.ctx false (BitVec.ofNat 64 x) then .trap 5 (BitVec.ofNat 64 x)
  else .ok s [] [] (.leave (.ctxsw (e.src s a) x))

/-- HALT (14 R375). -/
def effHalt (nx : Bool) : Eff := fun e s => .ok s [] [] (.leave (.halt (resumeAddr e s nx)))

/-- TRAP (14 R372) alone in a bundle. -/
def execTrap (imm : BitVec 18) (s : State) : Host.Outcome State Fault Refusal :=
  issueOne (.trap imm) (effTrap imm) s

/-- SYSC (14 R372) alone in a bundle. -/
def execSysc (imm : BitVec 18) (s : State) : Host.Outcome State Fault Refusal :=
  issueOne (.sysc imm) (effSysc imm) s

/-- BRK (14 R372) alone in a bundle. -/
def execBrk (imm : BitVec 18) (s : State) : Host.Outcome State Fault Refusal :=
  issueOne (.brk imm) (effBrk imm) s

/-- ERET (14 R373) alone in a bundle. -/
def execEret (nx : Bool) (s : State) : Host.Outcome State Fault Refusal :=
  issueOne (.eret nx) (effEret nx) s

/-- CTXSW (14 R374) alone in a bundle. -/
def execCtxsw (a : SCode) (nx : Bool) (s : State) : Host.Outcome State Fault Refusal :=
  issueOne (.ctxsw a nx) (effCtxsw a nx) s

/-- HALT (14 R375) alone in a bundle. -/
def execHalt (nx : Bool) (s : State) : Host.Outcome State Fault Refusal :=
  issueOne (.halt nx) (effHalt nx) s

end Sys2Proof.Machine
end

