-- ==== Sys2Proof/Machine/Keccak.lean ====
section
/-! DEFINITION. SHAKE256 (FIPS 202), the hash of measurements, key wraps and debug tokens (04 R85, R91, R94). The standard's
permutation and padding are PRESUMED from FIPS 202 as the spec names it (log 24). -/

namespace Sys2Proof.Machine

/-- The round constants of Keccak-f[1600]. -/
def keccakRc : List Word :=
  [0x0000000000000001, 0x0000000000008082, 0x800000000000808A, 0x8000000080008000, 0x000000000000808B, 0x0000000080000001,
   0x8000000080008081, 0x8000000000008009, 0x000000000000008A, 0x0000000000000088, 0x0000000080008009, 0x000000008000000A] ++
  [0x000000008000808B, 0x800000000000008B, 0x8000000000008089, 0x8000000000008003, 0x8000000000008002, 0x8000000000000080,
   0x000000000000800A, 0x800000008000000A, 0x8000000080008081, 0x8000000000008080, 0x0000000080000001, 0x8000000080008008]

/-- The rotation of lane x + 5 y. -/
def keccakRot : List Nat := [0, 1, 62, 28, 27, 36, 44, 6, 55, 20, 3, 10, 43, 25, 39, 41, 45, 15, 21, 8, 18, 2, 61, 56, 14]

/-- Lane i of a state of 25 lanes. -/
def lane (a : List Word) (i : Nat) : Word := a.getD i 0

/-- The theta step. -/
def keccakTheta (a : List Word) : List Word :=
  let c := (List.range 5).map fun x => lane a x ^^^ lane a (x + 5) ^^^ lane a (x + 10) ^^^ lane a (x + 15) ^^^ lane a (x + 20)
  let d := (List.range 5).map fun x => lane c ((x + 4) % 5) ^^^ (lane c ((x + 1) % 5)).rotateLeft 1
  (List.range 25).map fun i => lane a i ^^^ lane d (i % 5)

/-- The rho and pi steps: lane (y, 2x + 3y) takes lane (x, y) rotated. -/
def keccakRhoPi (a : List Word) : List Word :=
  (List.range 25).map fun j =>
    let y := j % 5
    let x := (j / 5 + 2 * y) * 3 % 5
    (lane a (x + 5 * y)).rotateLeft (keccakRot.getD (x + 5 * y) 0)

/-- The chi step. -/
def keccakChi (b : List Word) : List Word :=
  (List.range 25).map fun i => lane b i ^^^ (~~~ lane b (i / 5 * 5 + (i + 1) % 5) &&& lane b (i / 5 * 5 + (i + 2) % 5))

/-- The iota step. -/
def keccakIota (rc : Word) (a : List Word) : List Word := (lane a 0 ^^^ rc) :: a.tail

/-- Keccak-f[1600]. -/
def keccakF (a : List Word) : List Word := keccakRc.foldl (fun a rc => keccakIota rc (keccakChi (keccakRhoPi (keccakTheta a)))) a

/-- The rate of SHAKE256 in bytes. -/
def shakeRate : Nat := 136

/-- A message padded to whole blocks. -/
def shakePad (m : List Byte) : List Byte :=
  let q := shakeRate - m.length % shakeRate
  if q = 1 then m ++ [0x9F] else m ++ [0x1F] ++ List.replicate (q - 2) 0 ++ [0x80]

/-- Blocks are absorbed. -/
def shakeAbsorb : Nat → List Word → List Byte → List Word
  | 0, a, _ => a
  | n + 1, a, m =>
    shakeAbsorb n (keccakF ((List.range 25).map fun i =>
      if i < 17 then lane a i ^^^ BitVec.ofNat 64 (leNat ((m.drop (8 * i)).take 8)) else lane a i)) (m.drop shakeRate)

/-- Output is squeezed, a block at a time. -/
def shakeSqueeze : Nat → List Word → List Byte
  | 0, _ => []
  | n + 1, a => ((a.take 17).flatMap fun w => leBytes 8 w.toNat) ++ shakeSqueeze n (keccakF a)

/-- SHAKE256 with n bytes of output. -/
def shake256 (m : List Byte) (n : Nat) : List Byte :=
  let p := shakePad m
  (shakeSqueeze ((n + shakeRate - 1) / shakeRate) (shakeAbsorb (p.length / shakeRate) (List.replicate 25 0) p)).take n

/-- A measurement extended by an item (04 R85): MEAS := SHAKE256(MEAS ‖ SHAKE256(item)). -/
def extend (meas : BitVec 512) (item : List Byte) : BitVec 512 :=
  BitVec.ofNat 512 (leNat (shake256 (leBytes 64 meas.toNat ++ shake256 item 64) 64))

end Sys2Proof.Machine
end

