-- ==== Sys2Proof/Machine/Vector.lean ====
section
/-! DEFINITION. Elementwise vector instructions (16 R409 to R424, R428 to R431, R438, R439): arithmetic, special functions,
compares, bits, conversions, permutes, moves and masks. -/

namespace Sys2Proof.Machine

/-! ### Elements (16 R409 to R412) -/

/-- Element i of a tile of w-bit elements. -/
def elemOf (v : Tile) (w i : Nat) : Nat := v.toNat / 2 ^ (w * i) % 2 ^ w

/-- The element lies in the enable mask (16 R410): m0 enables every element. -/
def maskOn (t : Ctx) (mk : MReg) (i : Nat) : Bool := mk == 0 || (mReg t mk.toNat).getLsbD i

/-- The enabled elements of SHP, rising. -/
def enabledIdx (t : Ctx) (mk : MReg) : List Nat := (List.range (shpN t)).filter (maskOn t mk)

/-- Element i of SRC tile vb, or of the broadcast scalar (16 R411). -/
def vbVal (e : Env) (s : State) (vb : BitVec 6) (vf : Bool) (w i : Nat) : Nat :=
  if vf then (e.src s vb).toNat % 2 ^ w else elemOf (vReg (coreOf s e.core) vb.toNat) w i

/-- Element i of a tile register. -/
def vElem (e : Env) (s : State) (v : VReg) (w i : Nat) : Nat := elemOf (vReg (coreOf s e.core) v.toNat) w i

/-- The element's value as an integer of its type: signed for I types. -/
def intOf (ty b : Nat) : Int := if isSIntTy ty then toSigned (tyWidth ty) b else (b % 2 ^ tyWidth ty : Nat)

/-- The encoding of a value that its type holds exactly; NaN gives the canonical NaN (11 R284). -/
def exactBits (ty : Nat) (v : Val) : Nat := (roundFp ty rne 0 v).val

/-- Bytes of a tile from bit offset on: value and the bits written. -/
def tileLand (vd : VReg) (w : Nat) (ws : List (Nat × Nat)) : List Land :=
  [.tile vd.toNat
    (BitVec.ofNat 262144 (ws.foldl (fun a p => a ||| (p.2 % 2 ^ w * 2 ^ (w * p.1))) 0))
    (BitVec.ofNat 262144 (ws.foldl (fun a p => a ||| ((2 ^ w - 1) * 2 ^ (w * p.1))) 0))]

/-- The checks of a vector instruction at issue (16 R409, R410), lowest cause first. -/
def vChecked (e : Env) (s : State) (i : Instr) (r : Res) : Res :=
  let t := e.t s
  if vShapeBad t i then .trap 6 t.shp
  else if vFmtBad t i then .trap 7 t.fmt
  else r

/-- Elements of vd, each with the flags it raises, land at the instruction's latency; SRS advances if it rounds (16 R412 to R414). -/
def vLandElems (e : Env) (s : State) (i : Instr) (vd : VReg) (rounds : Bool) (rs : List (Nat × Res1 Nat)) : Res :=
  let t := e.t s
  done (srsStep s e.core e.ctx rounds) (vLat t i)
    (tileLand vd (tyWidth (fmtVT t)) (rs.map fun p => (p.1, p.2.val)) ++ flagLand (rs.foldl (fun f p => f ||| p.2.flags) 0))

/-- One result per enabled element. -/
def vEach (i : Instr) (vd : VReg) (mk : MReg) (rounds : Nat → Bool) (f : Env → State → Nat → Nat → Res1 Nat) : Eff := fun e s =>
  let t := e.t s
  vChecked e s i (vLandElems e s i vd (rounds (fmtVT t)) ((enabledIdx t mk).map fun j => (j, f e s (fmtVT t) j)))

/-! ### Arithmetic (16 R416) -/

/-- A floating result: an exact value with its flags, rounded once. -/
def roundElem (e : Env) (s : State) (ty j : Nat) (v : Val × Nat) : Res1 Nat :=
  let r := roundFp ty (rndOf (e.t s)) j v.1
  ⟨r.val, r.flags ||| v.2⟩

/-- RMODE is RDN at issue. -/
def isRdn (e : Env) (s : State) : Bool := (rndOf (e.t s)).mode == 2

/-- An integer result wraps (11 R294). -/
def wrapElem (ty : Nat) (v : Int) : Res1 Nat := ⟨ofSigned (tyWidth ty) v, 0⟩

/-- A rounding binary or fused operation by its floating and its integer form of a, b and d. -/
def vArith (i : Instr) (vd va : VReg) (vb : BitVec 6) (mk : MReg) (vf : Bool)
    (ff : Bool → Val → Val → Val → Val × Nat) (fi : Int → Int → Int → Int) : Eff :=
  vEach i vd mk isFloatTy fun e s ty j =>
    let w := tyWidth ty
    let a := vElem e s va w j
    let b := vbVal e s vb vf w j
    let d := vElem e s vd w j
    if isFloatTy ty then roundElem e s ty j (ff (isRdn e s) (decodeFp ty a) (decodeFp ty b) (decodeFp ty d))
    else wrapElem ty (fi (intOf ty a) (intOf ty b) (intOf ty d))

/-- An operation that never rounds, by its floating and its integer form of a and b. -/
def vPick (i : Instr) (vd va : VReg) (vb : BitVec 6) (mk : MReg) (vf : Bool) (ff : Val → Val → Val) (fi : Int → Int → Int) : Eff :=
  vEach i vd mk (fun _ => false) fun e s ty j =>
    let w := tyWidth ty
    let a := vElem e s va w j
    let b := vbVal e s vb vf w j
    if isFloatTy ty then ⟨exactBits ty (ff (decodeFp ty a) (decodeFp ty b)), 0⟩
    else wrapElem ty (fi (intOf ty a) (intOf ty b))

/-- VCLAMP on floating values: the magnitude of b with the sign of a, unless a is no larger. -/
def clampVal (a b : Val) : Val :=
  if a.isNan || b.isNan then .nan
  else if cmpVal a.abs b.abs ≤ 0 then a
  else if a.sign then b.abs.neg else b.abs

/-- VCLAMP on integers: UI operands are never negative, so one form serves both. -/
def clampElem (a b : Int) : Int := if b.natAbs < a.natAbs then (if a < 0 then -(b.natAbs : Int) else b.natAbs) else a

/-- VADD (16 R416). -/
def effVadd (vd va : VReg) (vb : BitVec 6) (mk : MReg) (vf : Bool) : Eff := fun e s => vArith (.vadd vd va vb mk vf) vd va vb mk vf (fun rdn a b _ => addVal rdn a b) (fun a b _ => a + b) e s

/-- VSUB (16 R416). -/
def effVsub (vd va : VReg) (vb : BitVec 6) (mk : MReg) (vf : Bool) : Eff := fun e s => vArith (.vsub vd va vb mk vf) vd va vb mk vf (fun rdn a b _ => addVal rdn a b.neg) (fun a b _ => a - b) e s

/-- VMUL (16 R416). -/
def effVmul (vd va : VReg) (vb : BitVec 6) (mk : MReg) (vf : Bool) : Eff := fun e s => vArith (.vmul vd va vb mk vf) vd va vb mk vf (fun _ a b _ => mulVal a b) (fun a b _ => a * b) e s

/-- VFMA (16 R416). -/
def effVfma (vd va : VReg) (vb : BitVec 6) (mk : MReg) (vf : Bool) : Eff := fun e s => vArith (.vfma vd va vb mk vf) vd va vb mk vf (fun rdn a b d => fmaVal rdn a b d) (fun a b d => a * b + d) e s

/-- VFMS (16 R416). -/
def effVfms (vd va : VReg) (vb : BitVec 6) (mk : MReg) (vf : Bool) : Eff := fun e s => vArith (.vfms vd va vb mk vf) vd va vb mk vf (fun rdn a b d => fmaVal rdn a b d.neg) (fun a b d => a * b - d) e s

/-- VFNMA (16 R416). -/
def effVfnma (vd va : VReg) (vb : BitVec 6) (mk : MReg) (vf : Bool) : Eff := fun e s => vArith (.vfnma vd va vb mk vf) vd va vb mk vf (fun rdn a b d => fmaVal rdn a.neg b d) (fun a b d => d - a * b) e s

/-- VMIN (16 R416). -/
def effVmin (vd va : VReg) (vb : BitVec 6) (mk : MReg) (vf : Bool) : Eff := fun e s => vPick (.vmin vd va vb mk vf) vd va vb mk vf minVal min e s

/-- VMAX (16 R416). -/
def effVmax (vd va : VReg) (vb : BitVec 6) (mk : MReg) (vf : Bool) : Eff := fun e s => vPick (.vmax vd va vb mk vf) vd va vb mk vf maxVal max e s

/-- VABS (16 R416). -/
def effVabs (vd va : VReg) (mk : MReg) : Eff := fun e s => vPick (.vabs vd va mk) vd va 0 mk true (fun a _ => a.abs) (fun a _ => a.natAbs) e s

/-- VNEG (16 R416). -/
def effVneg (vd va : VReg) (mk : MReg) : Eff := fun e s => vPick (.vneg vd va mk) vd va 0 mk true (fun a _ => a.neg) (fun a _ => -a) e s

/-- VCLAMP (16 R416). -/
def effVclamp (vd va : VReg) (vb : BitVec 6) (mk : MReg) (vf : Bool) : Eff := fun e s => vPick (.vclamp vd va vb mk vf) vd va vb mk vf clampVal clampElem e s

/-- VADD (16 R416) alone in a bundle. -/
def execVadd (vd va : VReg) (vb : BitVec 6) (mk : MReg) (vf : Bool) (s : State) : Host.Outcome State Fault Refusal :=
  issueOne (.vadd vd va vb mk vf) (effVadd vd va vb mk vf) s

/-- VSUB (16 R416) alone in a bundle. -/
def execVsub (vd va : VReg) (vb : BitVec 6) (mk : MReg) (vf : Bool) (s : State) : Host.Outcome State Fault Refusal :=
  issueOne (.vsub vd va vb mk vf) (effVsub vd va vb mk vf) s

/-- VMUL (16 R416) alone in a bundle. -/
def execVmul (vd va : VReg) (vb : BitVec 6) (mk : MReg) (vf : Bool) (s : State) : Host.Outcome State Fault Refusal :=
  issueOne (.vmul vd va vb mk vf) (effVmul vd va vb mk vf) s

/-- VFMA (16 R416) alone in a bundle. -/
def execVfma (vd va : VReg) (vb : BitVec 6) (mk : MReg) (vf : Bool) (s : State) : Host.Outcome State Fault Refusal :=
  issueOne (.vfma vd va vb mk vf) (effVfma vd va vb mk vf) s

/-- VFMS (16 R416) alone in a bundle. -/
def execVfms (vd va : VReg) (vb : BitVec 6) (mk : MReg) (vf : Bool) (s : State) : Host.Outcome State Fault Refusal :=
  issueOne (.vfms vd va vb mk vf) (effVfms vd va vb mk vf) s

/-- VFNMA (16 R416) alone in a bundle. -/
def execVfnma (vd va : VReg) (vb : BitVec 6) (mk : MReg) (vf : Bool) (s : State) : Host.Outcome State Fault Refusal :=
  issueOne (.vfnma vd va vb mk vf) (effVfnma vd va vb mk vf) s

/-- VMIN (16 R416) alone in a bundle. -/
def execVmin (vd va : VReg) (vb : BitVec 6) (mk : MReg) (vf : Bool) (s : State) : Host.Outcome State Fault Refusal :=
  issueOne (.vmin vd va vb mk vf) (effVmin vd va vb mk vf) s

/-- VMAX (16 R416) alone in a bundle. -/
def execVmax (vd va : VReg) (vb : BitVec 6) (mk : MReg) (vf : Bool) (s : State) : Host.Outcome State Fault Refusal :=
  issueOne (.vmax vd va vb mk vf) (effVmax vd va vb mk vf) s

/-- VABS (16 R416) alone in a bundle. -/
def execVabs (vd va : VReg) (mk : MReg) (s : State) : Host.Outcome State Fault Refusal :=
  issueOne (.vabs vd va mk) (effVabs vd va mk) s

/-- VNEG (16 R416) alone in a bundle. -/
def execVneg (vd va : VReg) (mk : MReg) (s : State) : Host.Outcome State Fault Refusal :=
  issueOne (.vneg vd va mk) (effVneg vd va mk) s

/-- VCLAMP (16 R416) alone in a bundle. -/
def execVclamp (vd va : VReg) (vb : BitVec 6) (mk : MReg) (vf : Bool) (s : State) : Host.Outcome State Fault Refusal :=
  issueOne (.vclamp vd va vb mk vf) (effVclamp vd va vb mk vf) s

/-! ### Special functions (16 R417) -/

/-- VSF (16 R417). -/
def effVsf (vd va : VReg) (fn : BitVec 3) (mk : MReg) : Eff := fun e s =>
  let t := e.t s
  let ty := fmtVT t
  let rs := (enabledIdx t mk).map fun j => (j, roundElem e s ty j (vsfVal fn.toNat (decodeFp ty (vElem e s va (tyWidth ty) j))))
  vChecked e s (.vsf vd va fn mk) (vLandElems e s (.vsf vd va fn mk) vd true rs)
/-- VSF (16 R417) alone in a bundle. -/
def execVsf (vd va : VReg) (fn : BitVec 3) (mk : MReg) (s : State) : Host.Outcome State Fault Refusal :=
  issueOne (.vsf vd va fn mk) (effVsf vd va fn mk) s

/-! ### Compares, selects and bits (16 R418 to R420) -/

/-- The conditions of VCMP on integers. -/
def icond (c : Nat) (a b : Int) : Bool :=
  match c with
  | 0 => a == b
  | 1 => a != b
  | 2 => decide (a < b)
  | 3 => decide (a ≤ b)
  | 4 => false
  | _ => true

/-- VCMP (16 R418): the mask is written whole. -/
def effVcmp (cond : BitVec 6) (va : VReg) (vb : BitVec 6) (md : MReg) (vf : Bool) : Eff := fun e s =>
  let t := e.t s
  let ty := fmtVT t
  let w := tyWidth ty
  let i : Instr := .vcmp cond va vb md vf
  let bit := fun j =>
    let a := vElem e s va w j
    let b := vbVal e s vb vf w j
    if isFloatTy ty then fcond cond.toNat (decodeFp ty a) (decodeFp ty b) else icond cond.toNat (intOf ty a) (intOf ty b)
  vChecked e s i (done s (vLat t i)
    [.mask md.toNat (BitVec.ofNat 8192 ((List.range (shpN t)).foldl (fun a j => if bit j then a ||| 2 ^ j else a) 0))])

/-- VSEL (16 R419): every element is written. -/
def effVsel (vd va : VReg) (vb : BitVec 6) (mk : MReg) (vf : Bool) : Eff :=
  vEach (.vsel vd va vb mk vf) vd 0 (fun _ => false) fun e s ty j =>
    let w := tyWidth ty
    ⟨if maskOn (e.t s) mk j then vElem e s va w j else vbVal e s vb vf w j, 0⟩

/-- A bitwise operation or shift on patterns of w bits. -/
def vBits (i : Instr) (vd va : VReg) (vb : BitVec 6) (mk : MReg) (vf : Bool) (f : Nat → Nat → Nat → Nat) : Eff :=
  vEach i vd mk (fun _ => false) fun e s ty j =>
    let w := tyWidth ty
    ⟨f w (vElem e s va w j) (vbVal e s vb vf w j) % 2 ^ w, 0⟩

/-- VAND (16 R420). -/
def effVand (vd va : VReg) (vb : BitVec 6) (mk : MReg) (vf : Bool) : Eff := fun e s => vBits (.vand vd va vb mk vf) vd va vb mk vf (fun _ a b => a &&& b) e s

/-- VOR (16 R420). -/
def effVor (vd va : VReg) (vb : BitVec 6) (mk : MReg) (vf : Bool) : Eff := fun e s => vBits (.vor vd va vb mk vf) vd va vb mk vf (fun _ a b => a ||| b) e s

/-- VXOR (16 R420). -/
def effVxor (vd va : VReg) (vb : BitVec 6) (mk : MReg) (vf : Bool) : Eff := fun e s => vBits (.vxor vd va vb mk vf) vd va vb mk vf (fun _ a b => a ^^^ b) e s

/-- VNOT (16 R420). -/
def effVnot (vd va : VReg) (mk : MReg) : Eff := fun e s => vBits (.vnot vd va mk) vd va 0 mk true (fun w a _ => 2 ^ w - 1 - a) e s

/-- VSHL (16 R420). -/
def effVshl (vd va : VReg) (vb : BitVec 6) (mk : MReg) (vf : Bool) : Eff := fun e s => vBits (.vshl vd va vb mk vf) vd va vb mk vf (fun w a b => a * 2 ^ (b % w)) e s

/-- VSHR (16 R420). -/
def effVshr (vd va : VReg) (vb : BitVec 6) (mk : MReg) (vf : Bool) : Eff := fun e s => vBits (.vshr vd va vb mk vf) vd va vb mk vf (fun w a b => a / 2 ^ (b % w)) e s

/-- VSAR (16 R420). -/
def effVsar (vd va : VReg) (vb : BitVec 6) (mk : MReg) (vf : Bool) : Eff := fun e s => vBits (.vsar vd va vb mk vf) vd va vb mk vf (fun w a b => ofSigned w (toSigned w a / (2 ^ (b % w) : Nat))) e s

/-- VCMP (16 R418) alone in a bundle. -/
def execVcmp (cond : BitVec 6) (va : VReg) (vb : BitVec 6) (md : MReg) (vf : Bool) (s : State) : Host.Outcome State Fault Refusal :=
  issueOne (.vcmp cond va vb md vf) (effVcmp cond va vb md vf) s

/-- VSEL (16 R419) alone in a bundle. -/
def execVsel (vd va : VReg) (vb : BitVec 6) (mk : MReg) (vf : Bool) (s : State) : Host.Outcome State Fault Refusal :=
  issueOne (.vsel vd va vb mk vf) (effVsel vd va vb mk vf) s

/-- VAND (16 R420) alone in a bundle. -/
def execVand (vd va : VReg) (vb : BitVec 6) (mk : MReg) (vf : Bool) (s : State) : Host.Outcome State Fault Refusal :=
  issueOne (.vand vd va vb mk vf) (effVand vd va vb mk vf) s

/-- VOR (16 R420) alone in a bundle. -/
def execVor (vd va : VReg) (vb : BitVec 6) (mk : MReg) (vf : Bool) (s : State) : Host.Outcome State Fault Refusal :=
  issueOne (.vor vd va vb mk vf) (effVor vd va vb mk vf) s

/-- VXOR (16 R420) alone in a bundle. -/
def execVxor (vd va : VReg) (vb : BitVec 6) (mk : MReg) (vf : Bool) (s : State) : Host.Outcome State Fault Refusal :=
  issueOne (.vxor vd va vb mk vf) (effVxor vd va vb mk vf) s

/-- VNOT (16 R420) alone in a bundle. -/
def execVnot (vd va : VReg) (mk : MReg) (s : State) : Host.Outcome State Fault Refusal :=
  issueOne (.vnot vd va mk) (effVnot vd va mk) s

/-- VSHL (16 R420) alone in a bundle. -/
def execVshl (vd va : VReg) (vb : BitVec 6) (mk : MReg) (vf : Bool) (s : State) : Host.Outcome State Fault Refusal :=
  issueOne (.vshl vd va vb mk vf) (effVshl vd va vb mk vf) s

/-- VSHR (16 R420) alone in a bundle. -/
def execVshr (vd va : VReg) (vb : BitVec 6) (mk : MReg) (vf : Bool) (s : State) : Host.Outcome State Fault Refusal :=
  issueOne (.vshr vd va vb mk vf) (effVshr vd va vb mk vf) s

/-- VSAR (16 R420) alone in a bundle. -/
def execVsar (vd va : VReg) (vb : BitVec 6) (mk : MReg) (vf : Bool) (s : State) : Host.Outcome State Fault Refusal :=
  issueOne (.vsar vd va vb mk vf) (effVsar vd va vb mk vf) s

/-! ### Conversion (16 R421, R422) -/

/-- The bytes of row r of a tile whose rows take `rb` bytes, as a number. -/
def tileRow (v : Tile) (rb r : Nat) : Nat := v.toNat / 2 ^ (8 * rb * r) % 2 ^ (8 * rb)

/-- Element j of SHP of a tile in a type, block floating point among them. -/
def typedElem (t : Ctx) (v : Tile) (ty : TyM) (j : Nat) : Val :=
  if isBfpTy ty.1 then bfpElem ty.2 (tileRow v (rowBytes ty (shpCols t)) (j / shpCols t)) (j % shpCols t)
  else decodeVal ty.1 (elemOf v (tyWidth ty.1) j)

/-- The rows of a shape converted to storage lines: their bytes as a number, and the flags. -/
def bfpTile (t : Ctx) (m : Nat) (r : RndEnv) (xs : Nat → Val) : Nat × Nat :=
  let cols := shpCols t
  let rb := rowBytes (6, m) cols
  (List.range (shpRows t)).foldl (fun acc row =>
    let o := toBfpRow m r (row * cols) ((List.range cols).map fun c => xs (row * cols + c))
    (acc.1 + o.1 * 2 ^ (8 * rb * row), acc.2 ||| o.2)) (0, 0)

/-- VCVT (16 R421). -/
def effVcvt (vd va : VReg) (dt : BitVec 4) (mk : MReg) : Eff := fun e s =>
  let t := e.t s
  let src : TyM := (fmtVT t, fmtAM t)
  let dst : TyM := (dt.toNat, fmtBM t)
  let i : Instr := .vcvt vd va dt mk
  let r := rndOf t
  let x := typedElem t (vReg (coreOf s e.core) va.toNat) src
  let same := fmtAM t == fmtBM t
  let am := amxLands (narrowing src.1 dst.1 same) ((enabledIdx t mk).map x)
  let s' := srsStep s e.core e.ctx (convRounds src.1 dst.1 same)
  vChecked e s i (
    if isBfpTy dst.1 then
      let o := bfpTile t dst.2 r x
      done s' (vLat t i)
        (.tile vd.toNat (BitVec.ofNat 262144 o.1) (BitVec.ofNat 262144 (2 ^ (8 * tileBytes t dst) - 1)) :: flagLand o.2 ++ am)
    else
      let rs := (enabledIdx t mk).map fun j => (j, roundTy dst.1 r j (x j))
      done s' (vLat t i)
        (tileLand vd (tyWidth dst.1) (rs.map fun p => (p.1, p.2.val)) ++ flagLand (rs.foldl (fun f p => f ||| p.2.flags) 0) ++ am))

/-- VPADD (16 R422, 11 R306): element j lies in lane j / 4; a scalar is a lane. -/
def effVpadd (vd va : VReg) (vb : BitVec 6) (mk : MReg) (vf : Bool) : Eff :=
  vEach (.vpadd vd va vb mk vf) vd mk (fun _ => true) fun e s ty j =>
    let b := if vf then (e.src s vb).toNat / 2 ^ (8 * (j % 4)) % 256 else vbVal e s vb vf 8 j
    roundElem e s ty j (addVal (isRdn e s) (decodeFp ty (vElem e s va 8 j)) (decodeFp ty b))
/-- VCVT (16 R421) alone in a bundle. -/
def execVcvt (vd va : VReg) (dt : BitVec 4) (mk : MReg) (s : State) : Host.Outcome State Fault Refusal :=
  issueOne (.vcvt vd va dt mk) (effVcvt vd va dt mk) s

/-- VPADD (16 R422) alone in a bundle. -/
def execVpadd (vd va : VReg) (vb : BitVec 6) (mk : MReg) (vf : Bool) (s : State) : Host.Outcome State Fault Refusal :=
  issueOne (.vpadd vd va vb mk vf) (effVpadd vd va vb mk vf) s

/-! ### Permutes and moves (16 R423, R424, R428 to R430) -/

/-- VPERM (16 R423): an index past the shape gives zero bytes. -/
def effVperm (vd va vb : VReg) (mk : MReg) : Eff :=
  vEach (.vperm vd va vb mk) vd mk (fun _ => false) fun e s ty j =>
    let x := vElem e s vb 32 j
    ⟨if x < shpN (e.t s) then vElem e s va (tyWidth ty) x else 0, 0⟩

/-- VTRN (16 R424): the mask is over the destination's elements. -/
def effVtrn (vd va : VReg) (mk : MReg) : Eff :=
  vEach (.vtrn vd va mk) vd mk (fun _ => false) fun e s ty j =>
    let t := e.t s
    ⟨vElem e s va (tyWidth ty) (j % shpRows t * shpCols t + j / shpRows t), 0⟩

/-- VCOMPACT (16 R428): the enabled elements first, zero bytes after them. -/
def effVcompact (vd va : VReg) (mk : MReg) : Eff := fun e s =>
  let t := e.t s
  let w := tyWidth (fmtVT t)
  let xs := (enabledIdx t mk).map (vElem e s va w)
  vChecked e s (.vcompact vd va mk)
    (vLandElems e s (.vcompact vd va mk) vd false ((List.range (shpN t)).map fun j => (j, ⟨xs.getD j 0, 0⟩)))

/-- VBCAST (16 R429). -/
def effVbcast (vd va : VReg) (mk : MReg) : Eff := fun e s => vEach (.vbcast vd va mk) vd mk (fun _ => false) (fun e s ty j => ⟨vElem e s va (tyWidth ty) (j % shpCols (e.t s)), 0⟩) e s

/-- VBCAST_SCALAR (16 R429). -/
def effVbcastScalar (vd : VReg) (b : SCode) (mk : MReg) : Eff := fun e s => vEach (.vbcastScalar vd b mk) vd mk (fun _ => false) (fun e s ty j => ⟨vbVal e s b true (tyWidth ty) j, 0⟩) e s

/-- VMOV (16 R429): block floating point is copied as its storage lines. -/
def effVmov (vd va : VReg) (mk : MReg) : Eff := fun e s =>
  let t := e.t s
  let i : Instr := .vmov vd va mk
  let ty : TyM := (fmtVT t, fmtAM t)
  if isBfpTy ty.1 then
    vChecked e s i (done s (vLat t i)
      [.tile vd.toNat (vReg (coreOf s e.core) va.toNat) (BitVec.ofNat 262144 (2 ^ (8 * tileBytes t ty) - 1))])
  else vEach i vd mk (fun _ => false) (fun e s ty j => ⟨vElem e s va (tyWidth ty) j, 0⟩) e s

/-- VINS (16 R430). -/
def effVins (vd : VReg) (a b : SCode) : Eff := fun e s =>
  let t := e.t s
  let x := (e.src s a).toNat
  let w := tyWidth (fmtVT t)
  vChecked e s (.vins vd a b)
    (if x < shpN t then vLandElems e s (.vins vd a b) vd false [(x, ⟨(e.src s b).toNat % 2 ^ w, 0⟩)] else nothing s)

/-- VEXT (16 R430). -/
def effVext (d : SCode) (va : VReg) (b : SCode) : Eff := fun e s =>
  let t := e.t s
  let ty := fmtVT t
  let x := (e.src s b).toNat
  let v := if x < shpN t then vElem e s va (tyWidth ty) x else 0
  vChecked e s (.vext d va b)
    (result s (vLat t (.vext d va b)) d (if isSIntTy ty then BitVec.ofInt 64 (toSigned (tyWidth ty) v) else BitVec.ofNat 64 v) 0)

/-- The coordinate VIOTA takes: flat, row or column. -/
def iotaOf (t : Ctx) (kind j : Nat) : Nat :=
  if kind = 0 then j else if kind = 1 then j / shpCols t else j % shpCols t

/-- VIOTA with its base (16 R431). -/
def vIota (i : Instr) (vd : VReg) (kind : BitVec 2) (base : Int) (mk : MReg) : Eff :=
  vEach i vd mk isFloatTy fun e s ty j =>
    let t := e.t s
    roundTy ty (rndOf t) j (Val.ofInt (base + iotaOf t kind.toNat j))

/-- VIOTA (16 R431). -/
def effViota (vd : VReg) (kind : BitVec 2) (mk : MReg) : Eff := fun e s => vIota (.viota vd kind mk) vd kind 0 mk e s

/-- VIOTA_BASE (16 R431). -/
def effViotaBase (vd : VReg) (kind : BitVec 2) (b : SCode) (mk : MReg) : Eff := fun e s => vIota (.viotaBase vd kind b mk) vd kind (e.src s b).toInt mk e s

/-- VPERM (16 R423) alone in a bundle. -/
def execVperm (vd va vb : VReg) (mk : MReg) (s : State) : Host.Outcome State Fault Refusal :=
  issueOne (.vperm vd va vb mk) (effVperm vd va vb mk) s

/-- VTRN (16 R424) alone in a bundle. -/
def execVtrn (vd va : VReg) (mk : MReg) (s : State) : Host.Outcome State Fault Refusal :=
  issueOne (.vtrn vd va mk) (effVtrn vd va mk) s

/-- VCOMPACT (16 R428) alone in a bundle. -/
def execVcompact (vd va : VReg) (mk : MReg) (s : State) : Host.Outcome State Fault Refusal :=
  issueOne (.vcompact vd va mk) (effVcompact vd va mk) s

/-- VBCAST (16 R429) alone in a bundle. -/
def execVbcast (vd va : VReg) (mk : MReg) (s : State) : Host.Outcome State Fault Refusal :=
  issueOne (.vbcast vd va mk) (effVbcast vd va mk) s

/-- VBCAST_SCALAR (16 R429) alone in a bundle. -/
def execVbcastScalar (vd : VReg) (b : SCode) (mk : MReg) (s : State) : Host.Outcome State Fault Refusal :=
  issueOne (.vbcastScalar vd b mk) (effVbcastScalar vd b mk) s

/-- VMOV (16 R429) alone in a bundle. -/
def execVmov (vd va : VReg) (mk : MReg) (s : State) : Host.Outcome State Fault Refusal :=
  issueOne (.vmov vd va mk) (effVmov vd va mk) s

/-- VINS (16 R430) alone in a bundle. -/
def execVins (vd : VReg) (a b : SCode) (s : State) : Host.Outcome State Fault Refusal :=
  issueOne (.vins vd a b) (effVins vd a b) s

/-- VEXT (16 R430) alone in a bundle. -/
def execVext (d : SCode) (va : VReg) (b : SCode) (s : State) : Host.Outcome State Fault Refusal :=
  issueOne (.vext d va b) (effVext d va b) s

/-- VIOTA (16 R431) alone in a bundle. -/
def execViota (vd : VReg) (kind : BitVec 2) (mk : MReg) (s : State) : Host.Outcome State Fault Refusal :=
  issueOne (.viota vd kind mk) (effViota vd kind mk) s

/-- VIOTA_BASE (16 R431) alone in a bundle. -/
def execViotaBase (vd : VReg) (kind : BitVec 2) (b : SCode) (mk : MReg) (s : State) : Host.Outcome State Fault Refusal :=
  issueOne (.viotaBase vd kind b mk) (effViotaBase vd kind b mk) s

/-! ### Masks (16 R438, R439) -/

/-- MLOG (16 R438): bit 2a + b of the table for bits a and b. -/
def effMlog (md ma mb : MReg) (tt : BitVec 4) : Eff := fun e s =>
  let t := e.t s
  let a := mReg t ma.toNat
  let b := mReg t mb.toNat
  let pick := fun (n : Nat) (x : Mask) => if bitOf tt n then x else 0
  done s (vLat t (.mlog md ma mb tt))
    [.mask md.toNat (pick 0 (~~~a &&& ~~~b) ||| pick 1 (~~~a &&& b) ||| pick 2 (a &&& ~~~b) ||| pick 3 (a &&& b))]

/-- MCNT (16 R439). -/
def effMcnt (d : SCode) (ma : MReg) (kind : BitVec 2) : Eff := fun e s =>
  let t := e.t s
  let n := min (shpN t) 8192
  let m := mReg t ma.toNat
  let set := (List.range n).filter m.getLsbD
  let v := if kind = 0 then set.length else if kind = 1 then (set.head?).getD n else (set.getLast?).getD n
  result s (vLat t (.mcnt d ma kind)) d (BitVec.ofNat 64 v) 0
/-- MLOG (16 R438) alone in a bundle. -/
def execMlog (md ma mb : MReg) (tt : BitVec 4) (s : State) : Host.Outcome State Fault Refusal :=
  issueOne (.mlog md ma mb tt) (effMlog md ma mb tt) s

/-- MCNT (16 R439) alone in a bundle. -/
def execMcnt (d : SCode) (ma : MReg) (kind : BitVec 2) (s : State) : Host.Outcome State Fault Refusal :=
  issueOne (.mcnt d ma kind) (effMcnt d ma kind) s

end Sys2Proof.Machine
end

