-- ==== Sys2Proof/Machine/Matrix.lean ====
section
/-! DEFINITION. The matrix commands (17 R449 to R459) over the array, its operand paths and its chains (12 R308 to R326). -/

namespace Sys2Proof.Machine

/-! ### Types (12 R308, R309) -/

/-- FMT.AT -/
def fmtAT (t : Ctx) : TyM := (fld t.fmt 7 4, fmtAM t)

/-- FMT.BT -/
def fmtBT (t : Ctx) : TyM := (fld t.fmt 11 8, fmtBM t)

/-- MX_K.SRC, with 15 for the same as BT. -/
def mxSrc (t : Ctx) : TyM := if fld t.mx.k 19 16 = 15 then fmtBT t else (fld t.mx.k 19 16, fmtBM t)

/-- FMT selects 2:4 sparsity. -/
def mxSparse (t : Ctx) : Bool := fld t.fmt 23 22 == 1

/-- The depth limit of a type's class, none where the array does not accept the type. -/
def classK (ty : TyM) : Option Nat :=
  if ty.1 = 2 ∨ ty.1 = 3 then some 64
  else if ty.1 = 4 ∨ ty.1 = 5 then some 128
  else if ty.1 = 6 then (if ty.2 = 9 then none else if 5 ≤ ty.2 then some 128 else if 3 ≤ ty.2 then some 256 else some 512)
  else none

/-- The depth limit in force: the class with the smaller K governs, and sparsity doubles the dense depth. None: FMT_INVALID. -/
def kLimit (t : Ctx) : Option Nat :=
  match classK (fmtAT t), classK (fmtBT t) with
  | some a, some b => if 2 ≤ fld t.fmt 23 22 then none else some (min a b * (if mxSparse t then 2 else 1))
  | _, _ => none

/-- The depth is above the limit of types that are accepted. -/
def kOver (t : Ctx) : Bool := match kLimit t with | some l => decide (l < mxK t) | none => false

/-- MX_K.SRC is a type MXW accepts. -/
def srcOk (t : Ctx) : Bool :=
  [0, 2, 3, 4, 5, 6, 15].contains (fld t.mx.k 19 16) && !(fld t.mx.k 19 16 == 6 && fmtBM t == 9)

/-! ### Operands (12 R311, 17 R449, 08 R196, R197) -/

/-- A pitch word sets a rotation with a row pitch that is not a multiple of 1024. -/
def rotBad (pitch : Word) : Bool := fld pitch 51 48 != 0 && fld pitch 47 0 % 1024 != 0

/-- The runs of one row of a scratchpad operand: address and bytes, each within one bank run. -/
def rowRuns (base : Nat) (pitch : Word) (i len : Nat) : List (Nat × Nat) :=
  if fld pitch 51 48 = 0 then [(rotAddr base pitch i 0 % 2 ^ 64, len)]
  else (List.range ((len + 31) / 32)).map fun q => (rotAddr base pitch i (32 * q) % 2 ^ 64, min 32 (len - 32 * q))

/-- n bytes at an address lie in the scratchpad of one core of the cluster: the slot the base lies in. -/
def inSpad (s : State) (cl base va n : Nat) : Bool :=
  let off := va % 2 ^ 56
  let j := base % 2 ^ 56 / 0x80000
  decide (va / 2 ^ 56 = 0xFD) && decide (base % 2 ^ 56 < 0x800000) && decide (off / 0x80000 = j) && decide (0 < n) &&
    decide ((off + n - 1) / 0x80000 = j) && spadOk s (16 * cl + j) (off % 0x80000) && spadOk s (16 * cl + j) ((off + n - 1) % 0x80000)

/-- The first run of an operand that does not lie in its core's scratchpad. -/
def spadFault (s : State) (cl base : Nat) (pitch : Word) (rows len : Nat) : Option Nat :=
  ((List.range rows).flatMap fun i => rowRuns base pitch i len).findSome? fun p =>
    if inSpad s cl base p.1 p.2 then none else some p.1

/-- Physical address of an address of the cluster's scratchpad range. -/
def spadPa (cl va : Nat) : Nat := spadBase (cl % 4) + va % 2 ^ 56

/-- The rows of an operand as numbers, and whether a carry check failed (08 R224). -/
def operandRows (s : State) (c : Nat) (o : MxOperand) (rows len : Nat) : List Nat × Bool :=
  let cl := clusterOfCore c
  match o with
  | .tile n => ((List.range rows).map fun i => (vReg (coreOf s c) n).toNat / 2 ^ (8 * len * i) % 2 ^ (8 * len), false)
  | .spad base pitch =>
    let runs := fun i => rowRuns base.toNat pitch i len
    ((List.range rows).map fun i => leNat ((runs i).flatMap fun p => physRead s (cl / 4) (spadPa cl p.1) p.2),
     (List.range rows).any fun i => (runs i).any fun p => badCheck s (cl / 4) (spadPa cl p.1) p.2)

/-- The granule of an operand whose carry check fails first: its virtual address, the EINFO of INTEGRITY (10 R272). -/
def badGranule (s : State) (c : Nat) (o : MxOperand) (rows len : Nat) : Word :=
  let cl := clusterOfCore c
  match o with
  | .tile _ => 0
  | .spad base pitch =>
    let va := ((List.range rows).flatMap fun i => rowRuns base.toNat pitch i len).findSome? fun p =>
      (piecesOf p.1 p.2).findSome? fun q => if badCheck s (cl / 4) (spadPa cl q.1) q.2 then some (q.1 / 64 * 64) else none
    BitVec.ofNat 64 (va.getD 0)

/-- The reader of an operand has found the granules whose check fails (02 R54). -/
def foundOperand (c : Nat) (o : MxOperand) (rows len : Nat) (s : State) : State :=
  let cl := clusterOfCore c
  match o with
  | .tile _ => s
  | .spad base pitch =>
    ((List.range rows).flatMap fun i => rowRuns base.toNat pitch i len).foldl (fun s p => foundBad s (cl / 4) (spadPa cl p.1) p.2) s

/-- SHAPE of an operand: a tile register's rows exceed 32 KiB, or a rotated row pitch. -/
def operandShape (o : MxOperand) (rows len : Nat) : Bool :=
  match o with
  | .tile _ => decide (32768 < rows * len)
  | .spad _ pitch => rotBad pitch

/-- SHAPE of an operand whose rows have the bytes `len` where its type is one that the command accepts; a pitch is bad whatever the type. -/
def typedShape (ok : Bool) (o : MxOperand) (rows len : Nat) : Bool :=
  match o with
  | .tile _ => ok && operandShape o rows len
  | .spad _ _ => operandShape o rows len

/-- PROT of an operand: the address it fails at. -/
def operandProt (s : State) (c : Nat) (o : MxOperand) (rows len : Nat) : Option Nat :=
  match o with
  | .tile _ => none
  | .spad base pitch => spadFault s (clusterOfCore c) base.toNat pitch rows len

/-- The values of a row in a type. -/
def rowVals (ty : TyM) (n row : Nat) : List Val :=
  (List.range n).map fun j =>
    if isBfpTy ty.1 then bfpElem ty.2 row j else decodeVal ty.1 (row / 2 ^ (tyWidth ty.1 * j) % 2 ^ tyWidth ty.1)

/-- The scratchpad operand two scalar codes name. -/
def spadOperand (e : Env) (s : State) (a b : SCode) : MxOperand := .spad (e.src s a) (e.src s b)

/-! ### Tokens (17 R443) -/

/-- A command whose registers land and whose token is ready after a latency. -/
def withToken (e : Env) (s : State) (op lat : Nat) (ls : List Land) : Res :=
  done (takeSerial s e.core e.ctx) lat (ls ++ [.token (e.t s).serial.toNat op 0])

/-! ### Registers (17 R450, R455 to R459) -/

/-- MXSET (17 R450): an open chain keeps its shape. -/
def effMxset (reg : BitVec 12) (a : SCode) : Eff := fun e s =>
  let t := e.t s
  let v := e.src s a
  let r := reg.toNat
  if mxOpen t && (r == 1 || r == 3 || (r == 4 && (fld v 8 0 != mxPage t || bitOf v 14 != mxDen t))) then .trap 6 t.shp
  else
    let f := mxField r v
    withToken e s 0x01 1 [.mx f.1 f.2]

/-- MXPD (17 R455). -/
def effMxpd (a b : SCode) : Eff := fun e s =>
  let d := e.src s b
  if 63 < fld d 39 32 then .trap 7 (e.t s).fmt
  else withToken e s 0x06 1 [.mx .pds (e.src s a), .mx .pdp (BitVec.ofNat 64 (2 ^ 41 + fld d 40 0))]

/-- MXPD.off (17 R455). -/
def effMxpdOff : Eff := fun e s => withToken e s 0x06 1 [.mx .pdp (setFld (e.t s).mx.pdp 41 41 0)]

/-- MXSP (17 R456). -/
def effMxsp (a : SCode) : Eff := fun e s =>
  let v := e.src s a
  if v.toNat % 32 ≠ 0 then .trap 8 v else withToken e s 0x0A 1 [.mx .spm v]

/-- MXDN (17 R457). -/
def effMxdn (n : BitVec 5) (a : SCode) : Eff := fun e s =>
  let t := e.t s
  if mxOpen t && mxDen t then .trap 6 t.shp
  else withToken e s 0x07 1 [.bmap n.toNat (BitVec.ofNat 32 (fld (e.src s a) 20 0))]

/-- MXTAP (17 R459). -/
def effMxtap (a : SCode) : Eff := fun e s =>
  let v := e.src s a
  if v.toNat % 8 ≠ 0 then .trap 8 v else withToken e s 0x09 1 [.mx .tap v]

/-- MXCV (17 R458). -/
def effMxcv (n : BitVec 3) (a : SCode) : Eff := fun e s =>
  let k := coreOf s e.core
  let v := e.src s a
  let o : MxOperand := .spad v 0
  if k.ic < k.mxwFree ∨ k.ic < k.mxcvFree then .trap 3 e.word
  else if v.toNat % 8 ≠ 0 then .trap 8 v
  else
    match operandProt s e.core o 1 520 with
    | some va => .trap 9 (BitVec.ofNat 64 va)
    | none =>
      let r := operandRows s e.core o 1 520
      if r.2 then .late (foundOperand e.core o 1 520) 0x0F 0 0 (badGranule s e.core o 1 520)
      else withToken e s 0x08 12 [.curve n.toNat (BitVec.ofNat 4160 (r.1.headD 0))]
/-- MXSET (17 R450) alone in a bundle. -/
def execMxset (reg : BitVec 12) (a : SCode) (s : State) : Host.Outcome State Fault Refusal :=
  issueOne (.mxset reg a) (effMxset reg a) s

/-- MXPD (17 R455) alone in a bundle. -/
def execMxpd (a b : SCode) (s : State) : Host.Outcome State Fault Refusal :=
  issueOne (.mxpd a b) (effMxpd a b) s

/-- MXPD_OFF (17 R455) alone in a bundle. -/
def execMxpdOff (s : State) : Host.Outcome State Fault Refusal :=
  issueOne .mxpdOff effMxpdOff s

/-- MXSP (17 R456) alone in a bundle. -/
def execMxsp (a : SCode) (s : State) : Host.Outcome State Fault Refusal :=
  issueOne (.mxsp a) (effMxsp a) s

/-- MXDN (17 R457) alone in a bundle. -/
def execMxdn (e : BitVec 5) (a : SCode) (s : State) : Host.Outcome State Fault Refusal :=
  issueOne (.mxdn e a) (effMxdn e a) s

/-- MXTAP (17 R459) alone in a bundle. -/
def execMxtap (a : SCode) (s : State) : Host.Outcome State Fault Refusal :=
  issueOne (.mxtap a) (effMxtap a) s

/-- MXCV (17 R458) alone in a bundle. -/
def execMxcv (c : BitVec 3) (a : SCode) (s : State) : Host.Outcome State Fault Refusal :=
  issueOne (.mxcv c a) (effMxcv c a) s

/-! ### MXW: the weight fetch (12 R319, R320; 17 R451) -/

/-- The dense position of value q of a group of stored rows for a column: from the metadata (12 R319). -/
def metaPos (metab g n q : Nat) : Nat :=
  let byte := metab / 2 ^ (8 * (32 * g + n / 2)) % 256
  let nib := byte / 2 ^ (4 * (n % 2)) % 16
  nib / 2 ^ (2 * q) % 4

/-- The dense row of an element of a stored row. -/
def denseRow (t : Ctx) (metab r n : Nat) : Nat := if mxSparse t then 4 * (r / 2) + metaPos metab (r / 2) n (r % 2) else r

/-- One stored row as operands: perturbed, then converted to BT unless it passes unchanged (12 R320). -/
def fetchRow (t : Ctx) (metab r : Nat) (ws : List Val) : List Val :=
  let en := bitOf t.mx.pdp 41
  let ps := if en then
      (List.range ws.length).map fun n =>
        perturb (ws.getD n .zero)
          (noiseDigit t.mx.pds.toNat (fld t.mx.pdp 31 0) ((fld t.mx.crow 31 0 + denseRow t metab r n) % 2 ^ 32)
            ((fld t.mx.ccol 31 0 + n) % 2 ^ 32))
          (fld t.mx.pdp 39 32) (bitOf t.mx.pdp 40)
    else ws
  if !en && mxSrc t == fmtBT t then ws
  else
    let bt := fmtBT t
    let sat : RndEnv := ⟨0, 1, bitOf t.fmt 20⟩
    if isBfpTy bt.1 then rowVals bt ps.length (toBfpRow bt.2 sat 0 ps).1
    else ps.map fun p => decodeFp bt.1 (roundFp bt.1 sat 0 p).val

/-- The elements a stored row leaves in the array: dense row, column, operand. -/
def fetchElems (t : Ctx) (metab : Nat) (rows : List Nat) : List (Nat × Nat × Val) :=
  (List.range rows.length).flatMap fun r =>
    let ws := fetchRow t metab r (rowVals (mxSrc t) (mxN t) (rows.getD r 0))
    (List.range ws.length).map fun n => (denseRow t metab r n, n, ws.getD n .zero)

/-- The buffer a weight operand fills. -/
def fetchWeights (t : Ctx) (metab : Nat) (rows : List Nat) : Weights :=
  if mxSparse t then
    let es := fetchElems t metab rows
    let first := fun k n => es.find? fun p => p.1 == k && p.2.1 == n
    { rows := (List.range (mxK t)).map fun k => (List.range (mxN t)).map fun n => ((first k n).map (·.2.2)).getD .zero
      -- the second of two values at one dense position
      dup := (List.range (rows.length / 2)).flatMap fun g => (List.range (mxN t)).filterMap fun n =>
        if metaPos metab g n 0 = metaPos metab g n 1 then
          (es.find? fun p => p.1 == denseRow t metab (2 * g + 1) n && p.2.1 == n).bind fun _ =>
            some (denseRow t metab (2 * g + 1) n, n,
              (fetchRow t metab (2 * g + 1) (rowVals (mxSrc t) (mxN t) (rows.getD (2 * g + 1) 0))).getD n .zero)
        else none }
  else { rows := (List.range rows.length).map fun r => fetchRow t metab r (rowVals (mxSrc t) (mxN t) (rows.getD r 0)) }

/-- MXW with its operand (17 R451). -/
def mxwWith (o : MxOperand) : Eff := fun e s =>
  let k := coreOf s e.core
  let t := e.t s
  let stored := if mxSparse t then mxK t / 2 else mxK t
  let len := rowBytes (mxSrc t) (mxN t)
  let mo : MxOperand := .spad t.mx.spm 0
  if k.ic < k.mxwFree ∨ k.ic < k.mxcvFree ∨ k.ic < k.otherFree then .trap 3 e.word
  else if kOver t || (mxSparse t && mxK t % 4 != 0) || typedShape (srcOk t) o stored len then .trap 6 t.shp
  else if (kLimit t).isNone || !srcOk t then .trap 7 t.fmt
  else
    match operandProt s e.core o stored len, (if mxSparse t then operandProt s e.core mo 1 (8 * mxK t) else none) with
    | some va, _ => .trap 9 (BitVec.ofNat 64 va)
    | none, some va => .trap 9 (BitVec.ofNat 64 va)
    | none, none =>
      let r := operandRows s e.core o stored len
      let m := if mxSparse t then operandRows s e.core mo 1 (8 * mxK t) else ([0], false)
      if r.2 || m.2 then
        .late (fun s => foundOperand e.core mo (if mxSparse t then 1 else 0) (8 * mxK t) (foundOperand e.core o stored len s)) 0x0F 0 0
          (if r.2 then badGranule s e.core o stored len else badGranule s e.core mo 1 (8 * mxK t))
      else withToken e s 0x02 80 [.weights (fetchWeights t (m.1.headD 0) r.1)]

/-- MXW of a scratchpad operand. -/
def effMxw (a b : SCode) : Eff := fun e s => mxwWith (spadOperand e s a b) e s

/-- MXW of a tile register. -/
def effMxwTile (v : VReg) : Eff := fun e s => mxwWith (.tile v.toNat) e s
/-- MXW (17 R451) alone in a bundle. -/
def execMxw (a b : SCode) (s : State) : Host.Outcome State Fault Refusal :=
  issueOne (.mxw a b) (effMxw a b) s

/-- MXW_TILE (17 R451) alone in a bundle. -/
def execMxwTile (v : VReg) (s : State) : Host.Outcome State Fault Refusal :=
  issueOne (.mxwTile v) (effMxwTile v) s

/-! ### MXA (12 R313, R321, R324; 17 R452) -/

/-- The active weights as an MXA of depth K and N columns reads them: what no MXW has filled is free (log 1). -/
def weightsFor (s : State) (w : Weights) (k n : Nat) : Weights × Bool :=
  let short := decide (w.rows.length < k) || w.rows.any fun r => decide (r.length < n)
  if short then
    ({ w with rows := (List.range k).map fun i => (List.range n).map fun j =>
        match (w.rows.getD i [])[j]? with
        | some v => v
        | none => decodeFp 0 ((Config.freeValue (s.freeCtr + i * n + j)).toNat % 2 ^ 32) }, true)
  else (w, false)

/-- The job of an MXA or MXCE: the registers as they stand at its issue. -/
def mxJob (t : Ctx) : MxJob :=
  { m := mxM t, k := mxK t, n := mxN t, mode := mxMode t, den := mxDen t, page := mxPage t, w := mxW t, crow := fld t.mx.crow 31 0,
    rmode := fld t.rmode 2 0, srs := fld t.srs 31 0, fmt := t.fmt, tap := t.mx.tap, serial := t.serial.toNat }

/-- SHAPE of an MXA for its mode, its chain and its pages (17 R452). -/
def mxaShape (t : Ctx) : Bool :=
  mxMode t == 3 || (mxMode t == 2 && !mxOpen t) || (mxDen t && mxMode t != 2) ||
    (decide (mxMode t < 2) && decide (512 < mxPage t + outPages t)) ||
    (mxDen t && decide ((branchCount t).2 < fld t.mx.crow 31 0 + mxK t)) || kOver t

/-- Issue cycles from an MXA's stream to its landing (12 R318). -/
def mxaLat (den : Bool) (m : Nat) : Nat := (if den then 52 else 40) + m

/-- The core is the lowest-numbered one that its MX_CLUS.MASK names (12 R321). -/
def leadsGroup (c : Nat) (t : Ctx) : Bool := !(List.range (idxInCluster c)).any fun j => bitOf t.mx.clus j

/-- MXA with its operand (17 R452, 12 R321). The rows are read at the issue (log 51). -/
def mxaWith (o : MxOperand) : Eff := fun e s =>
  let k := coreOf s e.core
  let t := e.t s
  let len := rowBytes (fmtAT t) (mxK t)
  if k.ic < k.streamFree ∨ k.coop.isSome then .trap 3 e.word
  else if mxaShape t || typedShape (kLimit t).isSome o (mxM t) len then .trap 6 t.shp
  else if (kLimit t).isNone then .trap 7 t.fmt
  else
    match operandProt s e.core o (mxM t) len with
    | some va => .trap 9 (BitVec.ofNat 64 va)
    | none =>
      let coop := bitOf t.mx.clus 24
      -- a member's own A is checked but not read: its leader, the lowest core of MASK, streams for it; nor is that of one that MASK turns away
      let r := if coop && (coopBad e.core t || !leadsGroup e.core t) then ([], false) else operandRows s e.core o (mxM t) len
      let w := if coop then (k.wActive, false) else weightsFor s k.wActive (mxK t) (mxN t)
      let j := { mxJob t with rows := r.1.map (rowVals (fmtAT t) (mxK t)), wts := w.1, coop, since := s.clock }
      if r.2 then .late (foundOperand e.core o (mxM t) len) 0x0F 0 0 (badGranule s e.core o (mxM t) len)
      else
        let s := if w.2 then { s with freeCtr := s.freeCtr + mxK t * mxN t } else s
        let s := takeSerial (srsStep s e.core e.ctx (mxMode t == 0)) e.core e.ctx
        if !coop then done s (mxaLat j.den j.m) [.mxa j]
        else if coopBad e.core t then done s 1 [.token j.serial 0x03 1]
        else nothing (modCore s e.core fun k => { k with coop := some (e.ctx, BitVec.ofNat 16 (fld t.mx.clus 15 0), fld t.mx.clus 23 16, j) })

/-- MXA of a scratchpad operand. -/
def effMxa (a b : SCode) : Eff := fun e s => mxaWith (spadOperand e s a b) e s

/-- MXA of a tile register. -/
def effMxaTile (v : VReg) : Eff := fun e s => mxaWith (.tile v.toNat) e s
/-- MXA (17 R452) alone in a bundle. -/
def execMxa (a b : SCode) (s : State) : Host.Outcome State Fault Refusal :=
  issueOne (.mxa a b) (effMxa a b) s

/-- MXA_TILE (17 R452) alone in a bundle. -/
def execMxaTile (v : VReg) (s : State) : Host.Outcome State Fault Refusal :=
  issueOne (.mxaTile v) (effMxaTile v) s

/-! ### Chains (12 R315, R316; 17 R453, R454) -/

/-- MXCB (17 R453): the chain opens, with its W and its slots initialised, when the command completes (13 R350). -/
def effMxcb (a : SCode) : Eff := fun e s =>
  let k := coreOf s e.core
  let t := e.t s
  let w := clampInt (-400) (-100) (toSigned 16 (fld (e.src s a) 15 0))
  let den := mxDen t
  let las := mxM t * mxN t * (if den then 1 + (branchCount t).1 else 1)
  if k.ic < k.streamFree ∨ k.coop.isSome then .trap 3 e.word
  else if (den && !bmapOk t) || decide (512 < mxPage t + chainPages t) then .trap 6 t.shp
  else if (kLimit t).isNone then .trap 7 t.fmt
  else
    withToken e s 0x04 (8 + chainPages t)
      [.mxOpen w, .acc ((List.range (chainSlots t)).map fun i =>
        if i < las then AccOp.openSlot (85 * mxPage t + i) w else AccOp.clearSlot (85 * mxPage t + i))]

/-- MXCE with its destination (17 R454). -/
def mxceWith (o : MxOperand) : Eff := fun e s =>
  let k := coreOf s e.core
  let t := e.t s
  let len := mxN t * (tyWidth (otType (fld t.fmt 19 18)) / 8)
  if k.ic < k.streamFree ∨ k.coop.isSome then .trap 3 e.word
  else if !mxOpen t || operandShape o (mxM t) len then .trap 6 t.shp
  else if (kLimit t).isNone then .trap 7 t.fmt
  else
    match operandProt s e.core o (mxM t) len with
    | some va => .trap 9 (BitVec.ofNat 64 va)
    | none =>
      let s := takeSerial (srsStep s e.core e.ctx true) e.core e.ctx
      done s (24 + mxceOcc t) [.mxce { mxJob t with dst := o }]

/-- MXCE to a scratchpad operand. -/
def effMxce (a b : SCode) : Eff := fun e s => mxceWith (spadOperand e s a b) e s

/-- MXCE to a tile register. -/
def effMxceTile (v : VReg) : Eff := fun e s => mxceWith (.tile v.toNat) e s
/-- MXCB (17 R453) alone in a bundle. -/
def execMxcb (a : SCode) (s : State) : Host.Outcome State Fault Refusal :=
  issueOne (.mxcb a) (effMxcb a) s

/-- MXCE (17 R454) alone in a bundle. -/
def execMxce (a b : SCode) (s : State) : Host.Outcome State Fault Refusal :=
  issueOne (.mxce a b) (effMxce a b) s

/-- MXCE_TILE (17 R454) alone in a bundle. -/
def execMxceTile (v : VReg) (s : State) : Host.Outcome State Fault Refusal :=
  issueOne (.mxceTile v) (effMxceTile v) s

/-! ### Events of the array -/

/-- A started cooperative MXA's landing. -/
def coopLand : Land → Bool
  | .mxa j => j.coop
  | _ => false

/-- MATRIX_COMPLETE (12 R313, R326; 17 R452). The array's count advances with issue cycles alone (07 R185), so the results of
the cycles issued so far land. A cooperative MXA that has started completes by core cycles, which stalls lengthen: it may land
at an earlier issue cycle than 40 + M after its start (12 R322), and does so here, behind a completion that waits for a tap's page. -/
def execMatrixComplete (core : CoreId) (s : State) : Host.Outcome State Fault Refusal :=
  let c := core.toNat
  let tried := (coreOf s c).pend.any (·.waits)
  let s := landDue s c
  let k := coreOf s c
  match if tried then none else k.pend.find? (coopLand ·.land) with
  | none => .next s
  | some p => .next (landCycle (setCore s c { k with pend := k.pend.erase p, streamFree := k.ic }) c [p])

/-- The cores of a cooperative group that a waiting member names. -/
def groupOf (cl : Nat) (mask : BitVec 16) : List Nat := ((List.range 16).filter mask.getLsbD).map (16 * cl + ·)

/-- Every core of a member's mask waits with the same mask and tag. -/
def groupReady (s : State) (cl : Nat) (mask : BitVec 16) (tag : Nat) : Bool :=
  (groupOf cl mask).all fun c => match (coreOf s c).coop with
    | some (_, m, g, _) => m == mask && g == tag
    | none => false

/-- A member of a group that starts: it takes the leader's M, K and rows (12 R321), and completes 40 + M or 52 + M later (R322).
It streams the buffer that was active at its issue, wherever an MXW that landed since has put it (R312). -/
def startMember (s : State) (lead : MxJob) (c : Nat) : State :=
  match (coreOf s c).coop with
  | none => s
  | some (x, _, _, j) =>
    let lat := mxaLat j.den lead.m
    let k := coreOf s c
    let w := weightsFor s (if j.swapped then k.wOther else k.wActive) lead.k j.n
    let s := if w.2 then { s with freeCtr := s.freeCtr + lead.k * j.n } else s
    let till := k.ic + lead.m
    modCore s c fun k =>
      addLands { k with coop := none, streamFree := k.ic + lat,
                        activeFree := if j.swapped then k.activeFree else till, otherFree := if j.swapped then till else k.otherFree }
        x lat [.mxa { j with m := lead.m, k := lead.k, rows := lead.rows, wts := w.1 }]

/-- COOP_START (12 R321): every group of the cluster that is complete starts. -/
def execCoopStart (die : DieId) (cluster : Fin 4) (s : State) : Host.Outcome State Fault Refusal :=
  let cl := 4 * die.toNat + cluster.val
  .next ((List.range 16).foldl (fun s i =>
    match (coreOf s (16 * cl + i)).coop with
    | some (_, mask, tag, j) =>
      -- its lowest-numbered core leads; it is met first
      if groupReady s cl mask tag then (groupOf cl mask).foldl (fun s c => startMember s j c) s else s
    | none => s) s)

/-- The waiting cores of a cluster with their members, those of complete groups left out. -/
def lateMembers (s : State) (cl : Nat) : List (Nat × BitVec 16 × Nat × Nat) :=
  (List.range 16).filterMap fun i => match (coreOf s (16 * cl + i)).coop with
    | some (_, mask, tag, j) => if groupReady s cl mask tag then none else some (16 * cl + i, mask, tag, j.since)
    | none => none

/-- The group whose first member has waited longest: its mask and tag. -/
def lateGroup (s : State) (cl : Nat) : Option (BitVec 16 × Nat) :=
  let ms := lateMembers s cl
  (ms.find? fun m => ms.all fun n => decide (m.2.2.2 ≤ n.2.2.2)).map fun m => (m.2.1, m.2.2.1)

/-- COOP_TIMEOUT (12 R321): every waiting member of the late group completes without writing, with status 1. The late group is
the one whose first MXA issued longest ago. -/
def execCoopTimeout (die : DieId) (cluster : Fin 4) (s : State) : Host.Outcome State Fault Refusal :=
  let cl := 4 * die.toNat + cluster.val
  match lateGroup s cl with
  | none => .next s
  | some g => .next ((List.range 16).foldl (fun s i =>
    match (coreOf s (16 * cl + i)).coop with
    | some (x, mask, tag, j) =>
      if (mask, tag) = g then modCore s (16 * cl + i) fun k => pushToken { k with coop := none, streamFree := k.ic } x 0 j.serial 0x03 1
      else s
    | none => s) s)
end Sys2Proof.Machine
end

