-- ==== Sys2Proof/Machine/LoadStore.lean ====
section
/-! DEFINITION. Loads and stores of scalars and tiles, and the cache-line instructions (15 R386 to R390, R394, R395, R404):
accesses of a core through translation, caches, windows and the back buffer of an ordered task. -/

namespace Sys2Proof.Machine

/-! ### Accesses of a core (10 R250 to R262, 08 R204, R205, R224) -/

/-- What an access of a core meets. -/
inductive Got where
  /-- the bytes read, or none for a store -/
  | bytes (bs : List Byte)
  /-- a page that is not resident -/
  | nonres
  /-- memory outside the module, whose answer comes later: with the TAG of a request to another module's die, 0 for none -/
  | outside (tag : Nat)
  /-- the access waits at its owner -/
  | wait
  /-- a late cause: cause, subcause, level -/
  | fail (cause sub level : Nat)
  deriving DecidableEq, Repr

/-- The late cause of a failed access. -/
def failGot : AccFail → Got
  | .transl sub level => .fail 0x0A sub level
  | .prot => .fail 0x09 0 0
  | .wait _ => .wait

/-- What the outcome of a failed access is, with EINFO. -/
def gotRes (s : State) (info : Word) : Got → Res
  | .fail cause sub level => .late id cause sub level info
  | .wait => .hold s .owner
  | _ => .late id 0x09 0 0 info

/-- What an ordered task keeps back, byte by byte (05 R124). -/
def backBytes (q : Spec) : Tab Byte := q.dev.foldl (fun t p => putBytes t p.1 p.2) q.back

/-- The bytes of a range that an ordered task has written, by index. -/
def overOf (t : Ctx) (va n : Nat) : List (Nat × Byte) :=
  match t.spec with
  | none => []
  | some q =>
    let b := backBytes q
    (List.range n).filterMap fun i => (b.find? fun e => e.1 == (va + i) % 2 ^ 64).map fun e => (i, e.2)

/-- Bytes with what an ordered task keeps back laid over them (05 R124). -/
def overBack (t : Ctx) (va : Nat) (bs : List Byte) : List Byte :=
  let laid := overOf t va bs.length
  (List.range bs.length).map fun i => tabGet (bs.getD i 0) laid i

/-- An ordered task's read enters its read set (05 R124). -/
def noteRead (t : Ctx) (va : Nat) : Ctx :=
  { t with spec := t.spec.map fun q => if q.readSet.contains (va / 64) then q else { q with readSet := q.readSet ++ [va / 64] } }

/-- The state as an ordered task sees another core's accumulator store: with the atomics it keeps back (05 R124). -/
def withAccs (s : State) (t : Ctx) (k : Nat) : State :=
  match t.spec with
  | some q => (q.accs.filter fun p => p.1 == k).foldl (fun s p => setCore s k (applyAccOps (coreOf s k) p.2).1) s
  | none => s

/-- A line of host memory that a window with ATTR = 2 reaches enters the die cache (02 R49). -/
def hostFill (s : State) (c va attr hint : Nat) (a : Word) : State :=
  if attr = 2 ∧ hint ≠ 1 then
    modDie s (dieOfCore c) fun d => if hint = 3 then { d with cache := dcDrop d.cache (hostLine a.toNat) } else dcFill d (hostLine a.toNat) va (hint == 2)
  else s

/-- What a tile access that another module's die holds asks of it, and meets: `f` makes the bytes of what the granule brings. An access that is not
held there yet waits. -/
def heldAsk (s : State) (c g asid va : Nat) (op : RemoteOp) (f : List Byte → List Byte) : State × Got :=
  match s.mod.asker with
  | .access _ =>
    match ask s (dieOfCore c) g asid va op with
    | (s, none) => (s, .wait)
    | (s, some (r, x)) =>
      if r.cause ≠ 0 then (s, .fail r.cause r.sub r.level)
      else if !r.p7 then (s, .nonres)
      else match op, x with
        | .read n, some x => if x.check ≠ 0 ∧ !r.plain then (countCc s 1, .fail 0x0F 0 0) else (s, .bytes (f (x.bytes va n)))
        | _, _ => (s, .bytes [])
  | _ => (s, .wait)

/-- A core reads n bytes that lie in one 64-byte line. Vector accesses are refused DEV pages, ATTR 0 windows and the accumulator range. A load
of a poisoned granule of the cellar finds its check failing (02 R54). Of a tile what lies at another module's die is asked for where the access is held
there, and waits till then. -/
def coreRead (s : State) (c x : Nat) (va n hint : Nat) (vec : Bool) : State × Got :=
  let t := ctxOf s c x
  let s := if t.spec.isSome then modCtx s c x (noteRead · va) else s
  if vec && systemBars s (dieOfCore c) va true then (s, .fail 0x09 0 0)
  else
    let (s, r) := resolve s (clusterOfCore c) t.asid va n ⟨true, false, false, false⟩
    match r with
    | .error f => (s, failGot f)
    | .ok (.home _ _ _ _ _ true) => (s, .nonres)
    | .ok (.home die pa ca ce _ false) =>
      if vec && ca == 3 then (s, .fail 0x09 0 0)
      else if ce && readBad s c t.asid va die pa n ca then (foundBad s die pa n, .fail 0x0F 0 0)
      else
        let (s, bs) := cachedRead s c t.asid va die pa n ⟨ca, hint⟩
        (s, .bytes (overBack t va bs))
    | .ok (.accum k page off) => if vec then (s, .fail 0x09 0 0) else (s, .bytes (overBack t va (homeBytes (withAccs s t k) (.accum k page off) n)))
    | .ok (.system target attr a) =>
      let s := hostFill s c va attr hint a
      if readPoison s target a.toNat n then (countCc s 1, .fail 0x0F 0 0)
      else if !vec then (sendOut s (.read target a n), .outside 0)
      else match systemRead s target a.toNat n with
        | (s, some bs) => (s, .bytes (overBack t va bs))
        | (s, none) => (s, .fail 0x0A 9 0)
    | .ok (.remote g) =>
      if vec then heldAsk s c g t.asid va (.read n) (overBack t va)
      else (askRemote s (dieOfCore c) g t.asid va (.read n), .outside s.mod.nextTag)

/-- The limit of an ordered task's back buffer (05 R124). -/
def backLimit : Nat := 262144

/-- An ordered task's store is kept back: one to an ATTR = 0 window as the message it will be. -/
def keepBack (q : Spec) (va : Nat) (bs : List Byte) (dev : Bool) : Spec :=
  let q := { q with writeSet := if q.writeSet.contains (va / 64) then q.writeSet else q.writeSet ++ [va / 64] }
  if dev then { q with dev := q.dev ++ [(va, bs)] } else { q with back := putBytes q.back va bs }

/-- A task that an ORDERED command launched and that is direct keeps the granules it writes (05 R124, R125). -/
def noteDirect (t : Ctx) (va : Nat) : Ctx :=
  match t.launch with
  | .ordered _ _ _ => { t with direct := if t.direct.contains (va / 64) then t.direct else t.direct ++ [va / 64] }
  | _ => t

/-- Bytes within one 64-byte line are written at a place: through the core's caches, to its window or to the owner die. The TAG of a request to
another module's die is answered, 0 for none. -/
def putCore (s : State) (c asid va : Nat) (bs : List Byte) (hint : Nat) : Loc → State × Nat
  | .home die pa ca _ _ _ => (cachedWrite s c asid va die pa bs ⟨ca, hint⟩, 0)
  | .system target attr a => (systemWrite (hostFill s c va attr hint a) target a bs false, 0)
  | .remote g => (askRemote s (dieOfCore c) g asid va (.write bs .core), s.mod.nextTag)
  | .accum k page off => (accumWrite s k page off bs, 0)

/-- A core writes bytes that lie in one 64-byte line: to its home, to its window, or to an ordered task's back buffer. -/
def coreWrite (s : State) (c x : Nat) (va : Nat) (bs : List Byte) (hint : Nat) (vec : Bool) : State × Got :=
  let t := ctxOf s c x
  if vec && systemBars s (dieOfCore c) va true then (s, .fail 0x09 0 0)
  else
    let (s, r) := resolve s (clusterOfCore c) t.asid va bs.length ⟨false, true, false, true⟩
    match r with
    | .error f => (s, failGot f)
    | .ok (.home _ _ _ _ _ true) => (s, .nonres)
    | .ok l =>
      if vec && (match l with | .home _ _ ca _ _ _ => ca == 3 | .accum _ _ _ => true | _ => false) then (s, .fail 0x09 0 0)
      else if t.spec.isSome then
        let dev := match l with | .system _ attr _ => attr == 0 | _ => false
        (modCtx s c x fun t => { t with spec := t.spec.map (keepBack · va bs dev) }, .bytes [])
      else match l, vec with
        | .remote g, true => heldAsk (modCtx s c x (noteDirect · va)) c g t.asid va (.write bs .core) id
        | _, _ =>
          let (s, tag) := putCore (modCtx s c x (noteDirect · va)) c t.asid va bs hint l
          (s, if tag = 0 then .bytes [] else .outside tag)

/-- An ordered task's back buffer has reached its limit: the task waits until it is the oldest, and is direct from then on (05 R124). -/
def backFull (t : Ctx) : Bool :=
  match t.spec with
  | some q => decide (backLimit ≤ q.back.length + (q.dev.map (·.2.length)).foldl (· + ·) 0)
  | none => false

/-! ### The back buffer's end (05 R124, R125, R127) -/

/-- The runs of a back buffer: consecutive addresses within one 64-byte line. -/
def backRuns : Tab Byte → List (Nat × List Byte)
  | [] => []
  | (a, b) :: r =>
    match backRuns r with
    | (a', bs) :: rest => if a' = a + 1 ∧ a / 64 = a' / 64 then (a, b :: bs) :: rest else (a, [b]) :: (a', bs) :: rest
    | [] => [(a, [b])]

/-- One run of bytes kept back reaches its place; a page that migrates holds it (10 R262), one that is not resident loses it. -/
def flushRun (s : State) (c asid : Nat) (r : Nat × List Byte) : State :=
  let (s, l) := resolve s (clusterOfCore c) asid r.1 r.2.length ⟨false, true, false, true⟩
  match l with
  | .ok (.home _ _ _ _ _ true) => s
  | .ok (.home die pa _ _ _ false) => physWrite s die pa r.2
  | .ok l => (putCore s c asid r.1 r.2 1 l).1
  | .error (.wait _) => holdWrite s asid r.1 r.2
  | .error _ => s

/-- Every write kept back is made visible at once (05 R125), as a PUBL at die scope: the lines of the write set leave the first-level caches of
every core of the die first. -/
def flushBack (s : State) (c asid : Nat) (q : Spec) : State :=
  let hit := fun (l : Line) => l.asid == asid && q.writeSet.contains l.line
  let s := s.cores.foldl (fun s e => if dieOfCore e.1 = dieOfCore c then l1Evict s e.1 hit else s) s
  (backRuns q.back ++ q.dev).foldl (flushRun · c asid ·) s

/-- The first buffer of a ring that a context holds is released. -/
def dropBuf (t : Ctx) (ring : Nat) : Ctx :=
  match t.bufs.find? fun b => b.1 == ring with
  | some b => { t with bufs := t.bufs.erase b }
  | none => t

/-- An addition to a counter by a core, as a release where a scope is given (09 R235): the state and whether it saturated. -/
def coreAdd (s : State) (c id : Nat) (inc : Word) (scope : Option Nat) : State × Bool :=
  match localDie s (ctrDie id) with
  | none =>
    let s := match scope with
      | some _ => releaseBound s c (.ctr (BitVec.ofNat 20 id))
      | none => s
    (askRemote s (dieOfCore c) (ctrDie id) 0 id (.ctrAdd inc (actingScope (.core c) (scope.getD 0)) scope.isSome), false)
  | some d =>
    let s := match scope with
      | some _ => releaseBound s c (.ctr (BitVec.ofNat 20 id))
      | none => s
    let (s, sat) := ctrAdd s d (ctrIdx id) inc
    let s := match scope with
      | some sc => postRelease s d ⟨.ctr (ctrIdx id), .core c, actingScope (.core c) sc⟩
      | none => s
    (payAll s, sat)

/-- The acquire half of a counter operation on a counter of this module: SCOPEX where its releases are not covered, and the drop of the lines
bound to it (09 R232, R240). -/
def coreAcquire (s : State) (c x id scope : Nat) : State :=
  match localDie s (ctrDie id) with
  | some d =>
    let f := acquireFlag s d (.ctr (ctrIdx id)) (.core c) scope
    dropBound (if f = 0 then s else orStat s c x f) c (.ctr (BitVec.ofNat 20 id)) scope
  | none => s

/-- The logged counter operations are performed in program order, each as its ord and scope state; the id of a counter that saturated is
returned (05 R127). -/
def runLog (s : State) (c x : Nat) (log : List LogOp) : State × Option Nat :=
  log.foldl (fun acc a =>
    let s := match a.acq with
      | some sc => coreAcquire acc.1 c x a.ctr sc
      | none => acc.1
    let (s, sat) := coreAdd s c a.ctr a.inc a.scope
    let s := match a.ring with
      | some r => modCtx s c x (dropBuf · r)
      | none => s
    (s, if sat && acc.2.isNone then some a.ctr else acc.2)) (s, none)

/-- The accumulator atomics that an ordered task kept back are performed on their cores' stores (09 R245). -/
def performAccs (s : State) (q : Spec) : State := q.accs.foldl (fun s p => setCore s p.1 (markOps (applyAccOps (coreOf s p.1) p.2).1 p.2)) s

/-- An ordered task becomes direct (05 R124, R127): later tasks that its writes hit are aborted, its writes and its log are performed, and it can
no longer be aborted; the id of a counter that saturated is returned. -/
def makeDirect (s : State) (c x : Nat) : State × Option Nat :=
  let t := ctxOf s c x
  match t.spec, t.launch with
  | some q, .ordered d cid ix =>
    let s := abortHits s d cid (laterTasks s d cid ix) q.writeSet
    let (s, sat) := runLog (performAccs (flushBack s c t.asid q) q) c x q.log
    (modCtx s c x fun t => { t with spec := none, direct := q.writeSet }, sat)
  | _, _ => (modCtx s c x fun t => { t with spec := none }, none)

/-- An access of an ordered task that must not be speculative any more, such as a store whose back buffer is full, waits until the task is the oldest,
and makes it direct; a counter that saturates then is the access's COUNTER_OVF (05 R124, R127). -/
def asDirect (must : Ctx → Bool) (e : Env) (s : State) (f : State → Res) : Res :=
  let t := ctxOf s e.core e.ctx
  if !must t then f s
  else if !isOldest s t then .hold s .ordered
  else match makeDirect s e.core e.ctx with
    | (s', none) => f s'
    | (_, some id) => .late (fun s => (makeDirect s e.core e.ctx).1) 0x10 0 0 (BitVec.ofNat 64 id)

/-- An ordered task keeps back stores to ATTR = 0 windows, and loads from one: the load leaves the port behind them (02 R51). -/
def devBehind (s : State) (c : Nat) (va : Nat) (n : Nat) (t : Ctx) : Bool :=
  match t.spec with
  | some q => !q.dev.isEmpty && (match (resolve s (clusterOfCore c) t.asid va n ⟨true, false, false, false⟩).2 with
    | .ok (.system _ attr _) => attr == 0
    | _ => false)
  | none => false

/-! ### Scalar loads and stores (15 R389, R390) -/

/-- The outcome of a scalar load. -/
def loadRes (e : Env) (s : State) (d : SCode) (va : Word) (n : Nat) (signed : Bool) (hint : Nat) (g : Got) (keep : State → State) : Res :=
  let a : Arrival := { ctx := e.ctx, dst := some d.toNat }
  match g with
  | .bytes bs => .ok s [] [{ a with val := .data (extendBytes n signed (leNat bs)), p7 := some true }] .next
  | .nonres => .ok s [] [{ a with p7 := some false }] .next
  | .outside tag => .ok s [] [{ a with val := .outside n signed va (overOf (e.t s) va.toNat n), p7 := some true, tag := tag }] .next
  | .wait => .ok s [] [{ a with val := .held (.load va.toNat n hint signed), p7 := some true }] .next
  | .fail cause sub level => .late (if cause = 0x0F then keep else id) cause sub level (if cause = 0x0F then va &&& ~~~(63 : Word) else va)

/-- A scalar load; the count of a check that fails stays. -/
def load (signed : Bool) (hint : Nat) (d : SCode) (ab : AReg) (sz : BitVec 2) (off : BitVec 12) : Eff := fun e s =>
  let va := mAddr (e.t s) ab sz.toNat off
  let n := 2 ^ sz.toNat
  if va.toNat % n ≠ 0 then .trap 8 va
  else asDirect (devBehind s e.core va.toNat n) e s fun s =>
    let (s, g) := coreRead s e.core e.ctx va.toNat n hint false
    loadRes e s d va n signed hint g fun s => (coreRead s e.core e.ctx va.toNat n hint false).1

/-- ST (15 R390). -/
def store (b : SCode) (ab : AReg) (sz : BitVec 2) (off : BitVec 12) : Eff := fun e s =>
  let va := mAddr (e.t s) ab sz.toNat off
  let n := 2 ^ sz.toNat
  if va.toNat % n ≠ 0 then .trap 8 va
  else asDirect backFull e s fun s =>
    let bs := leBytes n (e.src s b).toNat
    let (s, g) := coreWrite s e.core e.ctx va.toNat bs 0 false
    let a : Arrival := { ctx := e.ctx, store := true, p7 := some true }
    match g with
    | .bytes _ => .ok s [] [a] .next
    | .nonres => .ok s [] [{ a with p7 := some false }] .next
    | .outside tag => .ok s [] [{ a with val := .outside 0 false va [], tag := tag }] .next
    | .wait => .ok s [] [{ a with val := .held (.store va.toNat bs) }] .next
    | g => gotRes s va g

/-- LD (15 R389). -/
def effLd (d : SCode) (ab : AReg) (sz : BitVec 2) (off : BitVec 12) : Eff := fun e s => load false 0 d ab sz off e s

/-- LDS (15 R389). -/
def effLds (d : SCode) (ab : AReg) (sz : BitVec 2) (off : BitVec 12) : Eff := fun e s => load true 0 d ab sz off e s

/-- LDLU (15 R389). -/
def effLdlu (d : SCode) (ab : AReg) (sz : BitVec 2) (off : BitVec 12) : Eff := fun e s => load false 3 d ab sz off e s

/-- ST (15 R390). -/
def effSt (b : SCode) (ab : AReg) (sz : BitVec 2) (off : BitVec 12) : Eff := fun e s => store b ab sz off e s

/-- LD (15 R389) alone in a bundle. -/
def execLd (d : SCode) (ab : AReg) (sz : BitVec 2) (off : BitVec 12) (s : State) : Host.Outcome State Fault Refusal :=
  issueOne (.ld d ab sz off) (effLd d ab sz off) s

/-- LDS (15 R389) alone in a bundle. -/
def execLds (d : SCode) (ab : AReg) (sz : BitVec 2) (off : BitVec 12) (s : State) : Host.Outcome State Fault Refusal :=
  issueOne (.lds d ab sz off) (effLds d ab sz off) s

/-- LDLU (15 R389) alone in a bundle. -/
def execLdlu (d : SCode) (ab : AReg) (sz : BitVec 2) (off : BitVec 12) (s : State) : Host.Outcome State Fault Refusal :=
  issueOne (.ldlu d ab sz off) (effLdlu d ab sz off) s

/-- ST (15 R390) alone in a bundle. -/
def execSt (b : SCode) (ab : AReg) (sz : BitVec 2) (off : BitVec 12) (s : State) : Host.Outcome State Fault Refusal :=
  issueOne (.st b ab sz off) (effSt b ab sz off) s

/-! ### Cache lines (15 R404) -/

/-- What a cache instruction meets at the page of its line (15 R404). -/
inductive LineAt where
  /-- a WB or WBDC page that is resident: die, physical address, attribute; whether it could be read and written -/
  | page (die pa ca : Nat) (rd wr : Bool)
  /-- a page on which it has no effect -/
  | quiet
  /-- a page of another module's die -/
  | away (gdie : Nat)
  /-- a translation that failed -/
  | bad (f : AccFail)

/-- The page of a line for a cache instruction: on UC and DEV pages, in system space and on pages that are not resident it has no effect, whatever they
permit. -/
def lineLoc (s : State) (c asid va : Nat) : LineAt :=
  match (resolve s (clusterOfCore c) asid va 1 ⟨false, false, false, false⟩).2 with
  | .error f => .bad f
  | .ok (.home die pa ca _ _ false) =>
    let may := fun nd => match (resolve s (clusterOfCore c) asid va 1 nd).2 with | .error .prot => false | _ => true
    if ca ≤ 1 then .page die pa ca (may ⟨true, false, false, false⟩) (may ⟨false, true, false, true⟩) else .quiet
  | .ok (.remote g) => .away g
  | .ok _ => .quiet

/-- A line of a first-level cache is discarded: which of its written bytes stay is open (08 R206), a bit of a free value per byte. -/
def discardLine (s : State) (c asid line : Nat) : State :=
  let o := l1Core s c
  match l1Find (coreOf s o).l1 asid line with
  | none => s
  | some l =>
    let w := Config.freeValue s.freeCtr
    writeBack (bumpFree (modCore s o fun k => { k with l1 := l1Drop k.l1 asid line })) { l with dirty := l.dirty &&& w }

/-- CFLUSH or CDISC of a line that its home permits: CDISC marks the page as one that was written. -/
def lineDo (s : State) (c asid va : Nat) (disc : Bool) (die pa : Nat) : State :=
  if disc then
    let s := (resolve s (clusterOfCore c) asid va 1 ⟨false, true, false, true⟩).1
    modDie (discardLine s c asid (va / 64)) die fun d => { d with cache := dcDrop d.cache (pa / 64) }
  else l1FlushLine s c asid (va / 64)

/-- CFLUSH, or CDISC when the flag is set, on the line of an address (15 R404). A line of another module's die is asked for there, and its failure comes
back as a late cause; one whose page migrates waits at its owner (10 R262). -/
def lineOp (disc : Bool) (ab : AReg) (off : BitVec 12) : Eff := fun e s =>
  let va := mAddr (e.t s) ab 3 off
  let asid := (e.t s).asid
  if va.toNat / 2 ^ 56 = 0xFF then nothing s else
  match lineLoc s e.core asid va.toNat with
  | .page die pa _ rd wr => if (if disc then wr else rd) then nothing (lineDo s e.core asid va.toNat disc die pa) else .late id 0x09 0 0 va
  | .quiet => nothing s
  | .away g =>
    .ok (askRemote s (dieOfCore e.core) g asid va.toNat (.line disc)) []
      [{ ctx := e.ctx, store := true, val := .outside 0 false va [], tag := s.mod.nextTag }] .next
  | .bad (.wait _) => .ok s [] [{ ctx := e.ctx, store := true, val := .held (.line va.toNat disc) }] .next
  | .bad f => gotRes s va (failGot f)

/-- CPREF (15 R404): it needs nothing, and one that fails is dropped. -/
def effCpref (ab : AReg) (off : BitVec 12) : Eff := fun e s =>
  let va := mAddr (e.t s) ab 3 off
  let asid := (e.t s).asid
  if va.toNat / 2 ^ 56 = 0xFF then nothing s else
  match lineLoc s e.core asid va.toNat with
  | .page die pa ca _ _ => nothing (cachedRead s e.core asid (va.toNat / 64 * 64) die (pa / 64 * 64) 64 ⟨ca, 0⟩).1
  | _ => nothing s

/-- CFLUSH (15 R404). -/
def effCflush (ab : AReg) (off : BitVec 12) : Eff := fun e s => lineOp false ab off e s

/-- CDISC (15 R404). -/
def effCdisc (ab : AReg) (off : BitVec 12) : Eff := fun e s => lineOp true ab off e s

/-- CFLUSH (15 R404) alone in a bundle. -/
def execCflush (ab : AReg) (off : BitVec 12) (s : State) : Host.Outcome State Fault Refusal :=
  issueOne (.cflush ab off) (effCflush ab off) s

/-- CDISC (15 R404) alone in a bundle. -/
def execCdisc (ab : AReg) (off : BitVec 12) (s : State) : Host.Outcome State Fault Refusal :=
  issueOne (.cdisc ab off) (effCdisc ab off) s

/-- CPREF (15 R404) alone in a bundle. -/
def execCpref (ab : AReg) (off : BitVec 12) (s : State) : Host.Outcome State Fault Refusal :=
  issueOne (.cpref ab off) (effCpref ab off) s

/-! ### Tiles (15 R394, R395) -/

/-- The type of a tile access: VT, with the m of BFP tiles. -/
def tileTy (t : Ctx) : TyM := (fmtVT t, fmtAM t)

/-- Element i of the shape is enabled. -/
def enabledAt (m : Mask) (mk : MReg) (i : Nat) : Bool := mk == 0 || m.getLsbD i

/-- The bits of a row, in memory and in a tile alike, that column j occupies: its own, and its block's exponent for BFP. -/
def colBits (ty : TyM) (j : Nat) : Nat :=
  if isBfpTy ty.1 then
    let line := 8 * bfpLineBytes ty.2 * (j / 256)
    let l := j % 256
    (2 ^ ty.2 - 1) * 2 ^ (line + 64 + ty.2 * l) + 255 * 2 ^ (line + 8 * (l / 32))
  else
    let w := tyWidth ty.1
    (2 ^ w - 1) * 2 ^ (w * j)

/-- The bits of row r that its enabled elements occupy; without a mask the whole row, the padding of BFP lines with it. -/
def rowBits (t : Ctx) (m : Mask) (mk : MReg) (r : Nat) : Nat :=
  let ty := tileTy t
  let n := shpCols t
  if mk == 0 then 2 ^ (8 * rowBytes ty n) - 1
  else (List.range n).foldl (fun a j => if enabledAt m mk (r * n + j) then a ||| colBits ty j else a) 0

/-- The bytes a bit pattern touches, as a pattern of bytes among n. -/
def bytesOfBits (n bits : Nat) : Nat := (List.range n).foldl (fun a i => if bits / 2 ^ (8 * i) % 256 = 0 then a else a + 2 ^ i) 0

/-- The address of row r. -/
def rowAddr (base pitch : Word) (r : Nat) : Nat := (base + BitVec.ofNat 64 r * pitch).toNat

/-- The alignment a tile access needs: that of its elements, or of BFP lines. -/
def tileAlign (t : Ctx) : Nat := if isBfpTy (fmtVT t) then 8 else tyWidth (fmtVT t) / 8

/-- The address of row r's first enabled element that lies at byte `off` of the row or beyond; of BFP rows, of the byte itself. -/
def elemVa (t : Ctx) (m : Mask) (mk : MReg) (base pitch : Word) (r off : Nat) : Nat :=
  let w := tyWidth (fmtVT t) / 8
  let first := if isBfpTy (fmtVT t) then none else (List.range (shpCols t)).find? fun j => enabledAt m mk (r * shpCols t + j) && decide (off ≤ w * j)
  (rowAddr base pitch r + (match first with | some j => w * j | none => off)) % 2 ^ 64

/-- The elements of row r that a failed piece of it holds, among those whose bits `bits` names: their addresses, each with the failure.
A piece of BFP lines counts once. -/
def rowFails (t : Ctx) (base pitch : Word) (r bits : Nat) (f : Nat × Nat × Got) : List (Nat × Got) :=
  let (off, len, g) := f
  let row := rowAddr base pitch r
  if isBfpTy (fmtVT t) then [((row + off) % 2 ^ 64, g)]
  else
    let w := tyWidth (fmtVT t) / 8
    ((List.range (shpCols t)).filter fun j => bits &&& colBits (tileTy t) j != 0 && decide (off ≤ w * j) && decide (w * j < off + len)).map
      fun j => ((row + w * j) % 2 ^ 64, g)

/-- The code of a failure; an access that waits at its owner comes after every cause. -/
def gotCode : Got → Nat
  | .fail c _ _ => c
  | _ => 256

/-- The failure that decides: the lowest code (10 R271), and of the elements with that code any (log 1), since elements are performed in no
stated order (15 R395). -/
def pickFail (s : State) (fs : List (Nat × Got)) : Option (Nat × Got) :=
  let low := fs.foldl (fun a f => min a (gotCode f.2)) 256
  match fs.filter fun f => gotCode f.2 == low with
  | [] => none
  | f :: r => some ((f :: r).getD ((Config.freeValue s.freeCtr).toNat % (r.length + 1)) f)

/-- What a tile access with a failed element comes to: a page that migrates, or another module's die, holds it as a whole at its owner (10 R262). The count
of a check that fails stays. -/
def tileFailed (s : State) (a : Arrival) (f : Nat × Got) (keep : State → State) : Res :=
  match f.2 with
  | .fail c sub level => .late (fun s => bumpFree (if c = 0x0F then keep s else s)) c sub level (BitVec.ofNat 64 (if c = 0x0F then f.1 / 64 * 64 else f.1))
  | .wait => .ok (bumpTag s) [] [{ a with tag := s.mod.nextTag }] .next
  | _ => .late bumpFree 0x09 0 0 (BitVec.ofNat 64 f.1)

/-- The trap of a tile access found at issue: SHAPE, FMT_INVALID, or ALIGN with the first address of an enabled element. -/
def tileTrap (t : Ctx) (base pitch : Word) (m : Mask) (mk : MReg) : Option (Nat × Word) :=
  let ty := tileTy t
  if (!tyInvalid ty && decide (32768 < tileBytes t ty)) || (mk != 0 && decide (8192 < shpN t)) then some (6, t.shp)
  else if tyInvalid ty then some (7, t.fmt)
  else
    ((List.range (shpRows t)).find? fun r => rowAddr base pitch r % tileAlign t != 0 && rowBits t m mk r != 0).map fun r =>
      (8, BitVec.ofNat 64 (elemVa t m mk base pitch r 0))

/-- What the pieces of a row gave: the row's bits, the bytes on pages that are not resident, and a failure with its address. -/
structure RowGot where
  /-- state -/
  s    : State
  /-- the row read -/
  data : Nat := 0
  /-- bytes not resident, a bit each -/
  nres : Nat := 0
  /-- the pieces that failed: offset, length, failure -/
  fails : List (Nat × Nat × Got) := []

/-- The pieces of a row, with their offsets in it. -/
def rowPieces (va n : Nat) : List (Nat × Nat × Nat) :=
  (piecesOf va n).foldl (fun acc p => acc ++ [(p.1, p.2, (acc.map (·.2.1)).foldl (· + ·) 0)]) []

/-- A row is read: only the pieces that an enabled element needs. -/
def readRow (s : State) (c x : Nat) (va n need hint : Nat) : RowGot :=
  (rowPieces va n).foldl (fun (a : RowGot) p =>
    let (pva, len, off) := p
    if need / 2 ^ off % 2 ^ len == 0 then a
    else
      let (s, g) := coreRead a.s c x pva len hint true
      match g with
      | .bytes bs => { a with s := s, data := a.data + leNat bs * 2 ^ (8 * off) }
      | .nonres => { a with s := s, nres := a.nres + (2 ^ len - 1) * 2 ^ off }
      | g => { a with s := s, fails := a.fails ++ [(off, len, g)] }) { s := s }

/-- The columns of row r whose elements are enabled and touch bytes that are not resident. -/
def nresCols (t : Ctx) (m : Mask) (mk : MReg) (r nres : Nat) : List Nat :=
  if nres = 0 then []
  else (List.range (shpCols t)).filter fun j =>
    enabledAt m mk (r * shpCols t + j) && bytesOfBits (rowBytes (tileTy t) (shpCols t)) (colBits (tileTy t) j) &&& nres != 0

/-- The bits of the columns in a list. -/
def bitsOfCols (ty : TyM) (js : List Nat) : Nat := js.foldl (fun a j => a ||| colBits ty j) 0

/-- The mask with the elements of a row's columns cleared. -/
def clearCols (t : Ctx) (m : Mask) (r : Nat) (js : List Nat) : Mask :=
  js.foldl (fun m j => m &&& ~~~(BitVec.ofNat 8192 (2 ^ (r * shpCols t + j)))) m

/-- What the rows of a tile access have given so far. -/
structure TileGot where
  /-- state -/
  s    : State
  /-- the tile read -/
  data : Nat := 0
  /-- its bits that are written -/
  sel  : Nat := 0
  /-- the mask with the elements that were not resident cleared -/
  mask : Mask
  /-- an element was not resident -/
  nres : Bool := false
  /-- the elements that failed, with their addresses -/
  fails : List (Nat × Got) := []

/-- VLD's row r. -/
def loadRow (t : Ctx) (c x : Nat) (base pitch : Word) (m : Mask) (mk : MReg) (hint : Nat) (a : TileGot) (r : Nat) : TileGot :=
  let n := rowBytes (tileTy t) (shpCols t)
  let bits := rowBits t m mk r
  let g := readRow a.s c x (rowAddr base pitch r) n (bytesOfBits n bits) hint
  let js := nresCols t m mk r g.nres
  let gone := bitsOfCols (tileTy t) js
  { s := g.s, data := a.data + (g.data &&& bits &&& ((2 ^ (8 * n) - 1) ^^^ gone)) * 2 ^ (8 * n * r), sel := a.sel + bits * 2 ^ (8 * n * r),
    mask := clearCols t a.mask r js, nres := a.nres || !js.isEmpty, fails := a.fails ++ g.fails.flatMap (rowFails t base pitch r bits) }

/-- What a tile access answers when its rows are done: the mask, or NRES. -/
def tileArrival (x : Nat) (a : TileGot) (mk : MReg) : Arrival :=
  { ctx := x, mask := if mk == 0 then none else some (mk.toNat, a.mask),
    flags := if mk == 0 && a.nres then BitVec.ofNat 64 flagNRES else 0 }

/-- The rows of a VLD, all of them. -/
def loadTile (s : State) (t : Ctx) (c x : Nat) (base pitch : Word) (m : Mask) (mk : MReg) (hint : Nat) : TileGot :=
  (List.range (shpRows t)).foldl (loadRow t c x base pitch m mk hint) { s := s, mask := m }

/-- What a VLD whose rows are done answers. -/
def tileLoaded (x v : Nat) (mk : MReg) (a : TileGot) : Arrival :=
  { tileArrival x a mk with tile := some (v, BitVec.ofNat 262144 a.data, BitVec.ofNat 262144 a.sel) }

/-- VLD (15 R394, R395). -/
def effVld (v : VReg) (ab : AReg) (ps : SCode) (mk : MReg) (hint : BitVec 2) : Eff := fun e s =>
  let t := e.t s
  let base := e.areg s ab
  let pitch := e.src s ps
  let m := mReg t mk.toNat
  match tileTrap t base pitch m mk with
  | some (z, w) => .trap z w
  | none =>
    let a := loadTile s t e.core e.ctx base pitch m mk hint.toNat
    match pickFail s a.fails with
    | some f => tileFailed s { ctx := e.ctx, tile := some (v.toNat, 0, 0), mask := if mk == 0 then none else some (mk.toNat, m),
                               val := .held (.tile false v.toNat base pitch m mk.toNat hint.toNat t.fmt t.shp 0) } f
        fun s => (loadTile s t e.core e.ctx base pitch m mk hint.toNat).s
    | none => .ok a.s [] [tileLoaded e.ctx v.toNat mk a] .next

/-- The runs of set bits of a pattern of n bits: first bit and length. -/
def bitRuns (n pat : Nat) : List (Nat × Nat) :=
  (List.range n).foldr (fun i l =>
    if pat.testBit i then
      match l with
      | (a, k) :: r => if a = i + 1 then (i, k + 1) :: r else (i, 1) :: (a, k) :: r
      | [] => [(i, 1)]
    else l) []

/-- A piece of a row is written: the bytes that hold bits of enabled elements, the other bits of such a byte as they were. -/
def writePiece (s : State) (c x : Nat) (va len off row bits hint : Nat) : State × Got :=
  (bitRuns len (bytesOfBits len (bits / 2 ^ (8 * off) % 2 ^ (8 * len)))).foldl (fun (acc : State × Got) r =>
    match acc.2 with
    | .bytes _ =>
      let sel := bits / 2 ^ (8 * (off + r.1)) % 2 ^ (8 * r.2)
      let new := row / 2 ^ (8 * (off + r.1)) % 2 ^ (8 * r.2)
      if sel = 2 ^ (8 * r.2) - 1 then coreWrite acc.1 c x (va + r.1) (leBytes r.2 new) hint true
      else
        let old := match (coreRead acc.1 c x (va + r.1) r.2 1 true).2 with
          | .bytes bs => leNat bs
          | _ => 0
        coreWrite acc.1 c x (va + r.1) (leBytes r.2 ((old &&& ((2 ^ (8 * r.2) - 1) ^^^ sel)) ||| (new &&& sel))) hint true
    | _ => acc) (s, .bytes [])

/-- Two rows of a tile share a byte of memory. -/
def rowsMeet (t : Ctx) (base pitch : Word) (m : Mask) (mk : MReg) : Bool :=
  let n := rowBytes (tileTy t) (shpCols t)
  let rs := (List.range (shpRows t)).filter fun r => rowBits t m mk r != 0
  rs.any fun r => rs.any fun q => q != r && decide ((rowAddr base pitch q + (2 ^ 64 - rowAddr base pitch r)) % 2 ^ 64 < n)

/-- A list in a free order: element i takes a place among those before it that the free value n + i gives. -/
def freeOrder {α : Type} (n : Nat) (l : List α) : List α :=
  (l.foldl (fun (a : Nat × List α) x =>
    let p := (Config.freeValue (n + a.1)).toNat % (a.1 + 1)
    (a.1 + 1, a.2.take p ++ x :: a.2.drop p)) (0, [])).2

/-- What a VST performs, a row and bits of it at a time. Where rows meet, element by element, BFP byte by byte, in a free order (15 R395). -/
def storeUnits (s : State) (t : Ctx) (base pitch : Word) (m : Mask) (mk : MReg) : List (Nat × Nat) :=
  let rows := (List.range (shpRows t)).map fun r => (r, rowBits t m mk r)
  if rowsMeet t base pitch m mk then
    let ty := tileTy t
    let w := if isBfpTy ty.1 then 8 else tyWidth ty.1
    let parts := rows.flatMap fun u => (List.range (8 * rowBytes ty (shpCols t) / w)).map fun k => (u.1, u.2 &&& (2 ^ w - 1) * 2 ^ (w * k))
    freeOrder s.freeCtr (parts.filter fun u => u.2 != 0)
  else rows

/-- The state with the free values used that ordered a VST. -/
def usedUnits (s : State) (t : Ctx) (base pitch : Word) (m : Mask) (mk : MReg) : State :=
  if rowsMeet t base pitch m mk then { s with freeCtr := s.freeCtr + (storeUnits s t base pitch m mk).length } else s

/-- VST performs the bits `u.2` of row `u.1`: pieces without one of them are not accessed. -/
def storeRow (t : Ctx) (c x : Nat) (tile : Tile) (base pitch : Word) (m : Mask) (mk : MReg) (hint : Nat) (a : TileGot) (u : Nat × Nat) : TileGot :=
  let (r, bits) := u
  let n := rowBytes (tileTy t) (shpCols t)
  let row := tile.toNat / 2 ^ (8 * n * r) % 2 ^ (8 * n)
  let ps := (rowPieces (rowAddr base pitch r) n).filter fun p => bytesOfBits n bits / 2 ^ p.2.2 % 2 ^ p.2.1 != 0
  let asid := t.asid
  let (s0, lost) := ps.foldl (fun (z : State × Nat) p =>
    let out := (2 ^ p.2.1 - 1) * 2 ^ p.2.2
    match (resolve z.1 (clusterOfCore c) asid p.1 p.2.1 ⟨false, true, false, true⟩).2 with
    | .ok (.home _ _ _ _ _ true) => (z.1, z.2 + out)
    | .ok (.remote g) =>
      let (s, r) := heldAsk z.1 c g asid p.1 (.probe false true) id
      (s, match r with | .nonres => z.2 + out | _ => z.2)
    | _ => z) (a.s, 0)
  let js := nresCols t m mk r lost
  let left := bits &&& ((2 ^ (8 * n) - 1) ^^^ bitsOfCols (tileTy t) js)
  let out := ps.foldl (fun (acc : State × List (Nat × Nat × Got)) p =>
    if lost / 2 ^ p.2.2 % 2 ^ p.2.1 != 0 then acc
    else
      let (s, g) := writePiece acc.1 c x p.1 p.2.1 p.2.2 row left hint
      match g with
      | .bytes _ | .nonres => (s, acc.2)
      | g => (s, acc.2 ++ [(p.2.2, p.2.1, g)])) (s0, [])
  { a with s := out.1, mask := clearCols t a.mask r js, nres := a.nres || !js.isEmpty, fails := a.fails ++ out.2.flatMap (rowFails t base pitch r bits) }

/-- The rows of a VST, all of them. -/
def storeTile (s : State) (t : Ctx) (c x : Nat) (tile : Tile) (base pitch : Word) (m : Mask) (mk : MReg) (hint : Nat) : TileGot :=
  (storeUnits s t base pitch m mk).foldl (storeRow t c x tile base pitch m mk hint) { s := usedUnits s t base pitch m mk, mask := m }

/-- VST (15 R394, R395). -/
def effVst (v : VReg) (ab : AReg) (ps : SCode) (mk : MReg) (hint : BitVec 2) : Eff := fun e s =>
  let t := e.t s
  let base := e.areg s ab
  let pitch := e.src s ps
  let m := mReg t mk.toNat
  match tileTrap t base pitch m mk with
  | some (z, w) => .trap z w
  | none => asDirect backFull e s fun s =>
    let tile := vReg (coreOf s e.core) v.toNat
    let a := storeTile s t e.core e.ctx tile base pitch m mk hint.toNat
    match pickFail s a.fails with
    | some f => tileFailed s { ctx := e.ctx, store := true, mask := if mk == 0 then none else some (mk.toNat, m),
                               val := .held (.tile true v.toNat base pitch m mk.toNat hint.toNat t.fmt t.shp tile) } f id
    | none => .ok a.s [] [{ tileArrival e.ctx a mk with store := true }] .next

/-- VLD (15 R395) alone in a bundle. -/
def execVld (v : VReg) (ab : AReg) (ps : SCode) (mk : MReg) (hint : BitVec 2) (s : State) : Host.Outcome State Fault Refusal :=
  issueOne (.vld v ab ps mk hint) (effVld v ab ps mk hint) s

/-- VST (15 R395) alone in a bundle. -/
def execVst (v : VReg) (ab : AReg) (ps : SCode) (mk : MReg) (hint : BitVec 2) (s : State) : Host.Outcome State Fault Refusal :=
  issueOne (.vst v ab ps mk hint) (effVst v ab ps mk hint) s

end Sys2Proof.Machine
end

