-- ==== Sys2Proof/Machine/FullEmpty.lean ====
section
/-! DEFINITION. Full/empty words and the green room (08 R207 to R216, 15 R391 to R393). -/

namespace Sys2Proof.Machine

/-! ### The access at the word's home (08 R208) -/

/-- Where a full/empty access goes. -/
inductive FeLoc where
  /-- the word's home, with its physical address -/
  | word (die pa : Nat) (ce : Bool)
  /-- a page that is not resident -/
  | nonres
  /-- a die of another module -/
  | remote (gdie : Nat)
  /-- the outcome of a failed access -/
  | bad (g : Got)
  deriving DecidableEq, Repr

/-- The home of a full/empty word: the core's first-level copy is written back and dropped first. System space raises PROT whatever its window
(02 R50, 08 R211). -/
def feLoc (s : State) (e : Env) (va : Word) (wr : Bool) : State × FeLoc :=
  let t := e.t s
  if systemBars s (dieOfCore e.core) va.toNat false then (s, .bad (.fail 0x09 0 0))
  else
    let s := l1FlushLine s e.core t.asid (va.toNat / 64)
    let (s, r) := resolve s (clusterOfCore e.core) t.asid va.toNat 8 ⟨true, wr, false, true⟩
    match r with
    | .error f => (s, .bad (failGot f))
    | .ok (.home _ _ _ _ _ true) => (s, .nonres)
    | .ok (.home die pa _ ce _ false) => (s, .word die pa ce)
    | .ok (.remote g) => (s, .remote g)
    | .ok _ => (s, .bad (.fail 0x09 0 0))

/-- The outcome of a full/empty access that was not made. -/
def feBad (s : State) (va : Word) (g : Got) : Res := gotRes s va g

/-- The word at a home, with what an ordered task keeps back. -/
def feWord (s : State) (e : Env) (die pa : Nat) (va : Word) : Word :=
  BitVec.ofNat 64 (leNat (overBack (e.t s) va.toNat (physRead s die pa 8)))

/-- An acquire on a word (09 R232, R235, R240): the state, and the flags it gives. One at die scope or wider may be of a word of records that a
collective engine stored, whatever has become of the engine's release: it drops every line of its core, a superset of the records' (06 R145; log 21). -/
def feAcquire (s : State) (e : Env) (die pa : Nat) (va : Word) (scope ord : BitVec 3) : State × Word :=
  if ord = 1 then
    (if 2 ≤ scope.toNat then dropAllClean s e.core else dropBound s e.core (.word va) scope.toNat, acquireFlag s die (.word pa) (.core e.core) scope.toNat)
  else (s, 0)

/-- A release on a word (09 R235, R239): publication before the access. -/
def fePublish (s : State) (e : Env) (va : Word) (ord : BitVec 3) : State :=
  if ord = 2 then releaseBound s e.core (.word va) else s

/-- A release on a word after the access. -/
def feRelease (s : State) (e : Env) (die pa : Nat) (scope ord : BitVec 3) : State :=
  if ord = 2 then postRelease s die ⟨.word pa, .core e.core, actingScope (.core e.core) scope.toNat⟩ else s

/-- F of a word is written. -/
def putFull (s : State) (die pa : Nat) (b : Bool) : State := modDie s die (setFull · pa b)

/-- The arrival of a full/empty access. -/
def feArrival (e : Env) (d : Option SCode) (v : Word) (p6 p7 : Option Bool) (flags : Word) : Arrival :=
  { ctx := e.ctx, dst := d.map BitVec.toNat, val := .data v, p6 := p6, p7 := p7, flags := flags, store := d.isNone }

/-- LDCT, STFT, FEQ or FEMK at another module's die: what it brings comes with the answer. What is bound to the word is published before a release, and
dropped when the answer to an acquire comes (09 R239, R240). -/
def feRemote (s : State) (e : Env) (g : Nat) (va : Word) (op : Nat) (d : Option SCode) (v : Word) (scope ord : BitVec 3) (try_ : Bool) : Res :=
  let s := fePublish s e va ord
  let free := Config.freeValue s.freeCtr
  let a : Arrival := { ctx := e.ctx, dst := d.map BitVec.toNat, val := .outside (if d.isSome then 8 else 0) false va [], store := d.isNone,
                       p6 := if try_ then some (bitOf free 0) else none, p7 := some true, tag := s.mod.nextTag,
                       flags := if ord = 1 ∧ bitOf free 1 then BitVec.ofNat 64 flagSCOPEX else 0,
                       acq := if ord = 1 then some (.word va, scope.toNat) else none }
  .ok (askRemote (bumpFree s) (dieOfCore e.core) g (e.t s).asid va.toNat (.fe op v scope.toNat ord.toNat none)) [] [a] .next

/-- LDCT, STFT, FEQ or FEMK on a page that migrates waits at its owner (10 R262). -/
def feHeldAt (s : State) (e : Env) (va : Word) (op : Nat) (d : Option SCode) (v : Word) (scope ord : BitVec 3) (try_ : Bool) : Res :=
  let a : Arrival := { ctx := e.ctx, dst := d.map BitVec.toNat, val := .held (.fe op va v scope ord), store := d.isNone,
                       p6 := if try_ then some false else none, p7 := some true, tag := s.mod.nextTag }
  .ok (bumpTag s) [] [a] .next

/-- The retries that the held access has made, the one in hand among them. -/
def triesOf (t : Ctx) : Nat :=
  match t.held with
  | some (.fe _ _ _ n) => n
  | _ => 0

/-- What an attempt of LDW, LDC or STF at another module's die says of its end: the last one its budget allows names its context, which parks if it
fails, once nothing else keeps it from parking; one that would trap or that a rehearsal makes does not (08 R210). An attempt under way stands. -/
def parkWith (s : State) (e : Env) : Option (Nat × Nat) :=
  let t := e.t s
  match s.mod.exchanges.find? fun x => x.asker == .bundle e.core e.ctx e.slot with
  | some x => match x.req.op with
    | .fe _ _ _ _ p => p
    | _ => none
  | none =>
    if fld t.feb 15 0 ≤ triesOf t ∧ !bitOf t.feb 16 ∧ !rehearsing (coreOf s e.core) ∧ !unanswered s e.core e.ctx then some (idxOfCore e.core, e.ctx) else none

/-- LDW, LDC and STF at another module's die (15 R391): the bundle is held until the home performs the access. Each attempt is a request; one that
failed is made again by a retry (08 R209, R210). -/
def feWait (s : State) (e : Env) (g : Nat) (va : Word) (op : Nat) (d : Option SCode) (v : Word) (scope ord : BitVec 3) : Res :=
  let h := Hold.fe op va v 0
  let s := fePublish (if op = 1 then modCtx s e.core e.ctx (noteRead · va.toNat) else s) e va ord
  match ask s (dieOfCore e.core) g (e.t s).asid va.toNat (.fe op v scope.toNat ord.toNat (parkWith s e)) with
  | (s, none) => .hold s h
  | (s, some (r, _)) =>
    if r.cause ≠ 0 then .late id r.cause r.sub r.level (if r.cause = 0x0F then va &&& ~~~(63 : Word) else va)
    else if !r.p6 ∧ r.p7 then .hold s h
    else
      let s := if ord = 1 then dropBound s e.core (.word va) scope.toNat else s
      let got := BitVec.ofNat 64 (leNat (overBack (e.t s) va.toNat (leBytes 8 r.value.toNat)))
      .ok s [] [feArrival e d (if r.p7 then got else 0) none (some r.p7) (if ord = 1 ∧ r.miss then BitVec.ofNat 64 flagSCOPEX else 0)] .next

/-! ### Waiting forms (15 R391) -/

/-- LDW and LDC: `take` empties the word. -/
def feLoad (take : Bool) (d : SCode) (aa : AReg) (scope ord : BitVec 3) : Eff := fun e s =>
  let va := e.areg s aa
  if va.toNat % 8 ≠ 0 then .trap 8 va
  else
    let (s, l) := feLoc s e va take
    match l with
    | .bad g => feBad s va g
    | .nonres => .ok s [] [feArrival e (some d) 0 none (some false) 0] .next
    | .remote g => feWait s e g va (if take then 2 else 1) (some d) 0 scope ord
    | .word die pa ce =>
      if ce && badCheck s die pa 8 then .late (foundBad · die pa 8) 0x0F 0 0 (va &&& ~~~(63 : Word))
      else if !fullBit (dieOf s die) pa then .hold s (.fe (if take then 2 else 1) va 0 0)
      else
        let v := feWord s e die pa va
        let s := if take then putFull s die pa false else modCtx s e.core e.ctx (noteRead · va.toNat)
        let s := wakeWord s die (pa / 8)
        let (s, f) := feAcquire s e die pa va scope ord
        .ok (if take then clearReleases s die (.word pa) else s) [] [feArrival e (some d) v none (some true) f] .next

/-- LDW (15 R391). -/
def effLdw (d : SCode) (aa : AReg) (scope ord : BitVec 3) : Eff := fun e s => feLoad false d aa scope ord e s

/-- LDC (15 R391). -/
def effLdc (d : SCode) (aa : AReg) (scope ord : BitVec 3) : Eff := fun e s => feLoad true d aa scope ord e s

/-- STF's write at the home. -/
def feFill (s : State) (e : Env) (die pa : Nat) (va v : Word) (scope ord : BitVec 3) : State :=
  let s := fePublish s e va ord
  let s := putFull (physWrite s die pa (leBytes 8 v.toNat)) die pa true
  feRelease s e die pa scope ord

/-- STF (15 R391). -/
def effStf (aa : AReg) (b : SCode) (scope ord : BitVec 3) : Eff := fun e s =>
  let va := e.areg s aa
  let v := e.src s b
  if va.toNat % 8 ≠ 0 then .trap 8 va
  else
    let (s, l) := feLoc s e va true
    match l with
    | .bad g => feBad s va g
    | .nonres => .ok s [] [feArrival e none 0 none (some false) 0] .next
    | .remote g => feWait s e g va 3 none v scope ord
    | .word die pa _ =>
      if fullBit (dieOf s die) pa then .hold s (.fe 3 va v 0)
      else .ok (feFill s e die pa va v scope ord) [] [feArrival e none 0 none (some true) 0] .next

/-- LDW (15 R391) alone in a bundle. -/
def execLdw (d : SCode) (aa : AReg) (scope ord : BitVec 3) (s : State) : Host.Outcome State Fault Refusal :=
  issueOne (.ldw d aa scope ord) (effLdw d aa scope ord) s

/-- LDC (15 R391) alone in a bundle. -/
def execLdc (d : SCode) (aa : AReg) (scope ord : BitVec 3) (s : State) : Host.Outcome State Fault Refusal :=
  issueOne (.ldc d aa scope ord) (effLdc d aa scope ord) s

/-- STF (15 R391) alone in a bundle. -/
def execStf (aa : AReg) (b : SCode) (scope ord : BitVec 3) (s : State) : Host.Outcome State Fault Refusal :=
  issueOne (.stf aa b scope ord) (effStf aa b scope ord) s

/-! ### Try forms (15 R392) -/

/-- LDCT at an address (15 R392): without a write of sd when the word is empty. -/
def feTryLoad (d : SCode) (va : Word) (scope ord : BitVec 3) : Eff := fun e s =>
  if va.toNat % 8 ≠ 0 then .trap 8 va
  else
    let (s, l) := feLoc s e va true
    match l with
    | .bad .wait => feHeldAt s e va 4 (some d) 0 scope ord true
    | .bad g => feBad s va g
    | .nonres => .ok s [] [feArrival e (some d) 0 (some false) (some false) 0] .next
    | .remote g => feRemote s e g va 4 (some d) 0 scope ord true
    | .word die pa ce =>
      if ce && badCheck s die pa 8 then .late (foundBad · die pa 8) 0x0F 0 0 (va &&& ~~~(63 : Word))
      else if fullBit (dieOf s die) pa then
        let v := feWord s e die pa va
        let s := wakeWord (putFull s die pa false) die (pa / 8)
        let (s, f) := feAcquire s e die pa va scope ord
        .ok (clearReleases s die (.word pa)) [] [feArrival e (some d) v (some true) (some true) f] .next
      else .ok s [] [feArrival e none 0 (some false) (some true) 0] .next

/-- LDCT (15 R392). -/
def effLdct (d : SCode) (aa : AReg) (scope ord : BitVec 3) : Eff := fun e s => feTryLoad d (e.areg s aa) scope ord e s

/-- STFT at an address. -/
def feTryFill (va v : Word) (scope ord : BitVec 3) : Eff := fun e s =>
  if va.toNat % 8 ≠ 0 then .trap 8 va
  else
    let (s, l) := feLoc s e va true
    match l with
    | .bad .wait => feHeldAt s e va 5 none v scope ord true
    | .bad g => feBad s va g
    | .nonres => .ok s [] [feArrival e none 0 (some false) (some false) 0] .next
    | .remote g => feRemote s e g va 5 none v scope ord true
    | .word die pa _ =>
      if fullBit (dieOf s die) pa then .ok s [] [feArrival e none 0 (some false) (some true) 0] .next
      else .ok (feFill s e die pa va v scope ord) [] [feArrival e none 0 (some true) (some true) 0] .next

/-- STFT (15 R392). -/
def effStft (aa : AReg) (b : SCode) (scope ord : BitVec 3) : Eff := fun e s => feTryFill (e.areg s aa) (e.src s b) scope ord e s

/-- LDCT (15 R392) alone in a bundle. -/
def execLdct (d : SCode) (aa : AReg) (scope ord : BitVec 3) (s : State) : Host.Outcome State Fault Refusal :=
  issueOne (.ldct d aa scope ord) (effLdct d aa scope ord) s

/-- STFT (15 R392) alone in a bundle. -/
def execStft (aa : AReg) (b : SCode) (scope ord : BitVec 3) (s : State) : Host.Outcome State Fault Refusal :=
  issueOne (.stft aa b scope ord) (effStft aa b scope ord) s

/-! ### Query and set (15 R393) -/

/-- FEQ at an address. -/
def feQuery (d : SCode) (va : Word) (scope ord : BitVec 3) : Eff := fun e s =>
  if va.toNat % 8 ≠ 0 then .trap 8 va
  else
    let (s, l) := feLoc s e va false
    match l with
    | .bad .wait => feHeldAt s e va 6 (some d) 0 scope ord false
    | .bad g => feBad s va g
    | .nonres => .ok s [] [feArrival e (some d) 0 none (some false) 0] .next
    | .remote g => feRemote s e g va 6 (some d) 0 scope ord false
    | .word die pa _ =>
      let v := BitVec.ofNat 64 ((fullBit (dieOf s die) pa).toNat + 2 * (waitBit (dieOf s die) pa).toNat)
      let s := modCtx s e.core e.ctx (noteRead · va.toNat)
      let (s, f) := feAcquire s e die pa va scope ord
      .ok s [] [feArrival e (some d) v none (some true) f] .next

/-- FEQ (15 R393). -/
def effFeq (d : SCode) (aa : AReg) (scope ord : BitVec 3) : Eff := fun e s => feQuery d (e.areg s aa) scope ord e s

/-- FEMK at an address. -/
def feMark (va v : Word) (scope ord : BitVec 3) : Eff := fun e s =>
  if va.toNat % 8 ≠ 0 then .trap 8 va
  else
    let (s, l) := feLoc s e va true
    match l with
    | .bad .wait => feHeldAt s e va 7 none v scope ord false
    | .bad g => feBad s va g
    | .nonres => .ok s [] [feArrival e none 0 none (some false) 0] .next
    | .remote g => feRemote s e g va 7 none v scope ord false
    | .word die pa _ =>
      let s := fePublish s e va ord
      let s := clearReleases (wakeWord (putFull s die pa (bitOf v 0)) die (pa / 8)) die (.word pa)
      .ok (feRelease s e die pa scope ord) [] [feArrival e none 0 none (some true) 0] .next

/-- FEMK (15 R393). -/
def effFemk (aa : AReg) (b : SCode) (scope ord : BitVec 3) : Eff := fun e s => feMark (e.areg s aa) (e.src s b) scope ord e s

/-- FEQ (15 R393) alone in a bundle. -/
def execFeq (d : SCode) (aa : AReg) (scope ord : BitVec 3) (s : State) : Host.Outcome State Fault Refusal :=
  issueOne (.feq d aa scope ord) (effFeq d aa scope ord) s

/-- FEMK (15 R393) alone in a bundle. -/
def execFemk (aa : AReg) (b : SCode) (scope ord : BitVec 3) (s : State) : Host.Outcome State Fault Refusal :=
  issueOne (.femk aa b scope ord) (effFemk aa b scope ord) s

/-! ### The green room (08 R210 to R215) -/

/-- A held waiting access has one retry left: when that fails its budget is exhausted (08 R210). -/
def budgetUsed (t : Ctx) : Bool :=
  match t.held with
  | some (.fe _ _ _ fails) => decide (fld t.feb 15 0 ≤ fails + 1)
  | _ => false

/-- The context parks on a word (08 R213): W is set and its record inserted in one step; the core goes on. A kill that waits ends it there (07
R189, 05 R119). -/
def park (s : State) (c x die pa op : Nat) (v : Word) : State :=
  let s := modDie s die fun d =>
    setWait (addPark d { pa := pa, core := idxOfCore c, die := globalDie s (dieOfCore c), ctx := x, op := op, value := if op = 3 then v else 0, beat := d.beat }) pa true
  let s := switchAway (settle s c) c x (.parked die pa)
  if (ctxOf s c x).killed ∧ (coreOf s c).run ≠ some x ∧ (ctxOf s c x).status ≠ .none then endAndKill s c x .killed else s

/-- The end of a budget for the running context: a trap, or the green room. -/
def exhaust (s : State) (c x op : Nat) (va v : Word) : State :=
  let t := ctxOf s c x
  if unsettled s c x then s
  else if rehearsing (coreOf s c) then stopRerun s c x
  else if bitOf t.feb 16 then issueTrap s c x { cause := 0x0B, slot := 3, info := va }
  else
    let (s, l) := feLoc s ⟨c, x, 0, 0, 3, 0⟩ va (op != 1)
    match l with
    | .word die pa _ =>
      if (freePark (dieOf s die)).isNone then issueTrap s c x { cause := 0x0B, slot := 3, info := va ||| (1 <<< 63 : Word) }
      else park s c x die pa op v
    | _ => modCtx s c x fun t => { t with held := none }

/-- Its context stands in the green room of another module's die, where its last attempt has put it: the core goes on. -/
def parkAbroad (s : State) (c x g : Nat) : State :=
  let s := switchAway (settle s c) c x (.abroad g)
  if (ctxOf s c x).killed ∧ (coreOf s c).run ≠ some x ∧ (ctxOf s c x).status ≠ .none then endAndKill s c x .killed else s

/-- A context that waits to move is readied where it waits. -/
def readyMoved (s : State) (c x : Nat) : State :=
  let hit := fun (r : TaskReq) => r.old == (c, x) && r.moved.isSome
  let f := fun (r : TaskReq) => if hit r then { r with moved := r.moved.map fun t => match t.status with | .parked _ _ | .abroad _ => { t with status := .ready } | _ => t } else r
  let s := { s with cores := s.cores.map fun p => if p.2.waitq.any hit then (p.1, { p.2 with waitq := p.2.waitq.map f }) else p }
  (List.range 4).foldl (fun s d =>
    if (dieOf s d).placing.any (fun p => p.reqs.any hit) then
      modDie s d fun k => { k with placing := k.placing.map fun p => { p with reqs := p.reqs.map f } }
    else s) s

/-- The context of a core wakes: it becomes ready, or goes on where its core has not left it yet; one whose attempt at another module's die has parked it
makes the attempt again. One that is parked no more is left as it is (08 R214). -/
def wakeHere (s : State) (c x : Nat) : State :=
  match (ctxOf s c x).status with
  | .parked _ _ | .abroad _ =>
    if (coreOf s c).run = some x then modCtx s c x fun t => { t with status := .ready } else makeReady s c x
  | _ => if (parkAsked s c x).isSome then modCtx (dropBundle s c x) c x fun t => { t with held := none } else readyMoved s c x

/-- The context of a park record wakes, on this module or another (08 R214). -/
def wakeOne (s : State) (d : Nat) (p : Park) : State :=
  match localDie s p.die with
  | none => if routed s p.die then askRemote s d p.die 0 0 (.wake p.core p.ctx) else s
  | some e => wakeHere s (64 * e + p.core) p.ctx

/-- WAKE_WALK (08 R214): the records of the word leave its bucket in their order, and their contexts become ready. -/
def execWakeWalk (die : DieId) (pa : Nat) (s : State) : Host.Outcome State Fault Refusal :=
  let d := dieOf s die.val
  let hit := fun (p : Park) => p.pa / 8 == pa / 8
  let b := bucketOf (pa / 8 * 8)
  let ps := ((bucketList d b).map (parkAt d)).filter hit
  .next (ps.foldl (wakeOne · die.val ·) (modDie s die.val (dropFrom · b hit)))

/-! ### Accesses held at their owner (10 R262) -/

/-- What trying a held access comes to. -/
inductive HeldOut where
  /-- its page migrates still, or another module's die has not answered -/
  | still
  /-- a request to another module's die has been sent -/
  | sent (s : State)
  /-- it is performed, and is awaited as any other -/
  | done (s : State) (a : Arrival)
  /-- it meets a cause: cause, subcause, level, EINFO -/
  | fail (s : State) (cause sub level : Nat) (info : Word)

/-- A held scalar load or store as an access gave it. -/
def heldScalar (s : State) (a : Arrival) (va n : Nat) (signed : Bool) (t : Ctx) : Got → HeldOut
  | .bytes bs => .done s { a with val := .data (extendBytes n signed (leNat bs)), p7 := some true }
  | .nonres => .done s { a with val := .data 0, p7 := some false }
  | .outside tag => .done s { a with val := .outside n signed (BitVec.ofNat 64 va) (overOf t va n), tag := tag }
  | .wait => .still
  | .fail cause sub level => .fail s cause sub level (BitVec.ofNat 64 (if cause = 0x0F then va / 64 * 64 else va))

/-- A held full/empty operation, or cache instruction, as its effect answers it. -/
def heldRes (s0 : State) (a : Arrival) : Res → HeldOut
  | .ok s _ (b :: _) _ =>
    match b.val with
    | .held _ => .still
    | _ => .done s { b with dst := if b.dst.isSome then a.dst else none, p6 := if a.p6.isSome then b.p6 else none, mark := a.mark, old6 := a.old6, old7 := a.old7 }
  | .ok s _ [] _ => .done s { a with val := .data 0 }
  | .late keep cause sub level info => .fail (keep s0) cause sub level info
  | .trap cause info => .fail s0 cause 0 0 info
  | .hold _ _ => .still

/-- A held tile access as its rows gave it. -/
def heldTile (s : State) (g : TileGot) (a : Arrival) : HeldOut :=
  match pickFail s g.fails with
  | none => .done g.s a
  | some (_, .wait) => .sent s
  | some (va, .fail cause sub level) => .fail (bumpFree s) cause sub level (BitVec.ofNat 64 (if cause = 0x0F then va / 64 * 64 else va))
  | some (va, _) => .fail (bumpFree s) 0x09 0 0 (BitVec.ofNat 64 va)

/-- A held tile access is tried: what it asks of dies of other modules it asks as the access. -/
def tryTile (s : State) (a : Arrival) (f : State → HeldOut) : HeldOut :=
  let k := Asker.access a.tag
  let out := f (beginAsking s k)
  let t := match out with
    | .done t _ | .fail t _ _ _ _ => t
    | .sent t => if t.mod.want = .nothing then lacks t .page else t
    | .still => lacks (beginAsking s k) .page
  match out, (endAsking s t k) with
  | .done _ b, (u, false) => .done u { b with tag := 0 }
  | .fail _ cause sub level info, (u, false) => .fail u cause sub level info
  | _, (u, _) => if u.mod.nextTag = s.mod.nextTag then .still else .sent u

/-- The tile access that a core holds as its rows give it. -/
def heldRows (c : Nat) (a : Arrival) (wr : Bool) (v : Nat) (base pitch : Word) (m : Mask) (mk : MReg) (hint : Nat) (t : Ctx) (tile : Tile) (s : State) : HeldOut :=
  if wr then
    let g := storeTile s t c a.ctx tile base pitch m mk hint
    heldTile g.s g { tileArrival a.ctx g mk with store := true, mark := a.mark, old6 := a.old6, old7 := a.old7 }
  else
    let g := loadTile s t c a.ctx base pitch m mk hint
    heldTile g.s g { tileLoaded a.ctx v mk g with mark := a.mark, old6 := a.old6, old7 := a.old7 }

/-- A held access is tried. -/
def tryHeld (s : State) (c : Nat) (a : Arrival) : HeldOut :=
  let t := ctxOf s c a.ctx
  let e : Env := ⟨c, a.ctx, 0, 0, 3, 0⟩
  match a.val with
  | .held (.load va n hint signed) =>
    let (s, g) := coreRead s c a.ctx va n hint false
    heldScalar s a va n signed t g
  | .held (.store va bs) =>
    let (s, g) := coreWrite s c a.ctx va bs 0 false
    heldScalar s a va 0 false t g
  | .held (.tile wr v base pitch m mk hint fmt shp tile) =>
    tryTile s a (heldRows c a wr v base pitch m (BitVec.ofNat 4 mk) hint { t with fmt := fmt, shp := shp } tile)
  | .held (.fe op va v scope ord) =>
    heldRes s a (if op = 4 then feTryLoad 0 va scope ord e s else if op = 5 then feTryFill va v scope ord e s
      else if op = 6 then feQuery 0 va scope ord e s else feMark va v scope ord e s)
  | .held (.line va disc) =>
    match lineLoc s c t.asid va with
    | .page die pa _ rd wr =>
      if (if disc then wr else rd) then .done (lineDo s c t.asid va disc die pa) { a with val := .data 0 } else .fail s 0x09 0 0 (BitVec.ofNat 64 va)
    | .quiet | .away _ => .done s { a with val := .data 0 }
    | .bad (.wait _) => .still
    | .bad (.transl sub level) => .fail s 0x0A sub level (BitVec.ofNat 64 va)
    | .bad .prot => .fail s 0x09 0 0 (BitVec.ofNat 64 va)
  | _ => .done s a

/-- The oldest held access of a core that is not still held, with what trying it gives. -/
def heldReady (s : State) (c : Nat) : Option (Nat × HeldOut) :=
  ((List.range (coreOf s c).arrivals.length).zip (coreOf s c).arrivals).findSome? fun p =>
    match p.2.val with
    | .held _ => match tryHeld s c p.2 with
      | .still => none
      | o => some (p.1, o)
    | _ => none

end Sys2Proof.Machine
end

