-- ==== Sys2Proof/Machine/SyncOps.lean ====
section
/-! DEFINITION. Counters, rings, fences, curtains, bindings, page requests, accumulator atomics and TLB invalidation
(15 R396 to R407; 09 R233 to R242; 10 R257, R263). -/

namespace Sys2Proof.Machine

/-! ### Counters (15 R396, R397) -/

/-- NO_ROUTE on a counter id. -/
def noRoute (id : Nat) : Res := .late (fun s => s) 0x0A 3 0 (BitVec.ofNat 64 id)

/-- An arrival that brings a value to a scalar destination. -/
def valueArrival (e : Env) (d : SCode) (v f : Word) : Arrival := { ctx := e.ctx, dst := some d.toNat, val := .data v, flags := f }

/-- An arrival whose value another module's die gives under the TAG of the request about to be sent; an acquire at a scope drops what is bound
to the counter when it comes, and whether it then sets SCOPEX is open. -/
def openArrival (s : State) (e : Env) (d : SCode) (id : Nat) (acq : Option Nat) : Arrival :=
  { ctx := e.ctx, dst := some d.toNat, val := .outside 8 false (BitVec.ofNat 64 id) [], tag := s.mod.nextTag,
    acq := acq.map fun sc => (.ctr (BitVec.ofNat 20 id), sc),
    flags := if acq.isSome && bitOf (Config.freeValue s.freeCtr) 0 then BitVec.ofNat 64 flagSCOPEX else 0 }

/-- The bundle is held until another module's die has confirmed what it was asked (15 R401, R402, R407). -/
def confirmed (s : State) (e : Env) (g asid : Nat) (va : Word) (op : RemoteOp) : Res :=
  match ask s (dieOfCore e.core) g asid va.toNat op with
  | (s, none) => .hold s .remote
  | (s, some (r, _)) => if r.cause ≠ 0 then .late id r.cause r.sub r.level va else nothing s

/-- An acquire on a counter (09 R232, R235, R240). -/
def ctrAcquire (s : State) (e : Env) (d id : Nat) (scope : Nat) : State × Word :=
  (dropBound s e.core (.ctr (BitVec.ofNat 20 id)) scope, acquireFlag s d (.ctr (ctrIdx id)) (.core e.core) scope)

/-- The increments of a counter that an ordered task keeps back. -/
def loggedSum (q : Spec) (id : Nat) : Word := (q.log.filter fun o => o.ctr == id).foldl (fun a o => a + o.inc) 0

/-- The scope of a release, where an ord has the release bit. -/
def relScope (scope ord : BitVec 3) : Option Nat := if bitOf ord 1 then some scope.toNat else none

/-- The scope of an acquire, where an ord has the acquire bit. -/
def acqScope (scope ord : BitVec 3) : Option Nat := if bitOf ord 0 then some scope.toNat else none

/-- CADD (15 R396, R397, 05 R127). -/
def effCadd (d a b : SCode) (scope ord : BitVec 3) : Eff := fun e s =>
  let id := ctrId (e.src s a)
  let inc := e.src s b
  if !routed s (ctrDie id) then noRoute id
  else match localDie s (ctrDie id) with
    | none => .ok (coreAdd (bumpFree s) e.core id inc (relScope scope ord)).1 [] [openArrival s e d id (acqScope scope ord)] .next
    | some die =>
      let old := ctrVal s die (ctrIdx id)
      match (e.t s).spec with
      | some q =>
        let s := modCtx s e.core e.ctx fun t => { t with spec := some { q with log := q.log ++ [⟨id, inc, relScope scope ord, none, acqScope scope ord⟩] } }
        .ok s [] [valueArrival e d (old + loggedSum q id) 0] .next
      | none =>
        if ctrMax < old.toNat + inc.toNat then
          .late (fun s => (coreAdd s e.core id inc (relScope scope ord)).1) 0x10 0 0 (BitVec.ofNat 64 id)
        else
          let s := (coreAdd s e.core id inc (relScope scope ord)).1
          let (s, f) := if bitOf ord 0 then ctrAcquire s e die id scope.toNat else (s, 0)
          .ok s [] [valueArrival e d old f] .next

/-- CWAIT and CREAD: the counter's value once `ready` holds of it. A CWAIT on a counter of another module's die holds its bundle until that die says so
(15 R396). -/
def ctrGet (ready : Word → Bool) (least : Word) (h : Hold) (d a : SCode) (scope ord : BitVec 3) : Eff := fun e s =>
  let id := ctrId (e.src s a)
  if !routed s (ctrDie id) then noRoute id
  else match localDie s (ctrDie id) with
    | none =>
      match h with
      | .ctr _ _ =>
        (match ask s (dieOfCore e.core) (ctrDie id) 0 id (.ctrGet least scope.toNat) with
         | (s, none) => .hold s h
         | (s, some (r, _)) =>
           .ok (if ord = 1 then dropBound s e.core (.ctr (BitVec.ofNat 20 id)) scope.toNat else s) []
             [valueArrival e d r.value (if ord = 1 ∧ r.miss then BitVec.ofNat 64 flagSCOPEX else 0)] .next)
      | _ => .ok (askRemote (bumpFree s) (dieOfCore e.core) (ctrDie id) 0 id (.ctrGet least scope.toNat)) [] [openArrival s e d id (acqScope scope ord)] .next
    | some die =>
      let v := ctrVal s die (ctrIdx id)
      if !ready v then .hold s h
      else
        let (s, f) := if ord = 1 then ctrAcquire s e die id scope.toNat else (s, 0)
        .ok s [] [valueArrival e d v f] .next

/-- CWAIT (15 R396). -/
def effCwait (d a b : SCode) (scope ord : BitVec 3) : Eff := fun e s => ctrGet (fun v => decide ((e.src s b).toNat ≤ v.toNat)) (e.src s b) (.ctr (ctrId (e.src s a)) (e.src s b)) d a scope ord e s

/-- CREAD (15 R396). -/
def effCread (d a : SCode) (scope ord : BitVec 3) : Eff := fun e s => ctrGet (fun _ => true) 0 .owner d a scope ord e s

/-- CADD (15 R396) alone in a bundle. -/
def execCadd (d a b : SCode) (scope ord : BitVec 3) (s : State) : Host.Outcome State Fault Refusal :=
  issueOne (.cadd d a b scope ord) (effCadd d a b scope ord) s

/-- CWAIT (15 R396) alone in a bundle. -/
def execCwait (d a b : SCode) (scope ord : BitVec 3) (s : State) : Host.Outcome State Fault Refusal :=
  issueOne (.cwait d a b scope ord) (effCwait d a b scope ord) s

/-- CREAD (15 R396) alone in a bundle. -/
def execCread (d a : SCode) (scope ord : BitVec 3) (s : State) : Host.Outcome State Fault Refusal :=
  issueOne (.cread d a scope ord) (effCread d a scope ord) s

/-! ### Rings (15 R398, R399, 08 R221 to R223) -/

/-- A descriptor's fields are in range (08 R221, R222). -/
def ringOk (s : State) (r : RingDesc) : Bool :=
  r.base.toNat % 64 == 0 && r.stride != 0 && r.stride % 64 == 0 && decide (1 ≤ r.n) && decide (r.n ≤ 64) &&
    (localDie s (ctrDie r.acq.toNat)).isSome && (localDie s (ctrDie r.rel.toNat)).isSome

/-- The value of a counter of this module by its id. -/
def ctrById (s : State) (id : Nat) : Word :=
  match localDie s (ctrDie id) with
  | some d => ctrVal s d (ctrIdx id)
  | none => 0

/-- The ticket of an RBACQ: the pending one of its ring, or a new one; a pending ticket of another ring is released in its turn. -/
def takeTicket (s : State) (e : Env) (ring : Nat) (r : RingDesc) : State × Word :=
  match (e.t s).ticket with
  | some (g, a) =>
    if g = ring then (s, a)
    else
      let d := dieOfCore e.core
      let s := payAll (modDie s d fun k => { k with debts := k.debts ++ [(g, a)] })
      let n := ctrById s r.acq.toNat
      ((coreAdd s e.core r.acq.toNat 1 none).1, n)
  | none => ((coreAdd s e.core r.acq.toNat 1 none).1, ctrById s r.acq.toNat)

/-- RBACQ (15 R398, R399). -/
def effRbacq (ad : AReg) (a : SCode) (scope : BitVec 3) : Eff := fun e s =>
  let ring := fld (e.src s a) 9 0
  let r := ringOf s (dieOfCore e.core) ring
  if !ringOk s r then .late id 0x09 0 0 (BitVec.ofNat 64 ring)
  else
    let (s, n) := takeTicket s e ring r
    let s := modCtx s e.core e.ctx fun t => { t with ticket := some (ring, n) }
    if (ctrById s r.rel.toNat).toNat + r.n < n.toNat + 1 then .hold s (.ring ring n)
    else
      let s := modCtx s e.core e.ctx fun t => { t with ticket := none, bufs := t.bufs ++ [(ring, n)] }
      let (s, f) := match localDie s (ctrDie r.rel.toNat) with
        | some die => ctrAcquire s e die r.rel.toNat scope.toNat
        | none => (s, 0)
      .ok s [] [{ ctx := e.ctx, adst := some (ad.toNat, r.base + BitVec.ofNat 64 (n.toNat % r.n * r.stride)), flags := f }] .next

/-- RBREL (15 R398). -/
def effRbrel (a : SCode) (scope : BitVec 3) : Eff := fun e s =>
  let ring := fld (e.src s a) 9 0
  let r := ringOf s (dieOfCore e.core) ring
  if !ringOk s r then .late id 0x09 0 0 (BitVec.ofNat 64 ring)
  else
    match (e.t s).spec with
    | some q => nothing (modCtx s e.core e.ctx fun t => { t with spec := some { q with log := q.log ++ [⟨r.rel.toNat, 1, some scope.toNat, some ring, none⟩] } })
    | none => nothing (coreAdd (modCtx s e.core e.ctx (dropBuf · ring)) e.core r.rel.toNat 1 (some scope.toNat)).1

/-- RBACQ (15 R398) alone in a bundle. -/
def execRbacq (ad : AReg) (a : SCode) (scope : BitVec 3) (s : State) : Host.Outcome State Fault Refusal :=
  issueOne (.rbacq ad a scope) (effRbacq ad a scope) s

/-- RBREL (15 R398) alone in a bundle. -/
def execRbrel (a : SCode) (scope : BitVec 3) (s : State) : Host.Outcome State Fault Refusal :=
  issueOne (.rbrel a scope) (effRbrel a scope) s

/-! ### Fences and publication (15 R400, R401; 09 R238, R242) -/

/-- The issue cycle at which the last matrix command of a context completes. -/
def matrixDone (k : Core) (x : Nat) : Nat :=
  (k.pend.filter fun p => p.ctx == x && (landSerial p.land).isSome).foldl (fun n p => max n p.due) k.ic

/-- Every engine command of the context is done (15 R400): matrix commands complete, as empty issue cycles pass. -/
def fenceEngines (s : State) (c x : Nat) : State :=
  let s := landDue (modCore s c fun k => { k with ic := matrixDone k x }) c
  completeEngs c (fun e => match e.owner with | .ctx o y => o == c && y == x | .firmware _ _ => false) (coreOf s c).engs.length s

/-- An engine command of the context is held at the owner of a page that migrates. -/
def engsHeld (s : State) (c x : Nat) : Bool :=
  (coreOf s c).engs.any fun e => (match e.owner with | .ctx o y => o == c && y == x | .firmware _ _ => false) && engWaits s c e

/-- A store of the context is not performed yet: it is held at its owner, or another module's die has not answered. -/
def storesOut (s : State) (c x : Nat) : Bool := (coreOf s c).arrivals.any fun a => a.ctx == x && a.store && !a.known

/-- A load of the context is out: it is held at its owner, or its data come from outside the module. -/
def loadsOut (s : State) (c x : Nat) : Bool := (coreOf s c).arrivals.any fun a => a.ctx == x && !a.store && !a.known

/-- FENCE (15 R400): its release half waits for the stores before it, its acquire half for the loads before it (09 R237, R238). -/
def effFence (scope ord : BitVec 3) : Eff := fun e s =>
  if ord = 0 then
    (if (coreOf s e.core).coop.isSome || engsHeld s e.core e.ctx then .hold s .owner else nothing (fenceEngines s e.core e.ctx))
  else if (bitOf ord 1 && storesOut s e.core e.ctx) || (bitOf ord 0 && loadsOut s e.core e.ctx) then .hold s .owner
  else
    let s := if bitOf ord 1 then releaseAll s e.core else s
    nothing (if bitOf ord 0 && scope != 0 then dropAllClean s e.core else s)

/-- The first-level caches a party's scope covers, by core. -/
def coveredCores (s : State) (p : Party) (scope : Nat) : List Nat :=
  (s.cores.map (·.1)).filter fun o => covers scope p (.core o)

/-- A line lies in pages of an address space. -/
def lineIn (asid page n : Nat) (l : Line) : Bool := l.asid == asid && decide (page ≤ l.line / 1024) && decide (l.line / 1024 < page + n)

/-- PUBL's three steps (09 R242): the region's lines leave the covered cores, front and back change places, and the curtain is released. -/
def raise (s : State) (p : Party) (scope d : Nat) (q : Curtain) : State :=
  let s := (coveredCores s p scope).foldl (fun s o => l1Evict s o (lineIn q.asid q.base q.len)) s
  let s := modDie s d fun k => { k with curtains := k.curtains.map fun z => if z == q then { z with swapped := !z.swapped } else z }
  postRelease s d ⟨.curtain q.asid q.base, p, actingScope p scope⟩

/-- PUBL of a curtain on another module's die: the lines of the address's page leave the covered cores, and the owner is asked for the exchange;
the region's other pages are not known here, so every line of that die's addresses goes. -/
def askPubl (s : State) (e : Env) (asid : Nat) (va : Word) (scope : Nat) : Res :=
  let s := (coveredCores s (.core e.core) scope).foldl (fun s o => l1Evict s o fun l => l.asid == asid && l.line / 2 ^ 50 == va.toNat / 2 ^ 56)
    (releaseAll s e.core)
  confirmed s e (va.toNat / 2 ^ 56) asid va (.publ scope)

/-- PUBL (15 R401). -/
def effPubl (aa : AReg) (scope : BitVec 3) : Eff := fun e s =>
  let va := e.areg s aa
  match localDie s (va.toNat / 2 ^ 56) with
  | none =>
    if 0xFC ≤ va.toNat / 2 ^ 56 ∨ !routed s (va.toNat / 2 ^ 56) then .late id 0x09 0 0 va
    else askPubl s e (e.t s).asid va scope.toNat
  | some d =>
    match curtainOf s d (e.t s).asid va.toNat with
    | none => .late id 0x09 0 0 va
    | some q => nothing (raise (releaseBound s e.core (.curtain (BitVec.ofNat 64 (q.back * 65536)))) (.core e.core) scope.toNat d q)

/-- FENCE (15 R400) alone in a bundle. -/
def execFence (scope ord : BitVec 3) (s : State) : Host.Outcome State Fault Refusal :=
  issueOne (.fence scope ord) (effFence scope ord) s

/-- PUBL (15 R401) alone in a bundle. -/
def execPubl (aa : AReg) (scope : BitVec 3) (s : State) : Host.Outcome State Fault Refusal :=
  issueOne (.publ aa scope) (effPubl aa scope) s

/-! ### Bindings (15 R402; 09 R233, R234, R241) -/

/-- What is left of an entry when blocks are taken out: up to two entries. -/
def cutEntry (b len : Nat) (r : Binding) : List Binding :=
  if r.base + r.len ≤ b ∨ b + len ≤ r.base then [r]
  else (if r.base < b then [{ r with len := b - r.base }] else []) ++
    (if b + len < r.base + r.len then [{ r with base := b + len, len := r.base + r.len - (b + len) }] else [])

/-- An entry in its place by base. -/
def insertBind (n : Binding) : List Binding → List Binding
  | [] => [n]
  | r :: l => if n.base < r.base then n :: r :: l else r :: insertBind n l

/-- Adjacent runs bound to one object are held as one entry. -/
def mergeBinds : List Binding → List Binding
  | [] => []
  | r :: l =>
    match mergeBinds l with
    | q :: rest => if r.obj = q.obj ∧ r.base + r.len = q.base then { r with len := r.len + q.len } :: rest else r :: q :: rest
    | [] => [r]

/-- The entries of an address space after blocks are taken out, and bound anew where an object is given. -/
def bindBlocks (l : List Binding) (asid b len : Nat) (o : Option BindObj) : List Binding :=
  let mine := (l.filter fun r => r.asid == asid).flatMap (cutEntry b len)
  let new := match o with
    | some o => insertBind ⟨asid, b, len, o⟩ (mine.foldl (fun m r => insertBind r m) [])
    | none => mine.foldl (fun m r => insertBind r m) []
  (l.filter fun r => r.asid != asid) ++ mergeBinds new

/-- Entries a die holds for an address space (09 R234). -/
def bindRoom : Nat := 1024

/-- The entries of an address space are more than the die holds. -/
def bindsOver (l : List Binding) (asid : Nat) : Bool := decide (bindRoom < (l.filter fun r => r.asid == asid).length)

/-- A curtain's region shares pages with a range. -/
def overCurtain (asid b n : Nat) (q : Curtain) : Bool := q.asid == asid && decide (q.base < b + n) && decide (b < q.base + q.len)

/-- A curtain's back range shares pages with a range. -/
def overBack' (asid b n : Nat) (q : Curtain) : Bool := q.asid == asid && decide (q.back < b + n) && decide (b < q.back + q.len)

/-- The checks of a region common to BIND and UNBIND: its owner die, or the outcome of a failed check. -/
def regionDie (s : State) (e : Env) (base len : Word) (op : RemoteOp) : Except Res Nat :=
  let ob := base.toNat / 2 ^ 56
  if base.toNat % 256 ≠ 0 then .error (.trap 8 base)
  else if len = 0 ∨ 2 ^ 32 < len.toNat then .error (.late id 0x09 0 0 base)
  else if ob = 0xFD ∨ ob = 0xFF ∨ (base.toNat + 256 * len.toNat - 1) / 2 ^ 56 ≠ ob then .error (.late id 0x09 0 0 base)
  else if ob = 0xFC ∨ ob = 0xFE then .error (.late id 0x0A 2 0 base)
  else if !routed s ob then .error (.late id 0x0A 3 0 base)
  else match localDie s ob with
    | some d => .ok d
    | none => .error (confirmed s e ob (e.t s).asid base op)

/-- BIND in its curtain form may be made: aligned, whole pages, on one die, clear of every other curtain. -/
def curtainOk (s : State) (d asid : Nat) (base len back : Word) : Bool :=
  let b := base.toNat / 65536
  let n := len.toNat / 256
  let k := back.toNat / 65536
  base.toNat % 65536 == 0 && back.toNat % 65536 == 0 && len.toNat % 256 == 0 &&
    base.toNat / 2 ^ 56 == back.toNat / 2 ^ 56 && (back.toNat + 256 * len.toNat - 1) / 2 ^ 56 == back.toNat / 2 ^ 56 &&
    (decide (b + n ≤ k) || decide (k + n ≤ b)) &&
    (dieOf s d).curtains.all fun q =>
      (q.asid == asid && q.base == b && q.len == n && q.back == k) ||
      !(overCurtain asid b n q || overBack' asid b n q || overCurtain asid k n q || overBack' asid k n q)

/-- BIND at its region's owner die; none where PROT is raised. -/
def bindAt (s : State) (die asid : Nat) (base len o : Word) (form : Nat) : Option State :=
  if form = 2 ∧ !curtainOk s die asid base len o then none
  else if form ≠ 2 ∧ (dieOf s die).curtains.any (overCurtain asid (base.toNat / 65536) ((base.toNat % 65536 + 256 * len.toNat + 65535) / 65536)) then
    none
  else
    let obj := if form = 0 then BindObj.ctr (o.setWidth 20) else if form = 1 then .word o else .curtain o
    let l := bindBlocks (dieOf s die).binds asid (base.toNat / 256) len.toNat (some obj)
    if bindsOver l asid then none
    else
      let q : Curtain := ⟨asid, base.toNat / 65536, len.toNat / 256, o.toNat / 65536, false⟩
      some (modDie s die fun k =>
        { k with binds := l,
                 curtains := if form = 2 ∧ !k.curtains.any (fun z => z.asid == asid && z.base == q.base) then k.curtains ++ [q] else k.curtains })

/-- BIND (15 R402). -/
def effBind (d : SCode) (aa : AReg) (b : SCode) (form : BitVec 3) : Eff := fun e s =>
  let base := e.areg s aa
  let len := e.src s b
  let o := e.src s d
  let asid := (e.t s).asid
  if base.toNat % 256 = 0 ∧ form = 1 ∧ o.toNat % 8 ≠ 0 then .trap 8 o
  else match regionDie s e base len (.bind len o form.toNat) with
  | .error r => r
  | .ok die =>
    match bindAt s die asid base len o form.toNat with
    | some s => nothing s
    | none => .late id 0x09 0 0 base

/-- What a die holds of a table by number changes places between two runs of n numbers. -/
def swapTab {α : Type} [DecidableEq α] (t : Tab α) (a b n : Nat) (default : α) : Tab α :=
  let hit := fun (base : Nat) => (t.filter fun e => decide (base ≤ e.1) && decide (e.1 < base + n)).map fun e => (e.1 - base, e.2)
  let clear := fun (t : Tab α) (base : Nat) => t.filter fun e => !(decide (base ≤ e.1) && decide (e.1 < base + n))
  let put := fun (t : Tab α) (base : Nat) (l : List (Nat × α)) => l.foldl (fun t e => tabSet default t (base + e.1) e.2) t
  put (put (clear (clear t a) b) a (hit b)) b (hit a)

/-- The contents of two 64 KiB frames of a die change places, with all that stands beside the words. -/
def swapContents (s : State) (d pa pb : Nat) : State :=
  let k := dieOf s d
  modDie s d fun _ =>
    { k with mem := memWrite (memWrite k.mem pa (memRead k.mem pb 65536)) pb (memRead k.mem pa 65536),
             full := swapTab k.full (pa / 8) (pb / 8) 8192 false, badck := swapTab k.badck (pa / 64) (pb / 64) 1024 0,
             ecc := swapTab k.ecc (pa / 64) (pb / 64) 1024 false, entryBad := swapTab k.entryBad (pa / 64) (pb / 64) 1024 false,
             pageKeys := swapTab k.pageKeys (pa / 65536) (pb / 65536) 1 0 }

/-- What two pages of a die show changes places for good: their frames in their entries and in the TLB, with RES and the backings that belong to the
contents; where a page lies in a larger leaf, which has no frame of its own, the contents themselves. -/
def swapFrames (s : State) (d asid va vb : Nat) : State :=
  match walk s d asid va, walk s d asid vb with
  | .ok l, .ok m =>
    if l.log ≠ 16 ∨ m.log ≠ 16 then
      swapContents s d ((pteFrame l.pte + va % 2 ^ l.log) / 65536 * 65536) ((pteFrame m.pte + vb % 2 ^ m.log) / 65536 * 65536)
    else
      let f := fun (p q : Word) => setFld (setFld (setFld p 47 13 (fld q 47 13)) 63 56 (fld q 63 56)) 8 7 (fld q 8 7)
      let s := writePte (writePte s d l.ptePa (f l.pte m.pte)) d m.ptePa (f m.pte l.pte)
      let other := fun (p : Nat) => if p = va / 65536 then vb / 65536 else if p = vb / 65536 then va / 65536 else p
      modDie s d fun k =>
        { k with tlb := k.tlb.filter fun t => !(t.asid == asid && (t.vpn == va / 65536 || t.vpn == vb / 65536) && t.log == 16),
                 backings := k.backings.map fun b => if b.asid = asid then { b with page := other b.page } else b }
  | _, _ => s

/-- A curtain is removed: the back range keeps its contents (09 R241). -/
def removeCurtain (s : State) (d : Nat) (q : Curtain) : State :=
  let s := if q.swapped then (List.range q.len).foldl (fun s i => swapFrames s d q.asid ((q.base + i) * 65536) ((q.back + i) * 65536)) s else s
  modDie s d fun k => { k with curtains := k.curtains.filter (· != q) }

/-- UNBIND at its region's owner die; none where PROT is raised. -/
def unbindAt (s : State) (die asid : Nat) (base len : Word) : Option State :=
  let lo := base.toNat / 256
  let hit := (dieOf s die).curtains.filter fun q => q.asid == asid && decide (256 * q.base < lo + len.toNat) && decide (lo < 256 * (q.base + q.len))
  if hit.any fun q => !(decide (lo ≤ 256 * q.base) && decide (256 * (q.base + q.len) ≤ lo + len.toNat)) then none
  else
    let l := bindBlocks (dieOf s die).binds asid lo len.toNat none
    if bindsOver l asid then none
    else some (hit.foldl (fun s q => removeCurtain s die q) (modDie s die fun k => { k with binds := l }))

/-- UNBIND (15 R402). -/
def effUnbind (aa : AReg) (b : SCode) : Eff := fun e s =>
  let base := e.areg s aa
  let len := e.src s b
  let asid := (e.t s).asid
  match regionDie s e base len (.unbind len) with
  | .error r => r
  | .ok die =>
    match unbindAt s die asid base len with
    | some s => nothing s
    | none => .late id 0x09 0 0 base

/-- BIND (15 R402) alone in a bundle. -/
def execBind (d : SCode) (aa : AReg) (b : SCode) (form : BitVec 3) (s : State) : Host.Outcome State Fault Refusal :=
  issueOne (.bind d aa b form) (effBind d aa b form) s

/-- UNBIND (15 R402) alone in a bundle. -/
def execUnbind (aa : AReg) (b : SCode) (s : State) : Host.Outcome State Fault Refusal :=
  issueOne (.unbind aa b) (effUnbind aa b) s

/-! ### Page requests (15 R403, 10 R263) -/

/-- A page request ends: its counter rises as a release at die scope, PGERR is set for an error or a saturated counter,
also of a context of another module. -/
def endPgreq (s : State) (d : Nat) (r : PgReq) (bad : Bool) : State :=
  let (s, sat) := ctrRelease s r.ctr.toNat 1 (.die d) 2
  if !(bad || sat) then s
  else match r.from_ with
    | some g => askRemote s d g 0 0 (.pgErr r.core r.ctx)
    | none => if (ctxOf s r.core r.ctx).resident then orStat s r.core r.ctx (BitVec.ofNat 64 flagPGERR) else s

/-- What a page request meets: at once with success or an error, or it waits to be served. -/
inductive PgCase where
  /-- ends at once: with an error when the flag is set -/
  | now (bad : Bool)
  /-- waits -/
  | later
  deriving DecidableEq, Repr

/-- The case of a page request on its owner die (10 R263). -/
def pgCase (s : State) (d asid va : Nat) : PgCase :=
  match walk s d asid (outVa s d asid va) with
  | .ok l => if l.log ≠ 16 then .now true else if pteRes l.pte = 0 then .now false else .later
  | .error (.wait _) => .later
  | .error (.transl 6 _) => .later
  | .error _ => .now true

/-- A page request at its address's owner die. -/
def pageAt (s : State) (d : Nat) (r : PgReq) : State :=
  match pgCase s d r.asid r.va.toNat with
  | .now bad => endPgreq s d r bad
  | .later => modDie s d fun k => { k with pgreqs := k.pgreqs ++ [r] }

/-- PGREQ (15 R403). -/
def effPgreq (aa : AReg) (b : SCode) : Eff := fun e s =>
  let va := e.areg s aa
  let id := ctrId (e.src s b)
  let ob := va.toNat / 2 ^ 56
  let r : PgReq := { asid := (e.t s).asid, va := va, ctr := BitVec.ofNat 20 id, core := e.core, ctx := e.ctx }
  if !routed s (ctrDie id) then noRoute id
  else if 0xFC ≤ ob ∨ !routed s ob then nothing (endPgreq s (dieOfCore e.core) r true)
  else match localDie s ob with
    | none => nothing (askRemote s (dieOfCore e.core) ob (e.t s).asid va.toNat (.page id (idxOfCore e.core) e.ctx))
    | some d => nothing (pageAt s d r)

/-- PGREQ (15 R403) alone in a bundle. -/
def execPgreq (aa : AReg) (b : SCode) (s : State) : Host.Outcome State Fault Refusal :=
  issueOne (.pgreq aa b) (effPgreq aa b) s

/-! ### Accumulator atomics (15 R405) -/

/-- The core and byte offset of its store that an address of the accumulator range names, from a cluster. -/
def accTarget (cl : Nat) (va : Word) : Option (Nat × Nat) :=
  let off := va.toNat % 2 ^ 56
  if va.toNat / 2 ^ 56 = 0xFD ∧ 0x10000000 ≤ off ∧ off < 0x12000000 then
    some (16 * cl + (off - 0x10000000) / 0x200000, (off - 0x10000000) % 0x200000)
  else none

/-- ACCAD (15 R405). One of a speculative task on another core's store is kept back (05 R124, 09 R245). -/
def effAccad (aa : AReg) (b : SCode) (mode : BitVec 3) : Eff := fun e s =>
  let va := e.areg s aa
  let v := e.src s b
  let po := va.toNat % 4096
  if (mode = 1 ∧ (po % 48 ≠ 0 ∨ 84 * 48 < po)) ∨ (mode ≠ 1 ∧ po % 4 ≠ 0) then .trap 8 va
  else match accTarget (clusterOfCore e.core) va with
    | none => .late id 0x09 0 0 va
    | some (o, off) =>
      if isFirmwareCore s o ∨ (coreOf s o).retired then .late id 0x09 0 0 va
      else
        let op : AccOp := if mode = 0 then .addF32 off (decodeFp 0 (fld v 31 0))
          else if mode = 1 then .lax (85 * (off / 4096) + po / 48) (decodeFp 1 v.toNat)
          else .put off 4 (fld v 31 0)
        let a : Arrival := { ctx := e.ctx, store := true, p7 := some true }
        if (e.t s).spec.isSome ∧ o ≠ e.core then
          .ok (modCtx s e.core e.ctx fun t => { t with spec := t.spec.map fun q => { q with accs := q.accs ++ [(o, [op])] } }) [] [a] .next
        else .ok s [(24, .accAt o [op])] [a] .next

/-- ACCAD (15 R405) alone in a bundle. -/
def execAccad (aa : AReg) (b : SCode) (mode : BitVec 3) (s : State) : Host.Outcome State Fault Refusal :=
  issueOne (.accad aa b mode) (effAccad aa b mode) s

/-! ### TLB invalidation (15 R407) -/

/-- A translation is dropped by a TLBI. -/
def tlbiHit (va : Nat) (v : Word) (t : TlbEntry) : Bool :=
  let n := if fld v 63 32 = 0 then 1 else fld v 63 32
  let lo := va / 65536 * 65536
  (bitOf v 17 || t.asid == fld v 15 0) &&
    (bitOf v 16 || (decide (t.vpn * 2 ^ t.log < lo + n * 65536) && decide (lo < (t.vpn + 1) * 2 ^ t.log)))

/-- A cached table pointer is dropped by a TLBI: what it covers overlaps the range. -/
def tlbiPtr (va : Nat) (v : Word) (t : TlbPtr) : Bool :=
  let n := if fld v 63 32 = 0 then 1 else fld v 63 32
  let lo := va % 2 ^ 56 / 65536 * 65536
  let size := 2 ^ (46 - 10 * t.lvl)
  (bitOf v 17 || t.asid == fld v 15 0) && (bitOf v 16 || (decide (t.vpn * size < lo + n * 65536) && decide (lo < (t.vpn + 1) * size)))

/-- TLBI at its address's owner die. -/
def tlbiAt (s : State) (d va : Nat) (v : Word) : State :=
  modDie s d fun k => { k with tlb := k.tlb.filter (fun t => !tlbiHit va v t), tlbPtrs := k.tlbPtrs.filter fun t => !tlbiPtr va v t }

/-- TLBI (15 R407). -/
def effTlbi (aa : AReg) (b : SCode) : Eff := fun e s =>
  let va := e.areg s aa
  let v := e.src s b
  let ob := va.toNat / 2 ^ 56
  if va.toNat % 8 ≠ 0 then .trap 8 va
  else if 0xFC ≤ ob then .late id 0x0A 2 0 va
  else if !routed s ob then .late id 0x0A 3 0 va
  else match localDie s ob with
    | none => confirmed s e ob (e.t s).asid va (.tlbi v)
    | some d => nothing (tlbiAt s d va.toNat v)

/-- TLBI (15 R407) alone in a bundle. -/
def execTlbi (aa : AReg) (b : SCode) (s : State) : Host.Outcome State Fault Refusal :=
  issueOne (.tlbi aa b) (effTlbi aa b) s

/-! ### Replies (07 R183, 15 R387) -/

/-- The oldest awaited access of a core that satisfies a test arrives, with data given for an access outside the module. -/
def arriveFirst (s : State) (c : Nat) (p : Arrival → Bool) (given : List Byte) : List Arrival → List Arrival → State
  | _, [] => s
  | before, a :: rest =>
    if p a then applyArrival (modCore s c fun k => { k with arrivals := overtaken before a ++ rest }) c a rest given
    else arriveFirst s c p given (before ++ [a]) rest

/-- What is known now of the access with a TAG stands in the records of its interval: a rerun takes it from there (08 R216, 10 R276, 15 R397). -/
def patchRecords (s : State) (c x tag : Nat) (f : Arrival → Arrival) : State :=
  if tag = 0 then s
  else
    let out := fun (o : Out) => { o with arrs := o.arrs.map fun a => if a.tag = tag then f a else a }
    let one := fun (r : Rec) => { r with outs := r.outs.map out }
    let s := modCore s c fun k =>
      { k with shadow := k.shadow.map fun h => { h with log := h.log.map one }, rerun := k.rerun.map fun r => { r with replay := r.replay.map one } }
    modCtx s c x fun t => { t with replay := t.replay.map one, kept := t.kept.map fun p => (p.1, p.2.map out) }

/-- An access whose answer has come, as a record keeps it. -/
def asKnown (a : Arrival) : Arrival := { a with tag := 0, acq := none, old6 := false, old7 := false }

/-- The oldest held access that can go on is performed (10 R262): it is awaited then as any other, or its cause is on its way to the
core (10 R273); or a request of its is sent. LEVEL travels above the subcause. -/
def performHeld (s : State) (c : Nat) : Option State :=
  match heldReady s c with
  | none => none
  | some (i, .done s' a) =>
    let tag := (((coreOf s c).arrivals[i]?).map (·.tag)).getD 0
    some (patchRecords (modCore s' c fun k => { k with arrivals := k.arrivals.set i a }) c a.ctx tag fun _ => asKnown a)
  | some (i, .fail s' cause sub level info) =>
    let n := ((coreOf s c).arrivals[i]?).map (·.mark)
    some { modCore s' c (fun k => { k with arrivals := k.arrivals.eraseIdx i }) with
             agenda := s'.agenda ++ [{ step := .lateCause (Fin.ofNat 256 c) (n.getD 0) cause (sub + 256 * level) info }] }
  | some (_, .sent s') => some s'
  | some (_, .still) => none

/-- A held access waits for its owner still. -/
def Arrival.isHeld (a : Arrival) : Bool :=
  match a.val with
  | .held _ => true
  | _ => false

/-- The access is answered by LOAD_RETURN or OWNER_REPLY: it is not held, and no response of another module's die will answer it. -/
def Arrival.returns (a : Arrival) : Bool := !a.isHeld && a.tag == 0

/-- LOAD_RETURN (07 R183): the data of the oldest load arrive; `data` where they come from outside the module. An access that a migration held is
performed first (10 R262). -/
def execLoadReturn (core : CoreId) (data : List Byte) (s : State) : Host.Outcome State Fault Refusal :=
  match performHeld s core.val with
  | some t => .next t
  | none => .next (arriveFirst s core.val (fun a => !a.store && a.returns) data [] (coreOf s core.val).arrivals)

/-- OWNER_REPLY (15 R387): the owner's reply to the oldest store lands its implicit write. -/
def execOwnerReply (core : CoreId) (s : State) : Host.Outcome State Fault Refusal :=
  match performHeld s core.val with
  | some t => .next t
  | none => .next (arriveFirst s core.val (fun a => a.store && a.returns) [] [] (coreOf s core.val).arrivals)

end Sys2Proof.Machine
end

