-- ==== Sys2Proof/Machine/CopyEng.lean ====
section
/-! DEFINITION. The commands of the cluster's engines: copies (17 R460 to R464, 08 R217 to R219), transposes (17 R465, R466;
12 R323), gathers and scatters (17 R467 to R469); their acceptance, and the events of their completion. -/

namespace Sys2Proof.Machine

/-- CPSET (17 R461). -/
def effCpset (reg : BitVec 12) (a : SCode) : Eff := fun e s => done s 1 [.cp reg.toNat (cpMask reg.toNat (e.src s a))]
/-- CPSET (17 R461) alone in a bundle. -/
def execCpset (reg : BitVec 12) (a : SCode) (s : State) : Host.Outcome State Fault Refusal :=
  issueOne (.cpset reg a) (effCpset reg a) s

/-! ### Acceptance (17 R441, R462; 08 R218, R219; 10 R259, R260) -/

/-- Unfinished commands of a core in its cluster's copy and gather engines (17 R441). -/
def engineLoad (k : Core) : Nat := (k.engs.filter fun c => (match c.owner with | .ctx _ _ => true | .firmware _ _ => false) &&
  (match c.work with | .trpop .. => false | _ => true)).length

/-- The copy registers of a context: extents, source strides, destination strides. -/
def copyExt (t : Ctx) : List Nat := (List.range 6).map fun d => (cpReg t d).toNat

/-- CP_SSTR0 to CP_SSTR5. -/
def copySstr (t : Ctx) : List Word := (List.range 6).map fun d => cpReg t (0x10 + d)

/-- CP_DSTR0 to CP_DSTR5. -/
def copyDstr (t : Ctx) : List Word := (List.range 6).map fun d => cpReg t (0x20 + d)

/-- Bytes of a copy. -/
def copySize (ext : List Nat) (bytes : Nat) : Nat := bytes * ext.foldl (· * ·) 1

/-- The destination lies in host memory or a peer, where the F/E mode is ignored (08 R219). -/
def dropsFull (s : State) (d va : Nat) : Bool :=
  match systemTarget s d va with
  | some t => t == 0 || t == 1
  | none => false

/-- Endpoint rules (08 R219): a mode that reads F from a source that has none. -/
def sourceBad (s : State) (d va mode : Nat) : Bool := (mode == 0 || mode == 2) && (systemTarget s d va).isSome

/-- A destination run breaks the word rule of a mode other than KEEP (17 R462). -/
def runsBad (bytes : Nat) (es : List (Nat × Nat)) : Bool := (destRuns bytes es).any fun r => r.1 % 8 != 0 || r.2 % 8 != 0

/-- The ranges of a copy's elements: sources, or destinations. -/
def elemRanges (bytes : Nat) (es : List (Nat × Nat)) (dst : Bool) : List (Nat × Nat) := es.map fun p => (if dst then p.2 else p.1, bytes)

/-- The status of a command's pages (10 R259): destinations, then sources. -/
def pagesStatus (s : State) (cl asid : Nat) (dsts srcs : List (Nat × Nat)) : Nat :=
  let a := pageFail s cl asid true (pagesOf dsts)
  let b := rangeFail s cl asid true dsts
  let c := pageFail s cl asid false (pagesOf srcs)
  let d := rangeFail s cl asid false srcs
  if a ≠ 0 then a else if b ≠ 0 then b else if c ≠ 0 then c else d

/-- The pages a command holds (10 R260). -/
def heldPages (asid : Nat) (rs : List (Nat × Nat)) (flag : Word) : List (Nat × Nat) :=
  (pagesOf (rs ++ (if bitOf flag 0 then [(fld flag 63 3 * 8, 8)] else []))).map (asid, ·)

/-- The status of a copy at its acceptance, before its pages are looked at: of its sizes and endpoints, then of its counter and flag. -/
def copyStatus (s : State) (cl asid : Nat) (src dst : Word) (ext : List Nat) (sstr dstr : List Word) (bytes mode : Nat) (cnt flag : Word) : Nat :=
  let d := cl / 4
  if bytes = 0 ∨ 64 < bytes then 1
  else if mode ≠ 3 ∧ !dropsFull s d dst.toNat ∧
      (copySize ext bytes % 8 ≠ 0 ∨ runsBad bytes (copyElems (copyDims ext sstr dstr) src.toNat dst.toNat)) then 1
  else if sourceBad s d src.toNat mode then 1
  else doneFail s cl asid cnt flag

/-- A copy is accepted (17 R462): the state with its pages marked, and the command with its status; true when it completes at once. Its flag word's page
is held until the fill also where it moves nothing (08 R218). -/
def acceptCopy (s : State) (c asid : Nat) (owner : EngOwner) (op serial : Nat) (tok : Bool) (src dst : Word) (ext : List Nat)
    (sstr dstr : List Word) (bytes mode : Nat) (cnt flag : Word) : State × EngCmd × Bool :=
  let cl := clusterOfCore c
  let cmd : EngCmd := { owner := owner, asid := asid, op := op, serial := serial, tok := tok, cnt := cnt, flag := flag,
                        work := .copy src dst ext sstr dstr bytes mode, status := 0, held := heldPages asid [] flag, since := s.clock }
  let st := copyStatus s cl asid src dst ext sstr dstr bytes mode cnt flag
  if st ≠ 0 then (s, { cmd with status := st }, false)
  else if copySize ext bytes = 0 then (s, cmd, true)
  else
    let es := copyElems (copyDims ext sstr dstr) src.toNat dst.toNat
    let dsts := elemRanges bytes es true
    let srcs := elemRanges bytes es false
    let p := pagesStatus s cl asid dsts srcs
    if p ≠ 0 then (s, { cmd with status := p }, false)
    else (markPages s cl asid (pagesOf dsts), { cmd with held := heldPages asid (dsts ++ srcs) flag }, false)

/-- A command waits behind this one: an unfinished command of the same context in the same engine (09 R243). -/
def engBehind (k : Core) (cmd : EngCmd) : Bool := k.engs.any fun e => e.owner == cmd.owner && engNo e == engNo cmd

/-- An accepted command takes its place, or completes at once: not before an earlier one of its context and engine (09 R243). -/
def placeEng (s : State) (c : Nat) (cmd : EngCmd) (atOnce : Bool) : State :=
  if atOnce && !engBehind (coreOf s c) cmd then engDone s c cmd 0 else modCore s c fun k => { k with engs := k.engs ++ [cmd] }

/-- A command's acceptance waits: a store of its context is not performed yet (09 R243), or a table pointer on the walk to one of its
pages migrates (10 R255). -/
def acceptWaits (s : State) (e : Env) (status : Nat) : Bool := storesOut s e.core e.ctx || decide (waitPage ≤ status)

/-- CPGO (17 R462). -/
def effCpgo (tok : Bool) (a b : SCode) : Eff := fun e s =>
  let t := e.t s
  if 16 ≤ engineLoad (coreOf s e.core) then .hold s .engineRoom
  else
    let src := e.src s a
    let dst := e.src s b
    let u := maybeSerial (ownLinesHome s e) e.core e.ctx tok
    let r := acceptCopy u e.core t.asid (.ctx e.core e.ctx) 0x11 t.serial.toNat tok src dst (copyExt t) (copySstr t) (copyDstr t)
      (fld (cpReg t 0x30) 6 0) (fld (cpReg t 0x33) 1 0) (cpReg t 0x31) (cpReg t 0x32)
    if acceptWaits s e r.2.1.status then .hold (lackingIn s r.1) .owner else nothing (placeEng r.1 e.core r.2.1 r.2.2)
/-- CPGO (17 R462) alone in a bundle. -/
def execCpgo (tok : Bool) (a b : SCode) (s : State) : Host.Outcome State Fault Refusal :=
  issueOne (.cpgo tok a b) (effCpgo tok a b) s

/-! ### The transpose engine (17 R465, R466) -/

/-- Queue places a tile takes. -/
def trPlaces (kind : Nat) : Nat := if kind = 1 then 2 else 1

/-- Places taken in a queue. -/
def trDepth (q : List TrTile) : Nat := (q.map fun t => trPlaces t.kind).foldl (· + ·) 0

/-- Bytes of a row TRPUSH reads. -/
def trRowBytes (kind m : Nat) : Nat := if kind = 0 then 64 else if kind = 1 then 128 else bfpLineBytes m

/-- A transposed operand may lie in scratchpad or device memory only: system space fails protection. -/
def trOutside (va : Nat) : Bool := decide (va / 2 ^ 56 = 0xFF)

/-- The rows of a tile read from memory: their bytes, or the status of the first failure. -/
def trRead (s : State) (cl asid base : Nat) (pitch : Word) (len : Nat) : State × List (List Byte) × Nat :=
  (List.range 32).foldl (fun acc i =>
    if acc.2.2 ≠ 0 then acc
    else
      let r := (rowRuns base pitch i len).foldl (fun (a : State × Except Nat (List Byte)) p =>
        match a.2 with
        | .error e => (a.1, .error e)
        | .ok bs =>
          if trOutside p.1 then (a.1, .error 3)
          else
            let (s, x) := engRead a.1 cl asid p.1 p.2
            (s, x.map (bs ++ ·))) (acc.1, .ok [])
      match r.2 with
      | .ok bs => (r.1, acc.2.1 ++ [bs], 0)
      | .error e => (r.1, acc.2.1, e)) (s, [], 0)

/-- TRPUSH (17 R465). -/
def effTrpush (m : BitVec 3) (kind : BitVec 2) (a b : SCode) : Eff := fun e s =>
  let k := coreOf s e.core
  let t := e.t s
  let pitch := e.src s b
  if rotBad pitch then .trap 6 t.shp
  else if kind = 2 ∧ m = 7 then .trap 7 t.fmt
  else if 8 < trDepth k.trq + trPlaces kind.toNat then .trap 0x0C (BitVec.ofNat 64 (trDepth k.trq))
  else
    let (u, rows, st) := trRead (ownLinesHome s e) (clusterOfCore e.core) t.asid (e.src s a).toNat pitch (trRowBytes kind.toNat (m.toNat + 2))
    if acceptWaits s e st then .hold (lackingIn s u) .owner
    else nothing (modCore u e.core fun k => { k with trq := k.trq ++ [⟨k.ic, kind.toNat, m.toNat + 2, rows, st⟩] })

/-- The status of a TRPOP at its acceptance: of its tile, of its geometry, of its destination's pages. -/
def trpopStatus (s : State) (cl asid : Nat) (tile : TrTile) (rb : Bool) (pitch : Word) (ranges : List (Nat × Nat)) : Nat :=
  if rb ∧ tile.kind ≠ 2 then 9
  else if tile.status ≠ 0 then tile.status
  else if rotBad pitch then 9
  else if ranges.any fun p => trOutside p.1 then 3
  else pagesStatus s cl asid ranges []

/-- An address of the cluster's scratchpads (08 R196). -/
def ownSpad (va : Nat) : Bool := decide (va / 2 ^ 56 = 0xFD) && decide (va % 2 ^ 56 < 0x800000)

/-- TRPOP (17 R466): to the cluster's scratchpad it completes no later than 16 issue cycles on, or 32 for a 32-bit tile; the transpose engine
keeps running while the core stalls (07 R185), so it may be earlier. -/
def effTrpop (tok rb : Bool) (a b : SCode) : Eff := fun e s =>
  let k := coreOf s e.core
  let t := e.t s
  let cl := clusterOfCore e.core
  match k.trq with
  | [] => .trap 0x0C 0
  | tile :: rest =>
    if k.ic < tile.at_ + 48 then .trap 0x0C (BitVec.ofNat 64 (trDepth k.trq))
    else
      let dst := e.src s a
      let pitch := e.src s b
      let rnd := rndOf t
      let ranges := if tile.status = 0 then (trWrites tile (rb && tile.kind == 2) dst pitch rnd).1.map fun p => (p.1, p.2.length) else []
      let st := trpopStatus s cl t.asid tile rb pitch ranges
      if waitPage ≤ st then .hold s .owner else
      let s := maybeSerial (srsStep s e.core e.ctx (rb && tile.kind == 2)) e.core e.ctx tok
      let s := modCore s e.core fun k => { k with trq := rest }
      let s := if st = 0 then markPages s cl t.asid (pagesOf ranges) else s
      nothing (placeEng s e.core
        { owner := .ctx e.core e.ctx, asid := t.asid, op := 0x19, serial := t.serial.toNat, tok := tok, cnt := 0, flag := 0,
          work := .trpop tile rb dst pitch rnd.mode rnd.srs t.fmt, status := st, held := if st = 0 then heldPages t.asid ranges 0 else [],
          due := if ownSpad dst.toNat then some (k.ic + if tile.kind == 1 then 32 else 16) else none, since := s.clock } false)

/-- TRPUSH (17 R465) alone in a bundle. -/
def execTrpush (m : BitVec 3) (kind : BitVec 2) (a b : SCode) (s : State) : Host.Outcome State Fault Refusal :=
  issueOne (.trpush m kind a b) (effTrpush m kind a b) s

/-- TRPOP (17 R466) alone in a bundle. -/
def execTrpop (tok rb : Bool) (a b : SCode) (s : State) : Host.Outcome State Fault Refusal :=
  issueOne (.trpop tok rb a b) (effTrpop tok rb a b) s

/-! ### The gather engine (17 R467, R468) -/

/-- A gather's descriptor. -/
structure GatherDesc where
  /-- TBASE -/
  tbase  : Nat
  /-- IDX -/
  idx    : Nat
  /-- COUNT -/
  count  : Nat
  /-- ESZ -/
  esz    : Nat
  /-- IW -/
  iw     : Nat
  /-- the reserved bytes -/
  zero   : Nat
  /-- STRIDE -/
  stride : Nat
  deriving DecidableEq, Repr

/-- A descriptor from its 32 bytes. -/
def gatherDesc (b : List Byte) : GatherDesc :=
  let v := leNat b
  let f := fun lo n => v / 2 ^ (8 * lo) % 2 ^ (8 * n)
  ⟨f 0 8, f 8 8, f 16 4, f 20 1, f 21 1, f 22 2, f 24 8⟩

/-- A field of a descriptor is out of range, or the F/E mode does not fit it (17 R467, 08 R219). -/
def gatherBad (s : State) (d : Nat) (scatter : Bool) (g : GatherDesc) (buf mode : Nat) : Bool :=
  let src := if scatter then buf else g.tbase
  let dst := if scatter then g.tbase else buf
  decide (2 ^ 24 < g.count) || decide (6 < g.esz) || decide (1 < g.iw) || g.zero != 0 || g.idx % (if g.iw = 0 then 4 else 8) != 0 ||
    (mode != 3 && decide (g.esz < 3) && !dropsFull s d dst) || sourceBad s d src mode

/-- The table elements that a gather or scatter touches: those before the first that is not aligned (17 R468). -/
def tableRanges (g : GatherDesc) (buf : Nat) (xs : List Nat) : List (Nat × Nat) :=
  ((gatherMoves g.tbase g.stride buf g.esz xs).takeWhile fun p => p.1 % 2 ^ g.esz == 0).map fun p => (p.1, 2 ^ g.esz)

/-- The table elements a gather will read: its source pages (10 R259, R260). The list is looked at when it is accepted, and read at the gather's start
(DEDUCED, log 53); the elements of one that cannot be read are not known. -/
def gatherTable (s : State) (cl asid : Nat) (g : GatherDesc) (buf : Nat) : State × Except Nat (List (Nat × Nat)) :=
  match readIndices s cl asid g.idx g.count g.iw with
  | (s, .ok xs) => (s, .ok (tableRanges g buf xs))
  | (s, .error e) => (s, if waitPage ≤ e then .error e else .ok [])

/-- A gather or scatter is accepted (17 R467, R468): the state, the command's work, its status and the ranges it holds. -/
def acceptGather (s : State) (c asid : Nat) (scatter : Bool) (desc buf : Word) (mode : Nat) (cnt flag : Word) :
    State × EngWork × Nat × List (Nat × Nat) :=
  let cl := clusterOfCore c
  let no : EngWork := .gather scatter 0 0 0 0 0 0 buf mode (some [])
  if desc.toNat % 32 ≠ 0 then (s, no, 7, [])
  else
    let (s, r) := engRead s cl asid desc.toNat 32
    match r with
    | .error e => (s, no, e, [])
    | .ok bs =>
      let g := gatherDesc bs
      let n := if g.iw = 0 then 4 else 8
      let work := fun l => EngWork.gather scatter (BitVec.ofNat 64 g.tbase) (BitVec.ofNat 64 g.idx) g.count g.esz g.iw (BitVec.ofNat 64 g.stride) buf mode l
      let bufRange := [(buf.toNat, g.count * 2 ^ g.esz)]
      let idxRange := [(g.idx, g.count * n)]
      if gatherBad s (cl / 4) scatter g buf.toNat mode then (s, work (some []), 1, [])
      else
        let st := doneFail s cl asid cnt flag
        if st ≠ 0 then (s, work (some []), st, [])
        else if !scatter then
          match gatherTable s cl asid g buf.toNat with
          | (s, .error e) => (s, work (some []), e, [])
          | (s, .ok tbl) =>
            let p := pagesStatus s cl asid bufRange (idxRange ++ tbl)
            (if p = 0 then markPages s cl asid (pagesOf bufRange) else s, work none, p, bufRange ++ idxRange ++ tbl)
        else
          let (s, l) := readIndices s cl asid g.idx g.count g.iw
          match l with
          | .error e => (s, work (some []), e, [])
          | .ok xs =>
            let tbl := tableRanges g buf.toNat xs
            let p := pagesStatus s cl asid tbl bufRange
            (if p = 0 then markPages s cl asid (pagesOf tbl) else s, work (some xs), p, tbl ++ bufRange)

/-- GTHR, and SCTR when set. -/
def gatherWith (scatter tok : Bool) (a b : SCode) : Eff := fun e s =>
  let t := e.t s
  if 16 ≤ engineLoad (coreOf s e.core) then .hold s .engineRoom
  else
    let desc := e.src s a
    let buf := e.src s b
    let cnt := cpReg t 0x31
    let flag := cpReg t 0x32
    let (u, work, st, held) := acceptGather (maybeSerial (ownLinesHome s e) e.core e.ctx tok) e.core t.asid scatter desc buf
      (fld (cpReg t 0x33) 1 0) cnt flag
    if acceptWaits s e st then .hold (lackingIn s u) .owner
    else nothing (placeEng u e.core
      { owner := .ctx e.core e.ctx, asid := t.asid, op := if scatter then 0x21 else 0x20, serial := t.serial.toNat, tok := tok, cnt := cnt,
        flag := flag, work := work, status := st, held := heldPages t.asid (if st = 0 then held else []) flag,
        since := s.clock } false)

/-- GTHR (17 R468). -/
def effGthr (tok : Bool) (a b : SCode) : Eff := fun e s => gatherWith false tok a b e s

/-- SCTR (17 R468). -/
def effSctr (tok : Bool) (a b : SCode) : Eff := fun e s => gatherWith true tok a b e s

/-- GTHR (17 R468) alone in a bundle. -/
def execGthr (tok : Bool) (a b : SCode) (s : State) : Host.Outcome State Fault Refusal :=
  issueOne (.gthr tok a b) (effGthr tok a b) s

/-- SCTR (17 R468) alone in a bundle. -/
def execSctr (tok : Bool) (a b : SCode) (s : State) : Host.Outcome State Fault Refusal :=
  issueOne (.sctr tok a b) (effSctr tok a b) s

/-! ### Completions -/

/-- COPY_COMPLETE (08 R218, 17 R444): the oldest copy of a core's commands moves and completes. -/
def execCopyComplete (core : CoreId) (s : State) : Host.Outcome State Fault Refusal :=
  .next (completeEng s core.toNat fun e => engNo e == 1)

/-- GATHER_COMPLETE (17 R468). -/
def execGatherComplete (core : CoreId) (s : State) : Host.Outcome State Fault Refusal :=
  .next (completeEng s core.toNat fun e => engNo e == 2)

/-- TRANSPOSE_COMPLETE (17 R466). -/
def execTransposeComplete (core : CoreId) (s : State) : Host.Outcome State Fault Refusal :=
  .next (completeEng s core.toNat fun e => engNo e == 3)
end Sys2Proof.Machine
end

