-- ==== Sys2Proof/Machine/Groups.lean ====
section
/-! DEFINITION. Collective groups (06 R138 to R148, R161 to R164): the records of a log group and of a reduce group as they
travel, are counted, close a step, and are stored. -/

namespace Sys2Proof.Machine

/-! ### Accesses of a die's own engines (06 R145, 03 R511) -/

/-- A range touches the cluster-local window, which names no cluster for a die's engine (03 R511; log 17). -/
def inWindow (va n : Nat) : Bool := n != 0 && (decide (va / 2 ^ 56 = 0xFD) || decide ((va + n - 1) / 2 ^ 56 = 0xFD))

/-- A die's engine reads n bytes, as a party of a cluster where it has one. -/
def dieRead (s : State) (d : Nat) (cl : Option Nat) (asid va n : Nat) : State × Except Nat (List Byte) :=
  match cl with
  | some k => engRead s k asid va n
  | none => if inWindow va n then (s, .error 2) else engRead s (4 * d) asid va n

/-- A die's engine writes bytes. -/
def dieWrite (s : State) (d : Nat) (cl : Option Nat) (asid va : Nat) (bs : List Byte) : State × Except Nat Unit :=
  match cl with
  | some k => engWrite s k asid va bs none
  | none => if inWindow va bs.length then (s, .error 2) else engWrite s (4 * d) asid va bs none

/-- The homes of the words of a range: die and physical address. -/
def wordHomes (s : State) (d asid va n : Nat) : List (Nat × Nat) :=
  (List.range (n / 8)).filterMap fun i =>
    match (engLoc s (4 * d) asid (va + 8 * i) 8 true).2 with
    | .ok (.home die pa _ _ _ _) => some (die, pa)
    | _ => none

/-- Words turn full together, as a release of the die's collective engine at domain scope (06 R145). -/
def turnFull (s : State) (d asid va n : Nat) : State :=
  (wordHomes s d asid va n).foldl (fun s p =>
    postRelease (modDie s p.1 fun k => setFull k p.2 true) p.1 ⟨.word p.2, .die d, 4⟩) s

/-! ### Groups -/

/-- A group of a die. -/
def collOf (s : State) (d id : Nat) : Option Group := ((dieOf s d).groups.find? fun e => e.1 == id).map (·.2)

/-- The state with a group written. -/
def setGroup (s : State) (d id : Nat) (g : Group) : State := modDie s d fun k => { k with groups := tabPut k.groups id g }

/-- What a die keeps as a group's leader. -/
def leadOf (s : State) (d id : Nat) : Option Lead := ((dieOf s d).leads.find? fun e => e.1 == id).map (·.2)

/-- The state with a leader's record written. -/
def setLead (s : State) (d id : Nat) (l : Lead) : State := modDie s d fun k => { k with leads := tabPut k.leads id l }

/-- A saturating 32-bit count as it is shown. -/
def sat32 (n : Nat) : Nat := min n (2 ^ 32 - 1)

/-- Address of a group's status block (06 R147, R162). -/
def statusVa (g : Group) : Nat := if g.log then g.ring.toNat + 32 * 2 ^ g.log2n else g.ring.toNat

/-- The 64 bytes of a group's status block. -/
def statusBlock (g : Group) : List Byte :=
  leBytes 8 g.high ++ leBytes 8 g.sealed ++ leBytes 4 g.hchk.toNat ++ leBytes 4 g.hstep ++ leBytes 4 (sat32 g.drops) ++
    leBytes 4 (sat32 g.stale) ++ zeros 32

/-- A group's state is kept with its status block. -/
def keepGroup (s : State) (d id : Nat) (g : Group) : State :=
  (dieWrite (setGroup s d id g) d none g.asid (statusVa g) (statusBlock g)).1

/-- A packet of a stale generation is dropped and counted (06 R161). -/
def countStale (s : State) (d id : Nat) (g : Group) : State := keepGroup s d id { g with stale := g.stale + 1 }

/-- The dies of LEADERS behind one of them. -/
def leadersAfter (g : Group) (m : Nat) : List Nat := (g.leaders.dropWhile (· != m)).drop 1

/-- The leader of a log group: the first working die in LEADERS (06 R143), of those behind the dies that have lost it (06 R148). -/
def leaderOf (s : State) (g : Group) : Option Nat :=
  match g.leader with
  | some m => (m :: leadersAfter g m).find? (routed s)
  | none => g.leaders.find? (routed s)

/-- No die of this module leads the group; its endpoints take a die as its leader. -/
def handOver (s : State) (id m : Nat) : State :=
  (List.range 4).foldl (fun s e => modDie s e fun k =>
    { k with leads := tabDel k.leads id, groups := k.groups.map fun p => if p.1 = id ∧ p.2.log then (p.1, { p.2 with leader := some m }) else p }) s

/-- An endpoint learns which die leads its group: the one that sends the records of a close (06 R148). -/
def learnLeader (s : State) (d id : Nat) (gen : BitVec 4) (m : Nat) : State :=
  match collOf s d id with
  | some g => if g.log ∧ g.gen = gen ∧ leaderOf s g ≠ some m then handOver s id m else s
  | none => s

/-! ### Messages -/

/-- A step of the network becomes due. -/
def deliver (s : State) (i : Instr) : State := { s with agenda := s.agenda ++ [⟨i, {}⟩] }

/-- A step waits for credit, behind those that wait already (06 R162, 07 R179). -/
def waitCredit (s : State) (i : Instr) : State := { s with mail := s.mail ++ [⟨i, {}⟩] }

/-- What a step that may wait for credit goes in order with: of one kind and group; 0 for none. External accesses of memory go in their order (02
R52). -/
def mailKey : Instr → Nat
  | .reduceRecordArrive e h _ _ => 1 + 4 * (e.val + 4 * h.toNat)
  | .scredArrive e h _ _ _ | .memberLoss e h _ => 2 + 4 * (e.val + 4 * h.toNat)
  | .chunkArrive e _ => 3 + 4 * e.val
  | .hostRead _ _ _ | .hostWrite _ _ _ | .peerRequest _ _ _ => 4
  | _ => 0

/-- Two steps go in their order. -/
def sameKey (i j : Instr) : Bool := mailKey i != 0 && mailKey i == mailKey j

/-- A step that goes in order with this one waits for credit already: it follows behind it. -/
def mailHas (s : State) (i : Instr) : Bool := s.mail.any fun d => sameKey i d.step

/-- What a message on virtual channel 0 is, and the rank it names (DESIGN CHOICE, log 19). -/
def recordKind : Instr → Nat × Nat
  | .contributionArrive _ _ _ r lead _ => (lead.toNat, r)
  | .closeAck _ _ _ _ r => (2, r)
  | .sealAnnounce _ _ _ _ => (3, 0)
  | .reduceRecordArrive _ _ _ _ => (4, 0)
  | .scredArrive _ _ _ r _ => (5, r)
  | _ => (15, 0)

/-- A step goes from die `src` to a global die: to one of this module it becomes due there, to another module it is sent as a record;
to a die without a route nothing arrives (01 R13, R30). -/
def sendTo (s : State) (m : Nat) (i : DieId → Instr) (id : Nat) (gen : BitVec 4) (src : Nat) (data : List Byte) : State :=
  match localDie s m with
  | some d => deliver s (i (Fin.ofNat 4 d))
  | none => if routed s m then sendOut s (.record src m id gen.toNat (recordKind (i 0)).1 (recordKind (i 0)).2 data) else s

/-- A step goes to every member of a group. -/
def sendAll (s : State) (g : Group) (id : Nat) (src : Nat) (data : List Byte) (i : DieId → Instr) : State :=
  g.members.foldl (fun s m => sendTo s m i id g.gen src data) s

/-! ### Records (06 R138 to R141) -/

/-- STEP of a record. -/
def recStep (r : List Byte) : Nat := fieldOf r 8 4

/-- RANK of a record. -/
def recRank (r : List Byte) : Nat := fieldOf r 12 2

/-- KIND of a record. -/
def recKind (r : List Byte) : Nat := fieldOf r 14 2

/-- A record as it is held. -/
def logRec (r : List Byte) : LogRec := ⟨recStep r, recRank r, r⟩

/-- A record from its fields, SEQ and CHK zero. -/
def mkRecord (step rank kind seed delta : Nat) : List Byte :=
  leBytes 8 0 ++ leBytes 4 step ++ leBytes 2 rank ++ leBytes 2 kind ++ leBytes 8 seed ++ leBytes 4 delta ++ leBytes 4 0

/-- A contribution of the member of a rank keeps R141 and the layout R139 gives its kind. -/
def contribOk (g : Group) (rank : Nat) (r : List Byte) : Bool :=
  r.length == 32 && fieldOf r 0 8 == 0 && fieldOf r 28 4 == 0 && recRank r == rank && decide (rank < g.n) &&
    (recKind r % 256 == 1 || (recKind r == 2 && fieldOf r 16 12 == 0))

/-- A rank has a contribution for a step in a list. -/
def hasContrib (l : List LogRec) (step rank : Nat) : Bool := l.any fun r => r.step == step && r.rank == rank

/-- The contribution of a rank for a step. -/
def contribOf (l : List LogRec) (step rank : Nat) : Option LogRec := l.find? fun r => r.step == step && r.rank == rank

/-- The record with its SEQ and its CHK (06 R140). -/
def chainRecord (seq : Nat) (chk : BitVec 32) (r : List Byte) : List Byte × BitVec 32 :=
  let b := leBytes 8 seq ++ (r.drop 8).take 20
  let c := BitVec.ofNat 32 (crc32c (leBytes 4 chk.toNat ++ b))
  (b ++ leBytes 4 c.toNat, c)

/-- Records with their SEQ from a number on, and their chain. -/
def chainRecords : Nat → BitVec 32 → List (List Byte) → List (Nat × List Byte) × BitVec 32
  | _, chk, [] => ([], chk)
  | seq, chk, r :: rs =>
    let (b, c) := chainRecord seq chk r
    let (l, e) := chainRecords (seq + 1) c rs
    ((seq, b) :: l, e)

/-- SEQ of the CLOSE of a step stored (06 R144). -/
def closeSeq (g : Group) (step : Nat) : Nat := tabGet 0 g.closes step

/-- Address of the record with a SEQ in the log ring. -/
def ringVa (g : Group) (seq : Nat) : Nat := g.ring.toNat + 32 * ((seq - 1) % 2 ^ g.log2n)

/-! ### Contributions (06 R141, R143, R147) -/

/-- An endpoint takes a contribution: it keeps it for its step, or counts a drop. -/
def endpointTake (s : State) (d id rank : Nat) (r : List Byte) (g : Group) : State :=
  if contribOk g rank r && decide (g.nextStep ≤ recStep r) && !hasContrib g.contribs (recStep r) rank then
    deliver (setGroup s d id { g with contribs := g.contribs ++ [logRec r] }) (.stepAssemble (Fin.ofNat 4 d) (BitVec.ofNat 12 id))
  else keepGroup s d id { g with drops := g.drops + 1 }

/-- The leader counts a contribution, or holds it for its step; a closed step's is dropped. -/
def leaderTake (s : State) (d id rank : Nat) (r : List Byte) (l : Lead) : State :=
  if contribOk l.grp rank r && decide (l.open_ ≤ recStep r) && !hasContrib l.contribs (recStep r) rank then
    deliver (setLead s d id { l with contribs := l.contribs ++ [logRec r] }) (.stepClose (Fin.ofNat 4 d) (BitVec.ofNat 12 id))
  else s

/-- An acknowledgement of a stored CLOSE goes to the leader (06 R146). -/
def sendAck (s : State) (d : Nat) (g : Group) (id : Nat) (seq : Word) : State :=
  match leaderOf s g with
  | some m => sendTo s m (fun e => .closeAck e (BitVec.ofNat 12 id) g.gen seq g.rank) id g.gen d (leBytes 8 seq.toNat)
  | none => s

/-- An endpoint receives a record of the leader's close: it keeps it; a step it holds already keeps its own copy (06 R148). -/
def leaderRecord (s : State) (d id : Nat) (r : List Byte) (g : Group) : State :=
  if recStep r < g.nextStep then (if bitsOf (recKind r) 2 2 = 1 then sendAck s d g id (BitVec.ofNat 64 (closeSeq g (recStep r))) else s)
  else if hasContrib g.emitted (recStep r) (recRank r) then s
  else deliver (setGroup s d id { g with emitted := g.emitted ++ [logRec r] }) (.stepAssemble (Fin.ofNat 4 d) (BitVec.ofNat 12 id))

/-- A record of a log group arrives at a die: as a member's endpoint, as its leader, or as both. -/
def contribution (s : State) (d id : Nat) (gen : BitVec 4) (src : Nat) (lead : Bool) (r : List Byte) : State :=
  match collOf s d id with
  | some g =>
    if !g.log then s
    else if g.gen ≠ gen then countStale s d id g
    else if lead then leaderRecord s d id r g
    else
      let s := endpointTake s d id src r g
      match leadOf s d id with
      | some l => leaderTake s d id src r l
      | none => s
  | none =>
    match leadOf s d id with
    | some l => if l.grp.gen = gen ∧ !lead then leaderTake s d id src r l else s
    | none => s

/-- CONTRIBUTION_ARRIVE (06 R141, R143): a contribution of the member of rank `src`, or with `lead` a record of the leader's close. -/
def execContributionArrive (die : DieId) (grp : BitVec 12) (gen : BitVec 4) (src : Nat) (lead : Bool) (record : List Byte) (s : State) :
    Host.Outcome State Fault Refusal :=
  .next (contribution s die.val grp.toNat gen src lead record)

/-! ### Closing a step (06 R143) -/

/-- The deadline of the open step: the last close's beat plus DL. -/
def deadlinePassed (s : State) (d : Nat) (l : Lead) : Bool := decide (l.closeBeat + l.grp.dl ≤ (dieOf s d).beat.toNat)

/-- STEP_DEADLINE (06 R143): the open step may close with absent ranks. -/
def execStepDeadline (die : DieId) (grp : BitVec 12) (s : State) : Host.Outcome State Fault Refusal :=
  match leadOf s die.val grp.toNat with
  | some l =>
    if deadlinePassed s die.val l then .next (deliver (setLead s die.val grp.toNat { l with late := true }) (.stepClose die grp)) else .next s
  | none => .next s

/-- Every rank has a counted contribution for the open step. -/
def allIn (l : Lead) : Bool := (List.range l.grp.n).all fun r => hasContrib l.contribs l.open_ r

/-- The open step may close under UWIN: the step that many before it is sealed. -/
def windowOpen (l : Lead) : Bool :=
  decide (l.open_ < l.grp.first + l.grp.uwin) || l.sealed.contains (l.open_ - l.grp.uwin)

/-- DELTA of a PAIR is NaN or infinite. -/
def badDelta (r : List Byte) : Bool := fieldOf r 24 4 / 2 ^ 23 % 256 == 255

/-- What the leader emits for a rank of the open step: nothing when its contribution stands. -/
def closeRecord (l : Lead) (rank : Nat) : Option (List Byte) :=
  match contribOf l.contribs l.open_ rank with
  | none => some (mkRecord l.open_ rank 2 0 0)
  | some c =>
    if recKind c.data % 256 = 1 ∧ badDelta c.data then
      some (mkRecord l.open_ rank (recKind c.data / 256 * 256 + 0xA) (fieldOf c.data 16 8) (fieldOf c.data 24 4))
    else none

/-- The number of PAIR contributions of the open step that are not rejected. -/
def presentCount (l : Lead) : Nat :=
  (l.contribs.filter fun c => c.step == l.open_ && recKind c.data % 256 == 1 && !badDelta c.data).length

/-- The records of the open step's close, with the learning rate read. -/
def closeRecords (l : Lead) (lr : Nat) : List (List Byte) :=
  (List.range l.grp.n).filterMap (closeRecord l) ++ [mkRecord l.open_ 0xFFFF 4 (presentCount l + lr * 2 ^ 32) 0]

/-- The leader closes its open step. -/
def closeStep (s : State) (d id : Nat) (l : Lead) : State :=
  let (s, r) := dieRead s d none l.grp.asid l.grp.lraddr.toNat 4
  let lr := match r with
    | .ok bs => leNat bs
    | .error _ => 0
  let recs := closeRecords l lr
  let s := recs.foldl (fun s b => sendAll s l.grp id d b fun e => .contributionArrive e (BitVec.ofNat 12 id) l.grp.gen 0xFFFF true b) s
  let seq := l.seq + l.grp.n + 1
  let l := { l with open_ := l.open_ + 1, seq := seq, closes := tabPut l.closes l.open_ seq, closeBeat := (dieOf s d).beat.toNat, late := false,
                    contribs := l.contribs.filter fun c => l.open_ < c.step }
  deliver (setLead s d id l) (.stepClose (Fin.ofNat 4 d) (BitVec.ofNat 12 id))

/-- A step of a die's collective engine is tried; where it waits for a page or for another module's die it is tried again later. -/
def askingStep (s : State) (i : Instr) (f : State → State) : State :=
  let r := asking (.step i 0 0) s f
  if r.2 then waitCredit r.1 i else r.1

/-- STEP_CLOSE (06 R143): the open step closes when every rank is counted or its deadline has passed, and UWIN lets it. -/
def execStepClose (die : DieId) (grp : BitVec 12) (s : State) : Host.Outcome State Fault Refusal :=
  match leadOf s die.val grp.toNat with
  | some l =>
    .next (if (allIn l || l.late) && windowOpen l then askingStep s (.stepClose die grp) fun s => closeStep s die.val grp.toNat l else s)
  | none => .next s

/-! ### Assembling a step (06 R144 to R147) -/

/-- The record of a rank of the next step: the leader's when it emitted one, else the contribution counted. -/
def stepRecord (g : Group) (rank : Nat) : Option (List Byte) :=
  match contribOf g.emitted g.nextStep rank with
  | some r => some r.data
  | none => (contribOf g.contribs g.nextStep rank).map (·.data)

/-- The records of the next step, once the CLOSE is there and no rank is missing. -/
def stepRecords (g : Group) : Option (List (List Byte)) :=
  match contribOf g.emitted g.nextStep 0xFFFF with
  | none => none
  | some c =>
    let rs := (List.range g.n).filterMap (stepRecord g)
    if rs.length = g.n then some (rs ++ [c.data]) else none

/-- A step's records give the rank of a contribution as ABSENT with REJECT clear, and not as the contribution itself. -/
def recordedAbsent (g : Group) (rs : List (List Byte)) (c : LogRec) : Bool :=
  match contribOf g.emitted g.nextStep c.rank with
  | some r => recKind r.data == 2
  | none => match rs[c.rank]? with
    | some r => recKind r == 2 && r != c.data
    | none => false

/-- Contributions of the next step whose rank its close records as ABSENT with REJECT clear (06 R147), the step's records known. -/
def absentDrops (g : Group) (rs : List (List Byte)) : Nat :=
  (g.contribs.filter fun c => c.step == g.nextStep && recordedAbsent g rs c).length

/-- The core whose q4 and q5 receive a group's arrivals. -/
def listenCore (d : Nat) (g : Group) : Nat := 64 * d + g.listen

/-- Records of a step are written to the ring, and their words turn full together. -/
def storeRecords (s : State) (d : Nat) (g : Group) (rs : List (Nat × List Byte)) : State :=
  let s := rs.foldl (fun s p => (dieWrite s d none g.asid (ringVa g p.1) p.2).1) s
  rs.foldl (fun s p => turnFull s d g.asid (ringVa g p.1) 32) s

/-- The group after its next step is stored. -/
def afterStep (g : Group) (rs : List (List Byte)) (seq : Nat) (chk : BitVec 32) : Group :=
  { g with seq := seq, chk := chk, high := seq, hchk := chk, hstep := g.nextStep, closes := tabPut g.closes g.nextStep seq,
           drops := g.drops + absentDrops g rs,
           nextStep := g.nextStep + 1, contribs := g.contribs.filter (fun c => g.nextStep < c.step),
           emitted := g.emitted.filter fun c => g.nextStep < c.step }

/-- The next step is stored, q4 of LISTEN receives the SEQ of its CLOSE, and the leader its acknowledgement. -/
def assemble (s : State) (d id : Nat) (g : Group) (rs : List (List Byte)) : State :=
  let (out, chk) := chainRecords (g.seq + 1) g.chk rs
  let seq := g.seq + rs.length
  let s := storeRecords s d g out
  let h := afterStep g rs seq chk
  let s := keepGroup s d id h
  let s := modCore s (listenCore d g) fun k => { k with q4 := k.q4 ++ [BitVec.ofNat 64 seq] }
  deliver (sendAck s d h id (BitVec.ofNat 64 seq)) (.stepAssemble (Fin.ofNat 4 d) (BitVec.ofNat 12 id))

/-! ### Fetching a step from another endpoint (06 R144, R148, R150) -/

/-- A group of a die in a generation, when it is a log group. -/
def groupAsked (s : State) (d id : Nat) (gen : BitVec 4) : Option Group := (collOf s d id).filter fun g => g.log && g.gen == gen

/-- SEQ of the CLOSE of a step: every step has N + 1 records. -/
def seqOfClose (g : Group) (step : Nat) : Nat := (step + 1 - g.first) * (g.n + 1)

/-- An endpoint's ring retains the records of a step it has stored. -/
def retains (g : Group) (step : Nat) : Bool :=
  g.closes.any (fun e => e.1 == step) && decide (g.high < closeSeq g step - g.n + 2 ^ g.log2n)

/-- A record of a step, 0 to N, as an endpoint's ring holds it. -/
def heldRecord (s : State) (d : Nat) (g : Group) (step place : Nat) : State × Except Nat (List Byte) :=
  if retains g step && decide (place ≤ g.n) then dieRead s d none g.asid (ringVa g (closeSeq g step - g.n + place)) 32 else (s, .error 2)

/-- What a die asks of the endpoint of a group at a global die: of this module it is looked up; another module's die answers (06 R150). -/
def askMember (s : State) (d m id : Nat) (gen : BitVec 4) (op : RemoteOp) (own : State → Nat → Group → State × Except Nat (List Byte)) :
    State × Option (List Byte) :=
  match localDie s m with
  | some e => match groupAsked s e id gen with
    | some g => match own s e g with
      | (s, .ok bs) => (s, some bs)
      | (s, .error _) => (s, none)
    | none => (s, none)
  | none =>
    if !routed s m then (s, none)
    else match ask s d m 0 (id + 4096 * gen.toNat) op with
      | (s, some (r, some g)) => (s, if r.cause = 0 then some g.data else none)
      | (s, _) => (s, none)

/-- The status block of a member's endpoint. -/
def memberStatus (s : State) (d m id : Nat) (gen : BitVec 4) : State × Option (List Byte) :=
  askMember s d m id gen .logStatus fun s _ g => (s, .ok (statusBlock g))

/-- A record that a member's endpoint retains. -/
def memberRecord (s : State) (d m id : Nat) (gen : BitVec 4) (step place : Nat) : State × Option (List Byte) :=
  let r := askMember s d m id gen (.logRecord step place) fun s e g => heldRecord s e g step place
  (r.1, r.2.map (·.take 32))

/-- The N + 1 records of a step that a member's endpoint retains. -/
def memberStep (s : State) (d m id : Nat) (g : Group) (step : Nat) : State × Option (List (List Byte)) :=
  (List.range (g.n + 1)).foldl (fun p i => match p with
    | (s, none) => (s, none)
    | (s, some l) =>
      let r := memberRecord s d m id g.gen step i
      (r.1, r.2.map fun b => l ++ [b])) (s, some [])

/-- A stored record as its sender emitted it: SEQ and CHK zero. -/
def unchained (r : List Byte) : List Byte := zeros 8 ++ (r.drop 8).take 20 ++ zeros 4

/-- The records of an endpoint's next step, fetched, go on with its SEQ and its chain. -/
def chained (g : Group) (rs : List (List Byte)) : Bool := ((chainRecords (g.seq + 1) g.chk (rs.map unchained)).1.map (·.2)) == rs

/-- The endpoint's next step from the first of the members whose records go on with its chain (06 R150). -/
def fetchFrom (s : State) (d id : Nat) (g : Group) : List Nat → State × Option (List (List Byte))
  | [] => (s, none)
  | m :: l =>
    if m = globalDie s d then fetchFrom s d id g l
    else
      let r := memberStep s d m id g g.nextStep
      match r.2.filter (chained g) with
      | some rs => (r.1, some (rs.map unchained))
      | none => fetchFrom r.1 d id g l

/-- The oldest step whose records are all in the window of an endpoint with a HIGH (06 R150). -/
def oldestRetained (g : Group) (high : Nat) : Nat :=
  g.first + high / (g.n + 1) - min (high / (g.n + 1)) (2 ^ g.log2n / (g.n + 1))

/-- An endpoint whose next step is older than the windows of its peers goes on behind the oldest step that the first of them retains, with the SEQ and
CHK of that step's CLOSE: records of live steps are stored as usual (06 R150). What it held of the steps it passes over was received and is not
stored. -/
def resumeFrom (s : State) (d id : Nat) (g : Group) : List Nat → State × Option Group
  | [] => (s, none)
  | m :: l =>
    if m = globalDie s d then resumeFrom s d id g l
    else
      match memberStatus s d m id g.gen with
      | (s, none) => resumeFrom s d id g l
      | (s, some b) =>
        let u := oldestRetained g (fieldOf b 0 8)
        if u ≤ g.nextStep then resumeFrom s d id g l
        else match memberRecord s d m id g.gen u g.n with
          | (s, none) => resumeFrom s d id g l
          | (s, some r) =>
            (s, some { g with nextStep := u + 1, seq := seqOfClose g u, chk := BitVec.ofNat 32 (fieldOf r 28 4),
                              drops := g.drops + (g.contribs.filter fun c => decide (c.step ≤ u)).length,
                              contribs := g.contribs.filter (fun c => decide (u < c.step)), emitted := g.emitted.filter fun c => decide (u < c.step) })

/-- An endpoint that has received a CLOSE lacks records of its next step: it fetches them from another member's endpoint, or, where its peers retain that
step no more, goes on with a later one (06 R144, R150; log 58). -/
def catchUp (s : State) (d id : Nat) (g : Group) : State :=
  match fetchFrom s d id g g.members with
  | (s, some rs) => assemble s d id g rs
  | (s, none) => match resumeFrom s d id g g.members with
    | (s, some h) => deliver (keepGroup s d id h) (.stepAssemble (Fin.ofNat 4 d) (BitVec.ofNat 12 id))
    | (s, none) => s

/-- STEP_ASSEMBLE (06 R144): the endpoint stores its next step when it can; it waits for credit of q4. -/
def execStepAssemble (die : DieId) (grp : BitVec 12) (s : State) : Host.Outcome State Fault Refusal :=
  match collOf s die.val grp.toNat with
  | some g =>
    if !g.log then .next s
    else if (stepRecords g).isNone && !(g.emitted.any fun c => c.rank == 0xFFFF) then .next s
    else if queueDepth ≤ (coreOf s (listenCore die.val g)).q4.length then .next (waitCredit s (.stepAssemble die grp))
    else .next (askingStep s (.stepAssemble die grp) fun s => match stepRecords g with
      | some rs => assemble s die.val grp.toNat g rs
      | none => catchUp s die.val grp.toNat g)
  | none => .next s

/-! ### Sealing (06 R146) -/

/-- CLOSE_ACK (06 R146): at QUORUM acknowledgements the step is announced sealed. -/
def execCloseAck (die : DieId) (grp : BitVec 12) (gen : BitVec 4) (seq : Word) (rank : Nat) (s : State) : Host.Outcome State Fault Refusal :=
  let d := die.val
  match leadOf s d grp.toNat with
  | none => .next s
  | some l =>
    if l.grp.gen ≠ gen then .next (match collOf s d grp.toNat with | some g => countStale s d grp.toNat g | none => s)
    else
      let step := ((l.closes.find? fun e => e.2 == seq.toNat).map (·.1)).getD 0
      let have_ := tabGet [] l.acks step
      if !(l.closes.any fun e => e.2 == seq.toNat) then .next s
      else if have_.contains rank || l.sealed.contains step then .next s
      else
        let l := { l with acks := tabPut l.acks step (have_ ++ [rank]) }
        if have_.length + 1 < l.grp.quorum then .next (setLead s d grp.toNat l)
        else
          let s := setLead s d grp.toNat { l with sealed := l.sealed ++ [step], acks := tabDel l.acks step }
          let s := sendAll s l.grp grp.toNat d (leBytes 8 seq.toNat) fun e => .sealAnnounce e grp l.grp.gen seq
          .next (deliver s (.stepClose die grp))

/-- SEAL_ANNOUNCE (06 R146): SEALED of the status block rises. -/
def execSealAnnounce (die : DieId) (grp : BitVec 12) (gen : BitVec 4) (seq : Word) (s : State) : Host.Outcome State Fault Refusal :=
  match collOf s die.val grp.toNat with
  | some g =>
    if g.gen ≠ gen then .next (countStale s die.val grp.toNat g)
    else .next (if g.sealed < seq.toNat then keepGroup s die.val grp.toNat { g with sealed := seq.toNat } else s)
  | none => .next s

/-! ### Taking over as leader (06 R148) -/

/-- The endpoints that survive: each member whose endpoint answers, with HIGH and SEALED of its status block. -/
def survivors (s : State) (d id : Nat) (g : Group) : State × List (Nat × Nat × Nat) :=
  g.members.foldl (fun p m => match memberStatus p.1 d m id g.gen with
    | (s, some b) => (s, p.2 ++ [(m, fieldOf b 0 8, fieldOf b 8 8)])
    | (s, none) => (s, p.2)) (s, [])

/-- The highest SEQ that one of them has stored, and the first of them that has stored it. -/
def bestOf (es : List (Nat × Nat × Nat)) : Option (Nat × Nat) :=
  es.foldl (fun b e => match b with
    | none => some (e.1, e.2.1)
    | some q => if q.2 < e.2.1 then some (e.1, e.2.1) else some q) none

/-- The descriptor by which a die of this module knows a log group: its own endpoint's, or another one's. -/
def descriptorOf (s : State) (d id : Nat) : Option Group :=
  (d :: List.range 4).findSome? fun e => (collOf s e id).filter (·.log)

/-- The die may take over: it stands in LEADERS behind the leader that is lost, with no working die between; or it is the first working one itself and
does not lead yet (06 R148). -/
def takesOver (s : State) (d id : Nat) (g : Group) : Bool :=
  match leaderOf s g with
  | none => false
  | some m =>
    let me := globalDie s d
    if m = me then (leadOf s d id).isNone
    else (leadersAfter g m).contains me && ((leadersAfter g m).takeWhile (· != me)).all fun e => !routed s e

/-- Steps that are closed: from FIRST to before a step. -/
def closedSteps (g : Group) (open_ : Nat) : List Nat := (List.range (open_ - g.first)).map (g.first + ·)

/-- The records of a closed step are sent again to every member. -/
def resendStep (s : State) (d id m : Nat) (g : Group) (step : Nat) : State :=
  let (s, r) := memberStep s d m id g step
  (r.getD []).foldl (fun s b => sendAll s g id d (unchained b)
    fun e => .contributionArrive e (BitVec.ofNat 12 id) g.gen 0xFFFF true (unchained b)) s

/-- Closed steps that the new leader's own endpoint lacks come to it from the endpoint of a member (06 R148, R150). -/
def fillLeader (s : State) (d id m : Nat) (steps : List Nat) : State :=
  match collOf s d id with
  | none => s
  | some g => (steps.filter fun t => decide (g.nextStep ≤ t)).foldl (fun s t =>
      let (s, r) := memberStep s d m id g t
      (r.getD []).foldl (fun s b => deliver s (.contributionArrive (Fin.ofNat 4 d) (BitVec.ofNat 12 id) g.gen 0xFFFF true (unchained b))) s) s

/-- What the leader keeps that goes on behind a SEQ, with the steps up to another one sealed. -/
def nextLead (s : State) (d id : Nat) (g : Group) (high top : Nat) : Lead :=
  let open_ := g.first + high / (g.n + 1)
  { grp := { g with leader := some (globalDie s d) }, open_ := open_, closeBeat := (dieOf s d).beat.toNat, seq := high,
    contribs := match collOf s d id with
      | some h => h.contribs.filter fun c => decide (open_ ≤ c.step)
      | none => []
    sealed := (closedSteps g open_).filter fun t => decide (seqOfClose g t ≤ top), closes := (closedSteps g open_).map fun t => (t, seqOfClose g t) }

/-- The die takes over: behind the highest closed step that a surviving endpoint holds. It fetches the sealed steps its own endpoint lacks, and sends the
records of closed, unsealed steps again, before any new close. -/
def takeOver (s : State) (d id : Nat) (g : Group) : State :=
  let (s, es) := survivors s d id g
  match bestOf es with
  | none => s
  | some (m, high) =>
    let top := (es.map fun e => e.2.2).foldl max 0
    let l := nextLead s d id g high top
    let s := fillLeader s d id m l.sealed
    let s := ((closedSteps g l.open_).filter fun t => decide (top < seqOfClose g t)).foldl (fun s t => resendStep s d id m g t) s
    deliver (setLead (handOver s id (globalDie s d)) d id l) (.stepClose (Fin.ofNat 4 d) (BitVec.ofNat 12 id))

/-- LEADER_TAKEOVER (06 R148): this die becomes the leader, where it is the next working die in LEADERS. -/
def execLeaderTakeover (die : DieId) (grp : BitVec 12) (s : State) : Host.Outcome State Fault Refusal :=
  match descriptorOf s die.val grp.toNat with
  | none => .next s
  | some g =>
    .next (if takesOver s die.val grp.toNat g then askingStep s (.leaderTakeover die grp) fun s => takeOver s die.val grp.toNat g else s)

/-! ### Generations (06 R161, R164) -/

/-- GENERATION_ADVANCE (06 R161). -/
def execGenerationAdvance (die : DieId) (grp : BitVec 12) (s : State) : Host.Outcome State Fault Refusal :=
  let d := die.val
  let s := match leadOf s d grp.toNat with
    | some l => setLead s d grp.toNat { l with grp := { l.grp with gen := l.grp.gen + 1 } }
    | none => s
  match collOf s d grp.toNat with
  | some g => .next (setGroup s d grp.toNat { g with gen := g.gen + 1 })
  | none => .next s

/-- The canonical NaN of FP64 (06 R163). -/
def nan64 : Word := 0x7FF8000000000000

/-- Terms of a reduce group that wait for credit, by rank. -/
def mailedTerms (s : State) (d id : Nat) (g : Group) : List Nat :=
  s.mail.filterMap fun i => match i.step with
    | .scredArrive e h gen rank _ => if e.val = d ∧ h.toNat = id ∧ gen = g.gen then some rank else none
    | _ => none

/-- Operations a reduce group has pending: the most terms that one rank has given, those that wait for credit among them. -/
def pendingOps (s : State) (d id : Nat) (g : Group) : Nat :=
  ((List.range g.n).map fun r => ((g.terms.map (·.1) ++ mailedTerms s d id g).filter (· == r)).length).foldl max 0

/-- Results go to q5 of LISTEN. -/
def pushResults (s : State) (d : Nat) (g : Group) (vs : List Word) : State :=
  if vs.isEmpty then s else modCore s (listenCore d g) fun k => { k with q5 := k.q5 ++ vs }

/-- q5 of LISTEN has room for an entry. -/
def roomQ5 (s : State) (d : Nat) (g : Group) : Bool := decide ((coreOf s (listenCore d g)).q5.length < queueDepth)

/-- The canonical NaNs that a group owes go to q5 as far as it has room; the others wait for credit, before any later result. -/
def payOwed (s : State) (die : DieId) (grp : BitVec 12) (g : Group) : State :=
  let n := min g.owed (queueDepth - (coreOf s (listenCore die.val g)).q5.length)
  let s := pushResults (setGroup s die.val grp.toNat { g with owed := g.owed - n }) die.val g (List.replicate n nan64)
  if n < g.owed then waitCredit s (.memberLoss die grp (2 ^ 16)) else s

/-- MEMBER_LOSS (06 R164): of a reduce group the generation advances, its pending operations give NaN and STALE rises;
a log group goes on and treats the team as absent. A rank beyond N only stands for NaNs that still wait. -/
def execMemberLoss (die : DieId) (grp : BitVec 12) (rank : Nat) (s : State) : Host.Outcome State Fault Refusal :=
  let d := die.val
  match collOf s d grp.toNat with
  | some g =>
    if g.log then .next s
    else if g.n ≤ rank then .next (if g.owed = 0 then s else payOwed s die grp g)
    else
      let h := { g with gen := g.gen + 1, terms := [], stale := g.stale + 1, owed := g.owed + pendingOps s d grp.toNat g }
      let s := keepGroup { s with mail := s.mail.filter fun i => mailKey i.step != mailKey (.memberLoss die grp 0) } d grp.toNat h
      .next (if h.owed = 0 then s else payOwed s die grp h)
  | none => .next s

/-! ### Reduce groups (06 R162, R163) -/

/-- REDUCE_RECORD_ARRIVE (06 R162): the record goes to the next arrival place, its words turn full and q4 receives the place. -/
def execReduceRecordArrive (die : DieId) (grp : BitVec 12) (gen : BitVec 4) (record : List Byte) (s : State) : Host.Outcome State Fault Refusal :=
  let d := die.val
  match collOf s d grp.toNat with
  | some g =>
    if g.log then .next s
    else if g.gen ≠ gen then .next (countStale s d grp.toNat g)
    else if decide (queueDepth ≤ (coreOf s (listenCore d g)).q4.length) || mailHas s (.reduceRecordArrive die grp gen record) then
      .next (waitCredit s (.reduceRecordArrive die grp gen record))
    else
      let place := g.high % 64
      let va := g.ring.toNat + 64 + 32 * place
      let s := turnFull (dieWrite s d none g.asid va (record.take 32)).1 d g.asid va 32
      let s := keepGroup s d grp.toNat { g with high := g.high + 1 }
      .next (modCore s (listenCore d g) fun k => { k with q4 := k.q4 ++ [BitVec.ofNat 64 place] })
  | none => .next s

/-- The sum of one operation's terms (06 R163): exact in a window below the largest exponent, rounded once. -/
def reduceSum (ts : List Word) : Word :=
  let vs := ts.map fun w => decodeFp 1 w.toNat
  if vs.any Val.isNan || (vs.contains (.inf false) && vs.contains (.inf true)) then nan64
  else if vs.contains (.inf false) then 0x7FF0000000000000
  else if vs.contains (.inf true) then 0xFFF0000000000000
  else BitVec.ofNat 64 (sumVals 1 (sumWindow 1 vs) rne 0 vs).val

/-- The oldest term of every rank, in rank order, when each rank has one. -/
def readyTerms (g : Group) : Option (List Word) :=
  let l := (List.range g.n).filterMap fun r => (g.terms.find? fun t => t.1 == r).map (·.2)
  if l.length = g.n then some l else none

/-- The terms without the oldest one of every rank. -/
def restTerms (g : Group) : List (Nat × Word) :=
  (List.range g.n).foldl (fun l r => match l.find? fun t => t.1 == r with | some t => l.erase t | none => l) g.terms

/-- SCRED_ARRIVE (06 R163): a term arrives; when every rank has one the sum goes to q5 of LISTEN. -/
def execScredArrive (die : DieId) (grp : BitVec 12) (gen : BitVec 4) (rank : Nat) (value : Word) (s : State) : Host.Outcome State Fault Refusal :=
  let d := die.val
  match collOf s d grp.toNat with
  | some g =>
    if g.log then .next s
    else if g.gen ≠ gen then .next (countStale s d grp.toNat g)
    else if mailHas s (.scredArrive die grp gen rank value) then
      .next (waitCredit s (.scredArrive die grp gen rank value))
    else
      let h := { g with terms := g.terms ++ [(rank, value)] }
      match readyTerms h with
      | none => .next (setGroup s d grp.toNat h)
      | some ts =>
        if !roomQ5 s d g then .next (waitCredit s (.scredArrive die grp gen rank value))
        else .next (pushResults (setGroup s d grp.toNat { h with terms := restTerms h }) d g [reduceSum ts])
  | none => .next s

end Sys2Proof.Machine
end

