-- ==== Sys2Proof/Machine/Entries.lean ====
section
/-! DEFINITION. Collective work entries (06 R153 to R161), and the E-slot commands of the collective engine (17 R470 to R472). -/

namespace Sys2Proof.Machine

/-! ### Fields of a work entry (06 R154) -/

/-- OP. -/
def WorkEntry.op (e : WorkEntry) : Nat := fieldOf e.raw 0 1

/-- ARM, whole byte. -/
def WorkEntry.arm (e : WorkEntry) : Nat := fieldOf e.raw 1 1

/-- Group id. -/
def WorkEntry.grp (e : WorkEntry) : Nat := fieldOf e.raw 2 2 % 4096

/-- Generation. -/
def WorkEntry.gen (e : WorkEntry) : BitVec 4 := BitVec.ofNat 4 (fieldOf e.raw 2 2 / 4096)

/-- PEER. -/
def WorkEntry.peer (e : WorkEntry) : Nat := fieldOf e.raw 4 1

/-- WIRE. -/
def WorkEntry.wire (e : WorkEntry) : BitVec 8 := BitVec.ofNat 8 (fieldOf e.raw 5 1)

/-- LAND. -/
def WorkEntry.land (e : WorkEntry) : Nat := fieldOf e.raw 6 1

/-- F/E mode. -/
def WorkEntry.mode (e : WorkEntry) : BitVec 2 := BitVec.ofNat 2 (fieldOf e.raw 7 1)

/-- DCORE. -/
def WorkEntry.dcore (e : WorkEntry) : BitVec 6 := BitVec.ofNat 6 (fieldOf e.raw 7 1 / 4)

/-- LADDR. -/
def WorkEntry.laddr (e : WorkEntry) : Nat := fieldOf e.raw 8 8

/-- RADDR. -/
def WorkEntry.raddr (e : WorkEntry) : Nat := fieldOf e.raw 16 8

/-- HADDR. -/
def WorkEntry.haddr (e : WorkEntry) : Nat := fieldOf e.raw 24 8

/-- BYTES. -/
def WorkEntry.bytes (e : WorkEntry) : Nat := fieldOf e.raw 32 8

/-- ACTR. -/
def WorkEntry.actr (e : WorkEntry) : Nat := fieldOf e.raw 40 4

/-- ARMV. -/
def WorkEntry.armv (e : WorkEntry) : Nat := fieldOf e.raw 48 8

/-- LCTR. -/
def WorkEntry.lctr (e : WorkEntry) : BitVec 32 := BitVec.ofNat 32 (fieldOf e.raw 56 4)

/-- RCTR. -/
def WorkEntry.rctrWord (e : WorkEntry) : BitVec 32 := BitVec.ofNat 32 (fieldOf e.raw 60 4)

/-- The cluster in whose window a local address lies: that of the core that posted the entry (log 17). -/
def Poster.cluster? : Poster → Option Nat
  | .ctx c _ => some (clusterOfCore c)
  | .firmware => none

/-! ### Wire types -/

/-- The type code and the mantissa bits of WIRE. -/
def wireType (w : BitVec 8) : Nat × Nat := (fld w 3 0, fld w 6 4 + 2)

/-- A storage line of 256 elements in bytes. -/
def wireLine (w : BitVec 8) : Nat := let (t, m) := wireType w; if t = 6 then bfpLineBytes m else 32 * tyWidth t

/-- WIRE names a type that entries carry. -/
def wireOk (w : BitVec 8) : Bool := let (t, m) := wireType w; [0, 2, 3, 4, 5, 6].contains t && !(t == 6 && m == 9)

/-- The elements of wire data, widened exactly. -/
def wireVals (w : BitVec 8) (bs : List Byte) : List Val :=
  let (t, m) := wireType w
  let n := 256 * (bs.length / wireLine w)
  let v := leNat bs
  if t = 6 then (List.range n).map (bfpElem m v) else (List.range n).map fun i => decodeFp t (v / 2 ^ (tyWidth t * i) % 2 ^ tyWidth t)

/-- Requantise (06 R157, R158): the bytes, and whether a value overflowed. -/
def requantise (w : BitVec 8) (vs : List Val) : List Byte × Bool :=
  let (t, m) := wireType w
  let n := vs.length / 256 * wireLine w
  if t = 6 then
    let r := toBfpRow m rne 0 vs
    (leBytes n r.1, r.2 / flagOF % 2 == 1)
  else
    let out := vs.map fun v =>
      let r := roundFp t rne 0 v
      -- an overflow stores the largest finite value of its sign, whatever FMT.SAT holds
      if !v.isInf && r.flags / flagOF % 2 == 1 then ((match v with | .fin true _ _ => tySignBit t | _ => 0) + tyMaxBits t, true) else (r.val, false)
    (out.flatMap fun r => leBytes (tyWidth t / 8) r.1, out.any (·.2))

/-! ### Checks at the start (06 R156) -/

/-- The first slot of a LAND 3 range, counted across pages. -/
def slotAt (off : Nat) : Nat := off / 4096 * 85 + off % 4096 / 48

/-- A landing range passes page 511. -/
def landRangeBad (e : WorkEntry) : Bool :=
  let n := 256 * (e.bytes / max 1 (wireLine e.wire))
  (e.land == 2 && decide (512 * 4096 < e.raddr + 4 * n)) || (e.land == 3 && decide (512 * 85 < slotAt e.raddr + n))

/-- DCORE names the firmware core or a retired core of a peer of this module. -/
def dcoreBad (s : State) (e : WorkEntry) : Bool :=
  match localDie s e.peer with
  | some d => let c := 64 * d + e.dcore.toNat; isFirmwareCore s c || (coreOf s c).retired
  | none => false

/-- Bits of counter fields that are zero. -/
def ctrFieldBad (w : BitVec 32) : Bool := fld w 30 20 != 0

/-- The first failing check of an entry: 0 when all hold, else CODE 1 or 7. -/
def entryCheck (s : State) (e : WorkEntry) : Nat :=
  if e.op > 3 ∨ e.arm % 4 > 2 then 1
  else if e.arm / 4 ≠ 0 ∨ bitOf e.wire 7 ∨ fieldOf e.raw 44 4 ≠ 0 ∨ ctrFieldBad e.lctr ∨ ctrFieldBad e.rctrWord then 1
  else if e.op ≠ 2 then
    if e.wire ≠ 0 ∨ e.land ≠ 0 ∨ e.haddr ≠ 0 ∨ e.dcore ≠ 0 then 1
    else if e.op ≠ 0 ∧ e.mode ≠ 3 ∧ (e.laddr % 8 ≠ 0 ∨ e.raddr % 8 ≠ 0 ∨ e.bytes % 8 ≠ 0) then 1 else 0
  else if !wireOk e.wire then 1
  else if e.land > 3 ∨ (e.haddr ≠ 0 ∧ e.land ≠ 1) ∨ (e.dcore ≠ 0 ∧ e.land ≤ 1) ∨ (2 ≤ e.land ∧ dcoreBad s e) then 1
  else if e.bytes % wireLine e.wire ≠ 0 then 1
  else if landRangeBad e then 1
  else if (e.land = 2 ∧ e.raddr % 4 ≠ 0) ∨ (e.land = 3 ∧ (e.raddr % 4096 % 48 ≠ 0 ∨ 84 < e.raddr % 4096 / 48)) then 7
  else if e.mode ≠ 3 ∧ (e.laddr % 8 ≠ 0 ∨ e.raddr % 8 ≠ 0 ∨ e.bytes % 8 ≠ 0) then 1 else 0

/-! ### Queue pairs and entries -/

/-- A queue pair of a die. -/
def qpOf (s : State) (d q : Nat) : Option Qp := ((dieOf s d).qps.find? fun e => e.1 == q).map (·.2)

/-- The state with a queue pair written. -/
def setQp (s : State) (d q : Nat) (p : Qp) : State := modDie s d fun k => { k with qps := tabPut k.qps q p }

/-- The state with an outstanding entry changed. -/
def modEntry (s : State) (d q serial : Nat) (f : WorkEntry → WorkEntry) : State :=
  match qpOf s d q with
  | some p => setQp s d q { p with entries := p.entries.map fun e => if e.serial = serial then f e else e }
  | none => s

/-- An entry's outcome is known: its completion becomes due. -/
def outcome (s : State) (d q serial code : Nat) : State :=
  deliver (modEntry s d q serial fun e => { e with code := some (e.code.getD code) }) (.workEntryComplete (Fin.ofNat 4 d) (BitVec.ofNat 8 q) 0)

/-- The local destination of a READ (10 R259): its pages are marked dirty, all of them, or its status. -/
def readTarget (s : State) (d : Nat) (e : WorkEntry) : State × Nat :=
  if e.op ≠ 3 ∨ e.bytes = 0 then (s, 0)
  else
    let cl := (e.poster.cluster?).getD (4 * d)
    let ps := pagesOf [(e.laddr, e.bytes)]
    let p := pageFail s cl e.asid true ps
    let r := rangeFail s cl e.asid true [(e.laddr, e.bytes)]
    if p ≠ 0 then (s, p) else if r ≠ 0 then (s, r) else (markPages s cl e.asid ps, 0)

/-- Entries are posted to a queue pair (06 R153, 17 R470): they take serials, and the local destinations of READ entries are marked
(10 R259). None while one of these meets a table pointer that migrates. -/
def postEntries (s : State) (d q asid : Nat) (who : Poster) (raws : List (List Byte)) : Option State :=
  match qpOf s d q with
  | none => some s
  | some p =>
    let es : List WorkEntry := ((List.range raws.length).zip raws).map fun r =>
      { serial := (p.next.toNat + r.1) % 2 ^ 32, raw := r.2, asid := asid, poster := who,
        late := fieldOf r.2 1 1 % 4 == 2 && decide (fieldOf r.2 48 8 < (dieOf s d).beat.toNat) }
    let (t, es) := es.foldl (fun (acc : State × List WorkEntry) e =>
      let (t, st) := readTarget acc.1 d e
      (t, acc.2 ++ [{ e with refused := st }])) (s, [])
    if es.any fun e => decide (waitPage ≤ e.refused) then none
    else
      let t := setQp t d q { p with next := p.next + BitVec.ofNat 32 raws.length, entries := p.entries ++ es }
      some (deliver t (.workEntryStart (Fin.ofNat 4 d) (BitVec.ofNat 8 q)))

/-- The arming condition of an entry holds (06 R155). A counter of another module is asked for there; one of a die that cannot be reached arms the entry,
which fails at its start (01 R13). -/
def armed (s : State) (d : Nat) (e : WorkEntry) : State × Bool :=
  match e.arm % 4 with
  | 1 => (match localDie s (ctrDie e.actr) with
          | some k => (s, decide (e.armv ≤ (ctrVal s k (ctrIdx e.actr)).toNat))
          | none =>
            if !routed s (ctrDie e.actr) then (s, true)
            else
              let (s, r) := ask s d (ctrDie e.actr) 0 e.actr (.ctrGet (BitVec.ofNat 64 e.armv) 4)
              (s, r.isSome))
  | 2 => (s, decide (e.armv ≤ (dieOf s d).beat.toNat))
  | _ => (s, true)

/-- CODE for a die that cannot be reached: TRANSL while the module has no id (01 R13), else LINK_DOWN, which 01 R30 gives while the module is
isolated. For a die that is not routed while the module has an id and is not isolated the spec names no code; LINK_DOWN is the model's
choice (log 18). -/
def unreachable (s : State) : Nat := if bitOf s.mod.modId 7 then 4 else 2

/-- A counter field names a die that cannot be reached. -/
def ctrUnreachable (s : State) (w : BitVec 32) : Bool := bitOf w 31 && !routed s (ctrDie (fld w 19 0))

/-- An entry names a die that cannot be reached by one of its counters (01 R13). -/
def namesUnreachable (s : State) (e : WorkEntry) : Bool :=
  ctrUnreachable s e.lctr || ctrUnreachable s e.rctrWord || (e.arm % 4 == 1 && !routed s (ctrDie e.actr))

/-! ### Starting an entry (06 R155, R156, R159) -/

/-- F of the words of what was read, for PRESERVE: that of each word's first byte. -/
def Fetched.words (x : Fetched) : List Bool := (List.range (x.full.length / 8)).map fun i => x.full.getD (8 * i) false

/-- The chunk of an entry. -/
def entryChunk (s : State) (d q : Nat) (e : WorkEntry) (data : List Byte) (full : List Bool) : Chunk :=
  { grp := BitVec.ofNat 12 e.grp, gen := e.gen, home := globalDie s d, qp := BitVec.ofNat 8 q, serial := e.serial, asid := e.asid, op := e.op,
    wire := e.wire, land := e.land, mode := e.mode, dcore := e.dcore, addr := BitVec.ofNat 64 (if e.op = 3 then e.laddr else e.raddr),
    haddr := BitVec.ofNat 64 e.haddr, rctr := e.rctrWord, data := data, full := full }

/-- A counter of an entry rises by 1 as a release at domain scope; the flag tells that it saturated. -/
def raiseCtr (s : State) (d : Nat) (w : BitVec 32) : State × Bool :=
  if bitOf w 31 then ctrRelease s (fld w 19 0) 1 (.die d) 4 else (s, false)

/-- What an access of a collective comes to at once: the state after it; one that meets a migrating page, or waits for another module's die, changes
nothing and is made again (10 R262). -/
def unlessWaits (old s : State) (r : Except Nat α) (f : State → Except Nat α → State) : State :=
  match r with
  | .error e => if waitPage ≤ e then lacks (lackingIn old s) .page else f s (.error e)
  | .ok a => f s (.ok a)

/-- An entry has started. -/
def markStarted (s : State) (d q serial : Nat) : State := modEntry s d q serial fun e => { e with started := true }

/-- A die's engine reads n bytes, and F of their words. -/
def dieFetch (s : State) (d : Nat) (cl : Option Nat) (asid va n : Nat) : State × Except Nat Fetched :=
  match cl with
  | some k => engFetch s k asid va n
  | none => if inWindow va n then (s, .error 2) else engFetch s (4 * d) asid va n

/-- A WRITE or WRITE_REDUCE sends its data. -/
def startWrite (s : State) (d q : Nat) (e : WorkEntry) : State :=
  let (t, r) := dieFetch s d e.poster.cluster? e.asid e.laddr e.bytes
  unlessWaits s t r fun t r =>
    let t := markStarted t d q e.serial
    match r with
    | .error c => outcome t d q e.serial c
    | .ok x =>
      match localDie t e.peer with
      | some p => deliver t (.chunkArrive (Fin.ofNat 4 p) (entryChunk t d q e x.data x.words))
      | none => bumpTag (sendOut t (.entry d e.peer q e.serial e.asid e.raw x.data [] x.words))

/-- The data of a READ at its peer p: the group's generation is compared, and the source read. -/
def readSource (s : State) (p grp : Nat) (gen : BitVec 4) (asid va n : Nat) : State × Except Nat Fetched :=
  match collOf s p grp with
  | some g => if g.gen ≠ gen then (countStale s p grp g, .error 5) else dieFetch s p none asid va n
  | none => (s, .error 5)

/-- A READ asks its peer; one whose local destination failed at its posting is refused (10 R259). The peer raises RCTR when it has sent the data
(R159); where RCTR saturates then, LCTR is not raised and CODE is 8. -/
def startRead (s : State) (d q : Nat) (e : WorkEntry) : State :=
  if e.refused ≠ 0 then outcome (markStarted s d q e.serial) d q e.serial e.refused
  else match localDie s e.peer with
    | none => bumpTag (sendOut (markStarted s d q e.serial) (.entry d e.peer q e.serial e.asid e.raw [] [] []))
    | some p =>
      let (u, r) := readSource s p e.grp e.gen e.asid e.raddr e.bytes
      unlessWaits s u r fun u r =>
        let u := markStarted u d q e.serial
        match r with
        | .error c => outcome u d q e.serial c
        | .ok x =>
          let (u, sat) := raiseCtr u p e.rctrWord
          let u := modEntry u d q e.serial fun e => { e with rsat := sat }
          deliver u (.chunkArrive (Fin.ofNat 4 d) (entryChunk u d q e x.data x.words))

/-- An entry starts: its checks, its generation, and what it sends. -/
def startEntry (s : State) (d q : Nat) (e : WorkEntry) : State :=
  let t := markStarted s d q e.serial
  let c := entryCheck s e
  if c ≠ 0 then outcome t d q e.serial c
  else if ((collOf s d e.grp).map (·.gen)) ≠ some e.gen then outcome t d q e.serial 5
  else if namesUnreachable s e then outcome t d q e.serial (unreachable s)
  else if e.op = 0 ∨ e.bytes = 0 then outcome (modEntry t d q e.serial fun e => { e with rctr := true }) d q e.serial 0
  else if !routed s e.peer then outcome t d q e.serial (unreachable s)
  else if e.op = 3 then startRead s d q e else startWrite s d q e

/-- The first entry of a queue pair that has not started. -/
def nextEntry (p : Qp) : Option WorkEntry := p.entries.find? fun e => !e.started

/-- WORK_ENTRY_START (06 R155): the first entry not started starts, when it is armed; one that meets a migrating page, or waits for another
module's die, is tried again. -/
def execWorkEntryStart (die : DieId) (qp : BitVec 8) (s : State) : Host.Outcome State Fault Refusal :=
  let d := die.val
  match (qpOf s d qp.toNat).bind nextEntry with
  | some e =>
    let (t, waits) := asking (.step (.workEntryStart die qp) 0 0) s fun s =>
      match armed s d e with
      | (s, true) => startEntry s d qp.toNat e
      | (s, false) => s
    .next (if waits || ((qpOf t d qp.toNat).bind nextEntry).map (·.serial) == some e.serial then t else deliver t (.workEntryStart die qp))
  | none => .next s

/-! ### Landing (06 R157 to R160) -/

/-- The granules of n bytes whose check came in bad keep its difference: carry checks pass through links unchanged, and the next reader finds
the fault (01 R24). -/
def landChecks (s : State) (k asid va n : Nat) (checks : List Nat) : State :=
  (List.range checks.length).foldl (fun s i =>
    if checks.getD i 0 % 2 ^ 16 = 0 then s
    else (piecesOf (va + 64 * i) (min 64 (n - 64 * i))).foldl (fun s p =>
      match (engLoc s k asid p.1 p.2 true).2 with
      | .ok (.home die pa _ _ _ _) => setCheck s die (pa / 64) (BitVec.ofNat 16 (checks.getD i 0))
      | _ => s) s) s

/-- F of the words of landed bytes by the mode (08 R217): PRESERVE takes it from the words sent (01 R23). -/
def landFull (s : State) (k : Nat) (ck : Chunk) (n : Nat) : State :=
  if ck.mode = 3 then s
  else
    (List.range (n / 8)).foldl (fun s i =>
      let f := match ck.mode.toNat with | 0 => ck.full.getD i false | 1 => true | _ => false
      match (engLoc s k ck.asid (ck.addr.toNat + 8 * i) 8 true).2 with
      | .ok (.home die pa _ _ _ _) => modDie s die fun z => setFull z pa f
      | .ok (.remote g) => (ask s (k / 4) g ck.asid (ck.addr.toNat + 8 * i) (.fe 7 (BitVec.ofNat 64 f.toNat) 0 0 none)).1
      | _ => s) s

/-- Bytes land in memory, and their words take F as the mode says; under KEEP an unchanged word keeps its W (08 R217). -/
def landBytes (s : State) (d : Nat) (cl : Option Nat) (ck : Chunk) (bs : List Byte) : State × Except Nat Unit :=
  let k := cl.getD (4 * d)
  if cl.isNone && inWindow ck.addr.toNat bs.length then (s, .error 2)
  else
    let (s, r) := engPut (if ck.mode = 3 then .keep else .engine) (if ck.mode = 3 then keepWrite else physWrite) s k ck.asid ck.addr.toNat bs
    match r with
    | .error e => (s, .error e)
    | .ok _ => (landChecks (landFull s k ck bs.length) k ck.asid ck.addr.toNat bs.length ck.checks, .ok ())

/-- LAND 1: each element is added to the peer's own and rounded once. -/
def landHop (s : State) (d : Nat) (ck : Chunk) : State × Except Nat Unit × Bool :=
  let (s, r) := dieRead s d none ck.asid ck.haddr.toNat ck.data.length
  match r with
  | .error e => (s, .error e, false)
  | .ok own =>
    let zs := ((wireVals ck.wire ck.data).zip (wireVals ck.wire own)).map fun p => (addVal false p.1 p.2).1
    let (bs, sat) := requantise ck.wire zs
    let (s, r) := landBytes s d none ck bs
    (s, r, sat)

/-- LAND 2 and 3: the elements go through the write port of core DCORE's accumulator store. -/
def landAccum (s : State) (d : Nat) (ck : Chunk) : State :=
  let c := 64 * d + ck.dcore.toNat
  let vs := wireVals ck.wire ck.data
  let ops := ((List.range vs.length).zip vs).map fun p =>
    if ck.land = 2 then AccOp.addF32 (ck.addr.toNat + 4 * p.1) p.2 else AccOp.lax (slotAt ck.addr.toNat + p.1) p.2
  setCore s c (markOps (applyAccOps (coreOf s c) ops).1 ops)

/-- The bytes of a chunk land: the state, its code, and whether a hop saturated. -/
def landData (s : State) (d : Nat) (ck : Chunk) : State × Nat × Bool :=
  let code := fun (r : Except Nat Unit) => match r with | .ok _ => 0 | .error e => e
  if ck.op = 2 ∧ 2 ≤ ck.land then (landAccum s d ck, 0, false)
  else if ck.op = 2 ∧ ck.land = 1 then
    let (s, r, sat) := landHop s d ck
    (s, code r, sat)
  else
    let cl := if ck.op = 3 then ((qpOf s d ck.qp.toNat).bind fun p => (p.entries.find? fun e => e.serial == ck.serial).bind fun e => e.poster.cluster?) else none
    let (s, r) := landBytes s d cl ck ck.data
    (s, code r, false)

/-- The sender of a chunk learns its outcome, in another module by the answer. -/
def answer (s : State) (d : Nat) (ck : Chunk) (code : Nat) (wsat spilled : Bool) : State :=
  match localDie s ck.home with
  | some h =>
    outcome (modEntry s h ck.qp.toNat ck.serial fun e => { e with wsat := e.wsat || wsat, spilled := e.spilled || spilled })
      h ck.qp.toNat ck.serial code
  | none => sendOut s (.entryEnd d ck.home ck.tag ck.qp.toNat ck.serial code wsat spilled)

/-- RCTR of a READ saturated when its data were sent (06 R159). -/
def readSaturated (s : State) (d : Nat) (ck : Chunk) : Bool :=
  match (qpOf s d ck.qp.toNat).bind fun p => p.entries.find? fun e => e.serial == ck.serial with
  | some e => e.rsat
  | none => false

/-- A chunk lands at a die (06 R157, R161): one of a stale generation is dropped and counted, else its bytes land and, but for a READ's, RCTR rises.
One that meets a migrating page, or waits for another module's die, lacks it, and lands later (10 R262). -/
def landChunk (s : State) (d : Nat) (ck : Chunk) (spilled : Bool) : State :=
  match collOf s d ck.grp.toNat with
  | none => answer s d ck 5 false spilled
  | some g =>
    if g.gen ≠ ck.gen then answer (countStale s d ck.grp.toNat g) d ck 5 false spilled
    else
      let (s, code, wsat) := landData s d ck
      if waitPage ≤ code then lacks s .page
      else if code ≠ 0 then answer s d ck code wsat spilled
      else if ck.op = 3 then answer s d ck (if readSaturated s d ck then 8 else 0) wsat spilled
      else
        let (s, sat) := raiseCtr s d ck.rctr
        answer s d ck (if sat then 8 else 0) wsat spilled

/-- Bytes of staging (06 R160). -/
def stagingSize : Nat := 8 * 2 ^ 20

/-- Bytes of the spill area: a gibibyte of DRAM; the same where it lies in the cellar (DESIGN CHOICE, log 64: 06 R160 gives the size for the die's DRAM
alone). -/
def spillSize : Nat := 2 ^ 30

/-- Bytes that chunks take. -/
def chunkBytes (l : List Chunk) : Nat := (l.map fun c => c.data.length).foldl (· + ·) 0

/-- The landing of a chunk is tried; the flag says that it waits. -/
def landing (s : State) (d : Nat) (ck : Chunk) (spilled : Bool) : State × Bool :=
  asking (.step (.spillRefetch (Fin.ofNat 4 d)) 0 0) s fun s => landChunk s d ck spilled

/-- A chunk that cannot land at once goes to staging, to the spill area, or waits for credit (06 R160). -/
def holdChunk (s : State) (d : Nat) (die : DieId) (chunk : Chunk) : State :=
  let k := dieOf s d
  if mailHas s (.chunkArrive die chunk) then waitCredit s (.chunkArrive die chunk)
  else if k.spill.isEmpty && decide (chunkBytes k.staging + chunk.data.length ≤ stagingSize) then
    modDie s d fun k => { k with staging := k.staging ++ [chunk] }
  else if spillSize < chunkBytes k.spill + chunk.data.length then waitCredit s (.chunkArrive die chunk)
  else modDie s d fun k => { k with spill := k.spill ++ [chunk] }

/-- CHUNK_ARRIVE (06 R157, R160): a chunk lands at once, or is held in staging, or spilled. Whether it can land at once when nothing
is held before it is open (log 1); while chunks are held the order of arrival is kept, and behind one that waits for credit too. -/
def execChunkArrive (die : DieId) (chunk : Chunk) (s : State) : Host.Outcome State Fault Refusal :=
  let d := die.val
  let k := dieOf s d
  let now := bitOf (Config.freeValue s.freeCtr) 0
  let s := bumpFree s
  let first := k.staging.isEmpty && k.spill.isEmpty && !mailHas s (.chunkArrive die chunk)
  if first && now then
    match landing s d chunk false with
    | (t, false) => .next t
    | (t, true) => .next (holdChunk t d die chunk)
  else .next (holdChunk s d die chunk)

/-- SPILL_REFETCH (06 R160): the oldest chunk held lands: those of staging arrived before those spilled. -/
def execSpillRefetch (die : DieId) (s : State) : Host.Outcome State Fault Refusal :=
  let d := die.val
  match (dieOf s d).staging, (dieOf s d).spill with
  | ck :: l, _ =>
    match landing (modDie s d fun k => { k with staging := l }) d ck false with
    | (t, false) => .next t
    | (t, true) => .next (modDie t d fun k => { k with staging := ck :: l })
  | [], ck :: l =>
    match landing (modDie s d fun k => { k with spill := l }) d ck true with
    | (t, false) => .next t
    | (t, true) => .next (modDie t d fun k => { k with spill := ck :: l })
  | [], [] => .next s

/-! ### Completion (06 R158, R159) -/

/-- STAT.WSAT of the context that posted an entry: in its save area while it does not run. -/
def setWsat (s : State) : Poster → State
  | .firmware => s
  | .ctx c x =>
    let t := ctxOf s c x
    if !t.resident then s
    else
      let s := orStat s c x (BitVec.ofNat 64 flagWSAT)
      if (coreOf s c).run = some x ∨ (coreOf s c).hook.isNone ∨ t.fresh then s
      else (engWrite s (clusterOfCore c) t.asid (t.csa.toNat + 0x338) (leBytes 8 (ctxOf s c x).stat.toNat) none).1

/-- The status word of an entry. -/
def statusWord (e : WorkEntry) (code : Nat) : Word :=
  BitVec.ofNat 64 (e.serial + code % 256 * 2 ^ 32 + (e.wsat.toNat + 2 * e.late.toNat + 4 * e.spilled.toNat) * 2 ^ 40)

/-- An entry completes: its counters, its status word, and WSAT. The status word turns full without a release: 09 R235 lists none for it. While
the word's page migrates the entry does not complete yet. -/
def completeEntry (s : State) (d q : Nat) (p : Qp) (e : WorkEntry) (code : Nat) : State :=
  let old := s
  let (s, sat) := if code = 0 ∧ e.rctr then raiseCtr s d e.rctrWord else (s, false)
  let code := if sat then 8 else code
  let (s, sat) := if code = 0 then raiseCtr s d e.lctr else (s, false)
  let code := if sat then 8 else code
  let va := p.ring.toNat + 8 * (e.serial % 64)
  let (s, r) := dieWrite s d none p.asid va (leBytes 8 (statusWord e code).toNat)
  unlessWaits old s r fun s _ =>
    let s := (wordHomes s d p.asid va 8).foldl (fun s p => modDie s p.1 fun k => setFull k p.2 true) s
    let s := if e.wsat then setWsat s e.poster else s
    match qpOf s d q with
    | some p => setQp s d q { p with entries := p.entries.filter fun z => z.serial != e.serial }
    | none => s

/-- An entry waits for the answer of a die of another module, of which nothing but a code need come: a READ's data come in themselves. -/
def awaitsAnswer (s : State) (e : WorkEntry) (code : Nat) : Bool :=
  e.started && (localDie s e.peer).isNone && (e.op != 3 || (code != 0 && code != 8))

/-- The completion of an entry is tried: while it waits for another module's die, or a page, nothing of it is made. -/
def completing (s : State) (die : DieId) (qp : BitVec 8) (p : Qp) (e : WorkEntry) (code : Nat) : State :=
  (asking (.step (.workEntryComplete die qp 0) 0 e.serial) s fun s => completeEntry s die.val qp.toNat p e code).1

/-- WORK_ENTRY_COMPLETE (06 R159): the oldest entry whose outcome is known completes. Without one the oldest entry that was sent to
another module completes with `code`, which its peer's answer brings. -/
def execWorkEntryComplete (die : DieId) (qp : BitVec 8) (code : Nat) (s : State) : Host.Outcome State Fault Refusal :=
  match qpOf s die.val qp.toNat with
  | none => .next s
  | some p =>
    match p.entries.find? fun e => e.code.isSome with
    | some e => .next (completing s die qp p e (e.code.getD 0))
    | none =>
      match p.entries.find? (awaitsAnswer s · code) with
      | some e => .next (completing s die qp p e (if code ≤ 8 then code else 4))
      | none => .next s

/-! ### QPPOST, SCPUT and SCRED (17 R470 to R472) -/

/-- The 64-byte entries of a posting. -/
def postedRaws : Nat → List Byte → List (List Byte)
  | 0, _ => []
  | n + 1, bs => bs.take 64 :: postedRaws n (bs.drop 64)

/-- QPPOST (17 R470). -/
def effQppost (qp : BitVec 8) (a b : SCode) : Eff := fun e s =>
  let t := e.t s
  let d := dieOfCore e.core
  let va := (e.src s a).toNat
  let n := (e.src s b).toNat
  let old := s
  let fin := fun (s : State) (code : Nat) =>
    nothing (modCore (takeSerial s e.core e.ctx) e.core (pushToken · e.ctx 4 t.serial.toNat 0x28 code))
  match qpOf s d qp.toNat with
  | none => fin s 1
  | some p =>
    if n = 0 ∨ 64 < n ∨ va % 64 ≠ 0 ∨ 64 < p.entries.length + n then fin s 1
    else
      let (u, r) := engRead (ownLinesHome s e) (clusterOfCore e.core) t.asid va (64 * n)
      if acceptWaits s e (match r with | .error x => x | .ok _ => 0) then .hold (lackingIn s u) .owner else
      let s := u
      match r with
      | .error _ => fin s 1
      | .ok bs =>
        match postEntries s d qp.toNat t.asid (.ctx e.core e.ctx) (postedRaws n bs) with
        | some s => fin s 0
        | none => .hold old .owner

/-- The record SCPUT sends, or its late cause: that of system space before one of its window, the lower code (10 R271). -/
def scputRecord (s : State) (e : Env) (va : Word) : State × Except (State → Res) (List Byte) :=
  if systemBars s (dieOfCore e.core) va.toNat false then (s, .error fun _ => .late id 0x09 0 0 va) else
  let (s, r) := resolve s (clusterOfCore e.core) (e.t s).asid va.toNat 32 ⟨true, false, false, false⟩
  match r with
  | .error f => (s, .error fun s => gotRes s va (failGot f))
  | .ok (.home _ _ _ _ _ true) => (s, .error fun _ => .late id 0x0A 0x0B 0 va)
  | .ok (.home die pa _ _ _ false) =>
    if badCheck s die pa 32 then (s, .error fun _ => .late (foundBad · die pa 32) 0x0F 0 0 (va &&& ~~~(63 : Word))) else (s, .ok (physRead s die pa 32))
  | .ok (.remote g) =>
    match ask s (dieOfCore e.core) g (e.t s).asid va.toNat (.read 32) with
    | (s, none) => (s, .error fun s => .hold s .remote)
    | (s, some (r, x)) =>
      if r.cause ≠ 0 then (s, .error fun _ => .late id r.cause r.sub r.level va)
      else if !r.p7 then (s, .error fun _ => .late id 0x0A 0x0B 0 va)
      else match x with
        | some x => if x.check ≠ 0 ∧ !r.plain then (s, .error fun _ => .late (countCc · 1) 0x0F 0 0 (va &&& ~~~(63 : Word))) else (s, .ok (x.bytes va.toNat 32))
        | none => (s, .error fun _ => .late id 0x09 0 0 va)
  | .ok _ => (s, .error fun _ => .late id 0x09 0 0 va)

/-- A record goes to every member of its group, and to the leader of a log group that is no member. -/
def sendRecord (s : State) (d id : Nat) (g : Group) (r : List Byte) : State :=
  let i : DieId → Instr := fun e =>
    if g.log then .contributionArrive e (BitVec.ofNat 12 id) g.gen g.rank false r else .reduceRecordArrive e (BitVec.ofNat 12 id) g.gen r
  let s := sendAll s g id d r i
  match if g.log then leaderOf s g else none with
  | some m => if g.members.contains m then s else sendTo s m i id g.gen d r
  | none => s

/-- SCPUT (17 R471). -/
def effScput (grp : BitVec 12) (a : SCode) : Eff := fun e s =>
  let va := e.src s a
  let d := dieOfCore e.core
  if va.toNat % 32 ≠ 0 then .trap 8 va
  else match collOf s d grp.toNat with
    | none => .late id 0x09 0 0 (grp.setWidth 64)
    | some g =>
      let (s, r) := scputRecord (ownLinesHome s e) e va
      match r with
      | .error f => f s
      | .ok bs => nothing (sendRecord s d grp.toNat g bs)

/-- SCRED (17 R472). -/
def effScred (grp : BitVec 12) (a : SCode) : Eff := fun e s =>
  let d := dieOfCore e.core
  match collOf s d grp.toNat with
  | none => .late id 0x09 0 0 (grp.setWidth 64)
  | some g =>
    if g.log then .late id 0x09 0 0 (grp.setWidth 64)
    else
      let v := e.src s a
      nothing (sendAll s g grp.toNat d (leBytes 8 v.toNat) fun z => .scredArrive z grp g.gen g.rank v)
/-- QPPOST (17 R470) alone in a bundle. -/
def execQppost (qp : BitVec 8) (a b : SCode) (s : State) : Host.Outcome State Fault Refusal :=
  issueOne (.qppost qp a b) (effQppost qp a b) s

/-- SCPUT (17 R471) alone in a bundle. -/
def execScput (grp : BitVec 12) (a : SCode) (s : State) : Host.Outcome State Fault Refusal :=
  issueOne (.scput grp a) (effScput grp a) s

/-- SCRED (17 R472) alone in a bundle. -/
def execScred (grp : BitVec 12) (a : SCode) (s : State) : Host.Outcome State Fault Refusal :=
  issueOne (.scred grp a) (effScred grp a) s

end Sys2Proof.Machine
end

