-- ==== Sys2Proof/Machine/Pages.lean ====
section
/-! DEFINITION. Residency of pages (10 R260, R263, 03 R511): pinned pages, page requests, and the reads and writes of firmware. -/

namespace Sys2Proof.Machine

/-! ### Pins (08 R215, 10 R260, 06 R142) -/

/-- The 64 KiB page of an address in an address space. -/
def pageKey (asid va : Nat) : Nat × Nat := (asid, va / 65536 % 2 ^ 48)

/-- The pages that standing groups, queue pairs and work entries of a die hold. -/
def collectivePages (s : State) (d : Nat) : List (Nat × Nat) :=
  let k := dieOf s d
  let rs := fun (a : Nat) (l : List (Nat × Nat)) => (pagesOf l).map fun p => (a, p)
  (k.groups.flatMap fun e =>
    let g := e.2
    rs g.asid ((g.ring.toNat, if g.log then 32 * 2 ^ g.log2n + 64 else 64 + 64 * 32) :: if g.log then [(g.lraddr.toNat, 4)] else [])) ++
  (k.qps.flatMap fun e =>
    rs e.2.asid [(e.2.ring.toNat, 512)] ++ e.2.entries.flatMap fun w => rs w.asid [(fieldOf w.raw 8 8, fieldOf w.raw 32 8)])

/-- The rows of a COPY as ranges of bytes (03 R73). -/
def copyRows (raw : List Byte) (dst : Bool) : List (Nat × Nat) :=
  (List.range (fieldOf raw 56 4)).map fun i =>
    if dst then ((fieldOf raw 40 8 + i * fieldOf raw 72 8) % 2 ^ 64, fieldOf raw 48 8)
    else ((fieldOf raw 32 8 + i * fieldOf raw 64 8) % 2 ^ 64, fieldOf raw 48 8)

/-- The pages that a die's unfinished COPY commands hold from their acceptance on: of their rows and of their FLAG word. -/
def copyPins (s : State) (d : Nat) : List (Nat × Nat) :=
  (dieOf s d).cmds.flatMap fun e =>
    if e.2.type = 4 ∧ (e.2.state = 1 ∨ e.2.state = 2) then
      let f := fieldOf e.2.slot 16 8
      (pagesOf (copyRows e.2.slot true ++ copyRows e.2.slot false ++ if f = 0 then [] else [(f, 8)])).map fun p =>
        (fld (streamOf s d e.2.strm).cfg 63 48, p)
    else []

/-- The pages that accepted engine commands and COPYs hold a reference on. -/
def enginePages (s : State) : List (Nat × Nat) :=
  (s.cores.flatMap fun e => e.2.engs.flatMap (·.held)) ++ (List.range 4).flatMap (copyPins s)

/-- A page is pinned: a word of its frame has waiters, or a reference is held. -/
def pinned (s : State) (home pa asid va : Nat) : Bool :=
  ((dieOf s home).waits.any fun e => e.1 / 8192 == pa / 65536 && e.2) ||
    (enginePages s ++ (List.range 4).flatMap (collectivePages s)).contains (pageKey asid va)

/-- A page lies in a curtain's region or back range. -/
def curtained (s : State) (d asid va : Nat) : Bool := (curtainOf s d asid va).isSome || (curtainBackOf s d asid va).isSome

/-! ### Firmware's accesses (03 R511) -/

/-- Firmware of a die reads n bytes of an address space. -/
def fwRead (s : State) (d asid va n : Nat) : State × Except Nat (List Byte) :=
  dieRead (fetchRange d asid (pagesOf [(va, n)]) s) d none asid va n

/-- A range can be written by firmware of a die: the status of its first failing piece, else 0. -/
def fwWritable (s : State) (d asid va n : Nat) : Nat :=
  if inWindow va n then 2
  else (piecesOf va n).foldl (fun e p =>
    if e ≠ 0 then e
    else match (engLoc s (4 * d) asid p.1 p.2 true).2 with
      | .error e => e
      | .ok _ => 0) 0

/-- Firmware of a die writes bytes: all of them, or none where a piece of the range fails (03 R511). -/
def fwWrite (s : State) (d asid va : Nat) (bs : List Byte) : State × Except Nat Unit :=
  let s := fetchRange d asid (pagesOf [(va, bs.length)]) s
  let e := fwWritable s d asid va bs.length
  if e ≠ 0 then (s, .error e) else dieWrite s d none asid va bs

/-! ### Page requests (10 R263) -/

/-- A page request is served: a page operation begins, or one in progress ends and the request with it; or the request ends in error. The flag
tells that it has ended. -/
def servePgreq (s : State) (d : Nat) (r : PgReq) : State × Bool :=
  let va := outVa s d r.asid r.va.toNat
  let s := fetchTables d r.asid va 4 s
  match walk s d r.asid va with
  | .ok l =>
    if l.log ≠ 16 then (endPgreq s d r true, true)
    else if pteRes l.pte = 0 then (endPgreq s d r false, true)
    else if pteRes l.pte = 1 then (if backingLost s d r.asid va then (endPgreq s d r true, true) else (startMove s d r.asid va l .fetch, false))
    else match moveOf s d r.asid va with
      | none => (s, false)
      | some m =>
        let (s, ok) := endMove s d m
        (endPgreq s d r (m.kind == .fetch && !ok), true)
  | .error (.wait _) => (s, false)
  | .error _ => (endPgreq s d r true, true)

/-- PGREQ_DONE (10 R263): a page request of a die goes on: its page is fetched in two steps, RES := 2 and the publication, and the request ends
when its page does not migrate any more. -/
def execPgreqDone (die : DieId) (index : Nat) (s : State) : Host.Outcome State Fault Refusal :=
  let d := die.val
  match (dieOf s d).pgreqs[index]? with
  | none => .next s
  | some r =>
    let (t, fin) := servePgreq s d r
    .next (if fin then modDie t d fun k => { k with pgreqs := k.pgreqs.eraseIdx index } else t)

end Sys2Proof.Machine
end

