-- ==== Sys2Proof/Machine/Slots.lean ====
section
/-! DEFINITION. Streams and the prompt book (03 R59 to R82, R104, R105): the registers of a stream, the acceptance of slots,
the choice of the next command, and its finish. -/

namespace Sys2Proof.Machine

/-! ### Streams (03 R59 to R62) -/

/-- The state with a stream changed. -/
def modStream (s : State) (d n : Nat) (f : Stream → Stream) : State :=
  modDie s d fun k => { k with streams := tabPut k.streams n (f (tabGet {} k.streams n)) }

/-- STRM_CFG.EN -/
def Stream.en (t : Stream) : Bool := bitOf t.cfg 9
/-- STRM_CFG.DB -/
def Stream.db (t : Stream) : Bool := bitOf t.cfg 8
/-- STRM_CFG.LOG2N -/
def Stream.log2n (t : Stream) : Nat := fld t.cfg 4 0
/-- STRM_CFG.ASID -/
def Stream.asid (t : Stream) : Nat := fld t.cfg 63 48

/-- Firmware accepts and begins commands: it has booted, and the module is neither in S3 nor in S5, nor on its way to S3 (04 R83, R97, R99). -/
def fwRuns (s : State) : Bool := s.mod.booted && decide (s.mod.power < 3) && !s.mod.susp

/-- The commands of a stream in the prompt book, oldest first; the bodies of graph nodes have numbers from 2^64 on and no record. -/
def streamCmds (s : State) (d n : Nat) : List (Nat × Cmd) := (dieOf s d).cmds.filter fun e => e.2.strm == n && decide (e.1 < 2 ^ 64)

/-- A command is not finished: accepted or running. -/
def Cmd.open_ (c : Cmd) : Bool := c.state == 1 || c.state == 2

/-- The record of the next sequence number is still in use (03 R68). -/
def pbFull (s : State) (d : Nat) : Bool :=
  let seq := (dieOf s d).pbSeq + 1
  (dieOf s d).cmds.any fun e => e.1 + 65536 == seq && e.2.open_

/-- STRM_STAT (03 R61). PBWAIT is set while a published slot of an enabled, unhalted stream waits for the record (R68). -/
def strmStat (s : State) (d n : Nat) : Word :=
  let t := streamOf s d n
  let busy := (streamCmds s d n).any fun e => e.2.open_
  let waits := t.pbwait && t.en && !t.halt && pbFull s d
  BitVec.ofNat 64 (t.halt.toNat + 2 * busy.toNat + 4 * waits.toNat + t.code % 256 * 2 ^ 32)

/-! ### The prompt book (03 R77, R78, R81) -/

/-- Physical address of the prompt book in each die's DRAM (DESIGN CHOICE, log 21). -/
def pbPhys : Nat := 0x1FFFC00000

/-- Records of the prompt book. -/
def pbSize : Nat := 65536

/-- The 64 bytes of a record. -/
def recordBytes (cid : Nat) (c : Cmd) : List Byte :=
  let b := leBytes 8 cid ++ leBytes 1 c.strm ++ leBytes 1 (c.depth + c.cls % 4 * 16) ++ leBytes 1 c.type ++ leBytes 1 c.state ++
    leBytes 4 c.slotIx ++ leBytes 8 c.pos.toNat ++ leBytes 8 c.tag.toNat ++ leBytes 8 c.tAcc.toNat ++ leBytes 8 c.tEnd.toNat ++
    leBytes 1 c.err ++ zeros 3 ++ leBytes 4 c.fsum.toNat ++ leBytes 2 c.fcore ++ leBytes 1 c.fcause ++ zeros 1
  b ++ leBytes 4 (crc32c b)

/-- A command's record is written whole. A node's body has no record of its own. -/
def writeRecord (s : State) (d cid : Nat) : State :=
  match cmdOf s d cid with
  | some c => if cid < 2 ^ 64 then physWrite s d (pbPhys + 64 * ((cid - 1) % pbSize)) (recordBytes cid c) else s
  | none => s

/-- A command changes, and its record with it. -/
def putCmd (s : State) (d cid : Nat) (f : Cmd → Cmd) : State := writeRecord (modCmd s d cid f) d cid

/-- PB_FREE. -/
def pbFree (s : State) (d : Nat) : Nat := pbSize - ((dieOf s d).cmds.filter fun e => e.2.open_ && decide (e.1 < 2 ^ 64)).length

/-! ### Fields of a slot (03 R63, R64) -/

/-- The trailer. -/
def trailer (raw : List Byte) : Nat := fieldOf raw 252 4

/-- The bytes from `lo` to `hi` are zero but for the named ranges. -/
def zeroBut (raw : List Byte) (named : List (Nat × Nat)) (lo hi : Nat) : Bool :=
  (List.range (hi - lo)).all fun i => raw.getD (lo + i) 0 == 0 || named.any fun r => decide (r.1 ≤ lo + i) && decide (lo + i < r.2)

/-- The body bytes that a type names (03 R72). -/
def bodyNamed (type : Nat) : List (Nat × Nat) :=
  match type with
  | 1 => [(32, 103), (104, 168)]
  | 2 => [(32, 54), (56, 60)]
  | 3 => [(32, 52)]
  | 4 => [(32, 61), (64, 80)]
  | 5 => [(32, 44)]
  | 6 => [(32, 36), (40, 48)]
  | 7 => [(32, 36), (40, 56)]
  | 8 => [(32, 44)]
  | 9 => [(32, 33), (40, 64)]
  | 10 => [(32, 48)]
  | 12 => [(32, 36), (40, 252)]
  | 13 => [(32, 48)]
  | _ => []

/-- The fields common to every slot fail (03 R63, R64, R67). -/
def commonBad (raw : List Byte) : Bool :=
  let t := trailer raw
  bitsOf t 23 20 != 0 || decide (3 < bitsOf t 15 12) || decide (5 < bitsOf t 19 16) || (bitsOf t 15 12 == 0 && bitsOf t 19 16 != 0) ||
    bitsOf (fieldOf raw 8 4) 30 20 != 0 || bitsOf (fieldOf raw 24 2) 14 8 != 0 || fieldOf raw 26 6 != 0 ||
    !zeroBut raw (bodyNamed (t % 256)) 32 252

/-- The mask of a GANG, TASKS or ORDERED command for a local die; `d` is the command's own. -/
def slotMask (raw : List Byte) (d e : Nat) : BitVec 64 :=
  if trailer raw % 256 = 1 then BitVec.ofNat 64 (fieldOf raw (48 + 8 * e) 8) else if e = d then BitVec.ofNat 64 (fieldOf raw 44 8) else 0

/-- The masked cores of a launch, in ascending order of die and core. -/
def maskedCores (raw : List Byte) (d : Nat) : List Nat :=
  (List.range 4).flatMap fun e => ((List.range 64).filter fun i => (slotMask raw d e).getLsbD i).map (64 * e + ·)

/-- A masked core is outside the pool (05 R102). -/
def badCore (s : State) (raw : List Byte) (d : Nat) : Bool := (maskedCores raw d).any fun c => !inPool s c

/-! ### Acceptance checks (03 R67, R72, R74) -/

/-- Windows of instruction memory an image takes. -/
def imageWindows (bytes : Nat) : Nat := (bytes + 32767) / 32768

/-- A GANG reaches window 7 of a core with a hook (21 R496). -/
def hookBad (s : State) (raw : List Byte) (d : Nat) : Bool :=
  decide (7 < fieldOf raw 100 1 + imageWindows (fieldOf raw 40 4)) && (maskedCores raw d).any fun c => (coreOf s c).hook.isSome

/-- GANG's own checks. -/
def gangCheck (s : State) (d : Nat) (raw : List Byte) : Nat :=
  let n := fieldOf raw 40 4
  let entry := fieldOf raw 44 4
  if n = 0 ∨ 262144 < n ∨ n % 4 ≠ 0 ∨ n ≤ entry ∨ entry % 4 ≠ 0 then 0x03
  else if badCore s raw d then 0x06
  else if 7 < fieldOf raw 100 1 ∨ 1 < fieldOf raw 101 1 ∨ fieldOf raw 102 1 = 1 ∨ 8 < fieldOf raw 102 1 then 0x03
  else if hookBad s raw d then 0x06 else 0

/-- The tasks of a table that firmware reads: its page and its code pages are fetched first (03 R511, 05 R113). -/
def fwTable (s : State) (d asid : Nat) (tab : Word) (n : Nat) (ordered : Bool) : State × Except Nat (List TaskReq) :=
  if inWindow tab.toNat (64 * n) then (s, .error 0x0B)
  else
    let (s, r) := readTable (fetchRange d asid (pagesOf [(tab.toNat, 64 * n)]) s) (4 * d) asid tab n ordered
    match r with
    | .error e => (s, .error e)
    | .ok ts => (fetchRange d asid (pagesOf (ts.map fun t => (t.code.toNat, t.bytes))) s, .ok ts)

/-- The admission of a table when its command is accepted (05 R113): a field out of range, or a task larger than every masked core with the
scratchpad sizes of this moment, refuses it; then a masked core outside the pool does. What else keeps the table from being read shows when the
command begins; a page of it that migrates makes acceptance wait. An ORDERED table that fails here is refused as a TASKS table is, before BAD_CORE
(DESIGN CHOICE, log 64: 03 R72 names for ORDERED only BAD_CORE, and 05 R113 the halt for TASKS). -/
def tableCheck (s : State) (d asid : Nat) (raw : List Byte) (hash ordered : Bool) : State × Nat :=
  let (s, r) := fwTable s d asid (wordAt raw 32) (fieldOf raw 40 4) ordered
  let last := if badCore s raw d then 0x06 else 0
  match r with
  | .error e => (s, if e = 0x03 ∨ e = waitErr then e else last)
  | .ok ts => (s, if ts.all (taskFits s (maskedCores raw d) hash) then last else 0x07)

/-- TASKS' own checks. -/
def tasksCheck (s : State) (d asid : Nat) (raw : List Byte) : State × Nat :=
  if 1 < fieldOf raw 52 1 ∨ 1 < fieldOf raw 53 1 then (s, 0x03) else tableCheck s d asid raw (fieldOf raw 52 1 == 1) false

/-- COPY's own checks (03 R72, 08 R219). -/
def copyCheck (s : State) (d : Nat) (raw : List Byte) : Nat :=
  let mode := fieldOf raw 60 1
  if 3 < mode then 0x03
  else if mode ≠ 3 ∧ !dropsFull s d (fieldOf raw 40 8) ∧ fieldOf raw 48 8 % 8 ≠ 0 then 0x03
  else if sourceBad s d (fieldOf raw 32 8) mode then 0x03 else 0

/-- PAGEOP's own checks (10 R264). -/
def pageopCheck (s : State) (d : Nat) (raw : List Byte) : Nat :=
  let op := fieldOf raw 32 1
  let va := fieldOf raw 40 8
  let n := fieldOf raw 48 8
  let target := fieldOf raw 56 8
  let badTarget :=
    if op = 0 then target != 0
    else if op = 1 then
      target % 65536 != 0 || (match systemTarget s d target with | some t => t == 1 || decide (5 < t) | none => true)
    else decide (255 < target) || target / 4 != va / 2 ^ 56 / 4
  if 2 < op ∨ va % 65536 ≠ 0 ∨ n = 0 ∨ n % 65536 ≠ 0 ∨ badTarget then 0x03 else 0

/-- A type's own acceptance checks: 0, or the code of the first that fails. -/
def typeCheck (s : State) (d asid depth : Nat) (raw : List Byte) : State × Nat :=
  match trailer raw % 256 with
  | 1 => (s, gangCheck s d raw)
  | 2 => tasksCheck s d asid raw
  | 3 => tableCheck s d asid raw false true
  | 4 => (s, copyCheck s d raw)
  | 5 => (s, if fieldOf raw 40 4 = 0 then 0x03 else 0)
  | 8 => (s, if 4 ≤ depth then 0x04 else if fieldOf raw 32 8 % 256 ≠ 0 ∨ fieldOf raw 40 4 = 0 ∨ 65536 < fieldOf raw 40 4 then 0x03 else 0)
  | 9 => (s, pageopCheck s d raw)
  | 10 => (s, if (qpOf s d (fieldOf raw 32 4)).isNone ∨ fieldOf raw 36 4 = 0 ∨ 64 < fieldOf raw 36 4 ∨ fieldOf raw 40 8 % 64 ≠ 0 then 0x03 else 0)
  | 12 => (s, if fieldOf raw 32 4 = 0 ∨ 11 < fieldOf raw 32 4 then 0x10 else 0)
  | 13 => (s, if 63 < fieldOf raw 44 4 ∨ 20544 < fieldOf raw 40 4 then 0x03 else 0)
  | _ => (s, 0)

/-- The checks of a slot in their order (03 R67). -/
def slotCheck (s : State) (d asid depth : Nat) (raw : List Byte) : State × Nat :=
  let t := trailer raw
  let type := t % 256
  let cls := bitsOf t 11 8
  if 13 < type then (s, 0x01)
  else if 3 < cls ∨ (cls = 3 ∧ type ≠ 0 ∧ type ≠ 6 ∧ type ≠ 11) then (s, 0x02)
  else if commonBad raw then (s, 0x03)
  else typeCheck s d asid depth raw

/-! ### What step a command is -/

/-- The step of a FWCALL: by its function, and of SECURITY by its subfunction (03 R75, 04, 06 R142, 08 R222, 21 R496). -/
def fwcallStep (fn sub : Nat) : Option Instr :=
  match fn with
  | 1 => some .setModuleId
  | 2 => some .portbMode
  | 3 => some .swtWrite
  | 4 => some .aperture
  | 5 => some .domainJoin
  | 6 => some .linkRetrain
  | 7 =>
    match sub with
    | 1 => some .raiseMode
    | 2 => some .loadKey
    | 3 => some .dropKey
    | 4 => some .openWindow
    | 5 => some .debugUnlock
    | 6 => some .debugEnd
    | 7 => some .attest
    | 8 => some .gate
    | 9 => some .suspend
    | 10 => some .resume
    | 11 => some .getEkey
    | 12 => some .closeWindow
    | 13 => some .policyWrite
    | _ => none
  | 8 => some .groupSet
  | 9 => some .qpSet
  | 10 => some .coreHook
  | 11 => some .ringSet
  | _ => none

/-- The step that performs a command. -/
def commandStep (c : Cmd) : Option Instr :=
  match c.type with
  | 0 => some .nop
  | 1 => some .gang
  | 2 => some .tasks
  | 3 => some .ordered
  | 4 => some .copy
  | 5 => some .graph
  | 6 => some .ctrset
  | 7 => some .ctrwait
  | 8 => some .indirect
  | 9 =>
    match fieldOf c.slot 32 1 with
    | 0 => some .pageopFetch
    | 1 => some .pageopEvict
    | 2 => some .pageopMigrate
    | _ => none
  | 10 => some .qppostCmd
  | 11 => some .mark
  | 12 => fwcallStep (fieldOf c.slot 32 4) (fieldOf c.slot 40 1)
  | 13 => some .cuesheet
  | _ => none

/-- A command's step becomes due. A SECURITY subfunction that does not exist is an argument out of its range (03 R75). -/
def dueCommand (s : State) (d cid : Nat) : State :=
  match (cmdOf s d cid).bind commandStep with
  | some i => due s i d cid
  | none => finishCmd s d cid 0x03

/-- A command begins (03 R69). -/
def beginCmd (s : State) (d cid : Nat) : State :=
  dueCommand (putCmd s d cid fun c => { c with state := 2, tBeg := (dieOf s d).beat }) d cid

/-! ### INDIRECT (03 R74) -/

/-- The last slot of an INDIRECT's buffer has been accepted, or its buffer ends with a code: it finishes, once it has begun. -/
def indirectDone (s : State) (d cid code : Nat) : State :=
  match cmdOf s d cid with
  | some c => if c.state = 2 then finishCmd s d cid code else modCmd s d cid fun c => { c with err := code }
  | none => s

/-- The buffers of a stream end at a halt: an inner slot that could not be read ends its INDIRECT with the same code, the others finish
clean (DESIGN CHOICE, log 22). -/
def unwind (s : State) (d n code : Nat) : State :=
  let fs := (streamOf s d n).frames
  let s := modStream s d n fun t => { t with frames := [] }
  ((List.range fs.length).zip fs).foldl (fun s p => indirectDone s d p.2.cid (if p.1 = 0 then code else 0)) s

/-- The position in the innermost buffer advances; a buffer that is through leaves. -/
def nextInner (s : State) (d n : Nat) : State :=
  match (streamOf s d n).frames with
  | [] => s
  | f :: fs =>
    if f.count ≤ f.next + 1 then indirectDone (modStream s d n fun t => { t with frames := fs }) d f.cid 0
    else modStream s d n fun t => { t with frames := { f with next := f.next + 1 } :: fs }

/-! ### Acceptance (03 R65 to R68) -/

/-- What an inspection finds. -/
inductive Found where
  /-- nothing published -/
  | nothing
  /-- the ring's slot cannot be read -/
  | unreadable (code : Nat)
  /-- a slot, with the code it is refused with before its checks -/
  | slot (raw : List Byte) (bad : Nat)

/-- The next slot of a stream's ring (03 R65). -/
def ringSlot (s : State) (d : Nat) (t : Stream) : State × Found :=
  let va := fld t.base 63 12 * 4096 + 256 * (t.pos.toNat % 2 ^ t.log2n)
  let want : Byte := if t.pos.toNat / 2 ^ t.log2n % 2 = 0 then 0xA5 else 0x5A
  let (s, v) := fwRead s d t.asid (va + 255) 1
  match v with
  | .error e => (s, .unreadable (accessErr e))
  | .ok b =>
    if b.getD 0 0 ≠ want then (s, .nothing)
    else
      let (s, r) := fwRead s d t.asid va 256
      match r with
      | .error e => (s, .unreadable (accessErr e))
      | .ok raw => (s, .slot raw 0)

/-- The next slot of a buffer (03 R74). The record of an inner slot that cannot be read holds TYPE 0, class 0 and TAG 0: the spec says nothing of
these fields (DESIGN CHOICE, log 22). -/
def innerSlot (s : State) (d : Nat) (t : Stream) (f : Frame) : State × Found :=
  let (s, r) := fwRead s d t.asid (f.addr.toNat + 256 * f.next) 256
  match r with
  | .error e => (s, .slot (zeros 256) (accessErr e))
  | .ok raw => (s, .slot raw (if raw.getD 255 0 = 0xA5 then 0 else 0x05))

/-- The next slot a stream has. -/
def nextSlot (s : State) (d : Nat) (t : Stream) : State × Found :=
  match t.frames with
  | f :: _ => innerSlot s d t f
  | [] => ringSlot s d t

/-- The scratchpad sizes of a die's cores, kept by a command whose task table is admitted with them (05 R113). -/
def tableSizes (s : State) (d type : Nat) : List Nat :=
  if type = 2 ∨ type = 3 then (List.range 64).map fun i => (coreOf s (64 * d + i)).spadUnits else []

/-- The command of an accepted slot. Its INDIRECTs are those of the command that opened its buffer behind that command, so that its depth is one
more, whether or not the outer buffers are through (03 R74); POS is that of the outermost. -/
def slotCmd (s : State) (d n : Nat) (t : Stream) (raw : List Byte) : Cmd :=
  let tr := trailer raw
  let outer := t.frames.head?.bind fun f => (cmdOf s d f.cid).map fun c => (f.cid :: c.anc, c.pos)
  let anc := (outer.map (·.1)).getD []
  { strm := n, depth := anc.length, cls := bitsOf tr 11 8, type := tr % 256, state := 1,
    slotIx := (match t.frames with | f :: _ => f.next | [] => t.pos.toNat % 2 ^ t.log2n), pos := (outer.map (·.2)).getD t.pos, tag := wordAt raw 0,
    tAcc := (dieOf s d).beat, slot := raw, anc := anc, sizes := tableSizes s d (tr % 256),
    first := (match t.frames with | f :: _ => f.next == 0 | [] => false) }

/-- A COPY at its acceptance: its destination pages are marked, or it is refused with a status, which it ends with when it has begun (03 R73, 10 R259).
Pages that are not resident are fetched first (03 R511). -/
def acceptCopyCmd (s : State) (d asid : Nat) (raw : List Byte) : State × Nat :=
  let bytes := fieldOf raw 48 8
  let dsts := copyRows raw true
  let srcs := copyRows raw false
  if bytes = 0 ∨ fieldOf raw 56 4 = 0 then (s, 0)
  else if (dsts ++ srcs).any fun r => inWindow r.1 r.2 then (s, 2)
  else
    let s := fetchRange d asid (pagesOf (dsts ++ srcs)) s
    let st :=
      if fieldOf raw 60 1 ≠ 3 ∧ !dropsFull s d (fieldOf raw 40 8) ∧ runsBad bytes ((srcs.zip dsts).map fun p => (p.1.1, p.2.1)) then 1
      else pagesStatus s (4 * d) asid dsts srcs
    if st ≠ 0 then (s, st) else (markPages s (4 * d) asid (pagesOf dsts), 0)

/-- The stream halts with a code. -/
def haltStream (s : State) (d n code : Nat) : State := modStream s d n fun t => { t with halt := true, code := code }

/-- The acceptance of a slot's body: its checks, and a COPY's pages; the code it is refused with, and the status its COPY is refused with. -/
def acceptBody (s : State) (d asid depth : Nat) (raw : List Byte) : State × Nat × Nat :=
  let (s, code) := slotCheck s d asid depth raw
  if code ≠ 0 ∨ trailer raw % 256 ≠ 4 then (s, code, 0)
  else
    let (s, st) := acceptCopyCmd s d asid raw
    if waitPage ≤ st then (s, waitErr, 0) else (s, 0, st)

/-- A slot enters the prompt book (03 R67): one action. While a page that its checks read migrates nothing happens, and the slot is inspected again. -/
def enterSlot (s : State) (d n : Nat) (t : Stream) (raw : List Byte) (bad : Nat) : State :=
  let seq := (dieOf s d).pbSeq + 1
  let c := slotCmd s d n t raw
  let (s, code, st) := if bad ≠ 0 then (s, bad, 0) else acceptBody s d t.asid c.depth raw
  if code = waitErr then lacks s .page else
  let s := modDie s d fun k => { k with pbSeq := seq, cmds := tabPut (k.cmds.filter fun e => e.1 + pbSize != seq) seq { c with refusal := st } }
  let s := modStream s d n fun t => { t with pbwait := false, pos := if t.frames.isEmpty then t.pos + 1 else t.pos }
  if code ≠ 0 then
    let s := putCmd s d seq fun c => { c with state := 4, err := code, tEnd := (dieOf s d).beat }
    unwind (haltStream s d n code) d n (if bad = 0x05 then 0 else bad)
  else
    let s := nextInner (writeRecord s d seq) d n
    let s := if c.type = 8 then
        modStream s d n fun t => { t with frames := ⟨seq, wordAt raw 32, fieldOf raw 40 4, 0⟩ :: t.frames } else s
    let s := if c.cls = 3 then beginCmd s d seq else s
    deliver (deliver s (.commandSelect (Fin.ofNat 4 d))) (.slotAccept (Fin.ofNat 4 d) (Fin.ofNat 64 n))

/-- Firmware inspects the next slot of an enabled, unhalted stream and accepts it when it is published. -/
def inspectSlot (s : State) (d n : Nat) : State :=
  let t := streamOf s d n
  if !fwRuns s || !t.en || t.halt || (t.db && !t.rung) then s
  else
    let (s, f) := nextSlot s d t
    match f with
    | .nothing => modStream s d n fun t => { t with rung := false, pbwait := false }
    | .unreadable code => if code = waitErr then lacks s .page else haltStream s d n code
    | .slot raw bad =>
      if bad = waitErr then lacks s .page
      else if pbFull s d then modStream s d n fun t => { t with pbwait := true }
      else enterSlot s d n t raw bad

/-- SLOT_ACCEPT (03 R67). -/
def execSlotAccept (die : DieId) (strm : StreamId) (s : State) : Host.Outcome State Fault Refusal :=
  .next (asking (.step (.slotAccept die strm) 0 0) s fun s => inspectSlot s die.val strm.val).1

/-- POLL_INTERVAL (03 R62): every enabled, unhalted stream that is polled, or that a doorbell has woken, is inspected. -/
def execPollInterval (die : DieId) (s : State) : Host.Outcome State Fault Refusal :=
  if !fwRuns s then .next s
  else
    .next ((dieOf s die.val).streams.foldl (fun s e =>
      if e.2.en && !e.2.halt && (!e.2.db || e.2.rung) then deliver s (.slotAccept die (Fin.ofNat 64 e.1)) else s) s)

/-! ### Stream registers (03 R60 to R62, R80) -/

/-- The fields of STRM_CFG that software writes. -/
def strmCfgMask : Word := 0xFFFF0000000003DF

/-- The value written to STRM_CFG: the fields but EN are stored while EN is 0; EN goes to 1 when LOG2N and BASE pass. -/
def writeCfg (s : State) (d n : Nat) (v : Word) : State :=
  let t := streamOf s d n
  if t.en then (if bitOf v 9 then s else modStream s d n fun t => { t with cfg := setFld t.cfg 9 9 0 })
  else
    let t := { t with cfg := setFld v 9 9 0 }
    let s := modStream s d n fun _ => t
    if !bitOf v 9 then s
    else if t.log2n < 4 ∨ 16 < t.log2n then modStream s d n fun t => { t with code := 0x03 }
    else
      let (s, r) := fwRead s d t.asid (fld t.base 63 12 * 4096) 1
      match r with
      | .error e => if waitPage ≤ e then lacks s .page else modStream s d n fun t => { t with code := 0x0B }
      | .ok _ => modStream s d n fun t => { t with cfg := v }

/-- STRM_CFG_WRITE (03 R60, R61): while the look at BASE waits, for a page that migrates or for another module's die, so does the write. In S3 and S5
the register does not answer, so no ring is read (04 R98, R99). -/
def execStrmCfgWrite (die : DieId) (strm : StreamId) (value : Word) (s : State) : Host.Outcome State Fault Refusal :=
  if 3 ≤ s.mod.power then .next s
  else
    let i := Instr.strmCfgWrite die strm value
    let r := asking (.step i 0 0) s fun s => writeCfg s die.val strm.val (value &&& strmCfgMask)
    .next (if r.2 then postpone r.1 i 0 0 else r.1)

/-- STRM_CTL_ZERO (03 R61). What it does to INDIRECT buffers that are open on the stream the spec leaves open; the model keeps them and sets POS alone
(DESIGN CHOICE, log 22). In S3 and S5 the register does not answer (04 R98, R99), as for the other actions of STRM_CTL. -/
def execStrmCtlZero (die : DieId) (strm : StreamId) (s : State) : Host.Outcome State Fault Refusal :=
  .next (if 3 ≤ s.mod.power ∨ (streamOf s die.val strm.val).en then s else modStream s die.val strm.val fun t => { t with pos := 0 })

/-- The buffers that go with a cancelled INDIRECT, innermost first, and those that stay. -/
def cutFrames (s : State) (d : Nat) : List Frame → List Frame × List Frame
  | [] => ([], [])
  | f :: fs =>
    let (cut, keep) := cutFrames s d fs
    if !cut.isEmpty || ((cmdOf s d f.cid).map (·.state)) == some 5 then (f :: cut, keep) else (cut, f :: keep)

/-- STRM_CTL_ABORT (03 R80): the accepted commands of the stream that have not started are cancelled. The buffer of a cancelled INDIRECT
ends, and those opened from it (DESIGN CHOICE, log 22). -/
def execStrmCtlAbort (die : DieId) (strm : StreamId) (s : State) : Host.Outcome State Fault Refusal :=
  if 3 ≤ s.mod.power then .next s else
  let d := die.val
  let n := strm.val
  let beat := (dieOf s d).beat
  let s := ((streamCmds s d n).filter fun e => e.2.state == 1).foldl
    (fun s e => putCmd s d e.1 fun c => { c with state := 5, err := 0x11, tEnd := beat }) s
  let (cut, keep) := cutFrames s d (streamOf s d n).frames
  let s := modStream s d n fun t => { t with frames := keep }
  let s := cut.foldl (fun s f => match cmdOf s d f.cid with | some c => if c.state = 2 then finishCmd s d f.cid 0 else s | none => s) s
  .next (deliver s (.commandSelect die))

/-- STRM_CTL_RESUME (03 R67). -/
def execStrmCtlResume (die : DieId) (strm : StreamId) (s : State) : Host.Outcome State Fault Refusal :=
  if (streamOf s die.val strm.val).halt ∧ s.mod.power < 3 then
    .next (deliver (modStream s die.val strm.val fun t => { t with halt := false }) (.slotAccept die strm))
  else .next s

/-- STRM_DB (03 R62, 04 R98): an enabled doorbell-mode stream is woken; in S3 the return to A0 starts. -/
def execStrmDb (die : DieId) (strm : StreamId) (s : State) : Host.Outcome State Fault Refusal :=
  let t := streamOf s die.val strm.val
  let s := if t.en && t.db then deliver (modStream s die.val strm.val fun t => { t with rung := true }) (.slotAccept die strm) else s
  .next (if s.mod.power = 3 then { s with agenda := ⟨.s3Return die, {}⟩ :: s.agenda } else s)

/-! ### Choosing what begins (03 R69, 05 R104, R105) -/

/-- An earlier command of a class keeps one of class `cls` from beginning until it has finished. -/
def blocks (cls earlier : Nat) : Bool :=
  match cls with
  | 0 => earlier == 0 || earlier == 2
  | 1 => earlier == 2
  | 2 => earlier == 0 || earlier == 1 || earlier == 2
  | _ => false

/-- An accepted command may begin. An INDIRECT's class orders the first slot of its buffer alone (03 R74). A node's body may begin at once (05 R129). -/
def mayBegin (s : State) (d cid : Nat) (c : Cmd) : Bool :=
  c.state == 1 && (c.node.isSome ||
    (!c.first || (match c.anc.head?.bind (cmdOf s d) with | some k => k.state != 1 | none => true)) &&
    (streamCmds s d c.strm).all fun e => decide (cid ≤ e.1) || !e.2.open_ || c.anc.contains e.1 || !blocks c.cls e.2.cls)

/-- The oldest command of a stream that may begin, the bodies of its graphs' nodes behind the others (05 R106; DESIGN CHOICE, log 27). -/
def readyCmd (s : State) (d n : Nat) : Option Nat :=
  ((dieOf s d).cmds.find? fun e => e.2.strm == n && mayBegin s d e.1 e.2).map (·.1)

/-- The wait of every stream's oldest ready command is counted from now, or no more (05 R105). -/
def noteReady (s : State) (d : Nat) : State :=
  (dieOf s d).streams.foldl (fun s e =>
    match readyCmd s d e.1, e.2.since with
    | some _, none => modStream s d e.1 fun t => { t with since := some (dieOf s d).beat }
    | none, some _ => modStream s d e.1 fun t => { t with since := none }
    | _, _ => s) s

/-- The place of stream n in the round of its priority, which starts behind the stream served last. -/
def roundPlace (s : State) (d p n : Nat) : Nat := (n + 63 - tabGet 63 (dieOf s d).served p) % 64

/-- The stream whose command begins next, and the command. -/
def chooseStream (s : State) (d : Nat) : Option (Nat × Nat) :=
  ((dieOf s d).cmds.map (·.2.strm)).foldl (fun best n =>
    match readyCmd s d n with
    | none => best
    | some cid =>
      let p := effPrio (streamOf s d n)
      match best with
      | none => some (n, cid)
      | some (m, _) =>
        let q := effPrio (streamOf s d m)
        if q < p ∨ (p = q ∧ roundPlace s d p n < roundPlace s d p m) then some (n, cid) else best) none

/-- COMMAND_SELECT (05 R104): the chosen command begins, and the choice is made again. -/
def execCommandSelect (die : DieId) (s : State) : Host.Outcome State Fault Refusal :=
  let d := die.val
  if !fwRuns s then .next s
  else match chooseStream s d with
    | none => .next (noteReady s d)
    | some (n, cid) =>
      let p := effPrio (streamOf s d n)
      let s := modDie s d fun k => { k with served := tabPut k.served p n }
      let s := modStream s d n fun t => { t with raised := 0, since := none }
      .next (deliver (noteReady (beginCmd s d cid) d) (.commandSelect die))

/-- Beats in 2^20 fabric cycles (01 R32: a beat is 16 of them). -/
def ageBeats : Nat := 65536

/-- A stream whose oldest ready command has waited long enough to be raised (05 R105). -/
def aged (s : State) (d : Nat) (t : Stream) : Bool :=
  match t.since with
  | some b => decide (ageBeats ≤ ((dieOf s d).beat - b).toNat)
  | none => false

/-- STREAM_AGING (05 R105): the stream is raised one level, to at most 3, when its ready command has waited 2^20 fabric cycles, and the wait
counts anew. -/
def execStreamAging (die : DieId) (strm : StreamId) (s : State) : Host.Outcome State Fault Refusal :=
  let t := streamOf s die.val strm.val
  .next (if (readyCmd s die.val strm.val).isSome && aged s die.val t then
    modStream s die.val strm.val fun t =>
      { t with raised := if effPrio t < 3 then t.raised + 1 else t.raised, since := some (dieOf s die.val).beat } else s)

/-! ### Finishing (03 R70, R71) -/

/-- The byte of the MSI-X table and pending-bit array: a vector is masked at reset (PRESUMED: the PCI family's; log 23). -/
def msixByte (s : State) (a : Nat) : Byte := memGet s.mod.msix a ^^^ (if a < 4096 ∧ a % 16 = 12 then 1 else 0)

/-- The MSI-X bytes with one written. -/
def setMsix (s : State) (a : Nat) (b : Byte) : State :=
  { s with mod := { s.mod with msix := memWrite s.mod.msix a [b ^^^ (if a < 4096 ∧ a % 16 = 12 then 1 else 0)] } }

/-- The MSI-X message of a vector is sent; a masked vector stays pending. -/
def sendMsix (s : State) (v : Nat) : State :=
  if (msixByte s (16 * v + 12)).getLsbD 0 then
    let a := 0x2000 + v / 8
    setMsix s a (msixByte s a ||| BitVec.ofNat 8 (2 ^ (v % 8)))
  else sendOut s (.msix v)

/-- The word at FLAG takes a value and turns full (03 R71): the code of a failure. Outside the module F is dropped (08 R219). In a curtain region FLAG
lands in the front (DESIGN CHOICE, log 64: 09 R241 sends engine and collective writes to the back and does not name a command's FLAG). -/
def storeFlag (s : State) (d asid : Nat) (flag : Nat) (v : Word) (scope : Nat) : State × Nat :=
  if flag % 8 ≠ 0 ∨ inWindow flag 8 then (s, 0x0B)
  else
    let (s, r) := resolve (fetchRange d asid (pagesOf [(flag, 8)]) s) (4 * d) asid flag 8 ⟨false, true, false, false⟩
    match r with
    | .ok (.home die pa _ _ _ false) =>
      (postRelease (setFullRange (physWrite s die pa (leBytes 8 v.toNat)) die pa 8 (some true)) die ⟨.word pa, .die d, actingScope (.die d) scope⟩, 0)
    | .ok (.system target _ a) => (systemWrite s target a (leBytes 8 v.toNat) false, 0)
    | .ok (.remote g) =>
      match ask s d g asid flag (.write (leBytes 8 v.toNat) (.flag (actingScope (.die d) scope))) with
      | (s, none) => (s, waitErr)
      | (s, some (r, _)) => (s, if replyStatus r = 0 then 0 else accessErr (replyStatus r))
    | .ok _ => (s, 0x0B)
    | .error f => (s, accessErr (failStatus f))

/-- The record takes an error found in its completion actions. -/
def cmdErr (s : State) (d cid code : Nat) : State := if code = 0 then s else putCmd s d cid fun c => { c with state := 4, err := code }

/-- The scope of a command's completion release (03 R70). -/
def finishScope (c : Cmd) : Nat := if bitOf (BitVec.ofNat 32 (trailer c.slot)) 13 then bitsOf (trailer c.slot) 19 16 else 2

/-- The counter of a completion (03 R71 step 2): a counter that cannot be reached gives TRANSL (DESIGN CHOICE, log 22). -/
def finishCtr (s : State) (d : Nat) (c : Cmd) : State × Nat :=
  let f := fieldOf c.slot 8 4
  if f / 2 ^ 31 = 0 then (s, 0)
  else if !routed s (ctrDie (f % 2 ^ 20)) then (s, 0x0B)
  else
    let (s, sat) := ctrRelease s (f % 2 ^ 20) (BitVec.ofNat 64 (fieldOf c.slot 12 4)) (.die d) (finishScope c)
    (s, if sat then 0x0F else 0)

/-- The address space of a command: its stream's present one. Which one holds for commands accepted before STRM_CFG.ASID was rewritten with EN = 0
the spec leaves open (DESIGN CHOICE, log 22). -/
def cmdAsid (s : State) (d : Nat) (c : Cmd) : Nat := (streamOf s d c.strm).asid

/-- The sequence number that a completion stores: a node's body has none of its own (log 1). -/
def seqWord (s : State) (cid : Nat) : State × Word :=
  if cid < 2 ^ 64 then (s, BitVec.ofNat 64 cid) else (bumpFree s, Config.freeValue s.freeCtr)

/-- A command ends at its begin with a code that halts its stream (03 R79); a node's body stands in no stream, and ends its node (05 R129). -/
def finishHalt (s : State) (d cid code : Nat) : State :=
  match cmdOf s d cid with
  | some c => finishCmd (if c.node.isSome then s else haltStream s d c.strm code) d cid code
  | none => s

/-- An acquire of a command's FENCE (03 R70): the cores it launches work on drop their lines, so that what was released before it began is
read. -/
def acquireFence (s : State) (c : Cmd) (cores : List Nat) : State :=
  if bitOf (BitVec.ofNat 32 (trailer c.slot)) 12 then cores.foldl dropAllClean s else s

/-- The four completion actions in their order (03 R71). They wait for a FLAG whose page migrates (10 R262), and for the dies of other modules. -/
def completionActions (s : State) (d cid : Nat) (c : Cmd) : State :=
  let s := putCmd s d cid fun c => { c with state := if c.err = 0 then 3 else 4, tEnd := (dieOf s d).beat }
  let (s, e) := finishCtr s d c
  let s := cmdErr s d cid e
  let flag := fieldOf c.slot 16 8
  let s := if flag = 0 then s
    else
      let (s, v) := seqWord s cid
      let (s, e) := storeFlag s d (cmdAsid s d c) flag v (finishScope c)
      if e = waitErr then lacks s .page else cmdErr s d cid e
  let irq := fieldOf c.slot 24 2
  if irq / 2 ^ 15 = 1 then sendMsix s (irq % 256) else s

/-- A core's first-level lines are written back and dropped. -/
def emptyL1 (s : State) (c : Nat) : State := dropAllClean s c

/-- The clusters of a launch: 4 times die plus cluster. -/
def launchClusters (raw : List Byte) (d : Nat) : List Nat :=
  (maskedCores raw d).foldl (fun l c => if l.contains (clusterOfCore c) then l else l ++ [clusterOfCore c]) []

/-- A launch fuses the first-level caches of its clusters (05 R110). -/
def fuses (c : Cmd) : Bool := (c.type == 1 && fieldOf c.slot 101 1 == 1) || (c.type == 2 && fieldOf c.slot 53 1 == 1)

/-- The first-level caches of a cluster are fused, or private again: their lines are written back and dropped. -/
def setFused (s : State) (k : Nat) (on : Bool) : State :=
  let s := (List.range 16).foldl (fun s j => emptyL1 s (16 * k + j)) s
  modDie s (k / 4) fun x => { x with fused := setFld x.fused (k % 4) (k % 4) on.toNat }

/-- What a command's end releases: the caches it fused. -/
def releaseLaunch (s : State) (d : Nat) (c : Cmd) : State :=
  if fuses c && c.work != .none then (launchClusters c.slot d).foldl (fun s k => setFused s k false) s else s

/-- The command in hand finishes, a node ends with its body, and commands that it held back may begin. -/
def finishNow (s : State) (d cid : Nat) (c : Cmd) : State :=
  let s := completionActions (releaseLaunch s d c) d cid c
  let s := match c.node with
    | some (g, n) => deliver s (.graphNodeEnd (Fin.ofNat 4 d) g n)
    | none => s
  deliver s (.commandSelect (Fin.ofNat 4 d))

/-- COMMAND_FINISH (03 R71). -/
def execCommandFinish (s : State) : Host.Outcome State Fault Refusal :=
  let d := s.focus.die
  let cid := s.focus.cid
  match cmdOf s d cid with
  | none => .next s
  | some c =>
    if c.state ≠ 2 then .next s
    else
      let r := asking (.step .commandFinish d cid) s fun s => finishNow s d cid c
      .next (if r.2 then postpone r.1 .commandFinish d cid else r.1)

end Sys2Proof.Machine
end

