-- ==== Sys2Proof/Machine/Commands.lean ====
section
/-! DEFINITION. The commands of streams (03 R72, R73, 05 R107 to R127, 10 R264 to R266, 08 R203): what each does on the command in hand. -/

namespace Sys2Proof.Machine

/-! ### The command in hand -/

/-- The command waits and is tried again. -/
def waitCmd (s : State) (d cid : Nat) : State := modCmd s d cid fun c => { c with waits := true }

/-- A step acts on the command in hand while it runs; it waits as a whole for a page that migrates and for the dies of other modules. -/
def withCmd (f : State → Nat → Nat → Cmd → State) (s : State) : Host.Outcome State Fault Refusal :=
  let d := s.focus.die
  let cid := s.focus.cid
  match cmdOf s d cid with
  | some c =>
    if c.state ≠ 2 then .next s
    else
      let r := asking (.cmd d cid) s fun s => f s d cid c
      .next (if r.2 then waitCmd r.1 d cid else r.1)
  | none => .next s

/-- NOP (03 R73). -/
def execNop (s : State) : Host.Outcome State Fault Refusal := withCmd (fun s d cid _ => finishCmd s d cid 0) s

/-- MARK (03 R73). -/
def execMark (s : State) : Host.Outcome State Fault Refusal := withCmd (fun s d cid _ => finishCmd s d cid 0) s

/-- INDIRECT (03 R74): it finishes when its last slot has been accepted. -/
def execIndirect (s : State) : Host.Outcome State Fault Refusal :=
  withCmd (fun s d cid c => if (streamOf s d c.strm).frames.any fun f => f.cid == cid then s else finishCmd s d cid c.err) s

/-! ### Counters (03 R73) -/

/-- CTRSET: the counter takes the value, one of another module's die by a request to it; one that cannot be reached gives TRANSL (DESIGN CHOICE, log 22). -/
def runCtrset (s : State) (d cid : Nat) (c : Cmd) : State :=
  let id := fieldOf c.slot 32 4 % 2 ^ 20
  if !routed s (ctrDie id) then finishCmd s d cid 0x0B else finishCmd (payAll (ctrWrite s d id (wordAt c.slot 40))) d cid 0

/-- CTRSET (03 R73). -/
def execCtrset (s : State) : Host.Outcome State Fault Refusal := withCmd runCtrset s

/-- The counter of a CTRWAIT has reached its threshold; one of another module's die when that die has said so. -/
def ctrReached (s : State) (d cid : Nat) (c : Cmd) : Bool :=
  let id := fieldOf c.slot 32 4 % 2 ^ 20
  match localDie s (ctrDie id) with
  | some k => decide (fieldOf c.slot 40 8 ≤ (ctrVal s k (ctrIdx id)).toNat)
  | none => s.mod.exchanges.any fun x => x.asker == .cmd d cid && x.reply.isSome

/-- CTRWAIT. A counter of another module's die is asked for once, and answers when it has reached the threshold. -/
def runCtrwait (s : State) (d cid : Nat) (c : Cmd) : State :=
  let id := fieldOf c.slot 32 4 % 2 ^ 20
  if !routed s (ctrDie id) then finishCmd s d cid 0x0B
  else if (localDie s (ctrDie id)).isNone then
    match ask s d (ctrDie id) 0 id (.ctrGet (wordAt c.slot 40) 0) with
    | (s, some _) => finishCmd s d cid 0
    | (s, none) => s
  else if ctrReached s d cid c then finishCmd s d cid 0 else waitCmd s d cid

/-- CTRWAIT (03 R73). -/
def execCtrwait (s : State) : Host.Outcome State Fault Refusal := withCmd runCtrwait s

/-- The timeout of a CTRWAIT has passed: fabric cycles since it began, 16 a beat. -/
def timedOut (s : State) (d : Nat) (c : Cmd) : Bool :=
  let t := fieldOf c.slot 48 8
  c.type == 7 && t != 0 && decide (t ≤ 16 * ((dieOf s d).beat - c.tBeg).toNat)

/-- CTRWAIT_TIMEOUT (03 R73). -/
def execCtrwaitTimeout (s : State) : Host.Outcome State Fault Refusal :=
  withCmd (fun s d cid c => if timedOut s d c && !ctrReached s d cid c then finishCmd s d cid 0x08 else s) s

/-! ### COPY (03 R73, 10 R259, R260) -/

/-- The core whose cluster's engine a die's firmware uses: its own. -/
def fwCoreOf (s : State) (d : Nat) : Nat := 64 * d + tabGet 0 s.mod.fwCore d

/-- COPY: its engine command is placed, or the command ends with what its acceptance refused it with (10 R259). -/
def runCopyCmd (s : State) (d cid : Nat) (c : Cmd) : State :=
  let raw := c.slot
  let bytes := fieldOf raw 48 8
  let rows := fieldOf raw 56 4
  let asid := cmdAsid s d c
  if bytes = 0 ∨ rows = 0 then finishCmd s d cid 0
  else if c.refusal ≠ 0 then finishCmd s d cid (engErr c.refusal)
  else
    let e : EngCmd := { owner := .firmware d cid, asid := asid, op := 0, serial := 0, tok := false, cnt := 0, flag := 0,
                        work := .copy (wordAt raw 32) (wordAt raw 40) [rows] [wordAt raw 64] [wordAt raw 72] bytes (fieldOf raw 60 1),
                        status := 0, held := heldPages asid (copyRows raw true ++ copyRows raw false) 0, since := s.clock }
    modCore s (fwCoreOf s d) fun k => { k with engs := k.engs ++ [e] }

/-- COPY (03 R73). -/
def execCopy (s : State) : Host.Outcome State Fault Refusal := withCmd runCopyCmd s

/-! ### GANG (05 R107 to R111) -/

/-- A resident context of a core holds one of n context slots from x on. -/
def slotsTaken (s : State) (c x n : Nat) : Bool :=
  (coreOf s c).ctxs.any fun p => p.2.status != .none &&
    ((decide (x ≤ p.1) && decide (p.1 < x + n)) ||
     p.2.res.windows.any fun w => decide (w.1 < 0x8000 * (x + n)) && decide (0x8000 * x < w.1 + w.2))

/-- A core holds a resident context. -/
def occupied (s : State) (c : Nat) : Bool := (coreOf s c).ctxs.any fun p => p.2.status != .none

/-- The first-level caches a launch needs are not free for it (05 R110). -/
def cachesBusy (s : State) (raw : List Byte) (d : Nat) (fuse : Bool) : Bool :=
  (launchClusters raw d).any fun k =>
    (dieOf s (k / 4)).fused.getLsbD (k % 4) ||
      (fuse && (List.range 16).any fun j => inPool s (16 * k + j) && (!(maskedCores raw d).contains (16 * k + j) || occupied s (16 * k + j)))

/-- A GANG has to wait: for its context slots, for another scratchpad size, for its caches. -/
def gangBlocked (s : State) (raw : List Byte) (d : Nat) : Bool :=
  let u := fieldOf raw 102 1
  (maskedCores raw d).any (fun c => slotsTaken s c (fieldOf raw 100 1) (imageWindows (fieldOf raw 40 4)) ||
    (u != 0 && u != (coreOf s c).spadUnits && occupied s c)) || cachesBusy s raw d (fieldOf raw 101 1 == 1)

/-- A preset entry checked. -/
inductive Preset where
  /-- a counter takes a value -/
  | ctr (id : Nat) (v : Word)
  /-- a word of a die turns full or empty -/
  | word (die pa : Nat) (full : Bool)
  /-- a word of another module's die, and its address space -/
  | remote (gdie asid : Nat) (va : Word) (full : Bool)
  deriving DecidableEq, Repr

/-- A preset's word (03 R72). -/
def presetWord (s : State) (d asid : Nat) (va : Word) (full : Bool) : State × Except Nat Preset :=
  if va.toNat % 8 ≠ 0 then (s, .error 0x03)
  else if inWindow va.toNat 8 then (s, .error 0x0B)
  else
    let (s, r) := resolve (fetchRange d asid (pagesOf [(va.toNat, 8)]) s) (4 * d) asid va.toNat 8 ⟨true, true, false, false⟩
    match r with
    | .ok (.home die pa _ _ _ false) => (s, .ok (.word die pa full))
    | .ok (.home _ _ _ _ _ true) => (s, .error 0x0B)
    | .ok (.remote g) =>
      match ask s d g asid va.toNat (.probe true true) with
      | (s, none) => (s, .error waitErr)
      | (s, some (r, _)) => (s, if replyStatus r = 0 then .ok (.remote g asid va full) else .error (accessErr (replyStatus r)))
    | .ok _ => (s, .error 0x0C)
    | .error f => (s, .error (accessErr (failStatus f)))

/-- The check of one preset entry. -/
def presetCheck (s : State) (d asid : Nat) (e : List Byte) : State × Except Nat Preset :=
  let kind := fieldOf e 0 1
  let id := fieldOf e 4 4 % 2 ^ 20
  if kind = 0 ∨ 3 < kind ∨ fieldOf e 1 3 ≠ 0 then (s, .error 0x03)
  else if kind = 1 then (s, if routed s (ctrDie id) then .ok (.ctr id (wordAt e 8)) else .error 0x0B)
  else presetWord s d asid (wordAt e 8) (kind == 2)

/-- Every entry of a preset table is checked before the first is applied. -/
def presetChecks (d asid : Nat) : Nat → List Byte → State → State × Except Nat (List Preset)
  | 0, _, s => (s, .ok [])
  | n + 1, bs, s =>
    let (s, r) := presetCheck s d asid (bs.take 16)
    match r with
    | .error e => (s, .error e)
    | .ok p =>
      let (s, r) := presetChecks d asid n (bs.drop 16) s
      (s, r.map (p :: ·))

/-- The presets of a GANG. -/
def presetsOf (s : State) (d asid : Nat) (raw : List Byte) : State × Except Nat (List Preset) :=
  let n := fieldOf raw 96 4
  if n = 0 then (s, .ok [])
  else
    let (s, r) := fwRead s d asid (fieldOf raw 88 8) (16 * n)
    match r with
    | .error e => (s, .error (accessErr e))
    | .ok bs => presetChecks d asid n bs s

/-- A preset is applied, visible at domain scope. -/
def applyPreset (d : Nat) (s : State) : Preset → State
  | .ctr id v => ctrWrite s d id v
  | .word die pa f =>
    postRelease (clearReleases (wakeWord (modDie s die fun k => setFull k pa f) die (pa / 8)) die (.word pa)) die ⟨.word pa, .die d, 4⟩
  | .remote g asid va f => (ask s d g asid va.toNat (.fe 7 (BitVec.ofNat 64 f.toNat) 4 2 none)).1

/-- The image enters a core's instruction memory from window x on. -/
def loadImage (s : State) (c x : Nat) (bs : List Byte) : State :=
  modCore s c fun k => { k with imem := memWrite k.imem (0x8000 * x) bs,
                                loaded := (List.range (imageWindows bs.length)).foldl (fun t i => tabDel t (x + i)) k.loaded }

/-- A core's scratchpad takes the size a GANG fixes; the move is over before the image is loaded (05 R110). -/
def gangSize (s : State) (c u : Nat) : State :=
  if u = 0 ∨ u = (coreOf s c).spadUnits then s else modCore (moveBoundary s c u) c fun k => { k with drain := none }

/-- The context of a gang member before its release (05 R109). -/
def gangCtx (raw : List Byte) (d cid asid strm c rank n : Nat) : Ctx :=
  let x := fieldOf raw 100 1
  { status := .loaded, asid := asid, launch := .gang d cid, strm := (d, strm), pool := slotMask raw d (dieOfCore c),
    res := { windows := [(0x8000 * x, 0x8000 * imageWindows (fieldOf raw 40 4))] },
    s := initialS ((List.range 8).map (fun i => wordAt raw (104 + 8 * i)) ++ [BitVec.ofNat 64 rank, BitVec.ofNat 64 n]),
    pc := BitVec.ofNat 18 (0x8000 * x + fieldOf raw 44 4) }

/-- A member is resident and waits for its release. -/
def placeMember (s : State) (d cid : Nat) (c : Cmd) (core rank n : Nat) : State :=
  let x := fieldOf c.slot 100 1
  let (s, tv, csa) := trapRegs s core x
  setCtx s core x { gangCtx c.slot d cid (cmdAsid s d c) c.strm core rank n with tvec := tv, csa := csa }

/-- The beat of a gang's release: the body's, when it lies at least 2 beats ahead of every die named, else the earliest that does (05 R108). -/
def releaseBeat (s : State) (d : Nat) (raw : List Byte) : Nat :=
  max (fieldOf raw 80 8) ((maskedCores raw d).foldl (fun m c => max m (dieOf s (dieOfCore c)).beat.toNat) 0 + 2)

/-- A measured item is extended into MEAS_RUN (04 R85). -/
def measure (s : State) (item : List Byte) : State :=
  { s with mod := { s.mod with sec := { s.mod.sec with measRun := extend s.mod.sec.measRun item } } }

/-- Steps 2 and 3 of a GANG: sizes and caches, the image, the presets, and its members in place. -/
def loadGang (s : State) (d cid : Nat) (c : Cmd) (img : List Byte) (ps : List Preset) : State :=
  let raw := c.slot
  let cores := maskedCores raw d
  let s := cores.foldl (fun s k => gangSize s k (fieldOf raw 102 1)) (acquireFence (measure s img) c cores)
  let s := if fieldOf raw 101 1 = 1 then (launchClusters raw d).foldl (fun s k => setFused s k true) s else s
  let s := cores.foldl (fun s k => loadImage s k (fieldOf raw 100 1) img) s
  let s := ps.foldl (applyPreset d) s
  let s := ((List.range cores.length).zip cores).foldl (fun s p => placeMember s d cid c p.2 p.1 cores.length) s
  modCmd s d cid fun c => { c with waits := false, work := .gang cores 0 (some (releaseBeat s d raw)) }

/-- GANG (05 R107). One whose mask names a core retired since its acceptance is refused (R132); a core that left the pool or took a hook since
then is BAD_CORE, which halts the stream (03 R79). -/
def runGang (s : State) (d cid : Nat) (c : Cmd) : State :=
  let raw := c.slot
  let asid := cmdAsid s d c
  let n := fieldOf raw 40 4
  if c.work ≠ .none then s
  else if (maskedCores raw d).any fun k => (coreOf s k).retired then finishCmd s d cid 0x0A
  else if badCore s raw d ∨ hookBad s raw d then finishHalt s d cid 0x06
  else if 8 < fieldOf raw 100 1 + imageWindows n then finishCmd s d cid 0x03
  else if gangBlocked s raw d then waitCmd s d cid
  else
    let (s, r) := codeRead (fetchRange d asid (pagesOf [(fieldOf raw 32 8, n)]) s) d asid (fieldOf raw 32 8) n
    match r with
    | .error e => finishCmd s d cid e
    | .ok img =>
      let (s, r) := presetsOf s d asid raw
      match r with
      | .error e => finishCmd s d cid e
      | .ok ps =>
        let s := loadGang s d cid c img ps
        if (maskedCores raw d).isEmpty then finishCmd s d cid 0 else s

/-- GANG (05 R107). -/
def execGang (s : State) : Host.Outcome State Fault Refusal := withCmd runGang s

/-- A GANG that waits for its release beat, in which all the dies it names are now: a beat is common once the last of them has come to it. -/
def gangDue (s : State) (c : Cmd) : Bool :=
  match c.work with
  | .gang cores _ (some b) => c.state == 2 && cores.all fun k => decide (b ≤ (dieOf s (dieOfCore k)).beat.toNat)
  | _ => false

/-- The gangs to release: die, command id and command. -/
def dueGangs (s : State) : List (Nat × Nat × Cmd) :=
  (List.range 4).flatMap fun d => ((dieOf s d).cmds.filter fun e => gangDue s e.2).map fun e => (d, e.1, e.2)

/-- The members of a gang become ready. -/
def readyGang (s : State) (g : Nat × Nat × Cmd) : State :=
  match g.2.2.work with
  | .gang cores ended _ =>
    let x := fieldOf g.2.2.slot 100 1
    let s := modCmd s g.1 g.2.1 fun c => { c with work := .gang cores ended none }
    cores.foldl (fun s k => if (ctxOf s k x).launch = .gang g.1 g.2.1 ∧ (ctxOf s k x).status = .loaded
      then modCtx s k x fun t => { t with status := .ready } else s) s
  | _ => s

/-- An idle core runs the lowest of the contexts that have become ready at once (21 R497). -/
def wakeIdle (s : State) (c : Nat) : State := if (coreOf s c).run.isNone then runNext c 9 7 s else s

/-- Every gang whose beat has come is released in the same cycle, on all the dies it names. -/
def releaseGangs (s : State) : State :=
  let gs := dueGangs s
  (gs.flatMap fun g => match g.2.2.work with | .gang cores _ _ => cores | _ => []).foldl wakeIdle (gs.foldl readyGang s)

/-- GANG_RELEASE (05 R108, R109): on the first cycle of its beat every member is released, with those of the other gangs of that beat. -/
def execGangRelease (s : State) : Host.Outcome State Fault Refusal := withCmd (fun s _ _ c => if gangDue s c then releaseGangs s else s) s

/-! ### TASKS (05 R112 to R117) -/

/-- The tasks of a TASKS command: those whose JOIN has bit 31 clear count into its own join. -/
def ownTasks (ts : List TaskReq) (d cid j strm : Nat) (pool : BitVec 64) : List TaskReq :=
  ts.map fun t => { t.countInto (d, j) with launch := .task d cid t.index, child := t.index, strm := (d, strm), pool := pool }

/-- The tasks of a command that begins: its table, which is checked once more, with the sizes of its acceptance (05 R113), for it may have changed or
become readable since; and its code pages. -/
def beginTable (s : State) (d asid : Nat) (c : Cmd) (hash ordered : Bool) : State × Except Nat (List TaskReq) :=
  let (s, r) := fwTable s d asid (wordAt c.slot 32) (fieldOf c.slot 40 4) ordered
  match r with
  | .error e => (s, .error e)
  | .ok ts =>
    if !ts.all (taskFits (withSizes s d c.sizes) (maskedCores c.slot d) hash) then (s, .error 0x07)
    else
      let (s, e) := codeFail s d ts
      if e ≠ 0 then (s, .error e) else (s, .ok ts)

/-- A launch whose table fails at its begin: an entry that admission refuses halts the stream (05 R113). -/
def failTable (s : State) (d cid code : Nat) : State := if code = 0x03 ∨ code = 0x07 then finishHalt s d cid code else finishCmd s d cid code

/-- TASKS with a free join record and its caches. -/
def startTasksCmd (s : State) (d cid j : Nat) (c : Cmd) : State :=
  let raw := c.slot
  let mask := slotMask raw d d
  let (s, r) := beginTable s d (cmdAsid s d c) c (fieldOf raw 52 1 == 1) false
  match r with
  | .error e => failTable s d cid e
  | .ok ts =>
    let ts := ownTasks ts d cid j c.strm mask
    let own := (ts.filter fun t => t.named == 0).length
    let rec' : JoinRec := { creator := none, ctr := fieldOf raw 56 4 % 2 ^ 20 }
    let s := setJoin s d j { rec' with target := joinCount s rec' + BitVec.ofNat 64 own }
    let s := if fieldOf raw 53 1 = 1 then (launchClusters raw d).foldl (fun s k => setFused s k true) s else s
    let s := modCmd (acquireFence s c (poolCores s d mask)) d cid fun c => { c with waits := false, work := .tasks j ts.length 0 }
    if ts.isEmpty then finishCmd (freeJoin s d j) d cid 0 else queueTasks s d ts mask (fieldOf raw 52 1 == 1)

/-- TASKS: it waits for a join record and for its caches. -/
def runTasks (s : State) (d cid : Nat) (c : Cmd) : State :=
  if c.work ≠ .none then s
  else if cachesBusy s c.slot d (fieldOf c.slot 53 1 == 1) then waitCmd s d cid
  else match lowestFreeJoin s d with
    | none => waitCmd s d cid
    | some j => startTasksCmd s d cid j c

/-- TASKS (05 R114). -/
def execTasks (s : State) : Host.Outcome State Fault Refusal := withCmd runTasks s

/-! ### ORDERED (05 R123 to R127) -/

/-- ORDERED: its tasks are placed in ascending (TS, position). -/
def runOrdered (s : State) (d cid : Nat) (c : Cmd) : State :=
  if c.work ≠ .none then s
  else
    let raw := c.slot
    let mask := slotMask raw d d
    let (s, r) := beginTable s d (cmdAsid s d c) c false true
    match r with
    | .error e => failTable s d cid e
    | .ok ts =>
      let ts := sortTasks (ts.map fun t => { t with launch := .ordered d cid t.index, child := t.index, strm := (d, c.strm), pool := mask })
      let s := modCmd (acquireFence s c (poolCores s d mask)) d cid fun c => { c with waits := false, work := .ordered (ts.map (·.index)) 0 }
      if ts.isEmpty then finishCmd s d cid 0 else queueTasks s d ts mask false

/-- ORDERED (05 R123). -/
def execOrdered (s : State) : Host.Outcome State Fault Refusal := withCmd runOrdered s

/-- A task of an ORDERED command waits to start. -/
def orderedWaits (s : State) (d cid ix : Nat) : Bool :=
  (s.cores.any fun e => e.2.waitq.any fun t => t.launch == .ordered d cid ix) ||
    (dieOf s d).placing.any fun p => p.reqs.any fun t => t.launch == .ordered d cid ix

/-- The oldest task's place in its launch goes to the next one; the last one ends the command. -/
def nextOldest (s : State) (d cid : Nat) (order : List Nat) (done : Nat) : State :=
  let s := modCmd s d cid fun c => { c with work := .ordered order (done + 1) }
  let s := dueStarts s
  if done + 1 < order.length then due s .taskCommit d cid
  else finishCmd s d cid (match cmdOf s d cid with | some c => launchErr c | none => 0)

/-- The oldest task, ended clean, commits (05 R125, R127): hits are aborted, its writes and its log are performed; a counter that
saturates is its fault. -/
def commitTask (s : State) (c x d cid : Nat) (q : Spec) (later : List Nat) : State :=
  let s := abortHits s d cid later q.writeSet
  let s := flushBack s c (ctxOf s c x).asid q
  let (s, sat) := runLog s c x q.log
  let s := modCtx s c x fun t => { t with spec := none }
  endAndKill s c x (if sat.isSome then .fault 0x10 else .clean)

/-- TASK_COMMIT (05 R125, R126): the oldest task of an ORDERED command, once it has ended, commits or ends as faulted. -/
def execTaskCommit (s : State) : Host.Outcome State Fault Refusal :=
  withCmd (fun s d cid c =>
    match c.work with
    | .ordered order done =>
      match order[done]? with
      | none => s
      | some ix =>
        match (orderedCtxs s d cid).find? fun p => p.2.2 == ix with
        | none => if orderedWaits s d cid ix then s else nextOldest s d cid order done
        | some (k, x, _) =>
          match (ctxOf s k x).spec with
          | none => s
          | some q =>
            match q.ended with
            | none => s
            | some 0 => nextOldest (commitTask s k x d cid q (order.drop (done + 1))) d cid order done
            | some cause => nextOldest (endAndKill s k x (.fault cause)) d cid order done
    | _ => s) s

/-! ### PAGEOP (10 R264 to R266) -/

/-- What a PAGEOP does with its next page. -/
inductive PageStep where
  /-- the command ends with a code -/
  | fail (code : Nat)
  /-- the page is passed over -/
  | skip
  /-- its operation begins on its owner die -/
  | start (d : Nat) (l : Leaf) (k : MoveKind)
  /-- a table pointer on its walk migrates (10 R255) -/
  | wait

/-- A page that EVICT or MIGRATE moves: resident, not pinned, no curtain page. -/
def movable (s : State) (d asid va : Nat) (l : Leaf) : Bool :=
  pteRes l.pte == 0 && !curtained s d asid va && !pinned s ((localDie s (pteFdie l.pte)).getD d) (pteFrame l.pte) asid va

/-- FETCH of a page (10 R265): one that is not resident is fetched; one whose backing cannot be reached ends the command. -/
def fetchStepOf (s : State) (d asid va : Nat) (l : Leaf) : PageStep :=
  if pteRes l.pte ≠ 1 then .skip else if backingLost s d asid va then .fail 0x0B else .start d l .fetch

/-- EVICT of page i. -/
def evictStepOf (c : Cmd) (i : Nat) (s : State) (d asid va : Nat) (l : Leaf) : PageStep :=
  if movable s d asid va l then .start d l (.evict (BitVec.ofNat 64 (fieldOf c.slot 56 8 + 65536 * i))) else .skip

/-- MIGRATE of a page. -/
def migrateStepOf (c : Cmd) (s : State) (d asid va : Nat) (l : Leaf) : PageStep :=
  if movable s d asid va l then .start d l (.migrate (fieldOf c.slot 56 1 % 4)) else .skip

/-- The next page's walk, and what the command does with it: an unmapped page, a large leaf and RES = 3 end it with BAD_FIELD (10 R264). -/
def pageStep (f : State → Nat → Nat → Nat → Leaf → PageStep) (s : State) (asid va : Nat) : State × PageStep :=
  match localDie s (va / 2 ^ 56) with
  | none => (s, .fail 0x03)
  | some d =>
    let s := fetchTables d asid va 4 s
    match walk s d asid va with
    | .ok l => (s, if l.log = 16 then f s d asid va l else .fail 0x03)
    | .error (.wait _) => (s, .wait)
    | .error _ => (s, .fail 0x03)

/-- The command has handled n pages: it finishes with the last one, or goes on with the next. -/
def pageNext (s : State) (d cid n total : Nat) : State :=
  if total ≤ n then finishCmd s d cid 0 else modCmd s d cid fun c => { c with waits := true, work := .pages n false }

/-- The operation of a PAGEOP's page n ends with its publication, unless one that needed the page has ended it before. -/
def pageEnd (s : State) (d cid n total asid va : Nat) : State :=
  match localDie s (va / 2 ^ 56) with
  | none => finishCmd s d cid 0x03
  | some o =>
    match moveOf s o asid va with
    | none => pageNext s d cid (n + 1) total
    | some m =>
      let (s, ok) := endMove s o m
      if ok then pageNext s d cid (n + 1) total else finishCmd s d cid 0x0B

/-- A PAGEOP command (10 R264, R265): page by page, each in two steps, so that accesses meet it with RES = 2 in between. -/
def runPageop (f : Cmd → Nat → State → Nat → Nat → Nat → Leaf → PageStep) (s : State) (d cid : Nat) (c : Cmd) : State :=
  let asid := cmdAsid s d c
  let total := fieldOf c.slot 48 8 / 65536
  let (n, moving) := match c.work with
    | .pages n m => (n, m)
    | _ => (0, false)
  let va := fieldOf c.slot 40 8 + 65536 * n
  if moving then pageEnd s d cid n total asid va
  else
    match pageStep (f c n) s asid va with
    | (s, .fail e) => finishCmd s d cid e
    | (s, .skip) => pageNext s d cid (n + 1) total
    | (s, .start o l k) => modCmd (startMove s o asid va l k) d cid fun c => { c with waits := true, work := .pages n true }
    | (s, .wait) => waitCmd s d cid

/-- PAGEOP FETCH (10 R265). -/
def execPageopFetch (s : State) : Host.Outcome State Fault Refusal := withCmd (runPageop fun _ _ => fetchStepOf) s

/-- PAGEOP EVICT (10 R265). -/
def execPageopEvict (s : State) : Host.Outcome State Fault Refusal := withCmd (runPageop evictStepOf) s

/-- PAGEOP MIGRATE (10 R265). -/
def execPageopMigrate (s : State) : Host.Outcome State Fault Refusal := withCmd (runPageop fun c _ => migrateStepOf c) s

/-! ### QPPOST (06 R153) -/

/-- QPPOST: the entries are posted, once the queue pair has room for them. -/
def runQppost (s : State) (d cid : Nat) (c : Cmd) : State :=
  let q := fieldOf c.slot 32 4
  let n := fieldOf c.slot 36 4
  match qpOf s d q with
  | none => finishCmd s d cid 0x03
  | some p =>
    if 64 < p.entries.length + n then waitCmd s d cid
    else
      let asid := cmdAsid s d c
      let (s, r) := fwRead s d asid (fieldOf c.slot 40 8) (64 * n)
      match r with
      | .error e => finishCmd s d cid (accessErr e)
      | .ok bs =>
        match postEntries s d q asid .firmware (postedRaws n bs) with
        | some s => finishCmd s d cid 0
        | none => waitCmd s d cid

/-- QPPOST_CMD (06 R153). -/
def execQppostCmd (s : State) : Host.Outcome State Fault Refusal := withCmd runQppost s

/-! ### CUESHEET (08 R202, R203) -/

/-- A range of a cue sheet is well formed. -/
def cueRangeOk (e : List Byte) : Bool :=
  fieldOf e 0 8 % 65536 == 0 && fieldOf e 8 4 != 0 && decide (fieldOf e 12 1 ≤ 63) && fieldOf e 13 3 == 0

/-- The 16-byte entries of a cue sheet's ranges. -/
def cueEntries (bs : List Byte) (nr : Nat) : List (List Byte) := (List.range nr).map fun i => (bs.drop (64 + 16 * i)).take 16

/-- A cue sheet passes every check (08 R203). -/
def cueOk (bs : List Byte) (phase : Nat) : Bool :=
  let nr := fieldOf bs 6 2
  let np := fieldOf bs 8 2
  fieldOf bs 0 4 == 0x43554553 && fieldOf bs 4 2 == 1 && decide (1 ≤ nr) && decide (nr ≤ 1024) && decide (1 ≤ np) && decide (np ≤ 64) &&
    fieldOf bs 10 54 == 0 && bs.length == 64 + 16 * nr + 64 * np && (cueEntries bs nr).all cueRangeOk && decide (phase < np)

/-- A phase is selected: lines filled under the retain hint take the rank of their class again (08 R205). -/
def selectPhase (s : State) (d phase : Nat) : State :=
  modDie s d fun k => { k with cuePhase := phase, cache := k.cache.map fun l => { l with retain := false } }

/-- A sheet replaces the old one. -/
def loadSheet (s : State) (d : Nat) (bs : List Byte) : State :=
  let nr := fieldOf bs 6 2
  modDie s d fun k =>
    { k with cueRanges := (cueEntries bs nr).map fun e => (fieldOf e 0 8 / 65536, fieldOf e 8 4, fieldOf e 12 1),
             cueRanks := (List.range (fieldOf bs 8 2)).map fun p => ((bs.drop (64 + 16 * nr + 64 * p)).take 64).map (·.toNat) }

/-- CUESHEET. -/
def runCuesheet (s : State) (d cid : Nat) (c : Cmd) : State :=
  let n := fieldOf c.slot 40 4
  let phase := fieldOf c.slot 44 4
  if n = 0 then finishCmd (selectPhase s d phase) d cid 0
  else
    let (s, r) := fwRead s d (cmdAsid s d c) (fieldOf c.slot 32 8) n
    match r with
    | .error e => finishCmd s d cid (accessErr e)
    | .ok bs => if cueOk bs phase then finishCmd (selectPhase (loadSheet (measure s bs) d bs) d phase) d cid 0 else finishCmd s d cid 0x03

/-- CUESHEET (08 R203). -/
def execCuesheet (s : State) : Host.Outcome State Fault Refusal := withCmd runCuesheet s

end Sys2Proof.Machine
end

