-- ==== Sys2Proof/Machine/Requests.lean ====
section
/-! DEFINITION. What the module does with the messages of other modules' dies (01 R13, R20 to R24; 06 R155 to R163): requests on virtual
channel 1, the responses on channel 2, work entries and their data on channel 3, and records on channel 0. The spec lays out data flits alone;
what the other payloads hold, and so how they are answered, is the model's (DESIGN CHOICE, log 19). -/

namespace Sys2Proof.Machine

/-! ### Requests (01 R20) -/

/-- The write a request asks for. -/
def writeKind : Nat → WriteKind
  | 0 => .core
  | 1 => .host
  | 2 => .engine
  | 3 => .full
  | 4 => .empty
  | n => if 8 ≤ n then .flag (n - 8) else .keep

/-- A core and a context in a request's payload. -/
def seatOf (w : Word) : Nat × Nat := (w.toNat % 2 ^ 16, w.toNat / 2 ^ 16 % 2 ^ 16)

/-- The operation a payload names; none where its code names none. -/
def requestOp (b : List Byte) : Option RemoteOp :=
  let m := fieldOf b 1 1
  let n := fieldOf b 32 1
  let v := wordAt b 16
  match fieldOf b 0 1 with
  | 1 => some (.read m)
  | 2 => some (.write ((b.drop 40).take m) (writeKind n))
  | 3 => some (.ctrAdd v m (n != 0))
  | 4 => some (.ctrGet v m)
  | 5 => some (.ctrSet v)
  | 6 => some (.page v.toNat (seatOf (wordAt b 24)).1 (seatOf (wordAt b 24)).2)
  | 7 => some (.tlbi v)
  | 8 => some (.bind v (wordAt b 24) m)
  | 9 => some (.unbind v)
  | 10 => some (.publ m)
  | 11 => some (.line (m != 0))
  | 12 => some (.probe (m != 0) (n != 0))
  | 13 => some (.wake (seatOf (wordAt b 24)).1 (seatOf (wordAt b 24)).2)
  | 14 => some (.repark (seatOf (wordAt b 24)).1 (seatOf (wordAt b 24)).2 (if n = 0 then none else some (seatOf v)))
  | 15 => some (.pgErr (seatOf (wordAt b 24)).1 (seatOf (wordAt b 24)).2)
  | 16 => some .bring
  | 17 => some (.code m)
  | 18 => some .logStatus
  | 19 => some (.logRecord v.toNat m)
  | k => if 0x21 ≤ k ∧ k ≤ 0x27 then some (.fe (k - 0x20) v m (n % 8) (if n / 8 = 0 then none else some (seatOf (wordAt b 24)))) else none

/-- The request a payload holds. -/
def requestOf (b : List Byte) : Option RemoteReq :=
  (requestOp b).map fun op => { op := op, asid := fieldOf b 2 2, va := fieldOf b 8 8, tag := fieldOf b 4 4 }

/-- What a request comes to: the state, the response and a granule in it, with its virtual address; none while it waits. -/
abbrev Served := Option (State × RemoteReply × Option (Nat × Granule))

/-- A response without a granule. -/
def replied (s : State) (r : RemoteReply) : Served := some (s, r, none)

/-- A request fails with a late cause. -/
def refused (s : State) (tag cause sub level : Nat) : Served := replied s { tag := tag, cause := cause, sub := sub, level := level }

/-- A request at its address's home: its page is found, and `f` performs it at the die and physical address, knowing the page's check-enable and ingress-fill.
It waits while a page migrates (10 R262); of a page that is not resident it learns that (08 R211). -/
def serveAt (s : State) (d : Nat) (r : RemoteReq) (n : Nat) (nd : Need) (f : State → Nat → Nat → Bool → Bool → Served) : Served :=
  match resolve s (4 * d) r.asid r.va n nd with
  | (_, .error (.wait _)) => none
  | (s, .error (.transl sub level)) => refused s r.tag 0x0A sub level
  | (s, .error .prot) => refused s r.tag 0x09 0 0
  | (s, .ok (.home _ _ _ _ _ true)) => replied s { tag := r.tag, p6 := false, p7 := false }
  | (s, .ok (.home die pa _ ce ing false)) => f s die pa ce ing
  | (s, .ok _) => refused s r.tag 0x0A 3 0

/-- The granule a read brings, with the check that is stored beside it, unchanged: the reader verifies it (01 R24). -/
def readGranule (s : State) (die pa va : Nat) : Nat × Granule :=
  (va / 64 * 64, { data := physRead s die (pa / 64 * 64) 64, check := (carriedCheck (dieOf s die) (pa / 64)).toNat,
                   full := (List.range 8).map fun i => fullBit (dieOf s die) (pa / 64 * 64 + 8 * i) })

/-- Words of an ingress-fill page turn full, as a release of the host (02 R52). -/
def ingressFill (s : State) (die pa n : Nat) : State :=
  (wordsTouched pa n).foldl (fun s w => postRelease (modDie s die fun d => setFull d (8 * w) true) die ⟨.word (8 * w), .host, 5⟩) s

/-- A write lands at its home, and its words take F as its kind says (01 R23); those of the host on an ingress-fill page turn full (02 R52). -/
def writeHere (s : State) (die pa : Nat) (bs : List Byte) (ing : Bool) : WriteKind → State
  | .full | .flag _ => setFullRange (physWrite s die pa bs) die pa bs.length (some true)
  | .empty => setFullRange (physWrite s die pa bs) die pa bs.length (some false)
  | .keep => keepWrite s die pa bs
  | .host => let t := physWrite s die pa bs; if ing then ingressFill t die pa bs.length else t
  | .core | .engine => physWrite s die pa bs

/-- A FLAG written here is a release of another module's die. -/
def flagRelease (s : State) (die src pa : Nat) : WriteKind → State
  | .flag scope => postRelease s die ⟨.word pa, .abroad src, scope⟩
  | _ => s

/-- What a write of a kind needs. -/
def WriteKind.need : WriteKind → Need
  | .core => ⟨false, true, false, true⟩
  | .host | .flag _ => ⟨false, true, false, false⟩
  | .engine | .full | .empty | .keep => ⟨false, true, true, false⟩

/-- An attempt of LDW, LDC or STF failed. At the end of its budget its context parks: W is set and its record inserted in the same step, unless
the green room is full (08 R210, R213). -/
def serveFailed (s : State) (src die pa op : Nat) (v : Word) (tag : Nat) (park : Option (Nat × Nat)) : Served :=
  let no : RemoteReply := { tag := tag, p6 := false }
  match park with
  | none => replied s no
  | some (core, ctx) =>
    if (freePark (dieOf s die)).isNone then replied s { no with park := 2 }
    else
      replied (modDie s die fun d =>
        setWait (addPark d { pa := pa, core := core, die := src, ctx := ctx, op := op, value := if op = 3 then v else 0, beat := d.beat }) pa true)
        { no with park := 1 }

/-- A full/empty operation of another module's core on a word here (08 R208 to R211, 15 R391 to R393). LDW, LDC and STF make one attempt. -/
def serveFe (s : State) (d src : Nat) (r : RemoteReq) (op : Nat) (v : Word) (scope ord : Nat) (park : Option (Nat × Nat)) : Served :=
  serveAt s d r 8 ⟨true, op != 1 && op != 6, false, true⟩ fun s die pa ce _ =>
    let o := SyncObj.word pa
    let full := fullBit (dieOf s die) pa
    let ok : RemoteReply := { tag := r.tag }
    let got := { ok with value := BitVec.ofNat 64 (leNat (physRead s die pa 8)), miss := ord == 1 && scopeMiss s die o (.abroad src) scope }
    let release := fun (s : State) => if ord = 2 then postRelease s die ⟨o, .abroad src, scope⟩ else s
    let filled := release (putFull (physWrite s die pa (leBytes 8 v.toNat)) die pa true)
    let emptied := clearReleases (wakeWord (putFull s die pa false) die (pa / 8)) die o
    if (op = 1 ∨ op = 2 ∨ op = 4) ∧ ce ∧ badCheck s die pa 8 then refused (foundBad s die pa 8) r.tag 0x0F 0 0
    else match op with
    | 1 => if full then replied (wakeWord s die (pa / 8)) got else serveFailed s src die pa op v r.tag park
    | 2 => if full then replied emptied got else serveFailed s src die pa op v r.tag park
    | 3 => if full then serveFailed s src die pa op v r.tag park else replied filled ok
    | 4 => if full then replied emptied got else replied s { ok with p6 := false }
    | 5 => if full then replied s { ok with p6 := false } else replied filled ok
    | 6 => replied s { got with value := BitVec.ofNat 64 (full.toNat + 2 * (waitBit (dieOf s die) pa).toNat) }
    | _ => replied (release (clearReleases (wakeWord (putFull s die pa (bitOf v 0)) die (pa / 8)) die o)) ok

/-- Park records of a context of another module's die leave the green room, or take another core and context (05 R119, R133). -/
def serveRepark (s : State) (d src core ctx : Nat) (goal : Option (Nat × Nat)) : State :=
  let hit := fun (p : Park) => p.die == src && p.core == core && p.ctx == ctx
  modDie s d fun k => match goal with
    | none => dropParksWhere k hit
    | some (c, x) => movePark k hit (c % 64) (c / 64) x

/-- A cache instruction on a line here (15 R404): on a page that does not permit it it fails, on one where it has no effect it is done. -/
def serveLine (s : State) (d : Nat) (r : RemoteReq) (disc : Bool) : Served :=
  match lineLoc s (64 * d) r.asid r.va with
  | .page _ _ _ rd wr => if (if disc then wr else rd) then replied s { tag := r.tag } else refused s r.tag 0x09 0 0
  | .bad (.wait _) => none
  | .bad (.transl sub level) => refused s r.tag 0x0A sub level
  | .bad .prot => refused s r.tag 0x09 0 0
  | .quiet | .away _ => replied s { tag := r.tag }

/-- What a member of a log group asks of this die's endpoint: its status block, or a record that its ring retains (06 R150). -/
def serveLog (s : State) (d : Nat) (r : RemoteReq) (f : State → Group → State × Except Nat (List Byte)) : Served :=
  match groupAsked s d (r.va % 4096) (BitVec.ofNat 4 (r.va / 4096)) with
  | none => refused s r.tag 0x0A 0 0
  | some g =>
    match f s g with
    | (s, .ok bs) => some (s, { tag := r.tag }, some (0, { data := padTo 64 bs, check := cchk (padTo 64 bs) }))
    | (s, .error e) => if waitPage ≤ e then none else refused s r.tag 0x0A 0 0

/-- A request of global die `src` at a die. -/
def serve (s : State) (d src : Nat) (r : RemoteReq) : Served :=
  let ok : RemoteReply := { tag := r.tag }
  let i := ctrIdx r.va
  let va := BitVec.ofNat 64 r.va
  let regional := fun (x : Option State) => match x with | some s => replied s ok | none => refused s r.tag 0x09 0 0
  match r.op with
  | .read n => serveAt s d r n ⟨true, false, false, false⟩ fun s die pa ce _ => some (s, { ok with plain := !ce }, some (readGranule s die pa r.va))
  | .write bs kind => serveAt s d r bs.length kind.need fun s die pa _ ing => replied (flagRelease (writeHere s die pa bs ing kind) die src pa kind) ok
  | .line disc => serveLine s d r disc
  | .fe op v scope ord park => serveFe s d src r op v scope ord park
  | .probe rd wr => serveAt s d r 1 ⟨rd, wr, false, false⟩ fun s _ _ _ _ => replied s ok
  | .bring =>
    let s := fetchRange d r.asid [r.va / 65536] s
    replied s { ok with p7 := match walk s d r.asid (outVa s d r.asid r.va) with
      | .ok l => pteRes l.pte == 0
      | .error (.transl 6 _) => false
      | .error _ => true }
  | .code _ =>
    match codeLoc s r.asid r.va with
    | (s, .ok (.home die pa _ _ _ _)) => some (s, ok, some (readGranule s die pa r.va))
    | (s, .ok _) => refused s r.tag 0x0A 3 0
    | (s, .error e) => if e = waitErr then none else refused s r.tag (if e = 0x0C then 0x09 else 0x0A) 0 0
  | .wake core ctx => replied (wakeHere s (64 * d + core) ctx) ok
  | .repark core ctx goal => replied (serveRepark s d src core ctx goal) ok
  | .pgErr core ctx => replied (modCtx s (64 * d + core) ctx fun t => { t with stat := t.stat ||| BitVec.ofNat 64 flagPGERR }) ok
  | .ctrAdd inc scope rel =>
    let (t, sat) := ctrAdd s d i inc
    replied (payAll (if rel then postRelease t d ⟨.ctr i, .abroad src, scope⟩ else t))
      { ok with cause := if sat then 0x10 else 0, value := ctrVal s d i, miss := scopeMiss s d (.ctr i) (.abroad src) scope }
  | .ctrGet least scope =>
    if ctrVal s d i < least then none else replied s { ok with value := ctrVal s d i, miss := scopeMiss s d (.ctr i) (.abroad src) scope }
  | .ctrSet v => replied (payAll (ctrWrite s d r.va v)) ok
  | .page ctr core ctx => replied (pageAt s d { asid := r.asid, va := va, ctr := BitVec.ofNat 20 ctr, core := core, ctx := ctx, from_ := some src }) ok
  | .tlbi v => replied (tlbiAt s d r.va v) ok
  | .bind len obj form => regional (bindAt s d r.asid va len obj form)
  | .unbind len => regional (unbindAt s d r.asid va len)
  | .logStatus => serveLog s d r fun s g => (s, .ok (statusBlock g))
  | .logRecord t i => serveLog s d r fun s g => heldRecord s d g t i
  | .publ scope => regional ((curtainOf s d r.asid r.va).map (raise s (.abroad src) scope d))

/-- A request is served and answered; none while it waits. -/
def takeRequest (s : State) (f : Flit) : Option State :=
  match requestOf f.payload with
  | none => some s
  | some r => (serve s f.dst f.src r).map fun a => sendOut a.1 (.reply f.dst f.src a.2.1 a.2.2)

/-! ### Responses -/

/-- The response a payload without data holds. -/
def replyOf (b : List Byte) : RemoteReply :=
  let fl := fieldOf b 8 1
  { tag := fieldOf b 4 4, cause := fieldOf b 1 1, sub := fieldOf b 32 1, level := fieldOf b 2 2, value := wordAt b 16,
    p6 := fl.testBit 0, p7 := fl.testBit 1, miss := fl.testBit 2, park := fl / 8 % 4, plain := fl.testBit 5 }

/-- The core whose access waits under a TAG, and its place among those awaited. -/
def waiterOf (s : State) (tag : Nat) : Option (Nat × Nat) :=
  if tag = 0 then none
  else s.cores.findSome? fun p => (p.2.arrivals.findIdx? fun a => a.tag == tag).map (p.1, ·)

/-- An access as its response completes it: a try form that failed on a resident page writes no register. -/
def answered (a : Arrival) (r : RemoteReply) : Arrival :=
  { a with p6 := a.p6.map fun _ => r.p6, p7 := a.p7.map fun _ => r.p7, dst := if a.p6.isSome ∧ !r.p6 ∧ r.p7 then none else a.dst,
           flags := if a.acq.isSome then (if r.miss then BitVec.ofNat 64 flagSCOPEX else 0) else a.flags }

/-- An awaited access ends in a late cause (10 R273). LEVEL travels above the subcause. -/
def failAwaited (s : State) (c i : Nat) (a : Arrival) (cause sub level : Nat) (va : Word) : State :=
  deliver (modCore s c fun k => { k with arrivals := k.arrivals.eraseIdx i }) (.lateCause (Fin.ofNat 256 c) a.mark cause (sub + 256 * level) va)

/-- The address an access to the outside asked for. -/
def Arrival.asked (a : Arrival) : Word :=
  match a.val with
  | .outside _ _ va _ => va
  | .data _ | .held _ => 0

/-- The page whose granule a response will bring has CE = 0. -/
def notePlain (s : State) (tag : Nat) : State :=
  { s with
    cores := s.cores.map fun p =>
      if p.2.arrivals.any (fun a => a.tag == tag) then
        (p.1, { p.2 with arrivals := p.2.arrivals.map fun a => if a.tag = tag then { a with plain := true } else a })
      else p
    mod := { s.mod with exchanges := s.mod.exchanges.map fun x => if x.req.tag = tag then { x with plain := true } else x } }

/-- A response reaches the step that waits for it; it is taken when that step is tried again. -/
def takeExchange (s : State) (r : RemoteReply) (granule : Option Granule) : State :=
  { s with mod := { s.mod with exchanges := s.mod.exchanges.map fun x =>
      if x.req.tag = r.tag then { x with reply := some ({ r with plain := x.plain }, granule) } else x } }

/-- A response reaches the access that waits for it, with the granule it brings, whose check the reader verifies unless its page has CE = 0 (08 R224);
or the step that waits for it. One that nothing waits for changes nothing. -/
def takeReply (s : State) (r : RemoteReply) (granule : Option Granule) : State :=
  match waiterOf s r.tag with
  | none => takeExchange s r granule
  | some (c, i) =>
    match (coreOf s c).arrivals[i]? with
    | none => s
    | some a =>
      let va := a.asked
      let gone := modCore s c fun k => { k with arrivals := k.arrivals.eraseIdx i }
      let land := fun (given : List Byte) =>
        let b := answered a r
        let w := match a.val with
          | .outside n signed _ laid => outsideVal n signed laid given
          | .data v => v
          | .held _ => 0
        patchRecords (modCore (applyArrival gone c b ((coreOf s c).arrivals.drop (i + 1)) given) c fun k =>
          { k with arrivals := overtaken (k.arrivals.take i) b ++ k.arrivals.drop i }) c a.ctx r.tag fun _ => asKnown { b with val := .data w }
      if r.cause ≠ 0 then failAwaited s c i a r.cause r.sub r.level va
      else match granule with
        | some g =>
          if g.check ≠ 0 ∧ !a.plain then failAwaited (countCc s 1) c i a 0x0F 0 0 (va &&& ~~~(63 : Word))
          else land (g.data.drop (va.toNat % 64))
        | none => land (leBytes 8 r.value.toNat)

/-- The answer to a work entry reaches the queue pair it was posted to (06 R158 to R161). -/
def takeEnd (s : State) (d : Nat) (b : List Byte) : State :=
  let q := fieldOf b 1 1
  let serial := fieldOf b 8 8
  let fl := fieldOf b 16 1
  outcome (modEntry s d q serial fun e => { e with wsat := e.wsat || fl.testBit 0, spilled := e.spilled || fl.testBit 1 }) d q serial (fieldOf b 32 1)

/-! ### Data flits (01 R22) -/

/-- The granules a data flit marks as present (01 R22). -/
def flitGranules (p : List Byte) : List Nat := (List.range 3).filter fun i => (fieldOf p 209 1).testBit i

/-- The check's difference of a granule of a data flit: what the sender stored beside it, unchanged (01 R24). -/
def flitCheck (p : List Byte) (i : Nat) : Nat := fieldOf p (200 + 2 * i) 2 ^^^ cchk ((p.drop (64 * i)).take 64)

/-- TAG of a data flit. -/
def flitTag (p : List Byte) : Nat := fieldOf p 210 4

/-- Granule i of a data flit, with its virtual address. -/
def flitGranule (p : List Byte) (i : Nat) : Nat × Granule :=
  (fieldOf p 192 8 + 64 * i, { data := (p.drop (64 * i)).take 64, check := flitCheck p i,
                               full := (List.range 8).map fun w => (fieldOf p 206 3).testBit (8 * i + w) })

/-- A data flit's granules join those of its entry, each at its address. -/
def Inbound.add (i : Inbound) (p : List Byte) : Inbound :=
  { i with got := (flitGranules p).foldl (fun t n => tabPut t (flitGranule p n).1 (flitGranule p n).2) i.got }

/-- A work entry as its header names it at its peer. -/
def entryOf (serial asid : Nat) (raw : List Byte) : WorkEntry := { serial := serial, raw := raw, asid := asid, poster := .firmware, late := false }

/-- The address that an entry's first byte has in its data flits: that of the place where it lands. -/
def Inbound.base (i : Inbound) : Nat := fieldOf i.raw (if i.back then 8 else 16) 8

/-- The granules of an entry in their order; none while one is missing. -/
def Inbound.whole (i : Inbound) : Option (List Granule) :=
  ((List.range (((entryOf 0 0 i.raw).bytes + 63) / 64)).map fun k => (i.got.find? fun e => e.1 == (i.base + 64 * k) % 2 ^ 64).map (·.2)).foldr
    (fun g l => match g, l with | some g, some l => some (g :: l) | _, _ => none) (some [])

/-- The chunk that an entry's data make when all of them are in: of a WRITE for its sender, of a READ for the die that asked. -/
def Inbound.chunk (s : State) (i : Inbound) (gs : List Granule) : Option Chunk :=
  let e := entryOf i.serial i.asid i.raw
  let data := gs.flatMap (·.data)
  let part := fun (c : Chunk) => { c with checks := gs.map (·.check), tag := i.tag }
  if i.back then
    ((qpOf s i.die i.qp).bind fun q => q.entries.find? fun z => z.serial == i.serial).map fun z =>
      part (entryChunk s i.die i.qp z (data.take z.bytes) (gs.flatMap (·.full)))
  else some (part { entryChunk s i.die i.qp e (data.take e.bytes) (gs.flatMap (·.full)) with home := i.src })

/-- A data flit of bulk traffic joins the oldest entry of its sender and TAG that still lacks data; with the last the chunk arrives. -/
def takeData (s : State) (f : Flit) : State :=
  match s.mod.inbound.findIdx? fun i => i.die == f.dst && i.src == f.src && i.tag == flitTag f.payload with
  | none => s
  | some n =>
    match s.mod.inbound[n]? with
    | none => s
    | some i =>
      let i := i.add f.payload
      match i.whole with
      | none => { s with mod := { s.mod with inbound := s.mod.inbound.set n i } }
      | some gs =>
        let s := { s with mod := { s.mod with inbound := s.mod.inbound.eraseIdx n } }
        let s := if i.back ∧ i.sat then modEntry s i.die i.qp i.serial fun e => { e with rsat := true } else s
        match i.chunk s gs with
        | some ck => deliver s (.chunkArrive (Fin.ofNat 4 f.dst) ck)
        | none => s

/-! ### Work entries of other modules (06 R155 to R159) -/

/-- The data of an entry are awaited. -/
def openInbound (s : State) (i : Inbound) : State := { s with mod := { s.mod with inbound := s.mod.inbound ++ [i] } }

/-- A READ of another module's die is answered under its TAG: with its data, RCTR rising as they are sent (06 R159), or with the code of its failure. While
the read waits, so does its header. -/
def answerRead (s : State) (f : Flit) (tag q : Nat) (e : WorkEntry) : State :=
  let (s, r) := askingFor (.step (.workEntryStart (Fin.ofNat 4 f.dst) (BitVec.ofNat 8 q)) (256 + f.src) tag) s fun s =>
    match readSource s f.dst e.grp e.gen e.asid e.raddr e.bytes with
    | (s, .error c) => (s, .error c)
    | (s, .ok x) =>
      let (s, sat) := raiseCtr s f.dst e.rctrWord
      (s, .ok (x, sat))
  match r with
  | .ok (x, sat) => sendOut s (.entryData f.dst f.src tag q e.serial e.raw x.data [] x.words sat)
  | .error c =>
    if waitPage ≤ c then { s with mod := { s.mod with rxq := s.mod.rxq ++ [f] } } else sendOut s (.entryEnd f.dst f.src tag q e.serial c false false)

/-- The header of an entry comes to its peer: a READ is answered; the data of another entry are awaited. -/
def takeEntry (s : State) (f : Flit) : State :=
  let b := f.payload
  let q := fieldOf b 1 1
  let tag := fieldOf b 4 4
  let e := entryOf (fieldOf b 8 8) (fieldOf b 2 2) ((b.drop 40).take 64)
  if e.op = 3 then answerRead s f tag q e
  else openInbound s { die := f.dst, src := f.src, tag := tag, back := false, qp := q, serial := e.serial, asid := e.asid, raw := e.raw }

/-- The header of a READ's data comes back to the die that asked. -/
def takeReadHeader (s : State) (f : Flit) : State :=
  let b := f.payload
  openInbound s { die := f.dst, src := f.src, tag := fieldOf b 4 4, back := true, qp := fieldOf b 1 1, serial := fieldOf b 8 8, asid := 0,
                  raw := (b.drop 40).take 64, sat := fieldOf b 32 1 ≠ 0 }

/-! ### Records (06 R143 to R146, R162, R163) -/

/-- A short flit comes to a die: the step it stands for becomes due. -/
def takeRecord (s : State) (f : Flit) : State :=
  let p := f.payload
  let d : DieId := Fin.ofNat 4 f.dst
  let grp := BitVec.ofNat 12 (fieldOf p 32 2)
  let gen := BitVec.ofNat 4 (fieldOf p 32 2 / 4096)
  let rank := fieldOf p 35 2
  match fieldOf p 34 1 with
  | 0 => deliver s (.contributionArrive d grp gen rank false (p.take 32))
  | 1 => deliver (learnLeader s d.val grp.toNat gen f.src) (.contributionArrive d grp gen rank true (p.take 32))
  | 2 => deliver s (.closeAck d grp gen (wordAt p 0) rank)
  | 3 => deliver s (.sealAnnounce d grp gen (wordAt p 0))
  | 4 => deliver s (.reduceRecordArrive d grp gen (p.take 32))
  | 5 => deliver s (.scredArrive d grp gen rank (wordAt p 0))
  | _ => s

/-! ### Delivery -/

/-- What a flit delivered to a die does, by its channel and KIND; none while what it asks for waits. A flit of no such channel and KIND does
nothing (DESIGN CHOICE, log 19). -/
def takeDelivered (s : State) (f : Flit) : Option State :=
  match f.vc, f.kind with
  | 0, 3 => some (takeRecord s f)
  | 1, 2 => takeRequest s f
  | 2, 1 => some (takeReply s { tag := flitTag f.payload } (some (flitGranule f.payload 0).2))
  | 2, 2 =>
    if fieldOf f.payload 0 1 = replyCode then
      let r := replyOf f.payload
      some (if r.plain then notePlain s r.tag else takeReply s r none)
    else if fieldOf f.payload 0 1 = endCode then some (takeEnd s f.dst f.payload)
    else some s
  | 3, 1 => some (takeData s f)
  | 3, 2 =>
    if fieldOf f.payload 0 1 = entryCode then some (takeEntry s f)
    else if fieldOf f.payload 0 1 = readDataCode then some (takeReadHeader s f)
    else some s
  | _, _ => some s

/-- The flits delivered and not yet taken are taken in their order; one that waits stays. -/
def takeAll (s : State) : State :=
  s.mod.rxq.foldl (fun s f => (takeDelivered s f).getD { s with mod := { s.mod with rxq := s.mod.rxq ++ [f] } })
    { s with mod := { s.mod with rxq := [] } }

end Sys2Proof.Machine
end

