-- ==== Sys2Proof/Machine/Links.lean ====
section
/-! DEFINITION. Fremir links and the beat (01 R14 to R39, 03 R76): the choice of a link, flits sent, received and sent again, the failure
of a link, training, and the beat counters. -/

namespace Sys2Proof.Machine

/-! ### Links -/

/-- The module-level state changed. -/
def modMod (s : State) (f : Module → Module) : State := { s with mod := f s.mod }

/-- A link. -/
def linkOf (s : State) (n : Nat) : Link := tabGet {} s.mod.links n

/-- The state with a link changed. -/
def modLink (s : State) (n : Nat) (f : Link → Link) : State := modMod s fun m => { m with links := tabPut m.links n (f (tabGet {} m.links n)) }

/-- The working links of a die, ascending (01 R10, R28). -/
def workingLinks (s : State) (d : Nat) : List Nat := [3 * d, 3 * d + 1, 3 * d + 2].filter fun n => (linkOf s n).state == 2

/-- Die crossings from one die to another on the routes of 01 R14. -/
def dieHops (a b : Nat) : Nat := (if a % 2 = b % 2 then 0 else 1) + (if a / 2 = b / 2 then 0 else 1)

/-- The die whose links serve a die: its own, or the nearest that has a working link, the lowest id first. 01 R29 reroutes when all three links
of a die have failed; links that are down or training carry nothing either, so the model reroutes whenever none is up (DESIGN CHOICE, log 19). -/
def exitDie (s : State) (d : Nat) : Nat :=
  let ok := (List.range 4).filter fun e => !(workingLinks s e).isEmpty
  let near := fun (h : Nat) => ok.find? fun e => dieHops d e == h
  ((near 0).or ((near 1).or (near 2))).getD d

/-- KIND of a link-control flit. -/
def kindControl : Nat := 4

/-- KIND of a beat-sync flit. -/
def kindSync : Nat := 5

/-- The link a flit leaves on: the k-th working link of its die, k being DST modulo their number (01 R28). A link-control flit carries
the link it belongs to in `dst`. -/
def chosenLink (s : State) (f : Flit) : Option Nat :=
  if f.kind = kindControl then some f.dst
  else
    let l := workingLinks s (exitDie s f.src)
    l[f.dst % max 1 l.length]?

/-! ### Flits (01 R17 to R19) -/

/-- The first 8 bytes of a header. -/
def flitHead (kind vc dst src seq ack : Nat) : List Byte :=
  leBytes 1 kind ++ leBytes 1 vc ++ leBytes 1 dst ++ leBytes 1 src ++ leBytes 2 seq ++ leBytes 2 ack

/-- A flit with its check over the header's first bytes and its payload. -/
def sealFlit (head payload : List Byte) : List Byte := head ++ leBytes 8 (crc64 (head ++ payload)) ++ payload

/-- A flit as a link sends it. A link-control flit names its own die as its destination (DESIGN CHOICE, log 19). -/
def flitBytes (s : State) (n seq : Nat) (f : Flit) : List Byte :=
  let src := globalDie s f.src
  sealFlit (flitHead f.kind f.vc (if f.kind = kindControl then src else f.dst) src seq (((linkOf s n).expect + 4095) % 4096)) f.payload

/-- The virtual channels in service priority (01 R20). -/
def vcOrder : List Nat := [0, 4, 2, 1, 3]

/-- A flit may leave on link n: before the module has an id, link control alone does (01 R13). -/
def mayLeave (s : State) (n : Nat) (f : Flit) : Bool :=
  chosenLink s f == some n && (bitOf s.mod.modId 7 || f.kind == kindControl)

/-- The next flit of a link among the channels with credit. -/
def nextFlit (s : State) (n : Nat) (credit : BitVec 8) : Option Flit :=
  vcOrder.findSome? fun v => if bitOf credit v then s.mod.txq.find? fun f => f.vc == v && mayLeave s n f else none

/-- Places of the replay buffer (01 R26). -/
def replaySize : Nat := 256

/-- FLIT_SEND (01 R21): a link that is up, with room in its replay buffer, sends its next flit. `credit` has a bit for each channel. -/
def execFlitSend (link : LinkId) (credit : BitVec 8) (s : State) : Host.Outcome State Fault Refusal :=
  let n := link.val
  let l := linkOf s n
  if l.state ≠ 2 ∨ replaySize ≤ l.replay.length then .next s
  else match nextFlit s n credit with
    | none => .next s
    | some f =>
      let b := flitBytes s n l.next f
      let s := modMod s fun m => { m with txq := m.txq.erase f, out := m.out ++ [.flit n b] }
      .next (modLink s n fun l => { l with next := (l.next + 1) % 4096, replay := l.replay ++ [⟨l.next, f, 0⟩] })

/-! ### Receiving (01 R18, R26) -/

/-- A count of 16 bits that stays at its largest value (01 R38). -/
def sat16 (n : Nat) : Nat := min n 65535

/-- The other side is told the SEQ this side expects, in the first two bytes of a link-control flit (log 19). -/
def sendNack (s : State) (n : Nat) : State :=
  let f : Flit := ⟨n / 3, n, 4, kindControl, padTo 240 (leBytes 2 (linkOf s n).expect)⟩
  modLink (modMod s fun m => { m with txq := m.txq ++ [f] }) n fun l => { l with nacked := true }

/-- Flits up to the one a receiver acknowledges leave the replay buffer. -/
def ackReplay (l : List Sent) (ack : Nat) : List Sent :=
  if l.any fun z => z.seq == ack then (l.dropWhile fun z => z.seq != ack).drop 1 else l

/-- A flit with a good check is dropped and counted: its KIND or its VC does not exist. -/
def countBad (s : State) (n : Nat) : State := modLink s n fun l => { l with crcerr := sat16 (l.crcerr + 1) }

/-- What a flit received in order does: link control names the SEQ to send again from; a beat-sync flit shifts the phase alone, which no
counter shows (01 R33); any other reaches the die it names. -/
def takeFlit (s : State) (n : Nat) (b : List Byte) : State :=
  let kind := fieldOf b 0 1
  let payload := b.drop 16
  if kind = kindControl then deliver s (.linkResend (Fin.ofNat 12 n) (BitVec.ofNat 12 (fieldOf payload 0 2)))
  else if kind = kindSync then s
  else modMod s fun m => { m with rxq := m.rxq ++ [⟨fieldOf b 3 1, fieldOf b 2 1 % 4, fieldOf b 1 1 % 16, kind, payload⟩] }

/-- A flit arrives on a link that is up; a flit for a die is kept until `takeAll` takes it. -/
def receiveFlit (s : State) (n : Nat) (b : List Byte) : State :=
  let seq := fieldOf b 4 2 % 4096
  if (b.length ≠ 256 ∧ b.length ≠ 64) ∨ fieldOf b 8 8 ≠ crc64 (b.take 8 ++ b.drop 16) then sendNack (countBad s n) n
  else
    let s := modLink s n fun l => { l with replay := ackReplay l.replay (fieldOf b 6 2 % 4096) }
    if seq ≠ (linkOf s n).expect then (if (linkOf s n).nacked then s else sendNack s n)
    else
      let s := modLink s n fun l => { l with expect := (l.expect + 1) % 4096, nacked := false }
      if fieldOf b 0 1 = 0 ∨ 5 < fieldOf b 0 1 ∨ 4 < fieldOf b 1 1 % 16 then countBad s n else takeFlit s n b

/-- FLIT_RECEIVE (01 R26): the flit is received, and what has come for the dies is taken. A request that has to wait is tried again with every
later flit (DESIGN CHOICE, log 19). -/
def execFlitReceive (link : LinkId) (flit : List Byte) (s : State) : Host.Outcome State Fault Refusal :=
  .next (takeAll (if (linkOf s link.val).state = 2 then receiveFlit s link.val flit else s))

/-! ### Sending again (01 R26, R27) -/

/-- Resends after which a flit that is still not acknowledged makes its link fail. -/
def resendMax : Nat := 8

/-- LINK_RESEND (01 R26): the flits from the SEQ that the receiver expects go out again in their order; those before it have arrived.
Each return counts once in RETRIES (DEDUCED, log 19). -/
def execLinkResend (link : LinkId) (seq : BitVec 12) (s : State) : Host.Outcome State Fault Refusal :=
  let n := link.val
  let l := linkOf s n
  if l.state ≠ 2 ∨ (l.next ≠ seq.toNat ∧ !l.replay.any fun z => z.seq == seq.toNat) then .next s
  else
    let back := l.replay.dropWhile fun z => z.seq != seq.toNat
    if back.isEmpty then .next (modLink s n fun l => { l with replay := [] })
    else if back.any fun z => decide (resendMax ≤ z.resends) then .next (deliver (modLink s n fun l => { l with replay := back }) (.resendLimit link))
    else
      let s := modMod s fun m => { m with out := m.out ++ back.map fun z => .flit n (flitBytes s n z.seq z.flit) }
      .next (modLink s n fun l => { l with retries := sat16 (l.retries + 1), replay := back.map fun z => { z with resends := z.resends + 1 } })

/-! ### Failure and isolation (01 R29, R30) -/

/-- A link leaves service: the flits it has not seen acknowledged go in front of every later one; its own link control goes. -/
def leaveService (s : State) (n state : Nat) : State :=
  let back := ((linkOf s n).replay.map (·.flit)).filter fun f => f.kind != kindControl
  let s := modMod s fun m => { m with txq := back ++ m.txq.filter fun f => !(f.kind == kindControl && f.dst == n) }
  modLink s n fun l => { l with state := state, next := 0, expect := 0, replay := [], nacked := false }

/-- What a core asked of dies of other modules ends in TRANSL, NO_ROUTE (01 R30): the oldest such access gives its cause, and no answer comes for
the others. -/
def noRouteLoads (s : State) (c : Nat) : State :=
  match (coreOf s c).arrivals.find? fun a => a.tag != 0 with
  | none => s
  | some a =>
    deliver (modCore s c fun k => { k with arrivals := k.arrivals.filter fun a => a.tag == 0 }) (.lateCause (Fin.ofNat 256 c) a.mark 0x0A 3 a.asked)

/-- The work entries of a queue pair that were sent to another module and wait for it end with LINK_DOWN. -/
def downEntries (s : State) (d q : Nat) : State :=
  match qpOf s d q with
  | none => s
  | some p => p.entries.foldl (fun s e => if e.started && e.code.isNone && (localDie s e.peer).isNone then outcome s d q e.serial 4 else s) s

/-- The module is isolated when no link of it works or trains: what went to other modules ends as 01 R30 states, what steps of it have asked there with
TRANSL, NO_ROUTE. The rule says that every link
has failed: the model counts a link that is down, as one that the domain never listed, as a failed one, and one that trains as not yet failed
(DESIGN CHOICE, log 19). -/
def isolate (s : State) : State :=
  if (List.range 12).any fun n => (linkOf s n).state == 2 || (linkOf s n).state == 1 then s
  else
    let noRoute := fun (x : Exchange) =>
      if x.reply.isNone then { x with reply := some ({ tag := x.req.tag, cause := 0x0A, sub := 3 }, none) } else x
    let s := modMod s fun m => { m with reach := [], txq := [], master := moduleNo s, exchanges := m.exchanges.map noRoute }
    let s := (List.range 4).foldl (fun s d => (dieOf s d).qps.foldl (fun s e => downEntries s d e.1) s) s
    s.cores.foldl (fun s e => noRouteLoads s e.1) s

/-- A link is declared failed (01 R27). -/
def failLink (s : State) (n : Nat) : State := isolate (leaveService s n 3)

/-- RESEND_LIMIT (01 R27): a flit resent 8 times and not acknowledged makes the link fail. -/
def execResendLimit (link : LinkId) (s : State) : Host.Outcome State Fault Refusal :=
  let l := linkOf s link.val
  .next (if l.state = 2 ∧ l.replay.any (fun z => decide (resendMax ≤ z.resends)) then failLink s link.val else s)

/-- ACK_TIMEOUT (01 R27): 1 ms has passed without an acknowledgement while flits wait. -/
def execAckTimeout (link : LinkId) (s : State) : Host.Outcome State Fault Refusal :=
  let l := linkOf s link.val
  .next (if l.state = 2 ∧ !l.replay.isEmpty then failLink s link.val else s)

/-! ### Training (03 R75, R76) -/

/-- A link trains: its counters are cleared (01 R38). -/
def trainLink (s : State) (n : Nat) : State := modLink (leaveService s n 1) n fun l => { l with crcerr := 0, retries := 0 }

/-- The lowest of a list of module ids. -/
def lowest (m : Nat) (l : List Nat) : Nat := l.foldl min m

/-- The other modules that the domain reaches: open to the spec's reader, a free value says which (log 1). -/
def openReach (s : State) : State × List Nat :=
  (bumpFree s, (List.range 63).filter fun m => bitOf (Config.freeValue s.freeCtr) m && m != moduleNo s)

/-- The module joins the domain (03 R76, 01 R32, R33): alone it forms one, and its counters start at 0; else they take the domain's
count, which is open (log 1). -/
def joinDomain (s : State) : State :=
  let (s, l) := openReach s
  let s := modMod s fun m => { m with joined := true, reach := l, master := lowest (moduleNo s) l }
  let (s, b) := if l.isEmpty then (s, 0) else (bumpFree s, Config.freeValue s.freeCtr)
  (List.range 4).foldl (fun s d => modDie s d fun k => { k with beat := b }) s

/-- A link comes up. With the first listed link the module joins the domain; a module that was isolated finds its domain again. -/
def linkUp (s : State) (n port : Nat) (listed : Bool) : State :=
  let s := modLink s n fun l => { l with state := 2, port := port }
  if !s.mod.joined then (if listed then joinDomain s else s)
  else if s.mod.reach.isEmpty then
    let (s, l) := openReach s
    modMod s fun m => { m with reach := l, master := lowest (moduleNo s) l }
  else s

/-- A link of a training is through: the command finishes with the last one. -/
def endTraining (s : State) (n : Nat) (t : Training) (bad : Bool) : State :=
  let t := { t with links := t.links.filter fun p => p.1 != n, failed := t.failed || bad }
  if t.links.isEmpty then finishCmd (modMod s fun m => { m with training := none }) t.die t.cid (if t.failed then 0x0E else 0)
  else modMod s fun m => { m with training := some t }

/-- LINK_TRAIN_DONE (03 R76): a link that reports the port it must report comes into service; another is left down. -/
def execLinkTrainDone (link : LinkId) (port : BitVec 8) (s : State) : Host.Outcome State Fault Refusal :=
  let n := link.val
  match s.mod.training with
  | none => .next s
  | some t =>
    match t.links.find? fun p => p.1 == n with
    | none => .next s
    | some (_, want) =>
      let good := want.isNone || want == some port.toNat
      let s := if good then linkUp s n port.toNat want.isSome else modLink s n fun l => { l with state := 0, port := port.toNat }
      .next (endTraining s n t !good)

/-- LINK_TRAIN_TIMEOUT (03 R76): a link that has not trained within 10 ms is left down. -/
def execLinkTrainTimeout (link : LinkId) (s : State) : Host.Outcome State Fault Refusal :=
  let n := link.val
  match s.mod.training with
  | none => .next s
  | some t =>
    if t.links.any fun p => p.1 == n then .next (isolate (endTraining (leaveService s n 0) n t true)) else .next s

/-! ### The beat (01 R32 to R34) -/

/-- The beats between two beat-sync flits of the master: open in the spec (DESIGN CHOICE, log 19). -/
def syncEvery : Nat := 1024

/-- The beat-sync flits of the master to every die of the other modules. -/
def syncFlits (s : State) : List Flit :=
  s.mod.reach.flatMap fun m => (List.range 4).map fun d => ⟨0, 4 * m + d, 4, kindSync, padTo 240 (leBytes 8 (dieOf s 0).beat.toNat)⟩

/-- BEAT_TICK (01 R32): the die's beat counter rises by 1; the gangs whose common beat begins are released next (05 R108); the master sends beat sync. -/
def execBeatTick (die : DieId) (s : State) : Host.Outcome State Fault Refusal :=
  let s := modDie s die.val fun k => { k with beat := k.beat + 1 }
  let s := match dueGangs s with
    | g :: _ => { s with agenda := ⟨.gangRelease, ⟨g.1, g.2.1⟩⟩ :: s.agenda }
    | [] => s
  if die.val = 0 ∧ s.mod.joined ∧ s.mod.master = moduleNo s ∧ (dieOf s 0).beat.toNat % syncEvery = 0 then
    .next (modMod s fun m => { m with txq := m.txq ++ syncFlits s })
  else .next s

/-- BEAT_MASTER_LOSS (01 R34): the working module with the next lowest id becomes master; no counter jumps. -/
def execBeatMasterLoss (s : State) : Host.Outcome State Fault Refusal :=
  if s.mod.master = moduleNo s then .next s
  else
    let l := s.mod.reach.filter fun m => m != s.mod.master
    .next (modMod s fun m => { m with reach := l, master := lowest (moduleNo s) l })

end Sys2Proof.Machine
end

