-- ==== Sys2Proof/Machine/FwCalls.lean ====
section
/-! DEFINITION. The functions of FWCALL but SECURITY (03 R75, R76, 06 R142, 08 R222, 21 R496): each acts on the module for the command in
hand, and changes nothing where an argument is out of its range. -/

namespace Sys2Proof.Machine

/-! ### Arguments (03 R75) -/

/-- BAD_FIELD. -/
def badField : Nat := 0x03

/-- A FWCALL runs: a nonzero argument byte that its function does not name is out of range. -/
def fwcall (named : List (Nat × Nat)) (f : State → Nat → Nat → Cmd → State) (s : State) : Host.Outcome State Fault Refusal :=
  withCmd (fun s d cid c => if zeroBut c.slot named 40 252 then f s d cid c else finishCmd s d cid badField) s

/-- SET_MODULE_ID. -/
def runSetModuleId (s : State) (d cid : Nat) (c : Cmd) : State :=
  let id := fieldOf c.slot 40 1
  if 62 < id then finishCmd s d cid badField else finishCmd (modMod s fun m => { m with modId := BitVec.ofNat 64 (128 + id) }) d cid 0

/-- SET_MODULE_ID (03 R75, 01 R37). -/
def execSetModuleId (s : State) : Host.Outcome State Fault Refusal := fwcall [(40, 41)] runSetModuleId s

/-- PORTB_MODE. -/
def runPortbMode (s : State) (d cid : Nat) (c : Cmd) : State :=
  let mode := fieldOf c.slot 40 1
  let split := fieldOf c.slot 41 1
  if 2 < mode ∨ 2 < split then finishCmd s d cid badField else finishCmd (modMod s fun m => { m with portbNext := (mode, split) }) d cid 0

/-- PORTB_MODE (03 R75, 02 R42): in force at the next boot. -/
def execPortbMode (s : State) : Host.Outcome State Fault Refusal := fwcall [(40, 42)] runPortbMode s

/-- The writable bits of SWT_LO (02 R48). -/
def swtLoMask : Word := 0xFFFFFFFFFFFFFFF1

/-- The writable bits of SWT_HI. -/
def swtHiMask : Word := 0x0003FFFFFFFFF000

/-- SWT_WRITE. -/
def runSwtWrite (s : State) (d cid : Nat) (c : Cmd) : State :=
  let e := fieldOf c.slot 40 1
  let i := fieldOf c.slot 41 1
  if 3 < e ∨ 63 < i then finishCmd s d cid badField
  else
    finishCmd (modDie s e fun k => { k with swtLo := tabSet 0 k.swtLo i (wordAt c.slot 48 &&& swtLoMask),
                                            swtHi := tabSet 0 k.swtHi i (wordAt c.slot 56 &&& swtHiMask) }) d cid 0

/-- SWT_WRITE (03 R75, 02 R48). -/
def execSwtWrite (s : State) : Host.Outcome State Fault Refusal := fwcall [(40, 42), (48, 64)] runSwtWrite s

/-- APERTURE. -/
def runAperture (s : State) (d cid : Nat) (c : Cmd) : State :=
  finishCmd (modMod s fun m => { m with aptVa := wordAt c.slot 40, aptAs := fieldOf c.slot 48 2 }) d cid 0

/-- APERTURE (03 R75, 02 R45). -/
def execAperture (s : State) : Host.Outcome State Fault Refusal := fwcall [(40, 50)] runAperture s

/-! ### Joining a domain (03 R76) -/

/-- Link and port of entry k of a switch port list. -/
def portEntry (bs : List Byte) (k : Nat) : Nat × Nat := (fieldOf bs (8 + 4 * k) 1, fieldOf bs (9 + 4 * k) 1)

/-- A switch port list keeps 03 R76. -/
def portListOk (bs : List Byte) (n : Nat) : Bool :=
  let ls := (List.range n).map fun k => (portEntry bs k).1
  fieldOf bs 4 4 == 0 && ls.all (fun l => decide (l < 12)) && decide ls.Nodup && (List.range n).all fun k => fieldOf bs (10 + 4 * k) 2 == 0

/-- Listed links train, the others are taken down. -/
def startJoin (s : State) (d cid : Nat) (ls : List (Nat × Nat)) : State :=
  let s := (List.range 12).foldl (fun s n => if ls.any fun p => p.1 == n then trainLink s n else leaveService s n 0) s
  modMod s fun m => { m with training := some ⟨d, cid, ls.map fun p => (p.1, some p.2), false⟩ }

/-- DOMAIN_JOIN: it waits while another command trains links. -/
def runDomainJoin (s : State) (d cid : Nat) (c : Cmd) : State :=
  if !bitOf s.mod.modId 7 then finishCmd s d cid badField
  else if s.mod.training.isSome then waitCmd s d cid
  else
    let asid := cmdAsid s d c
    let va := fieldOf c.slot 40 4
    let (s, r) := fwRead s d asid va 8
    match r with
    | .error e => finishCmd s d cid (accessErr e)
    | .ok h =>
      let n := fieldOf h 0 4
      if n = 0 ∨ 12 < n then finishCmd s d cid badField
      else
        let (s, r) := fwRead s d asid va (8 + 4 * n)
        match r with
        | .error e => finishCmd s d cid (accessErr e)
        | .ok bs =>
          if !portListOk bs n then finishCmd s d cid badField
          else modCmd (startJoin s d cid ((List.range n).map (portEntry bs))) d cid fun c => { c with waits := false }

/-- DOMAIN_JOIN (03 R76). -/
def execDomainJoin (s : State) : Host.Outcome State Fault Refusal := fwcall [(40, 44)] runDomainJoin s

/-- LINK_RETRAIN: the link may report any port. -/
def runLinkRetrain (s : State) (d cid : Nat) (c : Cmd) : State :=
  let n := fieldOf c.slot 40 1
  if 11 < n then finishCmd s d cid badField
  else if s.mod.training.isSome then waitCmd s d cid
  else modCmd (modMod (trainLink s n) fun m => { m with training := some ⟨d, cid, [(n, none)], false⟩ }) d cid fun c => { c with waits := false }

/-- LINK_RETRAIN (03 R75, 01 R38). -/
def execLinkRetrain (s : State) : Host.Outcome State Fault Refusal := fwcall [(40, 41)] runLinkRetrain s

/-! ### Groups and queue pairs (06 R142) -/

/-- A range lies on mapped, writable device DRAM: 0, or the code that refuses it. -/
def dramFail (s : State) (d asid va n : Nat) : Nat :=
  if inWindow va n then 0x0B
  else (pagesOf [(va, n)]).foldl (fun e p =>
    if e ≠ 0 then e
    else match (engLoc s (4 * d) asid (p * 65536) 1 true).2 with
      | .error f => accessErr f
      | .ok (.home _ _ _ _ _ _) => 0
      | .ok (.remote _) => 0x0B
      | .ok _ => 0x0C) 0

/-- The group of a descriptor, before its members are known. -/
def descGroup (raw : List Byte) (asid : Nat) : Group :=
  { log := fieldOf raw 2 1 == 1, n := fieldOf raw 3 1, rank := fieldOf raw 4 1, listen := fieldOf raw 5 1, quorum := fieldOf raw 6 1,
    uwin := fieldOf raw 7 1, members := [], leaders := (List.range 4).map fun i => fieldOf raw (16 + i) 1, dl := fieldOf raw 20 4,
    ring := wordAt raw 24, asid := asid, log2n := fieldOf raw 32 1, first := fieldOf raw 36 4, lraddr := wordAt raw 40,
    nextStep := fieldOf raw 36 4 }

/-- The fields of a descriptor are in range. -/
def groupOk (s : State) (d : Nat) (raw : List Byte) (g : Group) (old : Option Group) : Bool :=
  let logZero := fieldOf raw 6 2 == 0 && fieldOf raw 16 8 == 0 && fieldOf raw 32 1 == 0 && fieldOf raw 36 12 == 0
  fieldOf raw 0 2 / 4096 == 0 && decide (fieldOf raw 2 1 ≤ 1) && decide (1 ≤ g.n) && decide (g.n ≤ 252) && decide (g.rank < g.n) &&
    decide (g.listen < 64) && inPool s (64 * d + g.listen) && g.ring.toNat % 4096 == 0 && fieldOf raw 33 3 == 0 && fieldOf raw 48 16 == 0 &&
    (if g.log then
       decide (1 ≤ g.quorum) && decide (g.quorum ≤ g.n) && decide (1 ≤ g.uwin) && decide (g.uwin ≤ 64) && decide (1 ≤ g.dl) &&
         decide (10 ≤ g.log2n) && decide (g.log2n ≤ 24) && g.leaders.all fun l => decide (l ≤ 0xFB)
     else logZero) &&
    (match old with
     | some o => o.log == g.log && o.ring == g.ring && o.log2n == g.log2n
     | none => true)

/-- A MEMBERS list keeps 06 R142. -/
def membersOk (s : State) (d : Nat) (g : Group) (ms : List Nat) : Bool :=
  decide ms.Nodup && ms.all (fun m => decide (m ≤ 0xFB)) && ms[g.rank]? == some (globalDie s d)

/-- The bytes of a group's ring or arrival area with its status block (06 R147, R162). -/
def groupArea (g : Group) : Nat := if g.log then 32 * 2 ^ g.log2n + 64 else 64 + 64 * 32

/-- The group that stands after a GROUP_SET: a replacement carries state forward and advances the generation. -/
def replaceGroup (old : Option Group) (g : Group) : Group :=
  match old with
  | none => g
  | some o =>
    if g.log then
      { g with gen := o.gen + 1, first := o.first, nextStep := o.nextStep, seq := o.seq, chk := o.chk, contribs := o.contribs, emitted := o.emitted,
               high := o.high, sealed := o.sealed, hchk := o.hchk, hstep := o.hstep, drops := o.drops, stale := o.stale, closes := o.closes,
               leader := o.leader.filter fun m => g.leaders.contains m }
    else { g with gen := o.gen + 1 }

/-- What the leader of a log group keeps goes to the die of this module that leads it now; it starts with the group. -/
def placeLead (s : State) (d id : Nat) (g : Group) : State :=
  if !g.log then s
  else
    let old := (List.range 4).findSome? fun e => leadOf s e id
    let m := (leaderOf s g).bind (localDie s)
    match m with
    | none => (List.range 4).foldl (fun s e => modDie s e fun k => { k with leads := tabDel k.leads id }) s
    | some e =>
      let s := (List.range 4).foldl (fun s f => if f = e then s else modDie s f fun k => { k with leads := tabDel k.leads id }) s
      match old with
      | none => setLead s e id { grp := g, open_ := g.nextStep, closeBeat := (dieOf s e).beat.toNat }
      | some l => if e = d ∨ (collOf s e id).isNone then setLead s e id { l with grp := g } else setLead s e id l

/-- The group is installed, with its status block. The pending operations of a reduce group that it replaces give NaN as 06 R164 states: at the
core that now listens, as its queue has room. -/
def installGroup (s : State) (d id : Nat) (old : Option Group) (g : Group) : State :=
  let h := replaceGroup old g
  let die : DieId := Fin.ofNat 4 d
  let grp := BitVec.ofNat 12 id
  let h := match old with
    | some o => if o.log then h else { h with owed := o.owed + pendingOps s d id o }
    | none => h
  let s := if h.log then s else { s with mail := s.mail.filter fun i => mailKey i.step != mailKey (.memberLoss die grp 0) }
  let s := placeLead (keepGroup s d id h) d id h
  if h.owed = 0 then s else payOwed s die grp h

/-- GROUP_SET with a descriptor whose fields are in range. -/
def setMembers (s : State) (d cid id asid : Nat) (raw : List Byte) (g : Group) (old : Option Group) : State :=
  let (s, r) := fwRead s d asid (fieldOf raw 8 8) g.n
  match r with
  | .error e => finishCmd s d cid (accessErr e)
  | .ok ms =>
    let g := { g with members := ms.map (·.toNat) }
    if !membersOk s d g g.members then finishCmd s d cid badField
    else
      let (s, r) := if g.log then fwRead s d asid g.lraddr.toNat 4 else (s, .ok [])
      match r with
      | .error e => finishCmd s d cid (accessErr e)
      | .ok _ =>
        let s := fetchRange d asid (pagesOf [(g.ring.toNat, groupArea g)]) s
        let e := dramFail s d asid g.ring.toNat (groupArea g)
        finishCmd (if e = 0 then installGroup s d id old g else s) d cid e

/-- GROUP_SET. -/
def runGroupSet (s : State) (d cid : Nat) (c : Cmd) : State :=
  let asid := cmdAsid s d c
  let (s, r) := fwRead s d asid (fieldOf c.slot 40 8) 64
  match r with
  | .error e => finishCmd s d cid (accessErr e)
  | .ok raw =>
    let id := fieldOf raw 0 2 % 4096
    let old := collOf s d id
    let g := descGroup raw asid
    if !groupOk s d raw g old then finishCmd s d cid badField else setMembers s d cid id asid raw g old

/-- GROUP_SET (06 R142). -/
def execGroupSet (s : State) : Host.Outcome State Fault Refusal := fwcall [(40, 48)] runGroupSet s

/-- QP_SET: a queue pair that stands keeps its serials and its outstanding entries (DESIGN CHOICE, log 22). -/
def runQpSet (s : State) (d cid : Nat) (c : Cmd) : State :=
  let q := fieldOf c.slot 40 2
  let id := fieldOf c.slot 42 2
  let ring := fieldOf c.slot 48 8
  let asid := cmdAsid s d c
  if 255 < q ∨ 4095 < id ∨ ring % 512 ≠ 0 then finishCmd s d cid badField
  else
    let s := fetchRange d asid (pagesOf [(ring, 512)]) s
    let e := dramFail s d asid ring 512
    if e ≠ 0 then finishCmd s d cid e
    else
      let p : Qp := (qpOf s d q).getD { grp := id, ring := 0, asid := asid }
      finishCmd (setQp s d q { p with grp := id, ring := BitVec.ofNat 64 ring, asid := asid }) d cid 0

/-- QP_SET (06 R142). -/
def execQpSet (s : State) : Host.Outcome State Fault Refusal := fwcall [(40, 44), (48, 56)] runQpSet s

/-! ### Hooks and rings (21 R496, 08 R222) -/

/-- First byte of a hook's handler in instruction memory. -/
def hookBase : Nat := 0x3F800

/-- CORE_HOOK's fields are in range, and its core may take a hook. -/
def hookOk (s : State) (raw : List Byte) : Bool :=
  let c := 64 * fieldOf raw 40 1 + fieldOf raw 41 1
  let n := fieldOf raw 56 2
  decide (fieldOf raw 40 1 ≤ 3) && decide (fieldOf raw 41 1 ≤ 63) && n % 4 == 0 && decide (n ≤ 2048) &&
    (n == 0 || (fieldOf raw 48 8 % 4 == 0 && fieldOf raw 64 8 % 65536 == 0)) &&
    !isFirmwareCore s c && !(coreOf s c).retired && !occupied s c

/-- A hook stands on a core, or is taken away. -/
def placeHook (s : State) (c : Nat) (raw img : List Byte) : State :=
  modCore s c fun k =>
    { k with tslice := BitVec.ofNat 64 (fieldOf raw 44 4), loaded := tabDel k.loaded 7,
             imem := if img.isEmpty then k.imem else memWrite k.imem hookBase img,
             hook := if img.isEmpty then none else some (img.length, wordAt raw 64) }

/-- CORE_HOOK. -/
def runCoreHook (s : State) (d cid : Nat) (c : Cmd) : State :=
  let raw := c.slot
  let core := 64 * fieldOf raw 40 1 + fieldOf raw 41 1
  let n := fieldOf raw 56 2
  let asid := cmdAsid s d c
  if !hookOk s raw then finishCmd s d cid badField
  else if n = 0 then finishCmd (placeHook s core raw []) d cid 0
  else
    let (s, r) := codeRead (fetchRange d asid (pagesOf [(fieldOf raw 48 8, n)]) s) d asid (fieldOf raw 48 8) n
    match r with
    | .error e => finishCmd s d cid (if e = waitErr then waitErr else badField)
    | .ok img => finishCmd (placeHook s core raw img) d cid 0

/-- CORE_HOOK (21 R496). -/
def execCoreHook (s : State) : Host.Outcome State Fault Refusal := fwcall [(40, 42), (44, 58), (64, 72)] runCoreHook s

/-- RING_SET: the descriptor stands in its place of the die's DRAM at RB_BASE (08 R221). -/
def runRingSet (s : State) (d cid : Nat) (c : Cmd) : State :=
  let e := fieldOf c.slot 40 1
  let id := fieldOf c.slot 42 2
  if 3 < e ∨ 1023 < id then finishCmd s d cid badField
  else
    let (s, r) := fwRead s d (cmdAsid s d c) (fieldOf c.slot 48 8) 32
    match r with
    | .error x => finishCmd s d cid (accessErr x)
    | .ok raw =>
      if fieldOf raw 13 3 ≠ 0 ∨ fieldOf raw 24 8 ≠ 0 ∨ 2 ^ 20 ≤ fieldOf raw 16 4 ∨ 2 ^ 20 ≤ fieldOf raw 20 4 ∨ !ringOk s (ringDescOf raw) then
        finishCmd s d cid badField
      else finishCmd (physWrite s e (ringAddr (dieOf s e) id) raw) d cid 0

/-- RING_SET (08 R222). -/
def execRingSet (s : State) : Host.Outcome State Fault Refusal := fwcall [(40, 41), (42, 44), (48, 56)] runRingSet s

end Sys2Proof.Machine
end

