-- ==== Sys2Proof/Machine/Graph.lean ====
section
/-! DEFINITION. The dependence graph (05 R128, R129): launching nodes and their ends; GNODE and GSIG (17 R473, R474). -/

namespace Sys2Proof.Machine

/-! ### Nodes (05 R128) -/

/-- Address of node i. -/
def nodeVa (root : Word) (i : Nat) : Nat := (root.toNat + 64 * i) % 2 ^ 64

/-- A running graph as a step changes it: the machine, and what its command has under way. -/
structure GraphRun where
  /-- the machine -/
  s        : State
  /-- die -/
  d        : Nat
  /-- the GRAPH's command -/
  cid      : Nat
  /-- address space -/
  asid     : Nat
  /-- stream -/
  strm     : Nat
  /-- root -/
  root     : Word
  /-- nodes -/
  count    : Nat
  /-- nodes launched and not ended -/
  launched : List Nat
  /-- code the graph ends with, 0 while no node erred -/
  erred    : Nat
  /-- it launches no more nodes -/
  closed   : Bool
  /-- the step met a page that migrates: it is made again as a whole (10 R262) -/
  waits    : Bool := false

/-- A running graph of a die by its command. -/
def graphOf (s : State) (d cid : Nat) : Option GraphRun :=
  match cmdOf s d cid with
  | some c =>
    match c.work with
    | .graph root count launched erred closed => some { s := s, d := d, cid := cid, asid := cmdAsid s d c, strm := c.strm, root := root,
                                                         count := count, launched := launched, erred := erred, closed := closed }
    | _ => none
  | none => none

/-- The graph's state is kept; it finishes when no node is launched and none can launch. -/
def GraphRun.keep (g : GraphRun) : State :=
  let s := modCmd g.s g.d g.cid fun c => { c with work := .graph g.root g.count g.launched g.erred g.closed }
  if g.launched.isEmpty then finishCmd s g.d g.cid g.erred else s

/-- The graph ends in an error, whatever its nodes came to: those already launched run to their end. A page that migrates ends nothing. -/
def GraphRun.close (g : GraphRun) (code : Nat) : GraphRun :=
  if code = waitErr then { g with waits := true } else { g with closed := true, erred := if g.closed then g.erred else code }

/-- The record of a node. -/
def GraphRun.node (g : GraphRun) (i : Nat) : GraphRun × Option (List Byte) :=
  let (s, r) := fwRead g.s g.d g.asid (nodeVa g.root i) 64
  match r with
  | .ok bs => ({ g with s := s }, some bs)
  | .error e => (({ g with s := s } : GraphRun).close (accessErr e), none)

/-- Bytes of a node are written. -/
def GraphRun.put (g : GraphRun) (i off : Nat) (bs : List Byte) : GraphRun :=
  let (s, r) := fwWrite g.s g.d g.asid (nodeVa g.root i + off) bs
  match r with
  | .ok _ => { g with s := s }
  | .error e => ({ g with s := s } : GraphRun).close (accessErr e)

/-- The types a node's body may have (05 R129). -/
def bodyTypes : List Nat := [0, 1, 2, 4, 6, 9, 10, 11]

/-- A body's slot as the command of a node. -/
def bodyCmd (g : GraphRun) (i : Nat) (raw : List Byte) : Cmd :=
  { strm := g.strm, depth := 0, cls := bitsOf (trailer raw) 11 8, type := trailer raw % 256, state := 1, slotIx := i, pos := 0,
    tag := wordAt raw 0, tAcc := (dieOf g.s g.d).beat, slot := raw, node := some (g.cid, i), sizes := tableSizes g.s g.d (trailer raw % 256) }

/-- The slot of a node's body, the code it is refused with, and the status its COPY is refused with. -/
def GraphRun.body (g : GraphRun) (rec' : List Byte) : State × List Byte × Nat × Nat :=
  let va := fieldOf rec' 8 8
  if va % 256 ≠ 0 then (g.s, zeros 256, 0x03, 0)
  else
    let (s, r) := fwRead g.s g.d g.asid va 256
    match r with
    | .error e => (s, zeros 256, accessErr e, 0)
    | .ok raw =>
      if raw.getD 255 0 ≠ 0xA5 then (s, raw, 0x05, 0)
      else if !bodyTypes.contains (trailer raw % 256) then (s, raw, 0x03, 0)
      else
        let (s, e) := acceptBody s g.d g.asid 0 raw
        (s, raw, e)

/-- A node launches: its body becomes a command of the graph's stream, of the stream's priority, that orders only by the graph (05 R106); a body
that is refused ends the node in error at once. -/
def GraphRun.launch (g : GraphRun) (i : Nat) : GraphRun :=
  if g.closed then g
  else
    let g := g.put i 0 [1]
    let (g, r) := g.node i
    match r with
    | none => g
    | some rec' =>
      let (s, raw, code, st) := g.body rec'
      if code = waitErr then g.close code
      else
        let g := { g with s := s, launched := g.launched ++ [i] }
        let cid := 2 ^ 64 + (dieOf s g.d).bodies
        let c := { bodyCmd g i raw with refusal := st }
        let s := modDie s g.d fun k => { k with bodies := k.bodies + 1, cmds := tabPut k.cmds cid (if code = 0 then c else { c with state := 4, err := code }) }
        if code = 0 then { g with s := deliver s (.commandSelect (Fin.ofNat 4 g.d)) }
        else { g with s := deliver s (.graphNodeEnd (Fin.ofNat 4 g.d) g.cid i) }

/-- Nodes from i on with PRED = 0 launch in ascending index. A nonzero reserved byte ([1:2], [5:8]) of a record is ignored (DESIGN CHOICE, log 64:
the spec states a consequence for GNODE's record alone, 17 R473). -/
def GraphRun.launchFrom : Nat → Nat → GraphRun → GraphRun
  | 0, _, g => g
  | n + 1, i, g =>
    let (g, r) := g.node i
    match r with
    | none => g
    | some rec' => GraphRun.launchFrom n (i + 1) (if fieldOf rec' 2 2 = 0 then g.launch i else g)

/-! ### GRAPH and the end of a node (05 R129) -/

/-- GRAPH: every node with PRED = 0 launches. -/
def runGraph (s : State) (d cid : Nat) (c : Cmd) : State :=
  if c.work ≠ .none then s
  else
    let root := wordAt c.slot 32
    let n := fieldOf c.slot 40 4
    let asid := cmdAsid s d c
    let (s, r) := fwRead s d asid root.toNat (64 * n)
    match r with
    | .error e => finishCmd s d cid (accessErr e)
    | .ok _ =>
      let g := GraphRun.launchFrom n 0 { s := s, d := d, cid := cid, asid := asid, strm := c.strm, root := root, count := n, launched := [], erred := 0, closed := false }
      if g.waits then lacks g.s .page else ({ g with s := modCmd g.s d cid fun c => { c with waits := false } } : GraphRun).keep

/-- GRAPH (05 R129). -/
def execGraph (s : State) : Host.Outcome State Fault Refusal := withCmd runGraph s

/-- The successors a record lists; none when it lists more than 12. -/
def succOf (rec' : List Byte) : Option (List Nat) :=
  let n := fieldOf rec' 4 1
  if 12 < n then none else some ((List.range n).map fun i => fieldOf rec' (16 + 4 * i) 4)

/-- PRED of one node falls by one; at 0 a waiting node launches, and one that is marked skipped never does. -/
def GraphRun.signal (g : GraphRun) (i : Nat) : GraphRun :=
  if g.closed then g
  else if g.count ≤ i then g.close 0x03
  else
    let (g, r) := g.node i
    match r with
    | none => g
    | some rec' =>
      let p := fieldOf rec' 2 2
      if p = 0 then g.close 0x03
      else
        let g := g.put i 2 (leBytes 2 (p - 1))
        if p = 1 ∧ fieldOf rec' 0 1 = 0 then g.launch i else g

/-- Waiting nodes reachable from a list are marked skipped; an index that no node has ends the graph, and the others are marked still. -/
def GraphRun.skip : Nat → List Nat → GraphRun → GraphRun
  | 0, _, g => g
  | _ + 1, [], g => g
  | fuel + 1, i :: l, g =>
    if g.count ≤ i then GraphRun.skip fuel l (g.close 0x03)
    else
      let (g, r) := g.node i
      match r with
      | none => g
      | some rec' =>
        if fieldOf rec' 0 1 ≠ 0 then GraphRun.skip fuel l g
        else
          let g := g.put i 0 [4]
          match succOf rec' with
          | some n => GraphRun.skip fuel (l ++ n) g
          | none => GraphRun.skip fuel l (g.close 0x03)

/-- A node that ended clean: its successors are signalled in their order. -/
def GraphRun.endClean (g : GraphRun) (i : Nat) : GraphRun :=
  let g := g.put i 0 [2]
  let (g, r) := g.node i
  match r with
  | none => g
  | some rec' =>
    match succOf rec' with
    | none => g.close 0x03
    | some l => l.foldl GraphRun.signal g

/-- A node that ended in error: what depends on it is skipped, and the graph ends in error. -/
def GraphRun.endError (g : GraphRun) (i code : Nat) : GraphRun :=
  let g := { g.put i 0 [3] with erred := if g.erred = 0 then code else g.erred }
  let (g, r) := g.node i
  match r with
  | none => g
  | some rec' =>
    match succOf rec' with
    | some l => GraphRun.skip (13 * g.count + 13) l g
    | none => g.close 0x03

/-- The body of a node leaves, and its faults enter the graph's record. -/
def takeBody (s : State) (d cid node : Nat) : State × Nat :=
  match (dieOf s d).cmds.find? fun e => e.2.node == some (cid, node) with
  | none => (s, 0)
  | some (k, b) =>
    let s := modDie s d fun x => { x with cmds := tabDel x.cmds k }
    (modCmd s d cid fun c =>
      { c with fsum := c.fsum ||| b.fsum, fcore := if c.fcause = 0 then b.fcore else c.fcore, fcause := if c.fcause = 0 then b.fcause else c.fcause }, b.err)

/-- A node of a running graph ends with its body. -/
def endNode (g : GraphRun) (node : Nat) : State :=
  let (s, err) := takeBody g.s g.d g.cid node
  let g := { g with s := s, launched := g.launched.erase node }
  let h := if err = 0 then g.endClean node else g.endError node err
  if h.waits then lacks h.s .page else h.keep

/-- GRAPH_NODE_END (05 R129). -/
def execGraphNodeEnd (die : DieId) (cid : Nat) (node : Nat) (s : State) : Host.Outcome State Fault Refusal :=
  match graphOf s die.val cid with
  | none => .next s
  | some g =>
    if !g.launched.contains node then .next s
    else
      let i := Instr.graphNodeEnd die cid node
      let r := asking (.step i 0 0) s fun s => endNode { g with s := s } node
      .next (if r.2 then waitCredit r.1 i else r.1)

/-! ### GNODE and GSIG (17 R473, R474) -/

/-- The running graphs of a die in an address space: one that an error has closed runs no more, though its last nodes do (05 R129, 17 R473). -/
def graphsOf (s : State) (d asid : Nat) : List GraphRun :=
  ((dieOf s d).cmds.filter fun e => e.2.state == 2).filterMap fun e =>
    match graphOf s d e.1 with
    | some g => if g.asid = asid ∧ !g.closed then some g else none
    | none => none

/-- A graph command ends at once with its token. -/
def graphToken (s : State) (e : Env) (op code : Nat) : Res :=
  let n := (e.t s).serial.toNat
  nothing (modCore (takeSerial s e.core e.ctx) e.core (pushToken · e.ctx 5 n op code))

/-- A record may be appended: STATE 0, at most 12 successors, reserved bytes zero. -/
def appendOk (r : List Byte) : Bool := fieldOf r 0 1 == 0 && fieldOf r 1 1 == 0 && decide (fieldOf r 4 1 ≤ 12) && fieldOf r 5 3 == 0

/-- GNODE (17 R473). -/
def effGnode (a b : SCode) : Eff := fun e s =>
  let t := e.t s
  let root := e.src s a
  let k := (e.src s b).toNat
  let d := dieOfCore e.core
  let old := s
  let s := releaseAll s e.core
  match (graphsOf s d t.asid).find? fun g => g.root == root with
  | none => graphToken s e 0x30 1
  | some g =>
    if k = 0 ∨ 4096 < k then graphToken s e 0x30 1
    else
      let (s, r) := engRead s (clusterOfCore e.core) t.asid (nodeVa root g.count) (64 * k)
      if acceptWaits old e (match r with | .error x => x | .ok _ => 0) then .hold (lackingIn old s) .owner
      else match r with
      | .error _ => graphToken s e 0x30 1
      | .ok bs =>
        if !(postedRaws k bs).all appendOk then graphToken s e 0x30 1
        else
          let h := GraphRun.launchFrom k g.count { g with s := s, count := g.count + k }
          if h.waits then .hold (lackingIn old h.s) .owner else graphToken h.keep e 0x30 0

/-- A node of a graph by its address. -/
def nodeAt (g : GraphRun) (va : Nat) : Option Nat :=
  let o := (va + 2 ^ 64 - g.root.toNat) % 2 ^ 64
  if o % 64 = 0 ∧ o / 64 < g.count then some (o / 64) else none

/-- GSIG (17 R474). -/
def effGsig (a : SCode) : Eff := fun e s =>
  let t := e.t s
  let va := (e.src s a).toNat
  let old := s
  let s := releaseAll s e.core
  match (graphsOf s (dieOfCore e.core) t.asid).find? fun g => (nodeAt g va).isSome with
  | none => graphToken s e 0x31 1
  | some g =>
    let i := (nodeAt g va).getD 0
    let (g, r) := g.node i
    match r with
    | none => if g.waits then .hold (lackingIn old g.s) .owner else graphToken s e 0x31 1
    | some rec' =>
      let h := g.signal i
      if h.waits then .hold (lackingIn old h.s) .owner
      else if fieldOf rec' 0 1 ≠ 0 ∨ fieldOf rec' 2 2 = 0 then graphToken g.s e 0x31 1
      else graphToken h.keep e 0x31 0
/-- GNODE (17 R473) alone in a bundle. -/
def execGnode (a b : SCode) (s : State) : Host.Outcome State Fault Refusal :=
  issueOne (.gnode a b) (effGnode a b) s

/-- GSIG (17 R474) alone in a bundle. -/
def execGsig (a : SCode) (s : State) : Host.Outcome State Fault Refusal :=
  issueOne (.gsig a) (effGsig a) s

end Sys2Proof.Machine
end

