-- ==== Sys2Proof/Machine/Security.lean ====
section
/-! DEFINITION. Boot, security modes, debug sessions, attestation and power states (04): the subfunctions of FWCALL SECURITY and the steps
of power and debug. -/

namespace Sys2Proof.Machine

/-- The security state changed. -/
def modSec (s : State) (f : Sec → Sec) : State := modMod s fun m => { m with sec := f m.sec }

/-- A fresh SEC_NONCE: four free values (log 1). -/
def freshNonce (s : State) : State :=
  let (s, bs) := freeBytes s 32
  modSec s fun x => { x with nonce := BitVec.ofNat 256 (leNat bs) }

/-- The 32 bytes of SEC_NONCE (04 R101). -/
def nonceBytes (s : State) : List Byte := leBytes 32 s.mod.sec.nonce.toNat

/-- The device serial's 16 bytes. -/
def serialBytes : List Byte := leBytes 16 Config.serial.toNat

/-! ### Boot (04 R83 to R85) -/

/-- Bytes of an SLH-DSA-SHAKE-256s signature. -/
def sigBytes256s : Nat := 29792

/-- Bytes of an SLH-DSA-SHAKE-256f signature. -/
def sigBytes256f : Nat := 49856

/-- A boot policy record with its signature passes every check (04 R84). -/
def policyOk (bs : List Byte) : Bool :=
  bs.length == 128 + sigBytes256s && Config.verify Config.imageKey (bs.take 128) (bs.drop 128) && fieldOf bs 0 4 == 0x54594450 &&
    fieldOf bs 4 1 == 1 && decide (fieldOf bs 5 1 ≤ 2) && fieldOf bs 6 2 == 0 &&
    (fieldOf bs 8 16 == 0 || fieldOf bs 8 16 == Config.serial.toNat) && fieldOf bs 24 104 == 0

/-- The boot ROM verifies the image: its key against the fuses, its signature with the key (04 R83). -/
def imageOk : Bool :=
  BitVec.ofNat 256 (leNat (shake256 Config.imageKey 32)) == Config.fuseDigest && Config.verify Config.imageKey Config.image Config.imageSig

/-- The boot policy in flash. -/
def flashRecord (s : State) : List Byte := s.mod.policy.getD Config.flashPolicy

/-- MEAS_BOOT after a boot: the image, then the policy record (04 R85). -/
def bootMeasure (s : State) : BitVec 512 := extend (extend 0 Config.image) ((flashRecord s).take 128)

/-- Expanders that answer below port B in cellar mode: open (log 1), at most as many as its bifurcation or its switch has. -/
def bootExpanders (s : State) : State × Nat :=
  if s.mod.portbNext.1 = 2 then (bumpFree s, fld (Config.freeValue s.freeCtr) 3 0) else (s, 0)

/-- Whether port A answers as a CXL Type-2 device or as a PCIe endpoint (02 R41): open, for no register of the spec chooses it (DESIGN CHOICE,
log 1). -/
def bootPortA (s : State) : State := modMod (bumpFree s) fun x => { x with cxlA := bitOf (Config.freeValue s.freeCtr) 0 }

/-- Amigen starts: the mode of the policy, D0, port A in one of its roles, port B as it was last set, an empty green room in every die, a fresh
nonce and encapsulation key. The records of the prompt books are left all zero: whether a free record's RCHK is the check of its zero bytes is
open (DESIGN CHOICE, log 22). -/
def startAmigen (s : State) : State :=
  let (s, ex) := bootExpanders (bootPortA s)
  let s := (List.range 4).foldl (fun s d => modDie s d fun k => clearRings (clearGreen k)) s
  let m := s.mod.portbNext
  let s := modMod s fun x => { x with booted := true, boots := x.boots + 1, power := 0, mhz := 3300,
                                      portb := BitVec.ofNat 64 (m.1 + m.2 * 2 ^ 4 + ex * 2 ^ 8) }
  freshNonce (modSec s fun x => { x with mode := fieldOf (flashRecord s) 5 1, debug := 0, measBoot := bootMeasure s, bootf := false })

/-- BOOT (04 R83, R84): once at power-on. A failed image or policy leaves the module with BOOTF alone. -/
def execBoot (s : State) : Host.Outcome State Fault Refusal :=
  if s.mod.booted || s.mod.sec.bootf then .next s
  else if imageOk && policyOk (flashRecord s) then .next (startAmigen s)
  else .next (modSec (modMod s fun m => { m with power := 0 }) fun x => { x with bootf := true })

/-! ### Power (04 R96 to R99, 01 R35, R40) -/

/-- The module enters S5: everything is lost but the boot flash, port B's next mode, RESF, and what lies outside (04 R98, R99).
The size the host gave BAR2 stays (DESIGN CHOICE, log 64: 02 R44 does not say whether S5 resets it). -/
def enterS5 (s : State) (resf : Bool) : State :=
  { mod := { policy := s.mod.policy, portbNext := s.mod.portbNext, boots := s.mod.boots, power := 5, out := s.mod.out, ext := s.mod.ext,
             bar2 := s.mod.bar2, sec := { resf := resf } },
    clock := s.clock, freeCtr := s.freeCtr }

/-- POWER_OFF (04 R99). -/
def execPowerOff (s : State) : Host.Outcome State Fault Refusal := .next (enterS5 s s.mod.sec.resf)

/-- THERMAL_SHUTDOWN (01 R35): a die that reaches 115 °C moves the module to S5. -/
def execThermalShutdown (_die : DieId) (degC : Nat) (s : State) : Host.Outcome State Fault Refusal :=
  .next (if 115 ≤ degC then enterS5 s s.mod.sec.resf else s)

/-- Power or temperature is above its limit (01 R35). -/
def overLimit (s : State) (watts degC : Nat) : Bool := decide (s.mod.cap < watts) || decide (105 ≤ degC)

/-- THROTTLE_ENTER (01 R35, R40): the dies enter A1, the clock falls by 100 MHz to no less than 1.1 GHz, THROT is set. A further fall of the clock
while the dies are in A1 sets THROT again, if it was cleared in between (DESIGN CHOICE, log 24: R40 speaks of A1 being entered). -/
def execThrottleEnter (_die : DieId) (watts degC : Nat) (s : State) : Host.Outcome State Fault Refusal :=
  .next (if s.mod.power ≤ 1 ∧ overLimit s watts degC then
    modMod s fun m => { m with power := 1, mhz := max 1100 (m.mhz - 100), throt := true } else s)

/-- THROTTLE_EXIT (01 R35): the dies return to 3.3 GHz. -/
def execThrottleExit (_die : DieId) (watts degC : Nat) (s : State) : Host.Outcome State Fault Refusal :=
  .next (if s.mod.power = 1 ∧ !overLimit s watts degC then modMod s fun m => { m with power := 0, mhz := 3300 } else s)

/-- A module power cap as it is stored: 1000 to 2800 (01 R40). -/
def clampCap (v : Nat) : Nat := max 1000 (min 2800 v)

/-- PWR_CAP_WRITE (01 R40): CAP of a write to PWR_CAP. -/
def execPwrCapWrite (value : Word) (s : State) : Host.Outcome State Fault Refusal :=
  .next (modMod s fun m => { m with cap := clampCap (fld value 11 0) })

/-- THROT_CLEAR (01 R40): 1 written to THROT. -/
def execThrotClear (s : State) : Host.Outcome State Fault Refusal := .next (modMod s fun m => { m with throt := false })

/-! ### Debug events and sessions (04 R92 to R94) -/

/-- Kinds of debug events: their codes are the model's (DESIGN CHOICE, log 24). -/
inductive EventKind where
  /-- unlock -/
  | unlock
  /-- end of a session -/
  | close
  /-- halt -/
  | halt
  /-- single step -/
  | step
  /-- memory or register access -/
  | access
  deriving DecidableEq, Repr

/-- The code of an event's kind. -/
def EventKind.code : EventKind → Nat
  | .unlock => 1
  | .close => 2
  | .halt => 3
  | .step => 4
  | .access => 5

/-- The 32 bytes of an event on a core (04 R94). -/
def eventBytes (s : State) (d core : Nat) (k : EventKind) : List Byte :=
  let x := s.mod.sec
  leBytes 8 (dieOf s d).beat.toNat ++ leBytes 1 k.code ++ leBytes 1 x.debug ++ leBytes 2 x.tenant ++
    leBytes 4 (globalDie s (dieOfCore core) * 64 + idxOfCore core) ++ padTo 16 (x.digest.take 16)

/-- An event enters the log. -/
def logEvent (s : State) (d core : Nat) (k : EventKind) : State :=
  modSec s fun x => { x with events := x.events ++ [eventBytes s d core k] }

/-- The log takes an event other than a session's end: its last record is kept back (04 R94). -/
def logRoom (s : State) : Bool := decide (s.mod.sec.events.length < 4095)

/-- The log takes a session's end while it has a record left. -/
def endRoom (s : State) : Bool := decide (s.mod.sec.events.length < 4096)

/-- The session ends, and its end is logged; the cores it halted go on (DESIGN CHOICE, log 24). -/
def endSession (s : State) (d : Nat) : State :=
  if s.mod.sec.debug = 0 then s
  else
    let s := if endRoom s then logEvent s d (64 * d) .close else s
    let s := modSec s fun x => { x with debug := 0, tenant := 0, digest := [] }
    { s with cores := s.cores.map fun e => (e.1, { e.2 with dbgHalt := false, dbgReq := false }) }

/-! ### SECURITY's arguments -/

/-- A tenant's key slot. -/
def tenantKey (s : State) (t : Nat) : Option TenantKey := (s.mod.sec.keys.find? fun e => e.1 == t).map (·.2)

/-- The tenant named at [41:42]. -/
def argTenant (c : Cmd) : Nat := fieldOf c.slot 41 1

/-- A tenant's number exists. -/
def tenantOk (t : Nat) : Bool := decide (1 ≤ t) && decide (t ≤ 16)

/-- The command ends with BAD_FIELD. -/
def refuse (s : State) (d cid : Nat) : State := finishCmd s d cid badField

/-! ### Modes (04 R87) -/

/-- RAISE_MODE. -/
def runRaiseMode (s : State) (d cid : Nat) (c : Cmd) : State :=
  let m := fieldOf c.slot 41 1
  if 2 < m ∨ m ≠ s.mod.sec.mode + 1 then refuse s d cid
  else
    let s := if m = 2 then endSession s d else s
    finishCmd (modSec s fun x => { x with mode := m }) d cid 0

/-- RAISE_MODE (04 R87). -/
def execRaiseMode (s : State) : Host.Outcome State Fault Refusal := fwcall [(40, 42)] runRaiseMode s

/-! ### Keys and sealed windows (04 R88 to R91) -/

/-- Bytes of a wrapped key: the ciphertext and the masked key pair. -/
def wrappedBytes : Nat := 1632

/-- The key pair that a wrapped key holds for a tenant (04 R91). -/
def unwrapKey (s : State) (tenant : Nat) (w : List Byte) : BitVec 512 :=
  let secret := leBytes 32 (Config.decap s.mod.boots (w.take 1568)).toNat
  BitVec.ofNat 512 (leNat (w.drop 1568)) ^^^ BitVec.ofNat 512 (leNat (shake256 (secret ++ leBytes 1 tenant) 64))

/-- TENANT of an address space on a die (10 R253). -/
def asTenant (s : State) (d asid : Nat) : Nat := fld (asrEntry s d asid) 5 1

/-- An address space is bound to a tenant on every die: TENANT of its entry in each die's table. -/
def bindAs (s : State) (asid tenant : Nat) : State :=
  (List.range 4).foldl (fun s d =>
    physWrite s d (asrAddr (dieOf s d) asid) (leBytes 8 (setFld (asrEntry s d asid) 5 1 tenant).toNat)) s

/-- The address space is bound to another tenant already. -/
def boundElsewhere (s : State) (asid tenant : Nat) : Bool :=
  (List.range 4).any fun d => asTenant s d asid != 0 && asTenant s d asid != tenant

/-- LOAD_KEY: in Sealed mode alone keys exist (04 R100). -/
def runLoadKey (s : State) (d cid : Nat) (c : Cmd) : State :=
  let t := argTenant c
  let as := fieldOf c.slot 42 2
  if s.mod.sec.mode ≠ 2 ∨ !tenantOk t ∨ boundElsewhere s as t then refuse s d cid
  else
    let (s, r) := fwRead s d (cmdAsid s d c) (fieldOf c.slot 48 8) wrappedBytes
    match r with
    | .error e => finishCmd s d cid (accessErr e)
    | .ok w =>
      let (s, r) := fwRead s d (cmdAsid s d c) (fieldOf c.slot 56 8) 64
      match r with
      | .error e => finishCmd s d cid (accessErr e)
      | .ok pk => finishCmd (bindAs (modSec s fun x => { x with keys := tabPut x.keys t ⟨unwrapKey s t w, pk⟩ }) as t) d cid 0

/-- LOAD_KEY (04 R89). -/
def execLoadKey (s : State) : Host.Outcome State Fault Refusal := fwcall [(40, 44), (48, 64)] runLoadKey s

/-- A tenant's slot is zeroised, and its windows close (04 R89, R91). -/
def dropKey (s : State) (t : Nat) : State :=
  modSec s fun x => { x with keys := tabDel x.keys t, windows := x.windows.filter fun w => w.tenant != t }

/-- DROP_KEY. -/
def runDropKey (s : State) (d cid : Nat) (c : Cmd) : State :=
  if s.mod.sec.mode ≠ 2 ∨ !tenantOk (argTenant c) then refuse s d cid else finishCmd (dropKey s (argTenant c)) d cid 0

/-- DROP_KEY (04 R89). -/
def execDropKey (s : State) : Host.Outcome State Fault Refusal := fwcall [(40, 42)] runDropKey s

/-- The message that a tenant signs for a window (04 R91). -/
def windowMessage (s : State) (sub tenant off len : Nat) : List Byte :=
  serialBytes ++ leBytes 1 sub ++ leBytes 2 tenant ++ leBytes 8 off ++ leBytes 8 len ++ nonceBytes s

/-- A tenant's signature over a window's message holds. -/
def windowSigned (s : State) (sub tenant off len : Nat) (sig : List Byte) : Bool :=
  match tenantKey s tenant with
  | some k => Config.verify k.pubKey (windowMessage s sub tenant off len) sig
  | none => false

/-- A window may open: its fields, its place, and its tenant's number of windows. -/
def windowOk (s : State) (tenant off len : Nat) : Bool :=
  off % 4096 == 0 && len % 4096 == 0 && len != 0 && (s.mod.sec.windows.all fun w => decide (off + len ≤ w.off) || decide (w.off + w.len ≤ off)) &&
    decide ((s.mod.sec.windows.filter fun w => w.tenant == tenant).length < 8)

/-- An attempt that carries a signature over SEC_NONCE is over, and SEC_NONCE is refreshed (04 R91, R93): a command that has to wait is not over. -/
def endAttempt (s : State) (d cid code : Nat) : State := finishCmd (if code = waitErr then s else freshNonce s) d cid code

/-- OPEN_WINDOW. -/
def runOpenWindow (s : State) (d cid : Nat) (c : Cmd) : State :=
  let t := argTenant c
  let off := fieldOf c.slot 48 8
  let len := fieldOf c.slot 56 8
  if s.mod.sec.mode ≠ 2 ∨ !tenantOk t ∨ !windowOk s t off len then endAttempt s d cid badField
  else
    let (s, r) := fwRead s d (cmdAsid s d c) (fieldOf c.slot 64 8) sigBytes256s
    match r with
    | .error e => endAttempt s d cid (accessErr e)
    | .ok sig =>
      if !windowSigned s 4 t off len sig then endAttempt s d cid badField
      else endAttempt (modSec s fun x => { x with windows := x.windows ++ [⟨t, off, len⟩] }) d cid 0

/-- OPEN_WINDOW (04 R90, R91). -/
def execOpenWindow (s : State) : Host.Outcome State Fault Refusal :=
  withCmd (fun s d cid c => if zeroBut c.slot [(40, 42), (48, 72)] 40 252 then runOpenWindow s d cid c else endAttempt s d cid badField) s

/-- CLOSE_WINDOW. -/
def runCloseWindow (s : State) (d cid : Nat) (c : Cmd) : State :=
  let t := argTenant c
  let off := fieldOf c.slot 48 8
  if s.mod.sec.mode ≠ 2 ∨ !tenantOk t ∨ !(s.mod.sec.windows.any fun w => w.tenant == t && w.off == off) then endAttempt s d cid badField
  else
    let (s, r) := fwRead s d (cmdAsid s d c) (fieldOf c.slot 64 8) sigBytes256s
    match r with
    | .error e => endAttempt s d cid (accessErr e)
    | .ok sig =>
      if !windowSigned s 12 t off 0 sig then endAttempt s d cid badField
      else endAttempt (modSec s fun x => { x with windows := x.windows.filter fun w => !(w.tenant == t && w.off == off) }) d cid 0

/-- CLOSE_WINDOW (04 R91). -/
def execCloseWindow (s : State) : Host.Outcome State Fault Refusal :=
  withCmd (fun s d cid c =>
    if zeroBut c.slot [(40, 42), (48, 56), (64, 72)] 40 252 then runCloseWindow s d cid c else endAttempt s d cid badField) s

/-- The encapsulation key of this boot. -/
def ekey (s : State) : List Byte := (List.range 1568).map (Config.ekeyByte s.mod.boots)

/-- The identity key's signature over a message. -/
def idSign (m : List Byte) : List Byte := (List.range sigBytes256f).map (Config.idSignature m)

/-- GET_EKEY. -/
def runGetEkey (s : State) (d cid : Nat) (c : Cmd) : State :=
  let (s, r) := fwWrite s d (cmdAsid s d c) (fieldOf c.slot 48 8) (ekey s ++ idSign (serialBytes ++ ekey s))
  match r with
  | .error e => finishCmd s d cid (accessErr e)
  | .ok _ => finishCmd s d cid 0

/-- GET_EKEY (04 R91). -/
def execGetEkey (s : State) : Host.Outcome State Fault Refusal := fwcall [(40, 41), (48, 56)] runGetEkey s

/-- POLICY_WRITE. -/
def runPolicyWrite (s : State) (d cid : Nat) (c : Cmd) : State :=
  let (s, r) := fwRead s d (cmdAsid s d c) (fieldOf c.slot 48 8) (128 + sigBytes256s)
  match r with
  | .error e => finishCmd s d cid (accessErr e)
  | .ok bs => if policyOk bs then finishCmd (modMod s fun m => { m with policy := some bs }) d cid 0 else refuse s d cid

/-- POLICY_WRITE (04 R84). -/
def execPolicyWrite (s : State) : Host.Outcome State Fault Refusal := fwcall [(40, 41), (48, 56)] runPolicyWrite s

/-! ### Debug levels (04 R92, R93, R100) -/

/-- What an unlock has to present (04 R100). -/
inductive TokenNeed where
  /-- no token -/
  | free
  /-- a Neldex token -/
  | neldex
  /-- a Neldex or a tenant's token -/
  | either
  /-- a token bound to a tenant -/
  | bound
  deriving DecidableEq, Repr

/-- The token a level needs in a mode (04 R100). -/
def tokenNeed (mode level : Nat) : TokenNeed :=
  match mode, level with
  | 0, _ => .free
  | 1, 1 => .free
  | 1, _ => .neldex
  | _, 1 => .either
  | _, _ => .bound

/-- The tenant of a token is one that the need takes. -/
def TokenNeed.takes (n : TokenNeed) (tenant : Nat) : Bool :=
  match n with
  | .free => false
  | .neldex => tenant == 0
  | .either => true
  | .bound => tenant != 0

/-- A token passes every check (04 R93). -/
def tokenOk (s : State) (d level : Nat) (need : TokenNeed) (tok sig : List Byte) : Bool :=
  let tenant := fieldOf tok 16 2
  let key := if tenant = 0 then some Config.imageKey else (tenantKey s tenant).map (·.pubKey)
  fieldOf tok 0 16 == Config.serial.toNat && fieldOf tok 20 32 == s.mod.sec.nonce.toNat && decide ((dieOf s d).beat.toNat ≤ fieldOf tok 52 8) &&
    decide (tenant ≤ 16) && fieldOf tok 18 1 == level && decide (fieldOf tok 19 1 ≤ 1) && fieldOf tok 60 4 == 0 && need.takes tenant &&
    (match key with | some k => Config.verify k tok sig | none => false)

/-- The session opens, or changes its level, and the unlock is logged. Its record names core 0 of the command's die (DESIGN CHOICE, log 64: an unlock
or an end belongs to no core, and 04 R94 does not say what its bytes [12:16] hold). -/
def openSession (s : State) (d level tenant : Nat) (digest : List Byte) : State :=
  logEvent (modSec s fun x => { x with debug := level, tenant := tenant, digest := digest }) d (64 * d) .unlock

/-- Every key slot is zeroised, and every window closes. -/
def dropAllKeys (s : State) : State := modSec s fun x => { x with keys := [], windows := [] }

/-- DEBUG_UNLOCK with a token read. -/
def unlockWith (s : State) (d cid level : Nat) (need : TokenNeed) (bs : List Byte) : State :=
  let tok := bs.take 64
  if !tokenOk s d level need tok (bs.drop 64) then endAttempt s d cid badField
  else
    let s := openSession s d level (fieldOf tok 16 2) (shake256 tok 16)
    let s := if s.mod.sec.mode = 2 ∧ level = 2 ∧ fieldOf tok 19 1 % 2 = 0 then dropAllKeys s else s
    endAttempt s d cid 0

/-- DEBUG_UNLOCK: each attempt refreshes SEC_NONCE. -/
def runDebugUnlock (s : State) (d cid : Nat) (c : Cmd) : State :=
  let level := fieldOf c.slot 41 1
  let va := fieldOf c.slot 48 8
  let need := tokenNeed s.mod.sec.mode level
  if level = 0 ∨ 2 < level ∨ !logRoom s then endAttempt s d cid badField
  else if need = .free then
    if va ≠ 0 then endAttempt s d cid badField else endAttempt (openSession s d level 0 []) d cid 0
  else
    let (s, r) := fwRead s d (cmdAsid s d c) va (64 + sigBytes256s)
    match r with
    | .error e => endAttempt s d cid (accessErr e)
    | .ok bs => unlockWith s d cid level need bs

/-- DEBUG_UNLOCK (04 R92, R93). -/
def execDebugUnlock (s : State) : Host.Outcome State Fault Refusal :=
  withCmd (fun s d cid c => if zeroBut c.slot [(40, 42), (48, 56)] 40 252 then runDebugUnlock s d cid c else endAttempt s d cid badField) s

/-- DEBUG_END (04 R92). -/
def execDebugEnd (s : State) : Host.Outcome State Fault Refusal :=
  fwcall [(40, 41)] (fun s d cid _ => finishCmd (endSession s d) d cid 0) s

/-! ### Attestation (04 R95) -/

/-- The mask of key slots that hold a key. -/
def keyMask (s : State) : Nat := (s.mod.sec.keys.map fun e => if tenantOk e.1 then 2 ^ (e.1 - 1) else 0).foldl (· + ·) 0

/-- The body of a report over a host nonce. -/
def reportBody (s : State) (nonce : List Byte) : List Byte :=
  let x := s.mod.sec
  let n := x.events.length
  leBytes 8 (176 + 32 * n) ++ nonce ++ leBytes 1 x.mode ++ leBytes 1 x.debug ++ leBytes 2 (keyMask s) ++ leBytes 4 n ++
    leBytes 64 x.measBoot.toNat ++ leBytes 64 x.measRun.toNat ++ x.events.flatten

/-- ATTEST. -/
def runAttest (s : State) (d cid : Nat) (c : Cmd) : State :=
  let body := reportBody s ((c.slot.drop 64).take 32)
  let (s, r) := fwWrite s d (cmdAsid s d c) (fieldOf c.slot 48 8) (body ++ idSign body)
  match r with
  | .error e => finishCmd s d cid (accessErr e)
  | .ok _ => finishCmd s d cid 0

/-- ATTEST (04 R95). -/
def execAttest (s : State) : Host.Outcome State Fault Refusal := fwcall [(40, 41), (48, 56), (64, 96)] runAttest s

/-! ### Gating (04 R96) -/

/-- A cluster holds a resident context, a queued task or the firmware core. -/
def clusterBusy (s : State) (k : Nat) : Bool :=
  (List.range 16).any fun j => let c := 16 * k + j
    isFirmwareCore s c || occupied s c || !(coreOf s c).waitq.isEmpty

/-- A cluster's scratchpad is lost: zero, with every F and W at 0. -/
def loseSpad (s : State) (k : Nat) : State :=
  let base := spadBase (k % 4)
  let hit := fun (a size : Nat) => decide (base ≤ a * size) && decide (a * size < base + 0x800000)
  modDie s (k / 4) fun d =>
    { d with mem := d.mem.filter (fun b => !hit b.1 1), full := d.full.filter (fun b => !hit b.1 8), waits := d.waits.filter (fun b => !hit b.1 8),
             badck := d.badck.filter (fun b => !hit b.1 64), ecc := d.ecc.filter (fun b => !hit b.1 64),
             entryBad := d.entryBad.filter fun b => !hit b.1 64 }

/-- GATE. -/
def runGate (s : State) (d cid : Nat) (c : Cmd) : State :=
  let e := fieldOf c.slot 41 1
  let m := fieldOf c.slot 48 2
  let ks := (List.range 4).filter fun k => m.testBit k
  if 3 < e ∨ 15 < m ∨ ks.any (fun k => clusterBusy s (4 * e + k)) then refuse s d cid
  else
    let s := ks.foldl (fun s k => loseSpad s (4 * e + k)) s
    finishCmd (modDie s e fun x => { x with gated := BitVec.ofNat 4 m }) d cid 0

/-- GATE (04 R96). -/
def execGate (s : State) : Host.Outcome State Fault Refusal := fwcall [(40, 42), (48, 50)] runGate s

/-! ### Suspend and resume (04 R97, R98) -/

/-- Work of a die's collective engine that has begun and is not over. -/
def collectiveBusy (k : Die) : Bool := !k.staging.isEmpty || !k.spill.isEmpty || k.qps.any fun e => e.2.entries.any (·.started)

/-- Nothing is left of what SUSPEND waits for: no context runs, and engine work is complete. -/
def quiet (s : State) : Bool :=
  s.cores.all (fun e => e.2.run.isNone && e.2.engs.isEmpty && e.2.coop.isNone) && s.mod.inbound.isEmpty &&
    (List.range 4).all fun d => !collectiveBusy (dieOf s d)

/-- Every running context has a pre-emption request, which lands at its landing point (07 R188). -/
def requestAll (s : State) : State :=
  { s with cores := s.cores.map fun e => (e.1, if e.2.run.isSome then { e.2 with preempt := true } else e.2) }

/-- SUSPEND: a debug session ends, acceptance stops, contexts are pre-empted, engine work completes; its own command finishes as the module
enters S3. -/
def runSuspend (s : State) (d cid : Nat) (c : Cmd) : State :=
  let s := requestAll (modMod (endSession s d) fun m => { m with susp := true })
  if !quiet s then postpone s .suspend d cid
  else
    let s := s.cores.foldl (fun s e => publishAll s e.1) s
    let s := completionActions s d cid c
    modMod s fun m => { m with power := 3, saved := m.sec.measBoot, susp := false }

/-- SUSPEND (04 R97). -/
def execSuspend (s : State) : Host.Outcome State Fault Refusal := fwcall [(40, 41)] runSuspend s

/-- RESUME (04 R98): it marks the point of return. -/
def execResume (s : State) : Host.Outcome State Fault Refusal := fwcall [(40, 41)] (fun s d cid _ => finishCmd s d cid 0) s

/-- Contexts run again, streams are inspected, and commands go on. -/
def wakeModule (s : State) : State :=
  let s := s.cores.foldl (fun s e => if (coreOf s e.1).run.isNone then runNext e.1 9 ((coreOf s e.1).lastCtx) s else s) s
  (List.range 4).foldl (fun s d => deliver (deliver s (.pollInterval (Fin.ofNat 4 d))) (.commandSelect (Fin.ofNat 4 d))) s

/-- S3_RETURN (04 R98): MEAS_BOOT is computed again from the image in DRAM. Whether that image is still whole is open (log 1); a damaged
one gives another value. -/
def execS3Return (_die : DieId) (s : State) : Host.Outcome State Fault Refusal :=
  if s.mod.power ≠ 3 then .next s
  else
    let whole := bitOf (Config.freeValue s.freeCtr) 0
    let s := bumpFree s
    if whole && s.mod.saved == s.mod.sec.measBoot then
      .next (wakeModule (modSec (modMod s fun m => { m with power := 0, mhz := 3300 }) fun x => { x with resf := false }))
    else .next (enterS5 (dropAllKeys s) true)

/-! ### Debugging (04 R92) -/

/-- A context belongs to the session's tenant where the mode limits it to one (04 R100). -/
def tenantSees (s : State) (c asid : Nat) : Bool :=
  s.mod.sec.mode != 2 || asTenant s (dieOfCore c) asid == s.mod.sec.tenant

/-- A D2 request on a core is granted: the level, room in the log, and in Sealed mode the tenant of its contexts. -/
def grantsCore (s : State) (c : Nat) : Bool :=
  s.mod.sec.debug == 2 && logRoom s && (coreOf s c).ctxs.all fun p => p.2.status == .none || tenantSees s c p.2.asid

/-- DEBUG_RESUME (04 R92, 14 R375): the core issues again, and a context that HALT holds is ready. -/
def execDebugResume (core : CoreId) (ctx : CtxId) (s : State) : Host.Outcome State Fault Refusal :=
  let c := core.val
  if s.mod.sec.debug ≠ 2 ∨ !tenantSees s c (ctxOf s c ctx.val).asid then .next s
  else
    let s := modCore s c fun k => { k with dbgHalt := false }
    .next (if (ctxOf s c ctx.val).status = .halted then makeReady s c ctx.val else s)

/-- Word i of a bit vector. -/
def wordOf {w : Nat} (v : BitVec w) (i : Nat) : Word := v.extractLsb' (64 * i) 64

/-- A bit vector with its word i replaced. -/
def setWordOf {w : Nat} (v : BitVec w) (i : Nat) (x : Word) : BitVec w :=
  mergeBits v (BitVec.ofNat w (x.toNat * 2 ^ (64 * i))) (BitVec.ofNat w ((2 ^ 64 - 1) * 2 ^ (64 * i)))

/-- The matrix register of an MXSET id, and the value it takes; none for an id that names none. -/
def mxOfId (n : Nat) (v : Word) : Option (MxReg × Word) :=
  if 1 ≤ n ∧ n ≤ 7 then some (mxField n v)
  else match n with
    | 8 => some (.pds, v)
    | 9 => some (.pdp, v &&& 0x3FFFFFFFFFF)
    | 10 => some (.tap, v &&& ~~~(7 : Word))
    | 11 => some (.spm, v)
    | _ => none

/-- An operand of a weight buffer as FP64 (DESIGN CHOICE, log 24). -/
def weightWord (w : Weights) (second : Bool) (r n : Nat) : Word :=
  let v := if second then (w.dup.find? fun e => e.1 == r && e.2.1 == n).map (·.2.2) else (w.rows.getD r [])[n]?
  (v.map fun x => BitVec.ofNat 64 (roundFp 1 rne 0 x).val).getD 0

/-- A weight buffer with an operand replaced. -/
def setWeight (w : Weights) (second : Bool) (r n : Nat) (v : Word) : Weights :=
  let x := decodeFp 1 v.toNat
  if second then { w with dup := w.dup.map fun e => if e.1 = r ∧ e.2.1 = n then (r, n, x) else e }
  else { w with rows := w.rows.modify r fun l => l.set n x }

/-- Bytes with those from an offset on replaced, none added. -/
def setBytes (bs : List Byte) (off : Nat) (now : List Byte) : List Byte :=
  (List.range bs.length).map fun i => if off ≤ i ∧ i < off + now.length then now.getD (i - off) 0 else bs.getD i 0

/-- The value a debug access finds; memory apart. What it names and does not exist reads as zero (DESIGN CHOICE, log 24). -/
def debugRead (s : State) (c : Nat) : DebugTarget → Word
  | .mem _ _ => 0
  | .scalar x n => sReg (ctxOf s c x.val) n.val
  | .addr x n => aReg (ctxOf s c x.val) n.toNat
  | .pred x n => BitVec.ofNat 64 (pReg (ctxOf s c x.val) n.toNat).toNat
  | .control x cr => readCr s c x.val cr.toNat
  | .pc x => (ctxOf s c x.val).pc.setWidth 64
  | .tile n i => wordOf (vReg (coreOf s c) n.toNat) i.toNat
  | .mask x n i => wordOf (mReg (ctxOf s c x.val) n.toNat) i.toNat
  | .acc p i => wordOf (accPage (coreOf s c) p.toNat) i.toNat
  | .queue x q i => (queueOf (coreOf s c) x.val q.val).getD i.val 0
  | .mx x n => ((mxOfId n.toNat 0).map fun r => getMx (ctxOf s c x.val).mx r.1).getD 0
  | .cp x n => cpReg (ctxOf s c x.val) n.toNat
  | .instr i => BitVec.ofNat 64 (leNat (memRead (coreOf s c).imem (8 * i.toNat) 8))
  | .wordBits _ _ => 0
  | .weight o z k n => weightWord (if o then (coreOf s c).wOther else (coreOf s c).wActive) z k.toNat n.toNat
  | .trans i r w => (((coreOf s c).trq[i.val]?).map fun t => BitVec.ofNat 64 (leNat (((t.rows.getD r.toNat []).drop (8 * w.toNat)).take 8))).getD 0
  | .branch x e => (bmapEntry (ctxOf s c x.val) e.toNat).setWidth 64
  | .closed x => (ctxOf s c x.val).closed.setWidth 64
  | .curve x n i => wordOf (tabGet 0 (ctxOf s c x.val).curves n.toNat) i.toNat
  | .serial x => (ctxOf s c x.val).serial.setWidth 64
  | .counter n => ctrVal s (dieOfCore c) n.toNat
  | .drops => BitVec.ofNat 64 (coreOf s c).q7drop
  | .trace i => (coreOf s c).q7.getD i.val 0
  | .total dropw => BitVec.ofNat 64 (if dropw then s.mod.dropw else s.mod.ccerr)

/-- A debug access writes a register; what D1 reads it does not write. -/
def debugWrite (s : State) (c : Nat) (v : Word) : DebugTarget → State
  | .mem _ _ | .wordBits _ _ | .counter _ | .drops | .trace _ | .total _ => s
  | .scalar x n => modCtx s c x.val (setSReg · n.val v)
  | .addr x n => modCtx s c x.val (setAReg · n.toNat v)
  | .pred x n => modCtx s c x.val (setPReg · n.toNat (bitOf v 0))
  | .control x cr => writeCr s c x.val cr.toNat v
  | .pc x => modCtx s c x.val fun t => { t with pc := BitVec.ofNat 18 v.toNat, grp := [] }
  | .tile n i => modCore s c fun k => setVReg k n.toNat (setWordOf (vReg k n.toNat) i.toNat v)
  | .mask x n i => modCtx s c x.val fun t => setMReg t n.toNat (setWordOf (mReg t n.toNat) i.toNat v)
  | .acc p i => modCore s c fun k => setAccPage k p.toNat (setWordOf (accPage k p.toNat) i.toNat v)
  | .queue x q i => modCore s c fun k => setQueue k x.val q.val ((queueOf k x.val q.val).set i.val v)
  | .mx x n => match mxOfId n.toNat v with
    | some r => modCtx s c x.val fun t => { t with mx := setMx t.mx r.1 r.2 }
    | none => s
  | .cp x n => modCtx s c x.val fun t => { t with cp := tabSet (cpDefault n.toNat) t.cp n.toNat (cpMask n.toNat v) }
  | .instr i => modCore s c fun k => { k with imem := memWrite k.imem (8 * i.toNat) (leBytes 8 v.toNat) }
  | .weight o z r n => modCore s c fun k =>
    if o then { k with wOther := setWeight k.wOther z r.toNat n.toNat v } else { k with wActive := setWeight k.wActive z r.toNat n.toNat v }
  | .trans i r w => modCore s c fun k =>
    { k with trq := k.trq.modify i.val fun t => { t with rows := t.rows.modify r.toNat fun bs => setBytes bs (8 * w.toNat) (leBytes 8 v.toNat) } }
  | .branch x e => modCtx s c x.val fun t => { t with bmap := tabSet 0 t.bmap e.toNat (v.setWidth 32 &&& 0x1FFFFF) }
  | .closed x => modCtx s c x.val fun t => { t with closed := v.setWidth 32 }
  | .curve x n i => modCtx s c x.val fun t => { t with curves := tabSet 0 t.curves n.toNat (setWordOf (tabGet 0 t.curves n.toNat) i.toNat v) }
  | .serial x => modCtx s c x.val fun t => { t with serial := v.setWidth 32 }

/-- A debug access is granted (04 R92, R94, R100): counters and trace from D1 on, in Sealed mode module counters alone; every other target at D2, in
Sealed mode only of the session's tenant: what belongs to the core, where all its contexts are that tenant's. It is a debug event, so none is
granted while the log has no room. -/
def grantsTarget (s : State) (c : Nat) (t : DebugTarget) : Bool :=
  logRoom s && match t with
  | .total _ => decide (1 ≤ s.mod.sec.debug)
  | .counter _ | .drops | .trace _ => decide (1 ≤ s.mod.sec.debug) && s.mod.sec.mode != 2
  | .mem a _ | .wordBits a _ => s.mod.sec.debug == 2 && tenantSees s c a.toNat
  | .scalar x _ | .addr x _ | .pred x _ | .control x _ | .pc x | .mask x _ _ | .mx x _ | .cp x _ | .branch x _ | .closed x | .curve x _ _ | .serial x =>
    s.mod.sec.debug == 2 && tenantSees s c (ctxOf s c x.val).asid
  | .queue x q _ => if q.val = 4 ∨ q.val = 5 ∨ q.val = 7 then grantsCore s c else
      s.mod.sec.debug == 2 && tenantSees s c (ctxOf s c x.val).asid
  | .tile _ _ | .acc _ _ | .instr _ | .weight _ _ _ _ | .trans _ _ _ => grantsCore s c

/-- A debug access of memory: the aligned word, through the core's die; one that fails translation does nothing. One whose page migrates, or that another
module's die has not answered, is made later (10 R262). -/
def debugMem (s : State) (c asid : Nat) (va : Word) (value : Option Word) : State :=
  match value with
  | none =>
    match engRead s (clusterOfCore c) asid (va.toNat / 8 * 8) 8 with
    | (s, .ok bs) => sendOut s (.debug (BitVec.ofNat 64 (leNat bs)))
    | (s, .error e) => if waitPage ≤ e then lacks s .page else s
  | some v =>
    match engWrite s (clusterOfCore c) asid (va.toNat / 8 * 8) (leBytes 8 v.toNat) none with
    | (s, .ok _) => s
    | (s, .error e) => if waitPage ≤ e then lacks s .page else s

/-- A debug access of F and W of a word of this module. -/
def debugBits (s : State) (c asid : Nat) (va : Word) (value : Option Word) : State :=
  let (s, r) := engLoc s (clusterOfCore c) asid (va.toNat / 8 * 8) 8 value.isSome
  match r with
  | .error e => if waitPage ≤ e then lacks s .page else s
  | .ok (.home die pa _ _ _ _) =>
    match value with
    | none => sendOut s (.debug (BitVec.ofNat 64 ((fullBit (dieOf s die) pa).toNat + 2 * (waitBit (dieOf s die) pa).toNat)))
    | some v => modDie s die fun k => setWait (setFull k pa (bitOf v 0)) pa (bitOf v 1)
  | .ok _ => s

/-- DEBUG_ACCESS (04 R92): memory and registers are D2's, counters and trace D1's; a read answers the debugger, and each access is
logged (04 R94). -/
def execDebugAccess (core : CoreId) (target : DebugTarget) (value : Option Word) (s : State) : Host.Outcome State Fault Refusal :=
  let c := core.val
  let log := fun (s : State) => logEvent s (dieOfCore c) c .access
  if !grantsTarget s c target then .next s
  else match target with
    | .mem a va => .next (askingStep s (.debugAccess core target value) fun s => debugMem (log s) c a.toNat va value)
    | .wordBits a va => .next (askingStep s (.debugAccess core target value) fun s => debugBits (log s) c a.toNat va value)
    | t =>
      match value with
      | none => .next (sendOut (log s) (.debug (debugRead (log s) c t)))
      | some v => .next (debugWrite (log s) c v t)

end Sys2Proof.Machine
end

