-- ==== Sys2Proof/Machine/HostPort.lean ====
section
/-! DEFINITION. The host port and the peer port (02 R43 to R56, 22 R504): the registers of BAR0, accesses through BAR2 and HDM, and what a
peer asks. -/

namespace Sys2Proof.Machine

/-! ### Registers (02 R44; 01 R37 to R40, 03 R59 to R62, R81, 04 R101, 10 R280) -/

/-- The largest value of a 32-bit count. -/
def sat32Max : Nat := 2 ^ 32 - 1

/-- LNK_STAT of a link (01 R38). -/
def lnkStat (s : State) (n : Nat) : Word :=
  let l := linkOf s n
  BitVec.ofNat 64 (l.state % 4 + l.port % 256 * 2 ^ 8 + l.retries % 2 ^ 16 * 2 ^ 16 + l.crcerr % 2 ^ 16 * 2 ^ 32)

/-- PWR_CAP (01 R40). -/
def pwrCap (s : State) : Word := BitVec.ofNat 64 (s.mod.cap % 4096 + s.mod.throt.toNat * 2 ^ 12)

/-- HOST_STAT (02 R55). -/
def hostStat (s : State) : Word := BitVec.ofNat 64 (min sat32Max s.mod.dropw + min sat32Max s.mod.ccerr * 2 ^ 32)

/-- PSTATE (04 R101): A2 while a cluster is gated and the clock is not capped. With both at once it shows A1 (DESIGN CHOICE, log 64: the spec does not
say which). -/
def pstate (s : State) : Nat :=
  if s.mod.power = 0 ∧ (List.range 4).any (fun d => (dieOf s d).gated != 0) then 2 else s.mod.power

/-- SEC_STAT (04 R101). -/
def secStat (s : State) : Word :=
  let x := s.mod.sec
  BitVec.ofNat 64 (x.mode % 4 + x.debug % 4 * 2 ^ 4 + pstate s % 16 * 2 ^ 8 + x.bootf.toNat * 2 ^ 12 + x.resf.toNat * 2 ^ 13 +
    keyMask s % 2 ^ 16 * 2 ^ 16 + x.events.length % 2 ^ 16 * 2 ^ 32)

/-- PB_BASE of a die (DESIGN CHOICE, log 21). -/
def pbBase (s : State) (d : Nat) : Word := BitVec.ofNat 64 (globalDie s d * 2 ^ 56 + pbPhys)

/-- RETIRED of a die (10 R280). -/
def retiredMask (s : State) (d : Nat) : Word :=
  BitVec.ofNat 64 (ofBits ((List.range 64).map fun i => (coreOf s (64 * d + i)).retired))

/-- REH_STAT of a die (10 R280). -/
def rehStat (s : State) (d : Nat) : Word :=
  let k := dieOf s d
  BitVec.ofNat 64 (sat16 k.rehRetires + sat16 k.rehFaulted * 2 ^ 16 + min sat32Max k.rehAgreed * 2 ^ 32)

/-- A register of the module control page, by its offset; a reserved one reads zero. BEAT is die 0's (DESIGN CHOICE, log 25). -/
def ctrlRead (s : State) (o : Nat) : Word :=
  if o = 0 then s.mod.modId
  else if 0x100 ≤ o ∧ o < 0x160 then lnkStat s ((o - 0x100) / 8)
  else if o = 0x200 then (dieOf s 0).beat
  else if o = 0x300 then pwrCap s
  else if o = 0x400 then s.mod.portb
  else if o = 0x408 then hostStat s
  else if 0x500 ≤ o ∧ o < 0x580 then
    let d := (o - 0x500) / 0x20
    if s.mod.booted then
      match (o - 0x500) % 0x20 with
      | 0 => pbBase s d
      | 8 => BitVec.ofNat 64 (dieOf s d).pbSeq
      | 16 => BitVec.ofNat 64 (pbFree s d)
      | _ => 0
    else if (o - 0x500) % 0x20 = 16 then BitVec.ofNat 64 pbSize else 0
  else if 0x580 ≤ o ∧ o < 0x5A0 then (if s.mod.booted then BitVec.ofNat 64 (dieOf s ((o - 0x580) / 8)).rbBase else 0)
  else if o = 0x600 then secStat s
  else if 0x608 ≤ o ∧ o < 0x628 then BitVec.ofNat 64 (s.mod.sec.nonce.toNat / 2 ^ (8 * (o - 0x608)))
  else if 0x700 ≤ o ∧ o < 0x720 then retiredMask s ((o - 0x700) / 8)
  else if 0x720 ≤ o ∧ o < 0x740 then rehStat s ((o - 0x720) / 8)
  else 0

/-- A register of a stream, by its offset; the write-only ones read zero. -/
def strmRead (s : State) (d n o : Nat) : Word :=
  let t := streamOf s d n
  match o with
  | 0x00 => t.base
  | 0x08 => t.cfg
  | 0x10 => t.pos
  | 0x18 => strmStat s d n
  | _ => 0

/-- The word at an aligned offset of BAR0. The mailbox's contents are open (log 1). -/
def bar0Read (s : State) (o : Nat) : State × Word :=
  if o < 0x1000 then (s, ctrlRead s o)
  else if 0x10000 ≤ o ∧ o < 0x14000 then
    let d := (o - 0x10000) / 0x1000
    let r := (o - 0x10000) % 0x1000
    (s, if 1024 ≤ r then 0 else if r % 16 = 0 then tabGet 0 (dieOf s d).swtLo (r / 16) else tabGet 0 (dieOf s d).swtHi (r / 16))
  else if 0x100000 ≤ o ∧ o < 0x110000 then
    let r := o - 0x100000
    (s, strmRead s (r / 0x4000) (r % 0x4000 / 0x100) (r % 0x100))
  else if 0x200000 ≤ o ∧ o < 0x204000 then
    (s, BitVec.ofNat 64 (leNat ((List.range 8).map fun i => msixByte s (o - 0x200000 + i))))
  else if 0x1000000 ≤ o ∧ o < 0x1010000 then (bumpFree s, Config.freeValue s.freeCtr)
  else (s, 0)

/-- What a step of the module makes of a state, where it goes on. -/
def nextOr (s : State) (o : Host.Outcome State Fault Refusal) : State :=
  match o with
  | .next t => t
  | _ => s

/-- The bits of STRM_CTL act: ZERO, then ABORT, then RESUME. -/
def strmCtlWrite (d : DieId) (n : StreamId) (v : Word) (s : State) : State :=
  let s := if bitOf v 2 then nextOr s (execStrmCtlZero d n s) else s
  let s := if bitOf v 1 then nextOr s (execStrmCtlAbort d n s) else s
  if bitOf v 0 then nextOr s (execStrmCtlResume d n s) else s

/-- A register of a stream is written. -/
def strmWrite (s : State) (d : DieId) (n : StreamId) (o : Nat) (v : Word) : State :=
  match o with
  | 0x00 => if (streamOf s d.val n.val).en then s else modStream s d.val n.val fun t => { t with base := setFld v 11 0 0 }
  | 0x08 => nextOr s (execStrmCfgWrite d n v s)
  | 0x20 => strmCtlWrite d n v s
  | 0x28 => nextOr s (execStrmDb d n s)
  | _ => s

/-- The bits of byte `a` of the MSI-X table that software writes (PRESUMED: the PCI layout; log 23). -/
def msixMask (a : Nat) : Byte :=
  if 0x1000 ≤ a then 0 else if a % 16 = 0 then 0xFC else if a % 16 < 12 then 0xFF else if a % 16 = 12 then 1 else 0

/-- A byte of the MSI-X table is written; unmasking a vector sends what it holds pending. -/
def msixWrite (s : State) (a : Nat) (b : Byte) : State :=
  let m := msixMask a
  let s := setMsix s a ((msixByte s a &&& ~~~m) ||| (b &&& m))
  if a < 0x1000 ∧ a % 16 = 12 ∧ !b.getLsbD 0 then
    let v := a / 16
    let p := 0x2000 + v / 8
    let pending : Byte := BitVec.ofNat 8 (2 ^ (v % 8))
    if msixByte s p &&& pending = 0 then s else sendOut (setMsix s p (msixByte s p &&& ~~~pending)) (.msix v)
  else s

/-- HOST_STAT is written: both counts are cleared (02 R55). -/
def clearHostStat (s : State) : State := modMod s fun m => { m with ccerr := 0, dropw := 0 }

/-- PWR_CAP is written (01 R40). -/
def pwrCapStore (s : State) (v : Word) : State :=
  let s := nextOr s (execPwrCapWrite v s)
  if bitOf v 12 then nextOr s (execThrotClear s) else s

/-- The size of BAR2 is chosen (02 R44: 1 GiB to 512 GiB): n for 2^n GiB. Its control lies in configuration space, which the spec does not lay
out; the model writes it at the offset behind BAR0's 32 MiB (DESIGN CHOICE, log 25). -/
def resizeBar2 (s : State) (v : Word) : State := if v.toNat ≤ 9 then modMod s fun m => { m with bar2 := 2 ^ v.toNat } else s

/-- A 64-bit write at an aligned offset of BAR0: what is not writable ignores it (00 R7, 02 R44). A write of the Amigen mailbox does nothing: what
it would do the spec does not say (DESIGN CHOICE, log 25). -/
def bar0Write (s : State) (o : Nat) (v : Word) : State :=
  if o = 0x300 then pwrCapStore s v
  else if o = 0x408 then clearHostStat s
  else if 0x100000 ≤ o ∧ o < 0x110000 then
    let r := o - 0x100000
    strmWrite s (Fin.ofNat 4 (r / 0x4000)) (Fin.ofNat 64 (r % 0x4000 / 0x100)) (r % 0x100) v
  else if 0x200000 ≤ o ∧ o < 0x204000 then
    (List.range 8).foldl (fun s i => msixWrite s (o - 0x200000 + i) (BitVec.ofNat 8 (v.toNat / 2 ^ (8 * i)))) s
  else if o = 0x2000000 then resizeBar2 s v
  else s

/-- HOST_STAT_WRITE (02 R55). -/
def execHostStatWrite (_value : Word) (s : State) : Host.Outcome State Fault Refusal := .next (clearHostStat s)

/-- BAR0 answers at an offset (04 R83, R98, R99): after a failed boot the control page alone, in S3 the control page and the streams' doorbells, in S5
nothing. -/
def bar0Answers (s : State) (o : Nat) : Bool :=
  if s.mod.power = 5 then false
  else if s.mod.power = 3 then decide (o < 0x1000) || (decide (0x100000 ≤ o) && decide (o < 0x110000) && o % 0x100 == 0x28)
  else s.mod.booted || decide (o < 0x1000)

/-- REGISTER_WRITE (00 R7): a 64-bit write at an offset of BAR0. -/
def execRegisterWrite (off : Nat) (value : Word) (s : State) : Host.Outcome State Fault Refusal :=
  .next (if off % 8 = 0 ∧ bar0Answers s off then bar0Write s off value else s)

/-! ### Where a host access goes (02 R45, R46, 04 R89, R90) -/

/-- The host reaches memory at all. -/
def memAnswers (s : State) : Bool := s.mod.booted && decide (s.mod.power < 3)

/-- Bytes of BAR2. -/
def bar2Bytes (s : State) : Nat := s.mod.bar2 * 2 ^ 30

/-- In Sealed mode a host access lies inside a sealed window of the tenant whose address space the aperture shows. -/
def sealedOk (s : State) (d off n : Nat) : Bool :=
  s.mod.sec.mode != 2 ||
    s.mod.sec.windows.any fun w => decide (w.off ≤ off) && decide (off + n ≤ w.off + w.len) && asTenant s d s.mod.aptAs == w.tenant

/-- What a host access of memory comes to before any of it is made. -/
inductive HostWay where
  /-- it fails translation -/
  | fails
  /-- a page it needs migrates, or another module's die has not answered: it is made later (10 R262) -/
  | waits
  /-- the places of its pieces: virtual address, place and bytes -/
  | goes (places : List (Nat × Loc × Nat))
  deriving DecidableEq, Repr

/-- One piece of a host access: where it goes; a die of another module, which translates its addresses itself, says whether it can be made. Under a curtain it reads and writes the front page, as if none stood: 09 R241 says nothing of
external accesses (DESIGN CHOICE, log 25). -/
def hostLoc (s : State) (off n : Nat) (wr : Bool) : State × HostWay :=
  let va := (s.mod.aptVa.toNat + off) % 2 ^ 64
  let owner := va / 2 ^ 56
  if !memAnswers s || decide (bar2Bytes s < off + n) || decide (0xFC ≤ owner) then (s, .fails)
  else
    match resolve s 0 s.mod.aptAs va n ⟨!wr, wr, false, false⟩ with
    | (s, .ok (.home _ _ _ _ _ true)) => (s, .fails)
    | (s, .ok (.remote g)) =>
      match ask s 0 g s.mod.aptAs va (.probe (!wr) wr) with
      | (s, none) => (s, .waits)
      | (s, some (r, _)) => (s, if replyStatus r = 0 then .goes [(va, .remote g, n)] else .fails)
    | (s, .ok l) => (s, .goes [(va, l, n)])
    | (s, .error (.wait _)) => (s, .waits)
    | (s, .error _) => (s, .fails)

/-- The pieces of a range that lie in one 64-byte line of memory each, as offsets. -/
def hostPieces (s : State) (off n : Nat) : List (Nat × Nat) :=
  (piecesOf (s.mod.aptVa.toNat + off) n).map fun p => ((p.1 + 2 ^ 64 - s.mod.aptVa.toNat) % 2 ^ 64, p.2)

/-- The pieces of a host access: where all of them go, or the first that fails or waits. -/
def hostLocs (wr : Bool) : List (Nat × Nat) → State → State × HostWay
  | [], s => (s, .goes [])
  | p :: ps, s =>
    match hostLoc s p.1 p.2 wr with
    | (s, .goes l) =>
      match hostLocs wr ps s with
      | (s, .goes ls) => (s, .goes (l ++ ls))
      | (s, w) => (s, w)
    | (s, w) => (s, w)

/-- Where a whole access goes. -/
def hostPlaces (s : State) (wr : Bool) (off n : Nat) : State × HostWay :=
  if sealedOk s ((localDie s ((s.mod.aptVa.toNat + off) % 2 ^ 64 / 2 ^ 56)).getD 0) off n then hostLocs wr (hostPieces s off n) s else (s, .fails)

/-! ### Reads (02 R45, R53) -/

/-- The granules of a range whose check does not match, and those among them whose fault came in through a port and waits for its reader. -/
def badGranules (s : State) (die pa n : Nat) : Nat × Nat :=
  let l := (granulesOf pa n).filter (granuleBad (dieOf s die))
  (l.length, (l.filter (tabGet false (dieOf s die).entryBad)).length)

/-- A piece is read: its bytes, and whether a granule of it fails its check, each of which CCERR counts (02 R53, R54); a granule of another module's die
comes with its check, unchanged (01 R24). -/
def hostTake (s : State) (asid va : Nat) (l : Loc) (n : Nat) : State × List Byte × Bool :=
  match l with
  | .home die pa _ _ _ _ =>
    let (b, e) := badGranules s die pa n
    (countCc (foundBad s die pa n) (b - e), physRead s die pa n, decide (b ≠ 0))
  | .remote g =>
    match ask s 0 g asid va (.read n) with
    | (s, some (_, some x)) => (if x.check = 0 then s else countCc s 1, x.bytes va n, x.check != 0)
    | (s, _) => (s, zeros n, false)
  | _ => (s, List.replicate n 0, false)

/-- The pieces are read in order. -/
def hostTakes (asid : Nat) : List (Nat × Loc × Nat) → State → State × List Byte × Bool
  | [], s => (s, [], false)
  | (va, l, n) :: r, s =>
    let (s, bs, b) := hostTake s asid va l n
    let (s, cs, c) := hostTakes asid r s
    (s, bs ++ cs, b || c)

/-- A step of the host or a peer waits for a page that migrates, or for another module's die, behind those that wait already. -/
def mayWait (s : State) (i : Instr) (f : State → State) : State :=
  if mailHas s i then waitCredit s i else askingStep s i f

/-- A read of memory by an external reader: one that fails translation is an Unsupported Request. -/
def externalRead (off n : Nat) (s : State) : State :=
  match hostPlaces s false off n with
  | (s, .waits) => lacks s .page
  | (s, .fails) => sendOut s (.completion none false)
  | (s, .goes ls) =>
    let (s, bs, bad) := hostTakes s.mod.aptAs ls s
    sendOut s (.completion (some bs) bad)

/-- Bytes of BAR0 from an offset on, word by word. -/
def bar0Bytes : Nat → Nat → State → State × List Byte
  | 0, _, s => (s, [])
  | n + 1, o, s =>
    let (s, w) := bar0Read s o
    let (s, bs) := bar0Bytes n (o + 8) s
    (s, leBytes 8 w.toNat ++ bs)

/-- A read of BAR0. -/
def bar0Load (s : State) (off n : Nat) : State :=
  if !bar0Answers s off then sendOut s (.completion none false)
  else
    let (s, bs) := bar0Bytes ((off % 8 + n + 7) / 8) (off / 8 * 8) s
    sendOut s (.completion (some ((bs.drop (off % 8)).take n)) false)

/-- HOST_READ (02 R45). The HDM range exists in CXL Type-2 mode alone: without it a read of it is an Unsupported Request (DESIGN CHOICE, log 25). -/
def execHostRead (sp : HostSpace) (off len : Nat) (s : State) : Host.Outcome State Fault Refusal :=
  match sp with
  | .bar0 => .next (bar0Load s off len)
  | .bar2 => .next (mayWait s (.hostRead sp off len) (externalRead off len))
  | .hdm =>
    .next (if s.mod.cxlA then mayWait s (.hostRead sp off len) (externalRead off len) else sendOut s (.completion none false))

/-! ### Writes (02 R45, R52 to R54) -/

/-- The granules of a write that it covers in part and whose old check fails: the merged granule keeps a check that does not match (02 R54). -/
def badPartials (s : State) (die pa n : Nat) : List Nat :=
  (granulesOf pa n).filter fun g => granuleBad (dieOf s die) g && !wholeGranule pa n g

/-- A piece is written. CCERR counts a fault at its entry, and again when its next reader finds it (log 25). -/
def hostPut (s : State) (asid va : Nat) (l : Loc) (bs : List Byte) : State :=
  match l with
  | .home die pa _ _ _ _ =>
    let bad := badPartials s die pa bs.length
    bad.foldl (fun s g => enterBad s die g) (physWrite (countCc s bad.length) die pa bs)
  | .remote g => (ask s 0 g asid va (.write bs .host)).1
  | _ => s

/-- The data of a write become visible, piece by piece. -/
def hostPuts (asid : Nat) : List (Nat × Loc × Nat) → List Byte → State → State
  | [], _, s => s
  | (va, l, n) :: r, bs, s => hostPuts asid r (bs.drop n) (hostPut s asid va l (bs.take n))

/-- The words of a write on ingress-fill pages turn full together. -/
def hostFills (ls : List (Nat × Loc × Nat)) (s : State) : State :=
  ls.foldl (fun s p => match p.2.1 with | .home die pa _ _ true _ => ingressFill s die pa p.2.2 | _ => s) s

/-- A write of memory by an external writer: one TLP. One that fails translation is dropped and counted in DROPW, and so is one that comes while
memory does not answer, as in S3 or after a failed boot (DESIGN CHOICE, log 25). -/
def externalWrite (off : Nat) (bs : List Byte) (s : State) : State :=
  match hostPlaces s true off bs.length with
  | (s, .waits) => lacks s .page
  | (s, .fails) => modMod s fun m => { m with dropw := m.dropw + 1 }
  | (s, .goes ls) => hostFills ls (hostPuts s.mod.aptAs ls bs s)

/-- The value a write of part of a register's bytes starts from: what it reads as, with the bits that act when they are 1 clear
(DESIGN CHOICE, log 25). -/
def partialBase (s : State) (o : Nat) : Word := if o = 0x300 then setFld (pwrCap s) 12 12 0 else (bar0Read s o).2

/-- A write of BAR0: whole words, the rest of a word that is written in part standing as it is. -/
def bar0Store : Nat → Nat → List (Option Byte) → State → State
  | 0, _, _, s => s
  | n + 1, o, bs, s =>
    let now := bs.take 8
    let old := leBytes 8 (partialBase s o).toNat
    let v : Word := BitVec.ofNat 64 (leNat ((List.range 8).map fun i => ((now.getD i none).getD (old.getD i 0))))
    let s := if now.all (·.isNone) || !bar0Answers s o then s else bar0Write s o v
    bar0Store n (o + 8) (bs.drop 8) s

/-- HOST_WRITE (02 R45, R52). A write of the HDM range without CXL Type-2 mode is lost (DESIGN CHOICE, log 25). -/
def execHostWrite (sp : HostSpace) (off : Nat) (data : List Byte) (s : State) : Host.Outcome State Fault Refusal :=
  match sp with
  | .bar0 =>
    .next (bar0Store ((off % 8 + data.length + 7) / 8) (off / 8 * 8) (List.replicate (off % 8) none ++ data.map some) s)
  | .bar2 => .next (mayWait s (.hostWrite sp off data) (externalWrite off data))
  | .hdm => .next (if s.mod.cxlA then mayWait s (.hostWrite sp off data) (externalWrite off data) else s)

/-! ### Peers (22 R504, 02 R51, R56) -/

/-- PEER_REQUEST (22 R504): in peer mode, a host access at BAR2's offset. -/
def execPeerRequest (addr : Word) (len : Nat) (data : Option (List Byte)) (s : State) : Host.Outcome State Fault Refusal :=
  if fld s.mod.portb 1 0 ≠ 1 then .next s
  else
    .next (mayWait s (.peerRequest addr len data) fun s =>
      match data with
      | none => externalRead addr.toNat len s
      | some bs => externalWrite addr.toNat bs s)

/-- An awaited access of a core is a load from a peer. -/
def peerLoad (s : State) (c : Nat) (a : Arrival) : Bool :=
  match a.val with
  | .outside _ _ va _ => systemTarget s (dieOfCore c) va.toNat == some 1
  | .data _ | .held _ => false

/-- PEER_LOAD_TIMEOUT (02 R51): the oldest load of a core from a peer ends in PEER_ABORT. -/
def execPeerLoadTimeout (core : CoreId) (s : State) : Host.Outcome State Fault Refusal :=
  let l := (coreOf s core.val).arrivals
  match l.findIdx? (peerLoad s core.val) with
  | some i =>
    match l[i]? with
    | some a => .next (failAwaited s core.val i a 0x0A 9 0 a.asked)
    | none => .next s
  | none => .next s

/-- EXPANDER_LOSS (02 R56): the expander is no longer present. -/
def execExpanderLoss (expander : Nat) (s : State) : Host.Outcome State Fault Refusal :=
  .next (if expander < 4 then modMod s fun m => { m with portb := setFld m.portb (8 + expander) (8 + expander) 0 } else s)

end Sys2Proof.Machine
end

