-- ==== Sys2Proof/Machine/Scalar.lean ====
section
/-! DEFINITION. Scalar, predicate and address instructions (14 R377 to R382, R363): integers by 11 R294, R295. -/

namespace Sys2Proof.Machine

/-! ### Integer results (14 R377, 11 R294, R295) -/

/-- A register-register result from the two source words. -/
def aluRR (f : Word → Word → Word) (lat : Nat) (d a b : SCode) : Eff := fun e s => result s lat d (f (e.src s a) (e.src s b)) 0

/-- A division: DZ when the divisor is zero. -/
def aluDiv (f : Word → Word → Word) (d a b : SCode) : Eff := fun e s => result s 18 d (f (e.src s a) (e.src s b)) (divFlag (e.src s b))

/-- A result from one source word. -/
def aluR (f : Word → Word) (d a : SCode) : Eff := fun e s => result s 1 d (f (e.src s a)) 0

/-- Bits [127:64] of the signed product. -/
def mulhS (x y : Word) : Word := BitVec.ofInt 64 (x.toInt * y.toInt / 2 ^ 64)

/-- Bits [127:64] of the unsigned product. -/
def mulhU (x y : Word) : Word := BitVec.ofNat 64 (x.toNat * y.toNat / 2 ^ 64)

/-- Signed quotient, truncated: 0 for a divisor 0, and -2^63 by -1 stays. -/
def divS (x y : Word) : Word := if y = 0 then 0 else BitVec.ofInt 64 (x.toInt.tdiv y.toInt)

/-- Unsigned quotient: 0 for a divisor 0. -/
def divU (x y : Word) : Word := if y = 0 then 0 else BitVec.ofNat 64 (x.toNat / y.toNat)

/-- Signed remainder, with the dividend's sign: the dividend for a divisor 0. -/
def remS (x y : Word) : Word := if y = 0 then x else BitVec.ofInt 64 (x.toInt.tmod y.toInt)

/-- Unsigned remainder: the dividend for a divisor 0. -/
def remU (x y : Word) : Word := if y = 0 then x else BitVec.ofNat 64 (x.toNat % y.toNat)

/-- The count of a shift or rotation: modulo 64. -/
def shCount (y : Word) : Nat := y.toNat % 64

/-- Leading zeros, 64 for 0. -/
def clz64 (x : Word) : Nat := if x = 0 then 64 else 63 - Nat.log2 x.toNat

/-- One bits of a number's low n bits. -/
def popBits : Nat → Nat → Nat
  | 0, _ => 0
  | n + 1, v => v % 2 + popBits n (v / 2)

/-- The smaller of two words under an order. -/
def pick (le : Bool) (x y : Word) : Word := if le then x else y

/-- ADD (14 R377). -/
def effAdd (d a b : SCode) : Eff := fun e s => aluRR (· + ·) 1 d a b e s

/-- SUB (14 R377). -/
def effSub (d a b : SCode) : Eff := fun e s => aluRR (· - ·) 1 d a b e s

/-- MUL (14 R377). -/
def effMul (d a b : SCode) : Eff := fun e s => aluRR (· * ·) 3 d a b e s

/-- MULH (14 R377). -/
def effMulh (d a b : SCode) : Eff := fun e s => aluRR mulhS 3 d a b e s

/-- MULHU (14 R377). -/
def effMulhu (d a b : SCode) : Eff := fun e s => aluRR mulhU 3 d a b e s

/-- DIV (14 R377). -/
def effDiv (d a b : SCode) : Eff := fun e s => aluDiv divS d a b e s

/-- DIVU (14 R377). -/
def effDivu (d a b : SCode) : Eff := fun e s => aluDiv divU d a b e s

/-- REM (14 R377). -/
def effRem (d a b : SCode) : Eff := fun e s => aluDiv remS d a b e s

/-- REMU (14 R377). -/
def effRemu (d a b : SCode) : Eff := fun e s => aluDiv remU d a b e s

/-- AND (14 R377). -/
def effAnd (d a b : SCode) : Eff := fun e s => aluRR (· &&& ·) 1 d a b e s

/-- OR (14 R377). -/
def effOr (d a b : SCode) : Eff := fun e s => aluRR (· ||| ·) 1 d a b e s

/-- XOR (14 R377). -/
def effXor (d a b : SCode) : Eff := fun e s => aluRR (· ^^^ ·) 1 d a b e s

/-- ANDN (14 R377). -/
def effAndn (d a b : SCode) : Eff := fun e s => aluRR (fun x y => x &&& ~~~y) 1 d a b e s

/-- SHL (14 R377). -/
def effShl (d a b : SCode) : Eff := fun e s => aluRR (fun x y => x <<< shCount y) 1 d a b e s

/-- SHR (14 R377). -/
def effShr (d a b : SCode) : Eff := fun e s => aluRR (fun x y => x >>> shCount y) 1 d a b e s

/-- SAR (14 R377). -/
def effSar (d a b : SCode) : Eff := fun e s => aluRR (fun x y => x.sshiftRight (shCount y)) 1 d a b e s

/-- ROL (14 R377). -/
def effRol (d a b : SCode) : Eff := fun e s => aluRR (fun x y => x.rotateLeft (shCount y)) 1 d a b e s

/-- MIN (14 R377). -/
def effMin (d a b : SCode) : Eff := fun e s => aluRR (fun x y => pick (x.sle y) x y) 1 d a b e s

/-- MAX (14 R377). -/
def effMax (d a b : SCode) : Eff := fun e s => aluRR (fun x y => pick (y.sle x) x y) 1 d a b e s

/-- MINU (14 R377). -/
def effMinu (d a b : SCode) : Eff := fun e s => aluRR (fun x y => pick (x.ule y) x y) 1 d a b e s

/-- MAXU (14 R377). -/
def effMaxu (d a b : SCode) : Eff := fun e s => aluRR (fun x y => pick (y.ule x) x y) 1 d a b e s

/-- CLZ (14 R377). -/
def effClz (d a : SCode) : Eff := fun e s => aluR (fun x => BitVec.ofNat 64 (clz64 x)) d a e s

/-- POPC (14 R377). -/
def effPopc (d a : SCode) : Eff := fun e s => aluR (fun x => BitVec.ofNat 64 (popBits 64 x.toNat)) d a e s

/-- SEL (14 R377). -/
def effSel (d a b : SCode) (p : PReg) : Eff := fun e s => result s 1 d (if e.preg s p then e.src s a else e.src s b) 0

/-- ADD (14 R377) alone in a bundle. -/
def execAdd (d a b : SCode) (s : State) : Host.Outcome State Fault Refusal :=
  issueOne (.add d a b) (effAdd d a b) s

/-- SUB (14 R377) alone in a bundle. -/
def execSub (d a b : SCode) (s : State) : Host.Outcome State Fault Refusal :=
  issueOne (.sub d a b) (effSub d a b) s

/-- MUL (14 R377) alone in a bundle. -/
def execMul (d a b : SCode) (s : State) : Host.Outcome State Fault Refusal :=
  issueOne (.mul d a b) (effMul d a b) s

/-- MULH (14 R377) alone in a bundle. -/
def execMulh (d a b : SCode) (s : State) : Host.Outcome State Fault Refusal :=
  issueOne (.mulh d a b) (effMulh d a b) s

/-- MULHU (14 R377) alone in a bundle. -/
def execMulhu (d a b : SCode) (s : State) : Host.Outcome State Fault Refusal :=
  issueOne (.mulhu d a b) (effMulhu d a b) s

/-- DIV (14 R377) alone in a bundle. -/
def execDiv (d a b : SCode) (s : State) : Host.Outcome State Fault Refusal :=
  issueOne (.div d a b) (effDiv d a b) s

/-- DIVU (14 R377) alone in a bundle. -/
def execDivu (d a b : SCode) (s : State) : Host.Outcome State Fault Refusal :=
  issueOne (.divu d a b) (effDivu d a b) s

/-- REM (14 R377) alone in a bundle. -/
def execRem (d a b : SCode) (s : State) : Host.Outcome State Fault Refusal :=
  issueOne (.rem d a b) (effRem d a b) s

/-- REMU (14 R377) alone in a bundle. -/
def execRemu (d a b : SCode) (s : State) : Host.Outcome State Fault Refusal :=
  issueOne (.remu d a b) (effRemu d a b) s

/-- AND (14 R377) alone in a bundle. -/
def execAnd (d a b : SCode) (s : State) : Host.Outcome State Fault Refusal :=
  issueOne (.and d a b) (effAnd d a b) s

/-- OR (14 R377) alone in a bundle. -/
def execOr (d a b : SCode) (s : State) : Host.Outcome State Fault Refusal :=
  issueOne (.or d a b) (effOr d a b) s

/-- XOR (14 R377) alone in a bundle. -/
def execXor (d a b : SCode) (s : State) : Host.Outcome State Fault Refusal :=
  issueOne (.xor d a b) (effXor d a b) s

/-- ANDN (14 R377) alone in a bundle. -/
def execAndn (d a b : SCode) (s : State) : Host.Outcome State Fault Refusal :=
  issueOne (.andn d a b) (effAndn d a b) s

/-- SHL (14 R377) alone in a bundle. -/
def execShl (d a b : SCode) (s : State) : Host.Outcome State Fault Refusal :=
  issueOne (.shl d a b) (effShl d a b) s

/-- SHR (14 R377) alone in a bundle. -/
def execShr (d a b : SCode) (s : State) : Host.Outcome State Fault Refusal :=
  issueOne (.shr d a b) (effShr d a b) s

/-- SAR (14 R377) alone in a bundle. -/
def execSar (d a b : SCode) (s : State) : Host.Outcome State Fault Refusal :=
  issueOne (.sar d a b) (effSar d a b) s

/-- ROL (14 R377) alone in a bundle. -/
def execRol (d a b : SCode) (s : State) : Host.Outcome State Fault Refusal :=
  issueOne (.rol d a b) (effRol d a b) s

/-- MIN (14 R377) alone in a bundle. -/
def execMin (d a b : SCode) (s : State) : Host.Outcome State Fault Refusal :=
  issueOne (.min d a b) (effMin d a b) s

/-- MAX (14 R377) alone in a bundle. -/
def execMax (d a b : SCode) (s : State) : Host.Outcome State Fault Refusal :=
  issueOne (.max d a b) (effMax d a b) s

/-- MINU (14 R377) alone in a bundle. -/
def execMinu (d a b : SCode) (s : State) : Host.Outcome State Fault Refusal :=
  issueOne (.minu d a b) (effMinu d a b) s

/-- MAXU (14 R377) alone in a bundle. -/
def execMaxu (d a b : SCode) (s : State) : Host.Outcome State Fault Refusal :=
  issueOne (.maxu d a b) (effMaxu d a b) s

/-- CLZ (14 R377) alone in a bundle. -/
def execClz (d a : SCode) (s : State) : Host.Outcome State Fault Refusal :=
  issueOne (.clz d a) (effClz d a) s

/-- POPC (14 R377) alone in a bundle. -/
def execPopc (d a : SCode) (s : State) : Host.Outcome State Fault Refusal :=
  issueOne (.popc d a) (effPopc d a) s

/-- SEL (14 R377) alone in a bundle. -/
def execSel (d a b : SCode) (p : PReg) (s : State) : Host.Outcome State Fault Refusal :=
  issueOne (.sel d a b p) (effSel d a b p) s

/-! ### Immediates (14 R378, R379) -/

/-- ADDI (14 R378). -/
def effAddi (d a : SCode) (imm : BitVec 12) : Eff := fun e s => aluR (· + sext imm) d a e s

/-- ANDI (14 R378). -/
def effAndi (d a : SCode) (imm : BitVec 12) : Eff := fun e s => aluR (· &&& sext imm) d a e s

/-- ORI (14 R378). -/
def effOri (d a : SCode) (imm : BitVec 12) : Eff := fun e s => aluR (· ||| sext imm) d a e s

/-- XORI (14 R378). -/
def effXori (d a : SCode) (imm : BitVec 12) : Eff := fun e s => aluR (· ^^^ sext imm) d a e s

/-- SHLI (14 R378). -/
def effShli (d a : SCode) (sh : BitVec 6) : Eff := fun e s => aluR (· <<< sh.toNat) d a e s

/-- SHRI (14 R378). -/
def effShri (d a : SCode) (sh : BitVec 6) : Eff := fun e s => aluR (· >>> sh.toNat) d a e s

/-- SARI (14 R378). -/
def effSari (d a : SCode) (sh : BitVec 6) : Eff := fun e s => aluR (·.sshiftRight sh.toNat) d a e s

/-- ROLI (14 R378). -/
def effRoli (d a : SCode) (sh : BitVec 6) : Eff := fun e s => aluR (·.rotateLeft sh.toNat) d a e s

/-- MOVI (14 R379). -/
def effMovi (d : SCode) (imm : BitVec 18) : Eff := fun _ s => result s 1 d (sext imm) 0

/-- INSH (14 R379). -/
def effInsh (d : SCode) (k : BitVec 2) (imm : BitVec 16) : Eff := fun e s => result s 1 d (setFld (e.src s d) (16 * k.toNat + 15) (16 * k.toNat) imm.toNat) 0

/-- ADDI (14 R378) alone in a bundle. -/
def execAddi (d a : SCode) (imm : BitVec 12) (s : State) : Host.Outcome State Fault Refusal :=
  issueOne (.addi d a imm) (effAddi d a imm) s

/-- ANDI (14 R378) alone in a bundle. -/
def execAndi (d a : SCode) (imm : BitVec 12) (s : State) : Host.Outcome State Fault Refusal :=
  issueOne (.andi d a imm) (effAndi d a imm) s

/-- ORI (14 R378) alone in a bundle. -/
def execOri (d a : SCode) (imm : BitVec 12) (s : State) : Host.Outcome State Fault Refusal :=
  issueOne (.ori d a imm) (effOri d a imm) s

/-- XORI (14 R378) alone in a bundle. -/
def execXori (d a : SCode) (imm : BitVec 12) (s : State) : Host.Outcome State Fault Refusal :=
  issueOne (.xori d a imm) (effXori d a imm) s

/-- SHLI (14 R378) alone in a bundle. -/
def execShli (d a : SCode) (sh : BitVec 6) (s : State) : Host.Outcome State Fault Refusal :=
  issueOne (.shli d a sh) (effShli d a sh) s

/-- SHRI (14 R378) alone in a bundle. -/
def execShri (d a : SCode) (sh : BitVec 6) (s : State) : Host.Outcome State Fault Refusal :=
  issueOne (.shri d a sh) (effShri d a sh) s

/-- SARI (14 R378) alone in a bundle. -/
def execSari (d a : SCode) (sh : BitVec 6) (s : State) : Host.Outcome State Fault Refusal :=
  issueOne (.sari d a sh) (effSari d a sh) s

/-- ROLI (14 R378) alone in a bundle. -/
def execRoli (d a : SCode) (sh : BitVec 6) (s : State) : Host.Outcome State Fault Refusal :=
  issueOne (.roli d a sh) (effRoli d a sh) s

/-- MOVI (14 R379) alone in a bundle. -/
def execMovi (d : SCode) (imm : BitVec 18) (s : State) : Host.Outcome State Fault Refusal :=
  issueOne (.movi d imm) (effMovi d imm) s

/-- INSH (14 R379) alone in a bundle. -/
def execInsh (d : SCode) (k : BitVec 2) (imm : BitVec 16) (s : State) : Host.Outcome State Fault Refusal :=
  issueOne (.insh d k imm) (effInsh d k imm) s

/-! ### Predicates (14 R380, R381) -/

/-- C(x, y) of a compare. -/
def scond (c : BitVec 3) (x y : Word) : Bool :=
  match c.toNat with
  | 0 => x == y
  | 1 => x != y
  | 2 => x.slt y
  | 3 => !x.slt y
  | 4 => x.ult y
  | 5 => !x.ult y
  | 6 => x &&& y != 0
  | _ => x &&& y == 0

/-- Bit 2a + b of a truth table. -/
def truth (tt : BitVec 4) (a b : Bool) : Bool := tt.getLsbD (2 * a.toNat + b.toNat)

/-- PCMP (14 R380). -/
def effPcmp (pd : PReg) (a b : SCode) (cond : BitVec 3) : Eff := fun e s => resultP s 1 pd (scond cond (e.src s a) (e.src s b))

/-- PCMPI (14 R380). -/
def effPcmpi (cond : BitVec 3) (pd : PReg) (a : SCode) (imm : BitVec 12) : Eff := fun e s => resultP s 1 pd (scond cond (e.src s a) (sext imm))

/-- PLOG (14 R381). -/
def effPlog (pd pa pb : PReg) (tt : BitVec 4) : Eff := fun e s => resultP s 1 pd (truth tt (e.preg s pa) (e.preg s pb))

/-- PCMP (14 R380) alone in a bundle. -/
def execPcmp (pd : PReg) (a b : SCode) (cond : BitVec 3) (s : State) : Host.Outcome State Fault Refusal :=
  issueOne (.pcmp pd a b cond) (effPcmp pd a b cond) s

/-- PCMPI (14 R380) alone in a bundle. -/
def execPcmpi (cond : BitVec 3) (pd : PReg) (a : SCode) (imm : BitVec 12) (s : State) : Host.Outcome State Fault Refusal :=
  issueOne (.pcmpi cond pd a imm) (effPcmpi cond pd a imm) s

/-- PLOG (14 R381) alone in a bundle. -/
def execPlog (pd pa pb : PReg) (tt : BitVec 4) (s : State) : Host.Outcome State Fault Refusal :=
  issueOne (.plog pd pa pb tt) (effPlog pd pa pb tt) s

/-! ### Address registers (14 R382) -/

/-- AMOV (14 R382). -/
def effAmov (ad : AReg) (a : SCode) : Eff := fun e s => resultA s ad (e.src s a)

/-- AADD (14 R382). -/
def effAadd (ad aa : AReg) (b : SCode) : Eff := fun e s => resultA s ad (e.areg s aa + e.src s b)

/-- AADDI (14 R382). -/
def effAaddi (ad aa : AReg) (imm : BitVec 12) : Eff := fun e s => resultA s ad (e.areg s aa + sext imm)

/-- AGET (14 R382). -/
def effAget (d : SCode) (aa : AReg) : Eff := fun e s => result s 1 d (e.areg s aa) 0

/-- AMOV (14 R382) alone in a bundle. -/
def execAmov (ad : AReg) (a : SCode) (s : State) : Host.Outcome State Fault Refusal :=
  issueOne (.amov ad a) (effAmov ad a) s

/-- AADD (14 R382) alone in a bundle. -/
def execAadd (ad aa : AReg) (b : SCode) (s : State) : Host.Outcome State Fault Refusal :=
  issueOne (.aadd ad aa b) (effAadd ad aa b) s

/-- AADDI (14 R382) alone in a bundle. -/
def execAaddi (ad aa : AReg) (imm : BitVec 12) (s : State) : Host.Outcome State Fault Refusal :=
  issueOne (.aaddi ad aa imm) (effAaddi ad aa imm) s

/-- AGET (14 R382) alone in a bundle. -/
def execAget (d : SCode) (aa : AReg) (s : State) : Host.Outcome State Fault Refusal :=
  issueOne (.aget d aa) (effAget d aa) s

/-! ### Loop index (14 R363) -/

/-- INDEX of the active entry `depth` entries outside the innermost one; 0 without one. -/
def loopIndex (t : Ctx) (depth : Nat) : Word :=
  match ([5, 4, 3, 2, 1, 0].filter (loopActive t))[depth]? with
  | some j => BitVec.ofNat 64 (fld (tabGet 0 t.lsCnt j) 63 32)
  | none => 0

/-- LIDX (14 R363). -/
def effLidx (d : SCode) (depth : BitVec 3) : Eff := fun e s => result s 1 d (loopIndex (e.t s) depth.toNat) 0

/-- LIDX (14 R363) alone in a bundle. -/
def execLidx (d : SCode) (depth : BitVec 3) (s : State) : Host.Outcome State Fault Refusal :=
  issueOne (.lidx d depth) (effLidx d depth) s

end Sys2Proof.Machine
end

