-- ==== Sys2Proof/Machine/ScalarFp.lean ====
section
/-! DEFINITION. Scalar floating point (14 R383 to R385) by the arithmetic of 11. -/

namespace Sys2Proof.Machine

/-- The type a selector names: FP64 when set, else FP32. -/
def fpTy (t : Bool) : Nat := if t then 1 else 0

/-- A register's word as a value of a type: its low bits. -/
def fpSrc (t : Bool) (w : Word) : Val := decodeFp (fpTy t) (w.toNat % 2 ^ tyWidth (fpTy t))

/-- A sum, difference, product or fused product: one rounding, and SRS advances under SR. -/
def fpOp (f : Bool → Val × Nat) (d : SCode) (t : Bool) : Eff := fun e s =>
  let r := rndOf (e.t s)
  let v := f (r.mode == 2)
  let x := roundFp (fpTy t) r 0 v.1
  result (srsStep s e.core e.ctx true) 4 d (BitVec.ofNat 64 x.val) (x.flags ||| v.2)

/-- A minimum or maximum: no rounding. -/
def fpPick (f : Val → Val → Val) (d a b : SCode) (t : Bool) : Eff := fun e s =>
  result s 4 d (BitVec.ofNat 64 (roundFp (fpTy t) rne 0 (f (fpSrc t (e.src s a)) (fpSrc t (e.src s b)))).val) 0

/-- FADD (14 R383). -/
def effFadd (d a b : SCode) (t : Bool) : Eff := fun e s => fpOp (fun rdn => addVal rdn (fpSrc t (e.src s a)) (fpSrc t (e.src s b))) d t e s

/-- FSUB (14 R383). -/
def effFsub (d a b : SCode) (t : Bool) : Eff := fun e s => fpOp (fun rdn => addVal rdn (fpSrc t (e.src s a)) (fpSrc t (e.src s b)).neg) d t e s

/-- FMUL (14 R383). -/
def effFmul (d a b : SCode) (t : Bool) : Eff := fun e s => fpOp (fun _ => mulVal (fpSrc t (e.src s a)) (fpSrc t (e.src s b))) d t e s

/-- FFMA (14 R383). -/
def effFfma (d a b : SCode) (t : Bool) : Eff := fun e s => fpOp (fun rdn => fmaVal rdn (fpSrc t (e.src s a)) (fpSrc t (e.src s b)) (fpSrc t (e.src s d))) d t e s

/-- FMIN (14 R383). -/
def effFmin (d a b : SCode) (t : Bool) : Eff := fun e s => fpPick minVal d a b t e s

/-- FMAX (14 R383). -/
def effFmax (d a b : SCode) (t : Bool) : Eff := fun e s => fpPick maxVal d a b t e s

/-- FADD (14 R383) alone in a bundle. -/
def execFadd (d a b : SCode) (t : Bool) (s : State) : Host.Outcome State Fault Refusal :=
  issueOne (.fadd d a b t) (effFadd d a b t) s

/-- FSUB (14 R383) alone in a bundle. -/
def execFsub (d a b : SCode) (t : Bool) (s : State) : Host.Outcome State Fault Refusal :=
  issueOne (.fsub d a b t) (effFsub d a b t) s

/-- FMUL (14 R383) alone in a bundle. -/
def execFmul (d a b : SCode) (t : Bool) (s : State) : Host.Outcome State Fault Refusal :=
  issueOne (.fmul d a b t) (effFmul d a b t) s

/-- FFMA (14 R383) alone in a bundle. -/
def execFfma (d a b : SCode) (t : Bool) (s : State) : Host.Outcome State Fault Refusal :=
  issueOne (.ffma d a b t) (effFfma d a b t) s

/-- FMIN (14 R383) alone in a bundle. -/
def execFmin (d a b : SCode) (t : Bool) (s : State) : Host.Outcome State Fault Refusal :=
  issueOne (.fmin d a b t) (effFmin d a b t) s

/-- FMAX (14 R383) alone in a bundle. -/
def execFmax (d a b : SCode) (t : Bool) (s : State) : Host.Outcome State Fault Refusal :=
  issueOne (.fmax d a b t) (effFmax d a b t) s

/-- A result of a conversion in a register: signed types sign-extended, the others zero-extended. -/
def extendTy (t v : Nat) : Word := if isSIntTy t then BitVec.ofInt 64 (toSigned (tyWidth t) v) else BitVec.ofNat 64 v

/-- FCVT (14 R384): types 14 and 15 are FMT_INVALID. -/
def effFcvt (d a : SCode) (dt st : BitVec 4) : Eff := fun e s =>
  let t := e.t s
  let u := st.toNat
  let v := dt.toNat
  if 14 ≤ u ∨ 14 ≤ v then .trap 7 t.fmt
  else
    let x := decodeVal u ((e.src s a).toNat % 2 ^ tyWidth u)
    let r := roundTy v (rndOf t) 0 x
    done (srsStep s e.core e.ctx (convRounds u v false)) 4
      (dstLand d (extendTy v r.val) ++ flagLand r.flags ++ amxLands (narrowing u v false) [x])

/-- FCMP (14 R385). -/
def effFcmp (pd : PReg) (a b : SCode) (cond : BitVec 3) (t : Bool) : Eff := fun e s => resultP s 4 pd (fcond cond.toNat (fpSrc t (e.src s a)) (fpSrc t (e.src s b)))

/-- FCVT (14 R384) alone in a bundle. -/
def execFcvt (d a : SCode) (dt st : BitVec 4) (s : State) : Host.Outcome State Fault Refusal :=
  issueOne (.fcvt d a dt st) (effFcvt d a dt st) s

/-- FCMP (14 R385) alone in a bundle. -/
def execFcmp (pd : PReg) (a b : SCode) (cond : BitVec 3) (t : Bool) (s : State) : Host.Outcome State Fault Refusal :=
  issueOne (.fcmp pd a b cond t) (effFcmp pd a b cond t) s

end Sys2Proof.Machine
end

