-- ==== Sys2Proof/Machine/VectorSum.lean ====
section
/-! DEFINITION. Exact reductions, scans and segmented sums (16 R415, R425 to R427), noise digits and replay (16 R432 to R434,
06 R134 to R136, R149), and accumulator moves (16 R435 to R437). -/

namespace Sys2Proof.Machine

/-! ### Sums (16 R415, 11 R301) -/

/-- The groups of an axis: the whole tile, its rows or its columns. -/
def axisGroups (t : Ctx) (axis : Nat) : List (List Nat) :=
  let rows := shpRows t
  let cols := shpCols t
  if axis = 0 then [List.range (rows * cols)]
  else if axis = 1 then (List.range rows).map fun r => (List.range cols).map (r * cols + ·)
  else (List.range cols).map fun c => (List.range rows).map (· * cols + c)

/-- A sum of terms of a type (16 R415): integers wrap; every floating sum, of two terms and of one too, goes through the long
accumulator with its window (R301, log 49); an empty sum and an exact zero give +0. -/
def sumTerms (ty : Nat) (w : Int) (r : RndEnv) (i : Nat) (bs : List Nat) : Res1 Nat :=
  if isFloatTy ty then sumVals ty w r i (bs.map (decodeFp ty))
  else wrapElem ty (bs.foldl (fun a b => a + intOf ty b) 0)

/-- The window of an instruction's sums: over all of its terms (11 R301). -/
def termWindow (ty : Nat) (bs : List Nat) : Int := sumWindow ty (if ty = 1 then bs.map (decodeFp ty) else [])

/-- A floating sum of FP64 has more than 256 terms (16 R415). -/
def tooMany (ty : Nat) (gs : List (List Nat)) : Bool := ty == 1 && gs.any fun g => decide (256 < g.length)

/-- A reduction's, scan's or segmented sum's checks: SHAPE for its tiles and for its FP64 sums, then FMT_INVALID. -/
def sumChecked (e : Env) (s : State) (i : Instr) (gs : List (List Nat)) (r : Res) : Res :=
  if tooMany (fmtVT (e.t s)) gs then .trap 6 (e.t s).shp else vChecked e s i r

/-- The least of a list by the order of a type, or what an empty group gives (16 R425). -/
def minElem (ty : Nat) (bs : List Nat) : Nat :=
  if isFloatTy ty then
    match bs.map (decodeFp ty) with
    | [] => if ty = 4 then 0x7E else tyInfBits ty
    | x :: xs => exactBits ty (xs.foldl minVal x)
  else
    match bs.map (intOf ty) with
    | [] => ofSigned (tyWidth ty) (tyHi ty)
    | x :: xs => ofSigned (tyWidth ty) (xs.foldl min x)

/-- The greatest, as `minElem`. -/
def maxElem (ty : Nat) (bs : List Nat) : Nat :=
  if isFloatTy ty then
    match bs.map (decodeFp ty) with
    | [] => if ty = 4 then 0xFE else tySignBit ty + tyInfBits ty
    | x :: xs => exactBits ty (xs.foldl maxVal x)
  else
    match bs.map (intOf ty) with
    | [] => ofSigned (tyWidth ty) (tyLo ty)
    | x :: xs => ofSigned (tyWidth ty) (xs.foldl max x)

/-- VRED (16 R425): result g lands in element g. -/
def effVred (vd va : VReg) (op : BitVec 3) (axis : BitVec 2) (mk : MReg) : Eff := fun e s =>
  let t := e.t s
  let ty := fmtVT t
  let i : Instr := .vred vd va op axis mk
  let gs := (axisGroups t axis.toNat).map fun g => (g.filter (maskOn t mk)).map (vElem e s va (tyWidth ty))
  let w := termWindow ty gs.flatten
  let one := fun (g : Nat) (bs : List Nat) =>
    if op = 0 then sumTerms ty w (rndOf t) g bs
    else if op = 1 then ⟨minElem ty bs, 0⟩
    else ⟨maxElem ty bs, 0⟩
  sumChecked e s i (if op = 0 then gs else [])
    (vLandElems e s i vd (decide (op = 0) && isFloatTy ty) ((List.range gs.length).map fun g => (g, one g (gs.getD g []))))

/-- The outputs of a scan along one group: element and the terms of its sum. -/
def scanGroup (ex : Bool) (g : List Nat) : List (Nat × List Nat) :=
  (List.range g.length).map fun k => (g.getD k 0, g.take (if ex then k else k + 1))

/-- VSCAN (16 R426). -/
def effVscan (vd va : VReg) (ex : Bool) (axis : BitVec 2) (mk : MReg) : Eff := fun e s =>
  let t := e.t s
  let ty := fmtVT t
  let i : Instr := .vscan vd va ex axis mk
  let gs := (axisGroups t axis.toNat).map (·.filter (maskOn t mk))
  let x := vElem e s va (tyWidth ty)
  let w := termWindow ty (gs.flatten.map x)
  sumChecked e s i gs
    (vLandElems e s i vd (isFloatTy ty)
      (gs.flatMap fun g => (scanGroup ex g).map fun p => (p.1, sumTerms ty w (rndOf t) p.1 (p.2.map x))))

/-- Segments of the elements 0 to n - 1: a new one at 0 and wherever the mask is set (16 R427). -/
def segments (t : Ctx) (mk : MReg) : List (List Nat) :=
  ((List.range (shpN t)).foldl (fun (a : List (List Nat)) j =>
    match a with
    | g :: rest => if maskOn t mk j then [j] :: g :: rest else (j :: g) :: rest
    | [] => [[j]]) []).reverse.map List.reverse

/-- VSEGRED (16 R427). -/
def effVsegred (vd va : VReg) (mk : MReg) : Eff := fun e s =>
  let t := e.t s
  let ty := fmtVT t
  let i : Instr := .vsegred vd va mk
  let gs := (segments t mk).map fun g => g.map (vElem e s va (tyWidth ty))
  let w := termWindow ty gs.flatten
  sumChecked e s i gs
    (vLandElems e s i vd (isFloatTy ty) ((List.range gs.length).map fun g => (g, sumTerms ty w (rndOf t) g (gs.getD g []))))
/-- VRED (16 R425) alone in a bundle. -/
def execVred (vd va : VReg) (op : BitVec 3) (axis : BitVec 2) (mk : MReg) (s : State) : Host.Outcome State Fault Refusal :=
  issueOne (.vred vd va op axis mk) (effVred vd va op axis mk) s

/-- VSCAN (16 R426) alone in a bundle. -/
def execVscan (vd va : VReg) (ex : Bool) (axis : BitVec 2) (mk : MReg) (s : State) : Host.Outcome State Fault Refusal :=
  issueOne (.vscan vd va ex axis mk) (effVscan vd va ex axis mk) s

/-- VSEGRED (16 R427) alone in a bundle. -/
def execVsegred (vd va : VReg) (mk : MReg) (s : State) : Host.Outcome State Fault Refusal :=
  issueOne (.vsegred vd va mk) (effVsegred vd va mk) s

/-! ### Noise digits (16 R432) -/

/-- A handle: SEED, TENSOR and E (06 R135). -/
def handleOf (t : Ctx) (h : Nat) : Nat × Nat × Nat :=
  let p := tabGet 0 t.handles (0x41 + 2 * h)
  ((tabGet 0 t.handles (0x40 + 2 * h)).toNat, fld p 31 0, fld p 37 32)

/-- A digit or a draw's value in a type: exact. -/
def digitElem (ty e : Nat) (val : Bool) (d : Int) : Res1 Nat :=
  if val then ⟨exactBits ty (digitVal d e), 0⟩
  else if isFloatTy ty then ⟨exactBits ty (Val.ofInt d), 0⟩
  else wrapElem ty d

/-- NZGEN (16 R432). -/
def effNzgen (vd : VReg) (val : Bool) (h : BitVec 4) (b : SCode) (mk : MReg) : Eff :=
  vEach (.nzgen vd val h b mk) vd mk (fun _ => false) fun e s ty j =>
    let t := e.t s
    let (seed, tensor, x) := handleOf t h.toNat
    let o := e.src s b
    digitElem ty x val (noiseDigit seed tensor ((fld o 63 32 + j / shpCols t) % 2 ^ 32) ((fld o 31 0 + j % shpCols t) % 2 ^ 32))

/-- RNGD (16 R432). -/
def effRngd (vd va : VReg) (val : Bool) (h : BitVec 4) (mk : MReg) : Eff :=
  vEach (.rngd vd va val h mk) vd mk (fun _ => false) fun e s ty j =>
    let (seed, tensor, x) := handleOf (e.t s) h.toNat
    let off := vElem e s va 64 j
    digitElem ty x val (noiseDigit seed tensor (off / 2 ^ 32) (off % 2 ^ 32))

/-! ### Replay (16 R433, R434) -/

/-- Bytes lo to hi - 1 of a tile. -/
def tileField (v : Tile) (lo hi : Nat) : Nat := v.toNat / 2 ^ (8 * lo) % 2 ^ (8 * (hi - lo))

/-- A replay descriptor that raises SHAPE: too many entries, an exponent above 63, a reserved byte that is not zero. -/
def replayBad (v : Tile) : Bool :=
  let n := tileField v 12 13
  decide (8 < n) || tileField v 13 16 != 0 ||
    (List.range n).any fun k => decide (63 < tileField v (28 + 16 * k) (29 + 16 * k)) || tileField v (29 + 16 * k) (32 + 16 * k) != 0

/-- One entry of a replay on an element's value, with the flags so far. -/
def replayEntry (v : Tile) (r c k : Nat) (acc : Nat × Nat) : Nat × Nat :=
  let d := noiseDigit (tileField v (16 + 16 * k) (24 + 16 * k)) (tileField v 0 4) ((tileField v 4 8 + r) % 2 ^ 32) ((tileField v 8 12 + c) % 2 ^ 32)
  let o := fma32 (decodeFp 0 (tileField v (24 + 16 * k) (28 + 16 * k))).neg (digitVal d (tileField v (28 + 16 * k) (29 + 16 * k))) (decodeFp 0 acc.1)
  (o.val, acc.2 ||| o.flags)

/-- VREPLAY (16 R434). -/
def effVreplay (vd va : VReg) (mk : MReg) : Eff := fun e s =>
  let t := e.t s
  let i : Instr := .vreplay vd va mk
  let v := vReg (coreOf s e.core) va.toNat
  let rs := (enabledIdx t mk).map fun j =>
    let o := (List.range (tileField v 12 13)).foldl (fun acc k => replayEntry v (j / shpCols t) (j % shpCols t) k acc) (vElem e s vd 32 j, 0)
    (j, (⟨o.1, o.2⟩ : Res1 Nat))
  if replayBad v then .trap 6 t.shp
  else vChecked e s i (vLandElems e s i vd false rs)
/-- NZGEN (16 R432) alone in a bundle. -/
def execNzgen (vd : VReg) (val : Bool) (h : BitVec 4) (b : SCode) (mk : MReg) (s : State) : Host.Outcome State Fault Refusal :=
  issueOne (.nzgen vd val h b mk) (effNzgen vd val h b mk) s

/-- RNGD (16 R432) alone in a bundle. -/
def execRngd (vd va : VReg) (val : Bool) (h : BitVec 4) (mk : MReg) (s : State) : Host.Outcome State Fault Refusal :=
  issueOne (.rngd vd va val h mk) (effRngd vd va val h mk) s

/-- VREPLAY (16 R434) alone in a bundle. -/
def execVreplay (vd va : VReg) (mk : MReg) (s : State) : Host.Outcome State Fault Refusal :=
  issueOne (.vreplay vd va mk) (effVreplay vd va mk) s

/-! ### Accumulator moves (16 R435, R436) -/

/-- The bytes at an offset of the store that may run into the next page. -/
def accSpan (k : Core) (off w : Nat) : Nat :=
  let n := min w (4096 - off % 4096)
  accBytes k off n + accBytes k (off + n) (w - n) * 2 ^ (8 * n)

/-- The overwrite of w bytes at an offset that may run into the next page. -/
def accPut (off w v : Nat) : List AccOp :=
  let n := min w (4096 - off % 4096)
  if n = w then [.put off w v] else [.put off n (v % 2 ^ (8 * n)), .put (off + n) (w - n) (v / 2 ^ (8 * n))]

/-- Slots of an LA operand: the slot of element i, counted from page 0. -/
def laSlotOf (off i : Nat) : Nat := laSlot0 off + i

/-- The offset keeps the alignment of its mode. -/
def accAligned (la : Bool) (off : Nat) : Bool := if la then off % 4096 % 48 == 0 && decide (off % 4096 / 48 ≤ 84) else off % 4 == 0

/-- The range passes the end of page 511: w bytes an element, or a slot. -/
def accPast (la : Bool) (off w n : Nat) : Bool := if la then decide (85 * 512 < laSlot0 off + n) else decide (2 ^ 21 < off + w * n)

/-- The checks of ACCRD and ACCWR (16 R409, R410, R435), lowest cause first. -/
def accChecked (e : Env) (s : State) (i : Instr) (off w : Nat) (r : Res) : Res :=
  let la := accLaMode i
  if accPast la off w (shpN (e.t s)) && (!la || accAligned la off) then .trap 6 (e.t s).shp
  else vChecked e s i (if accAligned la off then r else .trap 8 (BitVec.ofNat 64 off))

/-- ACCRD (16 R436). -/
def effAccrd (vd : VReg) (a : SCode) (la : Bool) (mk : MReg) : Eff := fun e s =>
  let t := e.t s
  let k := coreOf s e.core
  let ty := fmtVT t
  let w := tyWidth ty / 8
  let off := fld (e.src s a) 20 0
  let i : Instr := .accrd vd a la mk
  let one := fun j =>
    if la then laCvt (slotLa k (laSlotOf off j)) ty (rndOf t) j
    else (⟨accSpan k (off + w * j) w, 0⟩ : Res1 Nat)
  accChecked e s i off w (vLandElems e s i vd la ((enabledIdx t mk).map fun j => (j, one j)))

/-- ACCWR (16 R436). -/
def effAccwr (vs : VReg) (a : SCode) (mode : BitVec 2) (mk : MReg) : Eff := fun e s =>
  let t := e.t s
  let ty := fmtVT t
  let w := if mode = 1 then 4 else tyWidth ty / 8
  let off := fld (e.src s a) 20 0
  let i : Instr := .accwr vs a mode mk
  let one := fun j =>
    let b := vElem e s vs (tyWidth ty) j
    if mode = 0 then accPut (off + w * j) w b
    else if mode = 1 then [AccOp.addF32 (off + 4 * j) (decodeFp 0 b)]
    else [AccOp.lax (laSlotOf off j) (decodeVal ty b)]
  accChecked e s i off w (done s (vLat t i) [.acc ((enabledIdx t mk).flatMap one)])
/-- ACCRD (16 R436) alone in a bundle. -/
def execAccrd (vd : VReg) (a : SCode) (la : Bool) (mk : MReg) (s : State) : Host.Outcome State Fault Refusal :=
  issueOne (.accrd vd a la mk) (effAccrd vd a la mk) s

/-- ACCWR (16 R436) alone in a bundle. -/
def execAccwr (vs : VReg) (a : SCode) (mode : BitVec 2) (mk : MReg) (s : State) : Host.Outcome State Fault Refusal :=
  issueOne (.accwr vs a mode mk) (effAccwr vs a mode mk) s

end Sys2Proof.Machine
end

