-- ==== Sys2Proof/Machine/Effects.lean ====
section
/-! DEFINITION. The effect of each slot instruction, as a bundle that is fetched issues it (07 R170, 13 R348). -/

namespace Sys2Proof.Machine

/-- The effect of a slot instruction. A step of the machine is never decoded from a slot word. -/
def slotEffect : Instr → Eff
  | .br disp => effBr disp
  | .brp p n disp => effBrp p n disp
  | .call disp => effCall disp
  | .calli a => effCalli a
  | .jmpi a => effJmpi a
  | .ret => effRet
  | .loop a len => effLoop a len
  | .loopi cnt len => effLoopi cnt len
  | .lbrk => effLbrk
  | .mtc a cr => effMtc a cr
  | .mfc d cr => effMfc d cr
  | .phase units => effPhase units
  | .ckpt => effCkpt
  | .yield => effYield
  | .spawn d a b pool => effSpawn d a b pool
  | .join d a => effJoin d a
  | .exit => effExit
  | .tkill d a b => effTkill d a b
  | .trap imm => effTrap imm
  | .sysc imm => effSysc imm
  | .brk imm => effBrk imm
  | .eret nx => effEret nx
  | .ctxsw a nx => effCtxsw a nx
  | .halt nx => effHalt nx
  | .add d a b => effAdd d a b
  | .sub d a b => effSub d a b
  | .mul d a b => effMul d a b
  | .mulh d a b => effMulh d a b
  | .mulhu d a b => effMulhu d a b
  | .div d a b => effDiv d a b
  | .divu d a b => effDivu d a b
  | .rem d a b => effRem d a b
  | .remu d a b => effRemu d a b
  | .and d a b => effAnd d a b
  | .or d a b => effOr d a b
  | .xor d a b => effXor d a b
  | .andn d a b => effAndn d a b
  | .shl d a b => effShl d a b
  | .shr d a b => effShr d a b
  | .sar d a b => effSar d a b
  | .rol d a b => effRol d a b
  | .min d a b => effMin d a b
  | .max d a b => effMax d a b
  | .minu d a b => effMinu d a b
  | .maxu d a b => effMaxu d a b
  | .clz d a => effClz d a
  | .popc d a => effPopc d a
  | .sel d a b p => effSel d a b p
  | .addi d a imm => effAddi d a imm
  | .andi d a imm => effAndi d a imm
  | .ori d a imm => effOri d a imm
  | .xori d a imm => effXori d a imm
  | .shli d a sh => effShli d a sh
  | .shri d a sh => effShri d a sh
  | .sari d a sh => effSari d a sh
  | .roli d a sh => effRoli d a sh
  | .movi d imm => effMovi d imm
  | .insh d k imm => effInsh d k imm
  | .pcmp pd a b cond => effPcmp pd a b cond
  | .pcmpi cond pd a imm => effPcmpi cond pd a imm
  | .plog pd pa pb tt => effPlog pd pa pb tt
  | .amov ad a => effAmov ad a
  | .aadd ad aa b => effAadd ad aa b
  | .aaddi ad aa imm => effAaddi ad aa imm
  | .aget d aa => effAget d aa
  | .lidx d depth => effLidx d depth
  | .fadd d a b t => effFadd d a b t
  | .fsub d a b t => effFsub d a b t
  | .fmul d a b t => effFmul d a b t
  | .ffma d a b t => effFfma d a b t
  | .fmin d a b t => effFmin d a b t
  | .fmax d a b t => effFmax d a b t
  | .fcvt d a dt st => effFcvt d a dt st
  | .fcmp pd a b cond t => effFcmp pd a b cond t
  | .ld d ab sz off => effLd d ab sz off
  | .lds d ab sz off => effLds d ab sz off
  | .st b ab sz off => effSt b ab sz off
  | .ldlu d ab sz off => effLdlu d ab sz off
  | .ldw d aa scope ord => effLdw d aa scope ord
  | .ldc d aa scope ord => effLdc d aa scope ord
  | .stf aa b scope ord => effStf aa b scope ord
  | .ldct d aa scope ord => effLdct d aa scope ord
  | .stft aa b scope ord => effStft aa b scope ord
  | .feq d aa scope ord => effFeq d aa scope ord
  | .femk aa b scope ord => effFemk aa b scope ord
  | .vld v ab ps mk hint => effVld v ab ps mk hint
  | .vst v ab ps mk hint => effVst v ab ps mk hint
  | .cadd d a b scope ord => effCadd d a b scope ord
  | .cwait d a b scope ord => effCwait d a b scope ord
  | .cread d a scope ord => effCread d a scope ord
  | .rbacq ad a scope => effRbacq ad a scope
  | .rbrel a scope => effRbrel a scope
  | .fence scope ord => effFence scope ord
  | .publ aa scope => effPubl aa scope
  | .bind d aa b form => effBind d aa b form
  | .unbind aa b => effUnbind aa b
  | .pgreq aa b => effPgreq aa b
  | .cflush ab off => effCflush ab off
  | .cdisc ab off => effCdisc ab off
  | .cpref ab off => effCpref ab off
  | .accad aa b mode => effAccad aa b mode
  | .tlbi aa b => effTlbi aa b
  | .vadd vd va vb mk vf => effVadd vd va vb mk vf
  | .vsub vd va vb mk vf => effVsub vd va vb mk vf
  | .vmul vd va vb mk vf => effVmul vd va vb mk vf
  | .vfma vd va vb mk vf => effVfma vd va vb mk vf
  | .vfms vd va vb mk vf => effVfms vd va vb mk vf
  | .vfnma vd va vb mk vf => effVfnma vd va vb mk vf
  | .vmin vd va vb mk vf => effVmin vd va vb mk vf
  | .vmax vd va vb mk vf => effVmax vd va vb mk vf
  | .vabs vd va mk => effVabs vd va mk
  | .vneg vd va mk => effVneg vd va mk
  | .vclamp vd va vb mk vf => effVclamp vd va vb mk vf
  | .vsf vd va fn mk => effVsf vd va fn mk
  | .vcmp cond va vb md vf => effVcmp cond va vb md vf
  | .vsel vd va vb mk vf => effVsel vd va vb mk vf
  | .vand vd va vb mk vf => effVand vd va vb mk vf
  | .vor vd va vb mk vf => effVor vd va vb mk vf
  | .vxor vd va vb mk vf => effVxor vd va vb mk vf
  | .vnot vd va mk => effVnot vd va mk
  | .vshl vd va vb mk vf => effVshl vd va vb mk vf
  | .vshr vd va vb mk vf => effVshr vd va vb mk vf
  | .vsar vd va vb mk vf => effVsar vd va vb mk vf
  | .vcvt vd va dt mk => effVcvt vd va dt mk
  | .vpadd vd va vb mk vf => effVpadd vd va vb mk vf
  | .vperm vd va vb mk => effVperm vd va vb mk
  | .vtrn vd va mk => effVtrn vd va mk
  | .vred vd va op axis mk => effVred vd va op axis mk
  | .vscan vd va ex axis mk => effVscan vd va ex axis mk
  | .vsegred vd va mk => effVsegred vd va mk
  | .vcompact vd va mk => effVcompact vd va mk
  | .vbcast vd va mk => effVbcast vd va mk
  | .vbcastScalar vd b mk => effVbcastScalar vd b mk
  | .vmov vd va mk => effVmov vd va mk
  | .vins vd a b => effVins vd a b
  | .vext d va b => effVext d va b
  | .viota vd kind mk => effViota vd kind mk
  | .viotaBase vd kind b mk => effViotaBase vd kind b mk
  | .nzgen vd val h b mk => effNzgen vd val h b mk
  | .rngd vd va val h mk => effRngd vd va val h mk
  | .vreplay vd va mk => effVreplay vd va mk
  | .accrd vd a la mk => effAccrd vd a la mk
  | .accwr vs a mode mk => effAccwr vs a mode mk
  | .mlog md ma mb tt => effMlog md ma mb tt
  | .mcnt d ma kind => effMcnt d ma kind
  | .mxset reg a => effMxset reg a
  | .mxw a b => effMxw a b
  | .mxwTile v => effMxwTile v
  | .mxa a b => effMxa a b
  | .mxaTile v => effMxaTile v
  | .mxcb a => effMxcb a
  | .mxce a b => effMxce a b
  | .mxceTile v => effMxceTile v
  | .mxpd a b => effMxpd a b
  | .mxpdOff => effMxpdOff
  | .mxdn e a => effMxdn e a
  | .mxcv c a => effMxcv c a
  | .mxtap a => effMxtap a
  | .mxsp a => effMxsp a
  | .cpset reg a => effCpset reg a
  | .cpgo tok a b => effCpgo tok a b
  | .trpush m kind a b => effTrpush m kind a b
  | .trpop tok rb a b => effTrpop tok rb a b
  | .gthr tok a b => effGthr tok a b
  | .sctr tok a b => effSctr tok a b
  | .qppost qp a b => effQppost qp a b
  | .scput grp a => effScput grp a
  | .scred grp a => effScred grp a
  | .gnode a b => effGnode a b
  | .gsig a => effGsig a
  | .boot | .throttleEnter _ _ _ | .throttleExit _ _ _ | .thermalShutdown _ _ | .flitSend _ _ | .flitReceive _ _ | .linkResend _ _
  | .resendLimit _ | .ackTimeout _ | .beatTick _ | .beatMasterLoss | .linkTrainDone _ _ | .linkTrainTimeout _ | .hostRead _ _ _
  | .hostWrite _ _ _ | .peerRequest _ _ _ | .peerLoadTimeout _ | .strmCfgWrite _ _ _ | .strmCtlZero _ _ | .strmCtlAbort _ _
  | .strmCtlResume _ _ | .strmDb _ _ | .pwrCapWrite _ | .throtClear | .hostStatWrite _ | .registerWrite _ _ | .pollInterval _
  | .slotAccept _ _ | .streamAging _ _ | .commandSelect _ | .commandFinish | .nop | .gang | .gangRelease | .tasks | .ordered
  | .copy | .graph | .graphNodeEnd _ _ _ | .ctrset | .ctrwait | .ctrwaitTimeout | .indirect | .pageopFetch | .pageopEvict
  | .pageopMigrate | .qppostCmd | .mark | .cuesheet | .setModuleId | .portbMode | .swtWrite | .aperture | .domainJoin
  | .linkRetrain | .groupSet | .qpSet | .coreHook | .ringSet | .raiseMode | .loadKey | .dropKey | .openWindow | .closeWindow
  | .getEkey | .policyWrite | .debugUnlock | .debugEnd | .debugHalt _ | .attest | .gate | .suspend | .resume | .s3Return _
  | .taskStart _ | .taskCommit | .sliceEnd _ | .preemptLand _ | .loadReturn _ _ | .lateCause _ _ _ _ _ | .trapTake _ | .feRetry _
  | .feBudgetExhausted _ | .wakeWalk _ _ | .cwaitSatisfied _ | .checkpoint _ | .internalError _ | .rehearsalCompare _ _
  | .phaseDrainEnd _ | .matrixComplete _ | .coopStart _ _ | .coopTimeout _ _ | .copyComplete _ | .transposeComplete _
  | .gatherComplete _ | .tokenEnter _ _ | .pgreqDone _ _ | .workEntryStart _ _ | .chunkArrive _ _ | .spillRefetch _
  | .workEntryComplete _ _ _ | .generationAdvance _ _ | .memberLoss _ _ _ | .contributionArrive _ _ _ _ _ _ | .stepDeadline _ _
  | .stepClose _ _ | .stepAssemble _ _ | .closeAck _ _ _ _ _ | .sealAnnounce _ _ _ _ | .leaderTakeover _ _
  | .reduceRecordArrive _ _ _ _ | .scredArrive _ _ _ _ _ | .bundleIssue _ | .expanderLoss _ | .ownerReply _ | .debugResume _ _
  | .debugStep _ | .debugAccess _ _ _ | .powerOff => fun _ _ => .trap 2 0

end Sys2Proof.Machine
end

