-- ==== Sys2Proof/Machine/Sequencer.lean ====
section
/-! DEFINITION. The steps of a core's sequencer (07 R171 to R190, 10 R271 to R280): fetch and issue, traps and their default handler,
retries and wakes of a held bundle, slices, checkpoints, reruns, rehearsal, and the retirement of a core. -/

namespace Sys2Proof.Machine

/-! ### Fetch and issue (07 R171, 13 R332 to R334) -/

/-- The effect of a slot as it was fetched. -/
def effectOf : Except Reject Instr → Eff
  | .ok i => slotEffect i
  | .error _ => fun _ _ => .trap 2 0

/-- A fetched bundle at its issue. -/
def issueOf (k : Core) (x : Nat) (b : Bundle) : Issue :=
  let pc := (coreCtx k x).pc.toNat
  ⟨pc, pc + b.hdr.size, b.hdr, b.slots.map fun w => ⟨w.1, w.2.1, w.2.2, effectOf w.2.2⟩⟩

/-- What instruction memory holds at the program counter of a context. -/
def fetched (s : State) (c x : Nat) : Except BadBundle Bundle :=
  let k := coreOf s c
  decodeBundle (imemAt k x (coreCtx k x).priv (coreCtx k x).pc.toNat)

/-- ILLEGAL_HDR at the program counter of a context (10 R268). -/
def headerTrap (s : State) (c x : Nat) : TrapInfo :=
  { cause := 1, info := BitVec.ofNat 64 (leNat (memRead (coreOf s c).imem (ctxOf s c x).pc.toNat 4)) }

/-- The running context's next bundle is fetched and issues. -/
def issueFetched (s : State) (c x : Nat) : State :=
  match fetched s c x with
  | .ok b => runBundle s c x (issueOf (coreOf s c) x b)
  | .error _ =>
    match rerunTrap (coreOf s c) with
    | some z => if unanswered s c x then s else trapRunning (modCore s c fun k => { k with rerun := none }) c x z
    | none => issueTrap s c x (headerTrap s c x)

/-- The die of another module that the held waiting access of a context asks. -/
def heldAbroad (s : State) (t : Ctx) : Option Nat :=
  match t.held with
  | some (.fe _ va _ _) =>
    let g := va.toNat / 2 ^ 56
    if g < 0xFC ∧ (localDie s g).isNone then some g else none
  | _ => none

/-- The response that says that the attempt of a context's bundle failed. -/
def attemptFailed (s : State) (c x : Nat) : Option RemoteReply :=
  (s.mod.exchanges.find? fun e => e.ofBundle c x && (match e.req.op, e.reply with
    | .fe _ _ _ _ _, some (r, _) => !r.p6 && r.p7 && r.cause == 0
    | _, _ => false)).bind fun e => e.reply.map (·.1)

/-- The next retry of a held waiting access is the last that its budget allows; of one at another module's die: its last attempt has failed. -/
def lastTry (s : State) (c x : Nat) : Bool :=
  let t := ctxOf s c x
  match heldAbroad s t with
  | none => budgetUsed t
  | some _ => match attemptFailed s c x with
    | some r => r.park != 0 || decide (fld t.feb 15 0 ≤ triesOf t)
    | none => false

/-- A bundle of a killed context for which a response has come takes what it has performed, before the kill. -/
def issueAnswered (s : State) (c x : Nat) : State :=
  let t := ctxOf s c x
  if t.killed && replyReady s c x then
    let s := issueFetched (modCtx s c x fun t => { t with killed := false }) c x
    if (ctxOf s c x).status = .none then s else modCtx s c x fun t => { t with killed := true }
  else issueFetched s c x

/-- A held waiting access of the running context whose budget allows no retry exhausts it with its first failed attempt (08 R210). -/
def firstFail (s : State) (c x : Nat) : State :=
  if (coreOf s c).run ≠ some x then s
  else match (ctxOf s c x).held with
    | some (.fe op va v 0) =>
      if fld (ctxOf s c x).feb 15 0 = 0 ∧ (heldAbroad s (ctxOf s c x)).isNone then exhaust s c x op va v else s
    | _ => s

/-- The running context's next bundle is fetched and issues, with the end of a budget of zero. -/
def issueNext (s : State) (c x : Nat) : State := firstFail (issueAnswered s c x) c x

/-- The context has issued the bundle by which it leaves its core, and waits (07 R186). -/
def leaving (t : Ctx) : Option Leave :=
  match t.held with
  | some (.leave l) => some l
  | _ => none

/-- The trap the running context's next bundle takes at its issue (10 R271): none when it is leaving its core. -/
def fetchedTrap (s : State) (c x : Nat) : Option TrapInfo :=
  if (leaving (ctxOf s c x)).isSome then none else
  match fetched s c x with
  | .ok b => bundleTrap s c x (issueOf (coreOf s c) x b)
  | .error _ => some (headerTrap s c x)

/-- The running context of a core, and a change of the state for it. -/
def withRunning (s : State) (c : Nat) (f : Nat → State) : State :=
  match (coreOf s c).run with
  | some x => f x
  | none => s

/-! ### Amigen's default handler (07 R192, 10 R267, R269) -/

/-- A dirty tile of a resident owner goes to the owner's save area. -/
def spillTile (s : State) (c n : Nat) : State :=
  let e := tabGet 0 (coreOf s c).vtag n
  let o := fld e 2 0
  if bitOf e 3 && bitOf e 4 && (ctxOf s c o).resident then
    let v := vReg (coreOf s c) n
    modCtx s c o fun t => { t with saveV := tabSet 0 t.saveV n v, vsaved := setFld t.vsaved n n 1 }
  else s

/-- A dirty page of a resident owner goes to the owner's save area. -/
def spillPage (s : State) (c n : Nat) : State :=
  let e := tabGet 0 (coreOf s c).atag n
  let o := fld e 2 0
  if bitOf e 3 && bitOf e 4 && (ctxOf s c o).resident then
    let v := accPage (coreOf s c) n
    modCtx s c o fun t => { t with saveA := tabSet 0 t.saveA n v, asaved := setFld t.asaved n n 1 }
  else s

/-- A first use of a tile is served: the unit comes from the context's save area, or is zero. -/
def serveTile (s : State) (c x n : Nat) : State :=
  let s := spillTile s c n
  let t := ctxOf s c x
  let v := if bitOf t.vsaved n then tabGet 0 t.saveV n else 0
  let s := modCtx s c x fun t => { t with saveV := tabDel t.saveV n, vsaved := setFld t.vsaved n n 0 }
  modCore s c fun k => { setVReg k n v with vtag := tabSet 0 k.vtag n (BitVec.ofNat 64 (8 + x)) }

/-- A first use of a page is served. -/
def servePage (s : State) (c x n : Nat) : State :=
  let s := spillPage s c n
  let t := ctxOf s c x
  let v := if bitOf t.asaved n then tabGet 0 t.saveA n else 0
  let s := modCtx s c x fun t => { t with saveA := tabDel t.saveA n, asaved := setFld t.asaved n n 0 }
  modCore s c fun k => { setAccPage k n v with atag := tabSet 0 k.atag n (BitVec.ofNat 64 (8 + x)) }

/-- A walk still meets the table node, or the page, that is not resident. -/
def stillOut (s : State) (asid va sub : Nat) : Bool :=
  match localDie s (va / 2 ^ 56) with
  | none => true
  | some d =>
    match walk s d asid (outVa s d asid va) with
    | .ok l => sub == 0x0B && pteRes l.pte != 0
    | .error (.wait _) => false
    | .error (.transl 6 _) => true
    | .error _ => sub == 0x0B

/-- A table node or a page is fetched (10 R267, R269) for firmware of die `src`: the state, and whether that resolves the trap. That of another module's
die is fetched there. -/
def serveFetch (s : State) (src asid va sub : Nat) : State × Bool :=
  match localDie s (va / 2 ^ 56) with
  | some d =>
    let s := if sub = 6 then fetchTables d asid (outVa s d asid va) 4 s else fetchRange src asid [va / 65536] s
    (s, !stillOut s asid va sub)
  | none =>
    let g := va / 2 ^ 56
    if 0xFC ≤ g ∨ !routed s g then (s, false)
    else match ask s src g asid va .bring with
      | (s, some (r, _)) => (s, replyStatus r == 0)
      | (s, none) => (s, true)

/-- The handler returns with ERET to the trapping bundle: its group ends there, at a landing point (07 R174, R188). -/
def handlerReturns (s : State) (c x : Nat) : State :=
  noteLanding (takeCheckpoint (leaveTrap s c x ((ctxOf s c x).epc.setWidth 18)) c x) c x

/-- Amigen's default handler serves the trap of a context: a first use, a table node and a page are resolved; every other trap is a
fault (05 R118). -/
def serveTrap (s : State) (c x : Nat) : State :=
  let t := ctxOf s c x
  let cause := fld t.ecause 7 0
  let sub := fld t.ecause 15 8
  let n := t.einfo.toNat
  if cause = 0x0D then handlerReturns (servePage s c x n) c x
  else if cause = 0x0E then handlerReturns (serveTile s c x n) c x
  else if cause = 0x0A ∧ (sub = 6 ∨ sub = 0x0B) then
    let r := serveFetch s (dieOfCore c) t.asid n sub
    if r.2 then handlerReturns r.1 c x else endRunning r.1 c x (.fault cause)
  else endRunning s c x (.fault cause)

/-- Amigen serves the trap, once another module's die has answered what it asks. -/
def serveAmigen (s : State) (c x : Nat) : State := (asking (.step (.bundleIssue (Fin.ofNat 256 c)) 0 x) s fun s => serveTrap s c x).1

/-! ### Issue -/

/-- A held bundle that only its home or its counter can wake (08 R209, 15 R396). -/
def sleeps (t : Ctx) : Bool :=
  match t.held with
  | some (.fe _ _ _ _) | some (.ctr _ _) => !t.killed
  | _ => false

/-- A core issues nothing: it is retired or halted, or a late cause or an internal error waits for its rollback (07 R186, 10 R273). -/
def issueStops (k : Core) : Bool := k.retired || k.dbgHalt || k.late.isSome || k.intErr

/-- A speculative task whose back buffer is full waits until it is the oldest of its launch, and then becomes direct (05 R124, R127); a
counter that saturates then traps at the bundle, for which it is settled first (07 R186). -/
def becomeDirect (s : State) (c x : Nat) : State :=
  if isOldest s (ctxOf s c x) then
    if unsettled s c x then s
    else match makeDirect s c x with
      | (s, none) => s
      | (s, some id) => trapRunning s c x { cause := 0x10, info := BitVec.ofNat 64 id }
  else modCtx s c x fun t => { t with held := some .ordered, atLand := true }

/-- BUNDLE_ISSUE (07 R171): the core issues the next bundle of its running context, or the context leaves it behind the last one. A context whose trap
Amigen serves waits for that. A bundle takes what another module's die has performed for it before anything stops its core (07 R186). -/
def execBundleIssue (core : CoreId) (s : State) : Host.Outcome State Fault Refusal :=
  let c := core.val
  let k := coreOf s c
  .next (withRunning s c fun x =>
    let t := coreCtx k x
    let taken := replyReady s c x
    if issueStops k && !taken then s
    else match leaving t with
      | some l => if unsettled s c x then s else leaveNow s c x l
      | none =>
      if k.dbgReq && !taken then s
      else if t.inAmigen then serveAmigen s c x
      else if sleeps t && !answeredNow s c x then s
      else if !t.killed && backFull t && !taken then becomeDirect s c x
      else issueNext s c x)

/-- TRAP_TAKE (10 R272): the trap of the running context's next bundle is taken. -/
def execTrapTake (core : CoreId) (s : State) : Host.Outcome State Fault Refusal :=
  let c := core.val
  .next (if issueStops (coreOf s c) then s
    else withRunning s c fun x =>
      match fetchedTrap s c x with
      | some z => issueTrap s c x z
      | none => s)

/-- A failed retry of a held access counts against its budget. -/
def countFail (t : Ctx) : Ctx :=
  match t.held with
  | some (.fe op va v n) => { t with held := some (.fe op va v (n + 1)) }
  | _ => t

/-- The running context still waits at its full/empty access. -/
def feHeld (s : State) (c x : Nat) : Bool :=
  (coreOf s c).run == some x && (match (ctxOf s c x).held with | some (.fe _ _ _ _) => true | _ => false)

/-- The attempt that a bundle made at die g of another module has been answered (08 R210): the context parks there, traps with FE_BUDGET, goes on, or makes
its next attempt; an attempt under way stands. -/
def retryAbroad (s : State) (c x g op : Nat) (va v : Word) (n : Nat) : State :=
  let t := ctxOf s c x
  if asksNow s c x then s
  else match attemptFailed s c x with
    | none => issueAnswered s c x
    | some r =>
      if r.park = 1 then (if unanswered s c x then s else parkAbroad s c x g)
      else if r.park = 2 then issueTrap s c x { cause := 0x0B, slot := 3, info := va ||| (1 <<< 63 : Word) }
      else
        let last := decide (fld t.feb 15 0 ≤ n)
        if last && rehearsing (coreOf s c) then (if unanswered s c x then s else stopRerun s c x)
        else if last && bitOf t.feb 16 then issueTrap s c x { cause := 0x0B, slot := 3, info := va }
        else if t.killed then issueFetched s c x
        else issueFetched (modCtx (dropBundle s c x) c x fun t => { t with held := some (.fe op va v (n + 1)) }) c x

/-- A held access is tried again (08 R210). When that fails it counts, and the failure behind the last allowed retry exhausts the budget in the
same step, before a kill that waits (07 R189); when it succeeds such a kill takes the context before its bundle. -/
def retryHeld (s : State) (c x : Nat) : State :=
  let t := ctxOf s c x
  match t.held with
  | some (.fe op va v n) =>
    match heldAbroad s t with
    | some g => retryAbroad s c x g op va v n
    | none =>
      let s' := issueFetched (modCtx s c x fun t => { t with killed := false }) c x
      if feHeld s' c x then
        let s' := modCtx s' c x fun u => { u with killed := t.killed }
        if budgetUsed t then exhaust s' c x op va v else modCtx s' c x countFail
      else if t.killed then issueFetched s c x
      else s'
  | _ => s

/-- FE_RETRY (08 R210): the home tries the held access of the running context again, and counts a failure. -/
def execFeRetry (core : CoreId) (s : State) : Host.Outcome State Fault Refusal :=
  let c := core.val
  .next (if issueStops (coreOf s c) then s else withRunning s c (retryHeld s c))

/-- FE_BUDGET_EXHAUSTED (08 R210): the last retry the budget allows; when it fails, the budget is exhausted in the same step. -/
def execFeBudgetExhausted (core : CoreId) (s : State) : Host.Outcome State Fault Refusal :=
  let c := core.val
  .next (if issueStops (coreOf s c) then s
    else withRunning s c fun x => if lastTry s c x then retryHeld s c x else s)

/-- The counter of a held CWAIT has reached its threshold; one of another module's die says so by its response (15 R396). -/
def waitOver (s : State) (c x : Nat) : Bool :=
  match (ctxOf s c x).held with
  | some (.ctr id thr) =>
    match localDie s (ctrDie id) with
    | some d => decide (thr.toNat ≤ (ctrVal s d (ctrIdx id)).toNat)
    | none => answeredNow s c x
  | _ => false

/-- CWAIT_SATISFIED (15 R396): the sync unit wakes the held CWAIT of the running context, and its bundle issues. -/
def execCwaitSatisfied (core : CoreId) (s : State) : Host.Outcome State Fault Refusal :=
  let c := core.val
  .next (if issueStops (coreOf s c) then s
    else withRunning s c fun x => if waitOver s c x then issueNext s c x else s)

/-- TOKEN_ENTER (17 R443): held completion tokens enter q6 in their order, as far as it has room. -/
def execTokenEnter (core : CoreId) (_ctx : CtxId) (s : State) : Host.Outcome State Fault Refusal :=
  .next (modCore s core.val flushTokens)

/-- The next bundle of the running context traps, or the last retry its budget allows is due: rows of 07 R189 that come before a halt and before
a pre-emption. A context whose trap Amigen serves stands at no bundle. -/
def firstRows (s : State) (c x : Nat) : Bool :=
  !(ctxOf s c x).inAmigen && ((fetchedTrap s c x).isSome || lastTry s c x)

/-- DEBUG_HALT (04 R92): the core stops at a bundle boundary, everything in flight landed and every access answered (07 R186); a trap and an
exhausted budget of the bundle there come first (07 R189). -/
def execDebugHalt (core : CoreId) (s : State) : Host.Outcome State Fault Refusal :=
  let c := core.val
  let halted := fun (s : State) => logEvent (modCore (settle s c) c fun k => { k with dbgHalt := true, dbgReq := false }) (dieOfCore c) c .halt
  if !grantsCore s c then .next (modCore s c fun k => { k with dbgReq := false })
  else if (coreOf s c).dbgHalt then .next s
  else match (coreOf s c).run with
    | none => .next (halted s)
    | some x =>
      .next (if issueStops (coreOf s c) || unsettled s c x || (leaving (ctxOf s c x)).isSome || firstRows s c x then modCore s c fun k => { k with dbgReq := true }
        else halted s)

/-- DEBUG_STEP (04 R92): a halted core issues one bundle, whose writes land before it stands halted again (07 R186). -/
def execDebugStep (core : CoreId) (s : State) : Host.Outcome State Fault Refusal :=
  let c := core.val
  if !grantsCore s c || !(coreOf s c).dbgHalt then .next s
  else
    let s := logEvent s (dieOfCore c) c .step
    .next (settle (withRunning s c fun x =>
      match leaving (ctxOf s c x) with
      | some l => if unsettled s c x then s else leaveNow s c x l
      | none => if (ctxOf s c x).inAmigen then serveAmigen s c x else issueNext s c x) c)

/-! ### Slices and pre-emption (05 R130, 07 R188) -/

/-- SLICE_END (05 R130): a pre-emption request is raised when the running context has used its slice. -/
def execSliceEnd (core : CoreId) (s : State) : Host.Outcome State Fault Refusal :=
  let c := core.val
  let k := coreOf s c
  .next (if k.run.isSome && k.tslice != 0 && decide (k.tslice.toNat ≤ k.sliceUsed) then modCore s c fun k => { k with preempt := true } else s)

/-- A pending pre-emption request can land: the running context stands at a landing point, is not privileged and waits for nothing from
outside (07 R188). -/
def canLand (s : State) (c x : Nat) : Bool :=
  let k := coreOf s c
  let t := coreCtx k x
  k.preempt && t.atLand && !t.priv && !issueStops k && (leaving t).isNone && !unsettled s c x

/-- PREEMPT_LAND (07 R188, R189): the core switches, unless the bundle at the landing point traps or exhausts its budget. An idle core whose next context's
save area has come runs it. -/
def execPreemptLand (core : CoreId) (s : State) : Host.Outcome State Fault Refusal :=
  let c := core.val
  .next (match (coreOf s c).run with
    | none => if issueStops (coreOf s c) || (coreOf s c).dbgReq then s else runNext c 9 (coreOf s c).lastCtx s
    | some x => if canLand s c x && !firstRows s c x then switchAway (settle s c) c x .ready else s)

/-! ### Checkpoints, late causes and rehearsal (10 R273 to R280) -/

/-- CHECKPOINT (10 R274): once every write has landed and every access is answered; in a rehearsal's rerun the run ends there. -/
def execCheckpoint (core : CoreId) (s : State) : Host.Outcome State Fault Refusal :=
  let c := core.val
  .next (withRunning s c fun x =>
    if issueStops (coreOf s c) || unsettled s c x || (leaving (ctxOf s c x)).isSome then s
    else if rehearsing (coreOf s c) then stopRerun s c x
    else takeCheckpoint s c x)

/-- A rerun already stops at an earlier bundle. -/
def stopsBefore (k : Core) (count : Nat) : Bool :=
  match k.rerun with
  | some r => (match r.trap with | some (n, _) => decide (n ≤ count) | none => false)
  | none => false

/-- A late cause is made precise (10 R273): a rerun of the interval stops before its bundle; in a rehearsal the run ends. -/
def takeLate (s : State) (c x : Nat) (z : Nat × TrapInfo) : State :=
  let k := coreOf s c
  if stopsBefore k z.1 then s
  else if k.shadow.isNone then trapRunning s c x z.2
  else if rehearsing k then stopRerun s c x
  else startRerun s c x { replay := [], trap := some z, runs := 1, first := none }

/-- Of two late causes that of the earlier bundle. -/
def earlier (a : Option (Nat × TrapInfo)) (b : Nat × TrapInfo) : Nat × TrapInfo :=
  match a with
  | some z => if z.1 ≤ b.1 then z else b
  | none => b

/-- LATE_CAUSE (10 R273): a cause found away from the core, for the bundle that issued at a count of its interval. It waits until every access
the context has sent is answered (07 R186). `sub` is the subcause with the walk level above it. -/
def execLateCause (core : CoreId) (count : Nat) (cause : Nat) (sub : Nat) (info : Word) (s : State) : Host.Outcome State Fault Refusal :=
  let c := core.val
  let t : TrapInfo := { cause := cause, sub := sub % 256, level := sub / 256 % 4, slot := 3, late := true, info := info }
  .next (withRunning s c fun x =>
    let z := earlier (coreOf s c).late (count, t)
    if unsettled s c x then modCore s c fun k => { k with late := some z }
    else takeLate (modCore s c fun k => { k with late := none }) c x z)

/-- A step of a core becomes due. -/
def dueCore (s : State) (i : Instr) : State := { s with agenda := s.agenda ++ [{ step := i }] }

/-- INTERNAL_ERROR (10 R275, R278): the interval is run again twice, once every access of the context is answered (07 R186); an interval whose pages were not all copied ends its context. Amigen's
own program is not part of the model: whether its reruns agree is open (log 1). -/
def execInternalError (core : CoreId) (s : State) : Host.Outcome State Fault Refusal :=
  let c := core.val
  let k := coreOf s c
  match k.run with
  | none =>
    .next (if isFirmwareCore s c && !k.retired then dueCore (bumpFree s) (.rehearsalCompare core (bitOf (Config.freeValue s.freeCtr) 0)) else s)
  | some x =>
    if k.retired then .next s
    else if rehearsing k then .next (dueCore s (.rehearsalCompare core false))
    else match k.shadow with
      | none => .next s
      | some h =>
        if unsettled s c x then .next (modCore s c fun k => { k with intErr := true })
        else
        let s := modCore s c fun k => { k with intErr := false }
        if h.uncopied then
          .next (endRunning (modDie s (dieOfCore c) fun d => { d with rehFaulted := min (d.rehFaulted + 1) 0xFFFF }) c x .integrity)
        else .next (startRerun s c x { replay := [], trap := none, runs := 2, first := none })

/-! ### Retirement (10 R279, 05 R132, R133, 03 R58) -/

/-- An owner entry says that context x wrote the unit. -/
def ownsDirty (x : Nat) (w : Word) : Bool := bitOf w 3 && bitOf w 4 && fld w 2 0 == x

/-- The units of a context that are marked dirty go to its save area. -/
def saveUnits (k : Core) (x : Nat) (t : Ctx) : Ctx :=
  let t := (k.vtag.filter fun p => ownsDirty x p.2).foldl (fun t p =>
    { t with saveV := tabSet 0 t.saveV p.1 (vReg k p.1), vsaved := setFld t.vsaved p.1 p.1 1 }) t
  (k.atag.filter fun p => ownsDirty x p.2).foldl (fun t p =>
    { t with saveA := tabSet 0 t.saveA p.1 (accPage k p.1), asaved := setFld t.asaved p.1 p.1 1 }) t

/-- The saved units of a context whose save area software has chosen are taken from memory (07 R190). -/
def gatherSaved (s : State) (c x : Nat) : State × Except Nat Unit :=
  let t := ctxOf s c x
  if (coreOf s c).hook.isNone then (s, .ok ())
  else
    let get := fun (s : State) (off n : Nat) => engRead s (clusterOfCore c) t.asid (t.csa.toNat + off) n
    let (s, r) := get s 0x5300 72
    match r with
    | .error e => (s, .error e)
    | .ok bs =>
      let vs : BitVec 64 := BitVec.ofNat 64 (fieldOf bs 0 8)
      let ps : BitVec 512 := BitVec.ofNat 512 (fieldOf bs 8 64)
      let s := modCtx s c x fun t => { t with vsaved := vs, asaved := ps, saveV := [], saveA := [] }
      let one := fun (put : Ctx → Nat → Nat → Ctx) (off size : Nat) (acc : State × Except Nat Unit) (n : Nat) =>
        match acc.2 with
        | .error e => (acc.1, .error e)
        | .ok _ =>
          let (s, r) := get acc.1 (off + size * n) size
          match r with
          | .error e => (s, Except.error e)
          | .ok bs => (modCtx s c x fun t => put t n (leNat bs), .ok ())
      let acc := ((List.range 64).filter fun n => bitOf vs n).foldl
        (one (fun t n v => { t with saveV := tabSet 0 t.saveV n (BitVec.ofNat _ v) }) 0x10000 0x8000) (s, .ok ())
      ((List.range 512).filter fun n => bitOf ps n).foldl
        (one (fun t n v => { t with saveA := tabSet 0 t.saveA n (BitVec.ofNat _ v) }) 0x210000 0x1000) acc

/-- Queues q0 to q3 and q6 of a context, 512 bytes each, as they lie in its save area (07 R190, log 14). -/
def queueImage (k : Core) (x : Nat) : List Byte :=
  [0, 1, 2, 3, 6].flatMap fun q =>
    let ws := (queueOf k x q).take 64
    wordBytes ws ++ zeros (512 - 8 * ws.length)

/-- The save area of a context of a retired core is brought up to date (10 R279): the eager state of the one that ran, the units that were dirty
with VSAVED and ASAVED, and the queues. -/
def updateArea (s : State) (c x : Nat) (ran : Bool) (vs ps : List Nat) : State × Except Nat Unit :=
  if (coreOf s c).hook.isNone then (s, .ok ())
  else
    let (s, r) := if ran then eagerSave s c x else (s, .ok ())
    match r with
    | .error e => (s, .error e)
    | .ok _ => writeArea s c x (savedWrites (ctxOf s c x) vs ps ++ [(0x5400, queueImage (coreOf s c) x)])

/-- The units of a context that are marked dirty in an owner table. -/
def dirtyUnits (x : Nat) (tags : Tab Word) : List Nat := (tags.filter fun p => ownsDirty x p.2).map (·.1)

/-- A context of a retired core as its save area holds it: a saved one's eager state is read, then its units; its dirty units are added, and the
area is brought up to date. -/
def loadSaved (s : State) (c x : Nat) (ran : Bool) : State × Except Nat Unit :=
  let (s, r) := if ran then (s, .ok ()) else eagerRestore s c x
  match r with
  | .error e => (s, .error e)
  | .ok _ =>
    let (s, r) := gatherSaved s c x
    match r with
    | .error e => (s, .error e)
    | .ok _ =>
      let k := coreOf s c
      updateArea (modCtx s c x (saveUnits k x)) c x ran (dirtyUnits x k.vtag) (dirtyUnits x k.atag)

/-- One of the units a context's move reads has an uncorrectable error (10 R279): whether is open (log 1). -/
def unitFails (s : State) (c x : Nat) : State × Bool :=
  let k := coreOf s c
  if (dirtyUnits x k.vtag).isEmpty && (dirtyUnits x k.atag).isEmpty then (s, false)
  else (bumpFree s, bitOf (Config.freeValue s.freeCtr) 0)

/-- The code a window was loaded with for a task: CODE and CBYTES. -/
def windowCode (k : Core) (t : Ctx) : Word × Nat :=
  (tabGet (0, 0, 0) k.loaded ((match t.res.windows with | w :: _ => w.1 | [] => 0) / 0x8000)).2

/-- The needs and the launch of a context, as a task to be placed again. -/
def reqOf (k : Core) (t : Ctx) : TaskReq :=
  let code := windowCode k t
  { asid := t.asid, code := code.1, bytes := code.2, index := t.order.2, group := t.order.1, hash := 0, args := [], spad := t.res.spad.2 / 1024, pages := t.res.pages.2, bars := t.res.bars.2,
    launch := t.launch, join := t.join, child := t.child, under := t.under, spawned := t.spawned, strm := t.strm, pool := t.pool, again := true }

/-- Some core of what remains of the pool covers a task's needs. -/
def fitsPool (s : State) (d : Nat) (t : TaskReq) : Bool := (poolCores s d t.pool).any fun c => capacityCovers s c t.spad t.pages t.bars

/-- A context leaves its core without ending. -/
def takeOut (s : State) (c x : Nat) : State :=
  modCore (dropBundle s c x) c fun k =>
    { k with ctxs := tabDel k.ctxs x, pend := k.pend.filter (fun p => p.ctx != x),
             arrivals := k.arrivals.filter (fun a => a.ctx != x), tokens := k.tokens.filter (fun a => a.ctx != x),
             engs := k.engs.filter fun e => e.owner != EngOwner.ctx c x }

/-- A context of a retired core (05 R132, 10 R279): its eager state and its dirty units are written to its save area, whatever becomes of it; one with a
unit that cannot be read ends with class INTEGRITY. Then a gang ends; an ordered task that was not direct starts again; any other context moves. The
task to be placed again is returned. -/
def retireCtx (c : Nat) (ran : Option Nat) (acc : State × List TaskReq) (x : Nat) : State × List TaskReq :=
  let (s, bad) := unitFails acc.1 c x
  let (s, r) := if bad then (s, .ok ()) else loadSaved s c x (ran == some x)
  let t := ctxOf s c x
  let req := reqOf (coreOf s c) t
  let ends := fun (s : State) (e : EndKind) => (dueCommit (endAndKill s c x e) t.launch, acc.2)
  let cause : Option EndKind := match r with
    | .ok _ => if bad then some .integrity else none
    | .error e => some (.fault (saveCause e))
  if (match r with | .error e => decide (waitPage ≤ e) | .ok _ => false) then (lacks s .page, acc.2)
  else match t.launch, cause, t.spec with
    | .gang d cid, e, _ => ends (modCmd s d cid fun k => { k with err := 0x0A }) (e.getD (.fault 0x16))
    | _, some e, _ => ends s e
    | _, none, some q =>
      if fitsPool s (dieOfCore c) req then
        (takeOut (oweTickets s (dieOfCore c) t) c x, acc.2 ++ [{ req with args := (List.range 3).map fun i => tabGet 0 q.init (i + 1) }])
      else ends s (.fault 0x16)
    | _, none, none =>
      if fitsPool s (dieOfCore c) req then (takeOut s c x, acc.2 ++ [{ req with moved := some t, old := (c, x) }]) else ends s (.fault 0x16)

/-- A task of a retired core that no core of what remains of its pool covers ends as faulted with class RETIRED (05 R132). -/
def failRetired (s : State) (c : Nat) (t : TaskReq) : State :=
  let s := match t.moved with
    | some _ => dropParks (orphanJoins s t.old.1 t.old.2) t.old.1 t.old.2
    | none => s
  failTask s c t (.fault 0x16)

/-- A task of a retired core is placed again, from where the pointer of its launch stands, in its place among those that wait (05 R114, R132). -/
def replace (s : State) (d c : Nat) (t : TaskReq) : State :=
  if !fitsPool s d t then failRetired s c t
  else
    let t := { t with again := true }
    let own := ownerOf t
    modDie s d fun k =>
      if k.placing.any fun p => p.owner == own && own.isSome && !p.hash then
        { k with placing := k.placing.map fun p => if p.owner == own && !p.hash then { p with reqs := insertTask t p.reqs } else p }
      else { k with placing := { reqs := [t], pool := t.pool, ptr := 0, hash := false, owner := own } :: k.placing }

/-- Tasks of cores retired before that still wait to be placed, and that nothing covers any more, end (05 R132). -/
def failUnfit (s : State) (d c : Nat) : State :=
  let bad := fun (t : TaskReq) => t.again && !fitsPool s d t
  let ts := (dieOf s d).placing.flatMap fun p => p.reqs.filter bad
  if ts.isEmpty then s
  else ts.foldl (fun s t => failRetired s c t) (modDie s d fun k => { k with placing := k.placing.map fun p => { p with reqs := p.reqs.filter fun t => !bad t } })

/-- A pointer stays at its core when a core before it leaves the pool. -/
def shiftPtr (s : State) (d c : Nat) (p : Placing) : Placing :=
  let cores := poolCores s d p.pool
  if cores.contains c && decide ((cores.filter fun e => decide (e < c)).length < p.ptr) then { p with ptr := p.ptr - 1 } else p

/-- The lowest surviving core of a die becomes the firmware core and leaves the user pool (03 R58): its cluster is powered, and the tasks that
wait on it are given back to be placed again. Contexts resident on it go on (log 24). -/
def moveFirmware (s : State) (d : Nat) : State × List TaskReq :=
  match (List.range 64).find? fun i => !(coreOf s (64 * d + i)).retired with
  | some i =>
    let c := 64 * d + i
    let ts := (coreOf s c).waitq
    let s := modDie { s with mod := { s.mod with fwCore := tabPut s.mod.fwCore d i } } d fun k =>
      { k with gated := k.gated &&& ~~~(BitVec.ofNat 4 (2 ^ (i / 16))) }
    (modCore s c fun k => { k with waitq := [] }, ts)
  | none => (s, [])

/-- A core is retired (10 R279): its running context stands at its last checkpoint, the work on it is dealt with by its launch, and what is
placed again is. -/
def retireCore (s : State) (c : Nat) : State :=
  let d := dieOfCore c
  let ran := (coreOf s c).run
  let fw := isFirmwareCore s c
  let s := match ran with
    | some x =>
      let s := modCore s c fun k => { k with arrivals := k.arrivals.filter fun a => !(a.ctx == x && !a.known), coop := none }
      let s := rollback (settle s c) c x
      let log := ((coreOf s c).shadow.map (·.log)).getD []
      let reached := ((coreOf s c).shadow.map (·.reached)).getD 0
      modCtx s c x fun t => { t with replay := log ++ t.replay, replayTo := max reached t.replayTo }
    | none => s
  let s := modDie s d fun k => { k with rehRetires := min (k.rehRetires + 1) 0xFFFF, placing := k.placing.map (shiftPtr s d c) }
  let s := modCore (publishAll s c) c fun k => { k with retired := true, run := none, rerun := none, preempt := false, late := none,
                                                        intErr := false, dbgReq := false }
  let (s, freed) := if fw then moveFirmware s d else (s, [])
  let xs := ((coreOf s c).ctxs.filter fun p => p.2.status != .none).map (·.1)
  let (s, reqs) := xs.foldl (retireCtx c ran) (s, [])
  let waiting := (coreOf s c).waitq
  let s := modCore s c fun k => { k with waitq := [], shadow := none }
  let s := failUnfit s d c
  placeAll ((sortTasks (reqs ++ waiting ++ freed)).foldl (fun s t => replace s d c t) s) d

/-- REHEARSAL_COMPARE (10 R278, R279): the two runs agree and the core goes on, or it is retired. Its retirement waits for the save areas it writes, and
the core stands still. -/
def execRehearsalCompare (core : CoreId) (agree : Bool) (s : State) : Host.Outcome State Fault Refusal :=
  let c := core.val
  let k := coreOf s c
  if k.retired || !(rehearsing k || (isFirmwareCore s c && k.run.isNone)) then .next s
  else if agree then
    .next (modCore (modDie s (dieOfCore c) fun d => { d with rehAgreed := min (d.rehAgreed + 1) 0xFFFFFFFF }) c fun k => { k with rerun := none })
  else
    let i := Instr.rehearsalCompare core agree
    let r := asking (.step i 0 0) s fun s => retireCore s c
    .next (if !r.2 then r.1 else if k.run.isSome then modCore r.1 c fun k => { k with intErr := true } else postpone r.1 i 0 0)

end Sys2Proof.Machine
end

