-- ==== Sys2Proof/Machine/Dispatch.lean ====
section
/-! DEFINITION. The machine's meaning of each instruction and step: one arm per constructor of `Instr`. -/

namespace Sys2Proof.Machine

def exec (i : Instr) (s : State) : Host.Outcome State Fault Refusal :=
  match i with
  | .boot => Sys2Proof.Machine.execBoot s
  | .throttleEnter die watts degC => Sys2Proof.Machine.execThrottleEnter die watts degC s
  | .throttleExit die watts degC => Sys2Proof.Machine.execThrottleExit die watts degC s
  | .thermalShutdown die degC => Sys2Proof.Machine.execThermalShutdown die degC s
  | .flitSend link credit => Sys2Proof.Machine.execFlitSend link credit s
  | .flitReceive link flit => Sys2Proof.Machine.execFlitReceive link flit s
  | .linkResend link seq => Sys2Proof.Machine.execLinkResend link seq s
  | .resendLimit link => Sys2Proof.Machine.execResendLimit link s
  | .ackTimeout link => Sys2Proof.Machine.execAckTimeout link s
  | .beatTick die => Sys2Proof.Machine.execBeatTick die s
  | .beatMasterLoss => Sys2Proof.Machine.execBeatMasterLoss s
  | .linkTrainDone link port => Sys2Proof.Machine.execLinkTrainDone link port s
  | .linkTrainTimeout link => Sys2Proof.Machine.execLinkTrainTimeout link s
  | .hostRead sp off len => Sys2Proof.Machine.execHostRead sp off len s
  | .hostWrite sp off data => Sys2Proof.Machine.execHostWrite sp off data s
  | .peerRequest addr len data => Sys2Proof.Machine.execPeerRequest addr len data s
  | .peerLoadTimeout core => Sys2Proof.Machine.execPeerLoadTimeout core s
  | .strmCfgWrite die strm value => Sys2Proof.Machine.execStrmCfgWrite die strm value s
  | .strmCtlZero die strm => Sys2Proof.Machine.execStrmCtlZero die strm s
  | .strmCtlAbort die strm => Sys2Proof.Machine.execStrmCtlAbort die strm s
  | .strmCtlResume die strm => Sys2Proof.Machine.execStrmCtlResume die strm s
  | .strmDb die strm => Sys2Proof.Machine.execStrmDb die strm s
  | .pwrCapWrite value => Sys2Proof.Machine.execPwrCapWrite value s
  | .throtClear => Sys2Proof.Machine.execThrotClear s
  | .hostStatWrite value => Sys2Proof.Machine.execHostStatWrite value s
  | .registerWrite off value => Sys2Proof.Machine.execRegisterWrite off value s
  | .pollInterval die => Sys2Proof.Machine.execPollInterval die s
  | .slotAccept die strm => Sys2Proof.Machine.execSlotAccept die strm s
  | .streamAging die strm => Sys2Proof.Machine.execStreamAging die strm s
  | .commandSelect die => Sys2Proof.Machine.execCommandSelect die s
  | .commandFinish => Sys2Proof.Machine.execCommandFinish s
  | .nop => Sys2Proof.Machine.execNop s
  | .gang => Sys2Proof.Machine.execGang s
  | .gangRelease => Sys2Proof.Machine.execGangRelease s
  | .tasks => Sys2Proof.Machine.execTasks s
  | .ordered => Sys2Proof.Machine.execOrdered s
  | .copy => Sys2Proof.Machine.execCopy s
  | .graph => Sys2Proof.Machine.execGraph s
  | .graphNodeEnd die cid node => Sys2Proof.Machine.execGraphNodeEnd die cid node s
  | .ctrset => Sys2Proof.Machine.execCtrset s
  | .ctrwait => Sys2Proof.Machine.execCtrwait s
  | .ctrwaitTimeout => Sys2Proof.Machine.execCtrwaitTimeout s
  | .indirect => Sys2Proof.Machine.execIndirect s
  | .pageopFetch => Sys2Proof.Machine.execPageopFetch s
  | .pageopEvict => Sys2Proof.Machine.execPageopEvict s
  | .pageopMigrate => Sys2Proof.Machine.execPageopMigrate s
  | .qppostCmd => Sys2Proof.Machine.execQppostCmd s
  | .mark => Sys2Proof.Machine.execMark s
  | .cuesheet => Sys2Proof.Machine.execCuesheet s
  | .setModuleId => Sys2Proof.Machine.execSetModuleId s
  | .portbMode => Sys2Proof.Machine.execPortbMode s
  | .swtWrite => Sys2Proof.Machine.execSwtWrite s
  | .aperture => Sys2Proof.Machine.execAperture s
  | .domainJoin => Sys2Proof.Machine.execDomainJoin s
  | .linkRetrain => Sys2Proof.Machine.execLinkRetrain s
  | .groupSet => Sys2Proof.Machine.execGroupSet s
  | .qpSet => Sys2Proof.Machine.execQpSet s
  | .coreHook => Sys2Proof.Machine.execCoreHook s
  | .ringSet => Sys2Proof.Machine.execRingSet s
  | .raiseMode => Sys2Proof.Machine.execRaiseMode s
  | .loadKey => Sys2Proof.Machine.execLoadKey s
  | .dropKey => Sys2Proof.Machine.execDropKey s
  | .openWindow => Sys2Proof.Machine.execOpenWindow s
  | .closeWindow => Sys2Proof.Machine.execCloseWindow s
  | .getEkey => Sys2Proof.Machine.execGetEkey s
  | .policyWrite => Sys2Proof.Machine.execPolicyWrite s
  | .debugUnlock => Sys2Proof.Machine.execDebugUnlock s
  | .debugEnd => Sys2Proof.Machine.execDebugEnd s
  | .debugHalt core => Sys2Proof.Machine.execDebugHalt core s
  | .attest => Sys2Proof.Machine.execAttest s
  | .gate => Sys2Proof.Machine.execGate s
  | .suspend => Sys2Proof.Machine.execSuspend s
  | .resume => Sys2Proof.Machine.execResume s
  | .s3Return die => Sys2Proof.Machine.execS3Return die s
  | .taskStart core => Sys2Proof.Machine.execTaskStart core s
  | .taskCommit => Sys2Proof.Machine.execTaskCommit s
  | .sliceEnd core => Sys2Proof.Machine.execSliceEnd core s
  | .preemptLand core => Sys2Proof.Machine.execPreemptLand core s
  | .loadReturn core data => Sys2Proof.Machine.execLoadReturn core data s
  | .lateCause core count cause sub info => Sys2Proof.Machine.execLateCause core count cause sub info s
  | .trapTake core => Sys2Proof.Machine.execTrapTake core s
  | .feRetry core => Sys2Proof.Machine.execFeRetry core s
  | .feBudgetExhausted core => Sys2Proof.Machine.execFeBudgetExhausted core s
  | .wakeWalk die pa => Sys2Proof.Machine.execWakeWalk die pa s
  | .cwaitSatisfied core => Sys2Proof.Machine.execCwaitSatisfied core s
  | .checkpoint core => Sys2Proof.Machine.execCheckpoint core s
  | .internalError core => Sys2Proof.Machine.execInternalError core s
  | .rehearsalCompare core agree => Sys2Proof.Machine.execRehearsalCompare core agree s
  | .phaseDrainEnd core => Sys2Proof.Machine.execPhaseDrainEnd core s
  | .matrixComplete core => Sys2Proof.Machine.execMatrixComplete core s
  | .coopStart die cluster => Sys2Proof.Machine.execCoopStart die cluster s
  | .coopTimeout die cluster => Sys2Proof.Machine.execCoopTimeout die cluster s
  | .copyComplete core => Sys2Proof.Machine.execCopyComplete core s
  | .transposeComplete core => Sys2Proof.Machine.execTransposeComplete core s
  | .gatherComplete core => Sys2Proof.Machine.execGatherComplete core s
  | .tokenEnter core ctx => Sys2Proof.Machine.execTokenEnter core ctx s
  | .pgreqDone die index => Sys2Proof.Machine.execPgreqDone die index s
  | .workEntryStart die qp => Sys2Proof.Machine.execWorkEntryStart die qp s
  | .chunkArrive die chunk => Sys2Proof.Machine.execChunkArrive die chunk s
  | .spillRefetch die => Sys2Proof.Machine.execSpillRefetch die s
  | .workEntryComplete die qp code => Sys2Proof.Machine.execWorkEntryComplete die qp code s
  | .generationAdvance die grp => Sys2Proof.Machine.execGenerationAdvance die grp s
  | .memberLoss die grp rank => Sys2Proof.Machine.execMemberLoss die grp rank s
  | .contributionArrive die grp gen src lead record => Sys2Proof.Machine.execContributionArrive die grp gen src lead record s
  | .stepDeadline die grp => Sys2Proof.Machine.execStepDeadline die grp s
  | .stepClose die grp => Sys2Proof.Machine.execStepClose die grp s
  | .stepAssemble die grp => Sys2Proof.Machine.execStepAssemble die grp s
  | .closeAck die grp gen seq rank => Sys2Proof.Machine.execCloseAck die grp gen seq rank s
  | .sealAnnounce die grp gen seq => Sys2Proof.Machine.execSealAnnounce die grp gen seq s
  | .leaderTakeover die grp => Sys2Proof.Machine.execLeaderTakeover die grp s
  | .reduceRecordArrive die grp gen record => Sys2Proof.Machine.execReduceRecordArrive die grp gen record s
  | .scredArrive die grp gen rank value => Sys2Proof.Machine.execScredArrive die grp gen rank value s
  | .br disp => Sys2Proof.Machine.execBr disp s
  | .brp p n disp => Sys2Proof.Machine.execBrp p n disp s
  | .call disp => Sys2Proof.Machine.execCall disp s
  | .calli a => Sys2Proof.Machine.execCalli a s
  | .jmpi a => Sys2Proof.Machine.execJmpi a s
  | .ret => Sys2Proof.Machine.execRet s
  | .loop a len => Sys2Proof.Machine.execLoop a len s
  | .loopi cnt len => Sys2Proof.Machine.execLoopi cnt len s
  | .bundleIssue core => Sys2Proof.Machine.execBundleIssue core s
  | .lbrk => Sys2Proof.Machine.execLbrk s
  | .mtc a cr => Sys2Proof.Machine.execMtc a cr s
  | .mfc d cr => Sys2Proof.Machine.execMfc d cr s
  | .phase units => Sys2Proof.Machine.execPhase units s
  | .ckpt => Sys2Proof.Machine.execCkpt s
  | .yield => Sys2Proof.Machine.execYield s
  | .spawn d a b pool => Sys2Proof.Machine.execSpawn d a b pool s
  | .join d a => Sys2Proof.Machine.execJoin d a s
  | .exit => Sys2Proof.Machine.execExit s
  | .tkill d a b => Sys2Proof.Machine.execTkill d a b s
  | .trap imm => Sys2Proof.Machine.execTrap imm s
  | .sysc imm => Sys2Proof.Machine.execSysc imm s
  | .brk imm => Sys2Proof.Machine.execBrk imm s
  | .eret nx => Sys2Proof.Machine.execEret nx s
  | .ctxsw a nx => Sys2Proof.Machine.execCtxsw a nx s
  | .halt nx => Sys2Proof.Machine.execHalt nx s
  | .add d a b => Sys2Proof.Machine.execAdd d a b s
  | .sub d a b => Sys2Proof.Machine.execSub d a b s
  | .mul d a b => Sys2Proof.Machine.execMul d a b s
  | .mulh d a b => Sys2Proof.Machine.execMulh d a b s
  | .mulhu d a b => Sys2Proof.Machine.execMulhu d a b s
  | .div d a b => Sys2Proof.Machine.execDiv d a b s
  | .divu d a b => Sys2Proof.Machine.execDivu d a b s
  | .rem d a b => Sys2Proof.Machine.execRem d a b s
  | .remu d a b => Sys2Proof.Machine.execRemu d a b s
  | .and d a b => Sys2Proof.Machine.execAnd d a b s
  | .or d a b => Sys2Proof.Machine.execOr d a b s
  | .xor d a b => Sys2Proof.Machine.execXor d a b s
  | .andn d a b => Sys2Proof.Machine.execAndn d a b s
  | .shl d a b => Sys2Proof.Machine.execShl d a b s
  | .shr d a b => Sys2Proof.Machine.execShr d a b s
  | .sar d a b => Sys2Proof.Machine.execSar d a b s
  | .rol d a b => Sys2Proof.Machine.execRol d a b s
  | .min d a b => Sys2Proof.Machine.execMin d a b s
  | .max d a b => Sys2Proof.Machine.execMax d a b s
  | .minu d a b => Sys2Proof.Machine.execMinu d a b s
  | .maxu d a b => Sys2Proof.Machine.execMaxu d a b s
  | .clz d a => Sys2Proof.Machine.execClz d a s
  | .popc d a => Sys2Proof.Machine.execPopc d a s
  | .sel d a b p => Sys2Proof.Machine.execSel d a b p s
  | .addi d a imm => Sys2Proof.Machine.execAddi d a imm s
  | .andi d a imm => Sys2Proof.Machine.execAndi d a imm s
  | .ori d a imm => Sys2Proof.Machine.execOri d a imm s
  | .xori d a imm => Sys2Proof.Machine.execXori d a imm s
  | .shli d a sh => Sys2Proof.Machine.execShli d a sh s
  | .shri d a sh => Sys2Proof.Machine.execShri d a sh s
  | .sari d a sh => Sys2Proof.Machine.execSari d a sh s
  | .roli d a sh => Sys2Proof.Machine.execRoli d a sh s
  | .movi d imm => Sys2Proof.Machine.execMovi d imm s
  | .insh d k imm => Sys2Proof.Machine.execInsh d k imm s
  | .pcmp pd a b cond => Sys2Proof.Machine.execPcmp pd a b cond s
  | .pcmpi cond pd a imm => Sys2Proof.Machine.execPcmpi cond pd a imm s
  | .plog pd pa pb tt => Sys2Proof.Machine.execPlog pd pa pb tt s
  | .amov ad a => Sys2Proof.Machine.execAmov ad a s
  | .aadd ad aa b => Sys2Proof.Machine.execAadd ad aa b s
  | .aaddi ad aa imm => Sys2Proof.Machine.execAaddi ad aa imm s
  | .aget d aa => Sys2Proof.Machine.execAget d aa s
  | .lidx d depth => Sys2Proof.Machine.execLidx d depth s
  | .fadd d a b t => Sys2Proof.Machine.execFadd d a b t s
  | .fsub d a b t => Sys2Proof.Machine.execFsub d a b t s
  | .fmul d a b t => Sys2Proof.Machine.execFmul d a b t s
  | .ffma d a b t => Sys2Proof.Machine.execFfma d a b t s
  | .fmin d a b t => Sys2Proof.Machine.execFmin d a b t s
  | .fmax d a b t => Sys2Proof.Machine.execFmax d a b t s
  | .fcvt d a dt st => Sys2Proof.Machine.execFcvt d a dt st s
  | .fcmp pd a b cond t => Sys2Proof.Machine.execFcmp pd a b cond t s
  | .ld d ab sz off => Sys2Proof.Machine.execLd d ab sz off s
  | .lds d ab sz off => Sys2Proof.Machine.execLds d ab sz off s
  | .st b ab sz off => Sys2Proof.Machine.execSt b ab sz off s
  | .ldlu d ab sz off => Sys2Proof.Machine.execLdlu d ab sz off s
  | .ldw d aa scope ord => Sys2Proof.Machine.execLdw d aa scope ord s
  | .ldc d aa scope ord => Sys2Proof.Machine.execLdc d aa scope ord s
  | .stf aa b scope ord => Sys2Proof.Machine.execStf aa b scope ord s
  | .ldct d aa scope ord => Sys2Proof.Machine.execLdct d aa scope ord s
  | .stft aa b scope ord => Sys2Proof.Machine.execStft aa b scope ord s
  | .feq d aa scope ord => Sys2Proof.Machine.execFeq d aa scope ord s
  | .femk aa b scope ord => Sys2Proof.Machine.execFemk aa b scope ord s
  | .vld v ab ps mk hint => Sys2Proof.Machine.execVld v ab ps mk hint s
  | .vst v ab ps mk hint => Sys2Proof.Machine.execVst v ab ps mk hint s
  | .cadd d a b scope ord => Sys2Proof.Machine.execCadd d a b scope ord s
  | .cwait d a b scope ord => Sys2Proof.Machine.execCwait d a b scope ord s
  | .cread d a scope ord => Sys2Proof.Machine.execCread d a scope ord s
  | .rbacq ad a scope => Sys2Proof.Machine.execRbacq ad a scope s
  | .rbrel a scope => Sys2Proof.Machine.execRbrel a scope s
  | .fence scope ord => Sys2Proof.Machine.execFence scope ord s
  | .publ aa scope => Sys2Proof.Machine.execPubl aa scope s
  | .bind d aa b form => Sys2Proof.Machine.execBind d aa b form s
  | .unbind aa b => Sys2Proof.Machine.execUnbind aa b s
  | .pgreq aa b => Sys2Proof.Machine.execPgreq aa b s
  | .cflush ab off => Sys2Proof.Machine.execCflush ab off s
  | .cdisc ab off => Sys2Proof.Machine.execCdisc ab off s
  | .cpref ab off => Sys2Proof.Machine.execCpref ab off s
  | .accad aa b mode => Sys2Proof.Machine.execAccad aa b mode s
  | .tlbi aa b => Sys2Proof.Machine.execTlbi aa b s
  | .vadd vd va vb mk vf => Sys2Proof.Machine.execVadd vd va vb mk vf s
  | .vsub vd va vb mk vf => Sys2Proof.Machine.execVsub vd va vb mk vf s
  | .vmul vd va vb mk vf => Sys2Proof.Machine.execVmul vd va vb mk vf s
  | .vfma vd va vb mk vf => Sys2Proof.Machine.execVfma vd va vb mk vf s
  | .vfms vd va vb mk vf => Sys2Proof.Machine.execVfms vd va vb mk vf s
  | .vfnma vd va vb mk vf => Sys2Proof.Machine.execVfnma vd va vb mk vf s
  | .vmin vd va vb mk vf => Sys2Proof.Machine.execVmin vd va vb mk vf s
  | .vmax vd va vb mk vf => Sys2Proof.Machine.execVmax vd va vb mk vf s
  | .vabs vd va mk => Sys2Proof.Machine.execVabs vd va mk s
  | .vneg vd va mk => Sys2Proof.Machine.execVneg vd va mk s
  | .vclamp vd va vb mk vf => Sys2Proof.Machine.execVclamp vd va vb mk vf s
  | .vsf vd va fn mk => Sys2Proof.Machine.execVsf vd va fn mk s
  | .vcmp cond va vb md vf => Sys2Proof.Machine.execVcmp cond va vb md vf s
  | .vsel vd va vb mk vf => Sys2Proof.Machine.execVsel vd va vb mk vf s
  | .vand vd va vb mk vf => Sys2Proof.Machine.execVand vd va vb mk vf s
  | .vor vd va vb mk vf => Sys2Proof.Machine.execVor vd va vb mk vf s
  | .vxor vd va vb mk vf => Sys2Proof.Machine.execVxor vd va vb mk vf s
  | .vnot vd va mk => Sys2Proof.Machine.execVnot vd va mk s
  | .vshl vd va vb mk vf => Sys2Proof.Machine.execVshl vd va vb mk vf s
  | .vshr vd va vb mk vf => Sys2Proof.Machine.execVshr vd va vb mk vf s
  | .vsar vd va vb mk vf => Sys2Proof.Machine.execVsar vd va vb mk vf s
  | .vcvt vd va dt mk => Sys2Proof.Machine.execVcvt vd va dt mk s
  | .vpadd vd va vb mk vf => Sys2Proof.Machine.execVpadd vd va vb mk vf s
  | .vperm vd va vb mk => Sys2Proof.Machine.execVperm vd va vb mk s
  | .vtrn vd va mk => Sys2Proof.Machine.execVtrn vd va mk s
  | .vred vd va op axis mk => Sys2Proof.Machine.execVred vd va op axis mk s
  | .vscan vd va ex axis mk => Sys2Proof.Machine.execVscan vd va ex axis mk s
  | .vsegred vd va mk => Sys2Proof.Machine.execVsegred vd va mk s
  | .vcompact vd va mk => Sys2Proof.Machine.execVcompact vd va mk s
  | .vbcast vd va mk => Sys2Proof.Machine.execVbcast vd va mk s
  | .vbcastScalar vd b mk => Sys2Proof.Machine.execVbcastScalar vd b mk s
  | .vmov vd va mk => Sys2Proof.Machine.execVmov vd va mk s
  | .vins vd a b => Sys2Proof.Machine.execVins vd a b s
  | .vext d va b => Sys2Proof.Machine.execVext d va b s
  | .viota vd kind mk => Sys2Proof.Machine.execViota vd kind mk s
  | .viotaBase vd kind b mk => Sys2Proof.Machine.execViotaBase vd kind b mk s
  | .nzgen vd val h b mk => Sys2Proof.Machine.execNzgen vd val h b mk s
  | .rngd vd va val h mk => Sys2Proof.Machine.execRngd vd va val h mk s
  | .vreplay vd va mk => Sys2Proof.Machine.execVreplay vd va mk s
  | .accrd vd a la mk => Sys2Proof.Machine.execAccrd vd a la mk s
  | .accwr vs a mode mk => Sys2Proof.Machine.execAccwr vs a mode mk s
  | .mlog md ma mb tt => Sys2Proof.Machine.execMlog md ma mb tt s
  | .mcnt d ma kind => Sys2Proof.Machine.execMcnt d ma kind s
  | .mxset reg a => Sys2Proof.Machine.execMxset reg a s
  | .mxw a b => Sys2Proof.Machine.execMxw a b s
  | .mxwTile v => Sys2Proof.Machine.execMxwTile v s
  | .mxa a b => Sys2Proof.Machine.execMxa a b s
  | .mxaTile v => Sys2Proof.Machine.execMxaTile v s
  | .mxcb a => Sys2Proof.Machine.execMxcb a s
  | .mxce a b => Sys2Proof.Machine.execMxce a b s
  | .mxceTile v => Sys2Proof.Machine.execMxceTile v s
  | .mxpd a b => Sys2Proof.Machine.execMxpd a b s
  | .mxpdOff => Sys2Proof.Machine.execMxpdOff s
  | .mxdn e a => Sys2Proof.Machine.execMxdn e a s
  | .mxcv c a => Sys2Proof.Machine.execMxcv c a s
  | .mxtap a => Sys2Proof.Machine.execMxtap a s
  | .mxsp a => Sys2Proof.Machine.execMxsp a s
  | .cpset reg a => Sys2Proof.Machine.execCpset reg a s
  | .cpgo tok a b => Sys2Proof.Machine.execCpgo tok a b s
  | .trpush m kind a b => Sys2Proof.Machine.execTrpush m kind a b s
  | .trpop tok rb a b => Sys2Proof.Machine.execTrpop tok rb a b s
  | .gthr tok a b => Sys2Proof.Machine.execGthr tok a b s
  | .sctr tok a b => Sys2Proof.Machine.execSctr tok a b s
  | .qppost qp a b => Sys2Proof.Machine.execQppost qp a b s
  | .scput grp a => Sys2Proof.Machine.execScput grp a s
  | .scred grp a => Sys2Proof.Machine.execScred grp a s
  | .gnode a b => Sys2Proof.Machine.execGnode a b s
  | .gsig a => Sys2Proof.Machine.execGsig a s
  | .expanderLoss expander => Sys2Proof.Machine.execExpanderLoss expander s
  | .ownerReply core => Sys2Proof.Machine.execOwnerReply core s
  | .debugResume core ctx => Sys2Proof.Machine.execDebugResume core ctx s
  | .debugStep core => Sys2Proof.Machine.execDebugStep core s
  | .debugAccess core target value => Sys2Proof.Machine.execDebugAccess core target value s
  | .powerOff => Sys2Proof.Machine.execPowerOff s

end Sys2Proof.Machine
end

