-- ==== Sys2Proof/Machine/Schedule.lean ====
section
/-! DEFINITION. Which step the machine makes next (log 5): what is due comes first; else the beats, the firmware of the dies, the links
and the cores take turns. Where the spec orders two steps, the first makes the second due; where it does not, the choice is the model's. -/

namespace Sys2Proof.Machine

/-! ### Chance (log 1) -/

/-- A free bit, and the state behind it. -/
def toss (s : State) : State × Bool := (bumpFree s, bitOf (Config.freeValue s.freeCtr) 0)

/-! ### Cores -/

/-- The completion that a step of a core's cluster engines makes: of the kind of one of its commands, chosen freely. -/
def engineEvent (s : State) (c : Nat) : State × Option Instr :=
  let es := (coreOf s c).engs
  if es.isEmpty then (s, none)
  else
    let (s, now) := toss s
    if !now then (s, none)
    else
      let i := (Config.freeValue s.freeCtr).toNat % es.length
      let core : CoreId := Fin.ofNat 256 c
      (bumpFree s, (es[i]?).map fun e => match engNo e with
        | 1 => .copyComplete core
        | 2 => .gatherComplete core
        | _ => .transposeComplete core)

/-- The bytes a load of the outside brings: host and cellar memory as it stands, else open; none when a peer does not complete it (02 R51). -/
def outsideData (s : State) (c n : Nat) (va : Word) : State × Option (List Byte) :=
  let free := fun (s : State) => let (s, bs) := freeBytes s n; (s, some bs)
  match systemLoc s (dieOfCore c) va.toNat n ⟨true, false, false, false⟩ with
  | .ok (.system target _ a) => if va.toNat / 2 ^ 56 = 0xFF then systemRead s target a.toNat n else free s
  | _ => free s

/-- A reply that reaches a core from outside the dies' network: of the oldest load, with its data, or of the oldest store. -/
def replyEvent (s : State) (c : Nat) : State × Option Instr :=
  let l := (coreOf s c).arrivals
  if l.isEmpty then (s, none)
  else
    let (s, now) := toss s
    if !now then (s, none)
    else
      let core : CoreId := Fin.ofNat 256 c
      match l.find? fun a => !a.store && a.returns with
      | some a =>
        match a.val with
        | .outside n _ va _ =>
          match outsideData s c n va with
          | (s, some bs) => (s, some (.loadReturn core bs))
          | (s, none) => (s, some (.peerLoadTimeout core))
        | _ => (s, some (.loadReturn core []))
      | none => (s, if l.any fun a => a.store && a.returns then some (.ownerReply core) else none)

/-- The running context issues nothing before something else happens: the count of its issue cycles does not go on. -/
def stalled (s : State) (c : Nat) : Bool := (coreOf (nextOr s (execBundleIssue (Fin.ofNat 256 c) s)) c).ic == (coreOf s c).ic

/-- What a held bundle of the running context waits for has happened, or it is tried again. A kill waits only for the last retry of a budget (07
R189). -/
def heldEvent (s : State) (c x : Nat) : Option Instr :=
  let core : CoreId := Fin.ofNat 256 c
  let t := ctxOf s c x
  match t.held with
  | some (.fe _ _ _ _) =>
    if asksNow s c x then none
    else if answeredNow s c x then some (.bundleIssue core)
    else if lastTry s c x then some (.feBudgetExhausted core)
    else if t.killed then none else some (.feRetry core)
  | some (.ctr _ _) => if waitOver s c x && !t.killed then some (.cwaitSatisfied core) else none
  | _ => none

/-- A cooperative MXA whose group is complete starts; else it may reach its limit. -/
def coopEvent (s : State) (c : Nat) : State × Option Instr :=
  let die : DieId := Fin.ofNat 4 (dieOfCore c)
  let cl : Fin 4 := Fin.ofNat 4 (clusterOfCore c)
  match (coreOf s c).coop with
  | some (_, mask, tag, _) =>
    if groupReady s (clusterOfCore c) mask tag then (s, some (.coopStart die cl))
    else
      let (s, now) := toss s
      (s, if now then some (.coopTimeout die cl) else none)
  | none => (s, none)

/-- A started cooperative MXA completes, at an issue cycle that its group's stalls decide (12 R322); while its own core stalls nothing lands (07 R185). -/
def matrixEvent (s : State) (c : Nat) : State × Option Instr :=
  if (coreOf s c).pend.any (fun p => coopLand p.land) && !stalled s c then
    let (s, now) := toss s
    (s, if now then some (.matrixComplete (Fin.ofNat 256 c)) else none)
  else (s, none)

/-- A matrix completion that waits for a tap's page is tried again (10 R262). -/
def waitingMatrix (s : State) (c : Nat) : State × Option Instr :=
  if (coreOf s c).pend.any (·.waits) then
    let (s, now) := toss s
    (s, if now then some (.matrixComplete (Fin.ofNat 256 c)) else none)
  else (s, none)

/-- What stops the issue of a core and waits until its context is settled: a late cause first (07 R186), then an internal error, then a
debugger's halt, which the bundle's trap and its exhausted budget precede (07 R189). -/
def haltEvent (s : State) (c x : Nat) : Option Instr :=
  let core : CoreId := Fin.ofNat 256 c
  let k := coreOf s c
  if replyReady s c x then some (.bundleIssue core)
  else if unsettled s c x then none
  else match k.late with
    | some (n, z) => some (.lateCause core n z.cause (z.sub + 256 * z.level) z.info)
    | none =>
      if k.intErr then some (.internalError core)
      else if !firstRows s c x then some (.debugHalt core)
      else if lastTry s c x && (fetchedTrap s c x).isNone then some (.feBudgetExhausted core)
      else some (.trapTake core)

/-- A pre-emption request stands at a landing point whose context is not settled yet: it issues nothing more before it lands (07 R186, R188). -/
def landsSoon (s : State) (c x : Nat) : Bool :=
  let k := coreOf s c
  let t := coreCtx k x
  k.preempt && t.atLand && !t.priv && (leaving t).isNone && unsettled s c x && !replyReady s c x

/-- What the running context of a core does next, nothing reaching it from outside. -/
def sequencerEvent (s : State) (c x : Nat) : State × Option Instr :=
  let core : CoreId := Fin.ofNat 256 c
  let k := coreOf s c
  if k.dbgHalt then (s, none)
  else if k.late.isSome || k.intErr || (k.dbgReq && (leaving (ctxOf s c x)).isNone) then (s, haltEvent s c x)
  else if replyReady s c x then (s, some (.bundleIssue core))
  else if landsSoon s c x then (s, none)
  else if canLand s c x && !firstRows s c x then (s, some (.preemptLand core))
  else match heldEvent s c x with
    | some i => (s, some i)
    | none =>
      match matrixEvent s c with
      | (s, some i) => (s, some i)
      | (s, none) => (s, some (.bundleIssue core))

/-- What a core without a running context does: it halts for a debugger, or runs a context that is ready and whose save area has come. -/
def idleCore (s : State) (c : Nat) : Option Instr :=
  let core : CoreId := Fin.ofNat 256 c
  let k := coreOf s c
  if k.dbgReq then some (.debugHalt core)
  else if !issueStops k && !s.mod.susp && (nextReady k k.lastCtx).isSome then some (.preemptLand core) else none

/-- The step of a core whose turn it is: its engines, the replies to its accesses and its cooperative group go on while its issue stops. -/
def coreEvent (s : State) (c : Nat) : State × Option Instr :=
  let core : CoreId := Fin.ofNat 256 c
  match engineEvent s c with
  | (s, some i) => (s, some i)
  | (s, none) =>
    let k := coreOf s c
    match k.run with
    | none => (s, idleCore s c)
    | some x =>
      if k.retired then (s, none)
      else if (heldReady s c).isSome then (s, some (.loadReturn core []))
      else match replyEvent s c with
        | (s, some i) => (s, some i)
        | (s, none) =>
          match coopEvent s c with
          | (s, some i) => (s, some i)
          | (s, none) =>
            match waitingMatrix s c with
            | (s, some i) => (s, some i)
            | (s, none) => sequencerEvent s c x

/-! ### Firmware -/

/-- A GANG whose release beat has come, and a CTRWAIT past its limit (05 R108, 03 R73). -/
def timedCmd (s : State) (d cid : Nat) (c : Cmd) : Option Due :=
  if c.state ≠ 2 then none
  else match c.work with
    | .gang _ _ (some _) => if gangDue s c then some ⟨.gangRelease, ⟨d, cid⟩⟩ else none
    | _ => if timedOut s d c && !ctrReached s d cid c then some ⟨.ctrwaitTimeout, ⟨d, cid⟩⟩ else none

/-- A command that waits is tried again. -/
def waitingCmd (d cid : Nat) (c : Cmd) : Option Due :=
  if c.state = 2 ∧ c.waits then (commandStep c).map fun i => ⟨i, ⟨d, cid⟩⟩ else none

/-- A queue pair's next entry starts when it is armed; one whose outcome is known completes; the answer of another module is open. -/
def qpEvents (s : State) (d n : Nat) (p : Qp) : List Due :=
  let die : DieId := Fin.ofNat 4 d
  let qp := BitVec.ofNat 8 n
  let code := (Config.freeValue s.freeCtr).toNat % 9
  (match nextEntry p with
   | some e => if (armed s d e).2 then [⟨.workEntryStart die qp, {}⟩] else []
   | none => []) ++
  (if p.entries.any fun e => e.code.isSome then [⟨.workEntryComplete die qp 0, {}⟩]
   else if p.entries.any (awaitsAnswer s · code) then [⟨.workEntryComplete die qp code, {}⟩]
   else [])

/-- A stream whose oldest ready command has waited 2^20 fabric cycles is raised (05 R105). -/
def ageingEvent (s : State) (d n : Nat) (t : Stream) : Option Due :=
  if aged s d t && (readyCmd s d n).isSome && decide (effPrio t < 3) then some ⟨.streamAging (Fin.ofNat 4 d) (Fin.ofNat 64 n), {}⟩ else none

/-- What a die's firmware and collective engine may do now; firmware does nothing before it runs (04 R83). -/
def dieEvents (s : State) (d : Nat) : List Due :=
  let k := dieOf s d
  let die : DieId := Fin.ofNat 4 d
  (k.cmds.filterMap fun e => timedCmd s d e.1 e.2) ++ (k.cmds.filterMap fun e => waitingCmd d e.1 e.2) ++
  (k.qps.flatMap fun e => qpEvents s d e.1 e.2) ++
  (k.leads.filterMap fun e => if deadlinePassed s d e.2 && !e.2.late then some ⟨.stepDeadline die (BitVec.ofNat 12 e.1), {}⟩ else none) ++
  (if k.staging.isEmpty && k.spill.isEmpty then [] else [⟨.spillRefetch die, {}⟩]) ++
  ((List.range k.pgreqs.length).map fun i => ⟨.pgreqDone die i, {}⟩) ++
  (k.streams.filterMap fun e => ageingEvent s d e.1 e.2) ++
  (s.cores.filterMap fun e => if dieOfCore e.1 = d ∧ !e.2.waitq.isEmpty then some ⟨.taskStart (Fin.ofNat 256 e.1), {}⟩ else none) ++ [⟨.pollInterval die, {}⟩]

/-! ### The choice -/

/-- A link's turn: a flit is sent when one waits, with the credit the other side gives, which is open. -/
def linkEvent (s : State) (n : Nat) : State × Option Due :=
  if s.mod.txq.isEmpty || (linkOf s (n % 12)).state != 2 then (s, none)
  else (bumpFree s, some ⟨.flitSend (Fin.ofNat 12 n) (BitVec.ofNat 8 (Config.freeValue s.freeCtr).toNat), {}⟩)

/-- A performance event enters q7 of a core, or is dropped and counted (07 R179). Which events there are is open (log 60). -/
def perfEvent (s : State) (c : Nat) : State :=
  modCore (bumpFree s) c fun k =>
    if k.q7.length < 64 then { k with q7 := k.q7 ++ [Config.freeValue s.freeCtr] } else { k with q7drop := k.q7drop + 1 }

/-- A granule of a die's memory fails its error-correcting code (08 R225): which is open (log 12). -/
def eccError (s : State) (d : Nat) : State :=
  modDie (bumpFree s) d fun k => { k with ecc := tabPut k.ecc ((Config.freeValue s.freeCtr).toNat % 2 ^ 31) true }

/-- What happens in the machine unasked: a performance event of the core whose turn it is, a soft error, or nothing; the choice is free (log
1). -/
def disturb (s : State) (d : Nat) : State :=
  let v := (Config.freeValue s.freeCtr).toNat % 4
  let s := bumpFree s
  if v = 1 then perfEvent s s.turn else if v = 2 then eccError s d else s

/-- The step that waits longest for credit or for a page is tried again, those behind it in its order next (06 R162). -/
def retryMail (s : State) : Option (State × Due) :=
  match s.mail with
  | [] => none
  | d :: l => some ({ s with mail := l.filter fun e => !sameKey d.step e.step, agenda := l.filter (fun e => sameKey d.step e.step) ++ s.agenda }, d)

/-- The step made when nothing is due: of every eight, one is a beat, one the scalar network's or a link's, one a die's, the others
are the cores'. -/
def idleEvent (s : State) : State × Option Due :=
  let n := s.clock / 8
  match s.clock % 8 with
  | 1 => (disturb s (n % 4), some ⟨.beatTick (Fin.ofNat 4 n), {}⟩)
  | 3 =>
    match retryMail s with
    | some r => (r.1, some r.2)
    | none => linkEvent s n
  | 5 =>
    let es := dieEvents s (n % 4)
    (bumpFree s, es[n / 4 % es.length]?)
  | _ =>
    let r := coreEvent s s.turn
    (r.1, r.2.map fun i => ⟨i, {}⟩)

/-- The first item of a list that satisfies a test, and the others. -/
def takeFirst (p : Due → Bool) : List Due → Option (Due × List Due)
  | [] => none
  | d :: l => if p d then some (d, l) else (takeFirst p l).map fun r => (r.1, d :: r.2)

/-- A step that can happen in S5: the boot ROM starts when power comes (04 R83, R99). -/
def inS5 : Instr → Bool
  | .boot => true
  | _ => false

/-- A step that can happen in S3: an access from the host, a limit of power or temperature, or the return (04 R97, R98). -/
def inS3 : Instr → Bool
  | .boot | .strmDb _ _ | .s3Return _ | .hostRead _ _ _ | .hostWrite _ _ _ | .registerWrite _ _ | .hostStatWrite _ | .pwrCapWrite _
  | .throtClear | .throttleEnter _ _ _ | .throttleExit _ _ _ | .thermalShutdown _ _ | .powerOff | .beatTick _
  | .strmCfgWrite _ _ _ | .strmCtlZero _ _ | .strmCtlAbort _ _ | .strmCtlResume _ _ => true
  | _ => false

/-- A due item of those a power state allows. -/
def takeDue (s : State) (p : Instr → Bool) : State × Option Due :=
  match takeFirst (fun d => p d.step) s.agenda with
  | some (d, l) => ({ s with agenda := l }, some d)
  | none => (s, none)

/-- The step the machine makes next, and the state it is made in; none when it rests. -/
def nextDue (s : State) : State × Option Due :=
  if s.mod.power = 5 then takeDue s inS5
  else if s.mod.power = 3 then takeDue s inS3
  else match s.agenda with
    | d :: l => ({ s with agenda := l }, some d)
    | [] =>
      if s.mod.booted then idleEvent s
      else (s, if s.mod.sec.bootf then none else some ⟨.boot, {}⟩)

/-- The core whose turn comes after core c's: the next one that holds any state. -/
def turnAfter (s : State) (c : Nat) : Nat :=
  match s.cores.find? fun e => decide (c < e.1) with
  | some e => e.1
  | none => match s.cores with
    | e :: _ => e.1
    | [] => c

/-- The clock goes on, and after a core's step the turn. -/
def endStep (clock turn : Nat) (o : Host.Outcome State Fault Refusal) : Host.Outcome State Fault Refusal :=
  match o with
  | .next s => .next { s with clock := clock + 1, turn := if clock % 8 = 1 ∨ clock % 8 = 3 ∨ clock % 8 = 5 then turn else turnAfter s turn }
  | .fault f => .fault f
  | .refused r => .refused r

/-! ### An instruction placed where it is fetched next -/

/-- The bytes of a bundle that holds one slot word, in the slot of the instruction the word is read as. -/
def soloBytes (nbits w : Nat) : List Byte :=
  let sl := ((decodeTableWord nbits w).bind Instr.homeSlot).getD .a0
  bytes32 (encodeHeader (soloHeader sl)) ++ bytes32 w

/-- The context that fetches it: resident, ready and unprivileged unless it was running. -/
def fetchCtx (t : Ctx) : Ctx :=
  { t with status := .ready, killed := false, spec := if backFull t then none else t.spec, inAmigen := false, held := none, kept := none, grp := [], replay := [], replayTo := 0,
           pc := BitVec.ofNat 18 (if t.pc.toNat ≤ 0x3FFF8 then t.pc.toNat else 0), res := { t.res with windows := [(0, 0x40000)] } }

/-- The core that fetches it: with nothing of its own under way. -/
def fetchCore (k : Core) (x : Nat) (bs : List Byte) : Core :=
  let t := fetchCtx (coreCtx k x)
  { setCoreCtx k x t with
    run := some x, lastCtx := x, imem := memWrite k.imem t.pc.toNat bs, retired := false, dbgHalt := false, preempt := false, engs := [], arrivals := [],
    pend := [], coop := none, rerun := none, late := none, intErr := false, dbgReq := false, drain := none, v0Free := 0, v1Free := 0, shadow := none }

/-- The state in which the core whose turn it is fetches the instruction next. -/
def placeFetch (s : State) (bs : List Byte) : State :=
  let c := s.turn % 256
  let x := (coreOf s c).run.getD 0
  let s := modCore (dropBundle s c x) c fun k => fetchCore k x bs
  { s with turn := c, agenda := [], clock := s.clock / 8 * 8, mod := { s.mod with booted := true, power := 0, susp := false } }

end Sys2Proof.Machine
end

