-- ==== Sys2Proof/Machine/Step.lean ====
section
/-! DEFINITION. One step of the machine. -/

namespace Sys2Proof.Machine

/-- One step of the machine: what is due first, else what the turn gives; a machine with nothing to do rests. -/
def step (s : State) : Host.Outcome State Fault Refusal :=
  match nextDue s with
  | (s', some d) => endStep s.clock s.turn (exec d.step { s' with focus := d.focus })
  | (s', none) => endStep s.clock s.turn (.next s')

/-- The state with an instruction stored where `step` fetches next (log 5). -/
def State.withFetchWord (s : State) (nbits w : Nat) : State := placeFetch s (soloBytes nbits w)

end Sys2Proof.Machine
end

