-- ==== Sys2Proof/Safety.lean ====
section
/-! DEFINITION. The terms that statements about runs use: when a core is ready to issue an instruction, what it leaves
when it has issued, and the canonical forms of the state's tables. -/

namespace Sys2Proof.Machine

/-! ### Canonical forms -/

/-- The numbers of a table rise strictly. -/
def Tab.rising {α : Type} (t : Tab α) : Prop := t.Pairwise fun a b => a.1 < b.1

/-- A table in canonical form: rising, without entries equal to its default. -/
def Tab.canon {α : Type} (d : α) (t : Tab α) : Prop := Tab.rising t ∧ ∀ e ∈ t, e.2 ≠ d

/-- Every memory of the machine is in canonical form: of the dies, of the cores' instruction memories, and the MSI-X bytes. -/
def State.memWf (s : State) : Prop :=
  (∀ e ∈ s.dies, Memory.wf e.2.mem) ∧ (∀ e ∈ s.cores, Memory.wf e.2.imem) ∧ Memory.wf s.mod.msix

/-! ### An instruction alone in its bundle -/

/-- The bundle that holds an instruction alone at a context's program counter. -/
def soloAt (s : State) (x : Nat) (i : Instr) : Issue := soloIssue (coreOf s s.turn) x i (slotEffect i)

/-- Its only slot. -/
def soloWork (i : Instr) : SlotWork :=
  ⟨i.homeSlot.getD .c, (encodeNat i).getD 0, if i.wf then .ok i else .error (.badField i), slotEffect i⟩

/-- Where it issues. -/
def soloEnv (s : State) (x : Nat) (i : Instr) : Env :=
  let pc := (ctxOf s s.turn x).pc.toNat
  ⟨s.turn, x, pc, pc + 8, (i.homeSlot.getD .c).num, BitVec.ofNat 64 ((encodeNat i).getD 0)⟩

/-- The state a bundle of one instruction issues in: one that reads q4 or q6 has acquired (06 R145, 09 R240, R244). -/
def acquired (s : State) (x : Nat) (i : Instr) : State := acquireHeads s s.turn (soloAt s x i)

/-- The state an instruction's effect is made of: its slot asks other modules' dies (01 R20). -/
def slotState (s : State) (x : Nat) (i : Instr) : State := beginAsking (acquired s x i) (.bundle s.turn x (i.homeSlot.getD .c).num)

/-- What an effect has left, when its slot asks no more. -/
def slotLeft (s t : State) : State := { t with mod := { t.mod with asker := s.mod.asker, taken := s.mod.taken, want := s.mod.want } }

/-- A core runs context x and stands right behind a checkpoint: nothing is in flight, nothing is awaited, no rerun is under way, no unit is
occupied. -/
structure Calm (k : Core) (x : Nat) : Prop where
  /-- the context runs -/
  runs    : k.run = some x
  /-- no kill waits -/
  alive   : (coreCtx k x).killed = false
  /-- a new group begins -/
  group   : (coreCtx k x).grp = []
  /-- it is not a speculative ordered task -/
  plain   : (coreCtx k x).spec = none
  /-- no outcome of an earlier attempt is kept -/
  kept    : (coreCtx k x).kept = none
  /-- no outcome of an earlier run is left -/
  replay  : (coreCtx k x).replay = [] ∧ (coreCtx k x).replayTo = 0
  /-- no rerun -/
  rerun   : k.rerun = none
  /-- nothing in flight -/
  pend    : k.pend = []
  /-- nothing awaited -/
  awaits  : k.arrivals = []
  /-- no command of the cluster engines under way -/
  engines : k.engs = []
  /-- no cooperative MXA waits -/
  coop    : k.coop = none
  /-- the checkpoint -/
  shadow  : ∃ h, k.shadow = some h ∧ h.id = x ∧ h.count = 0
  /-- no PHASE drain -/
  drain   : k.drain = none
  /-- the vector slots are free -/
  vector  : k.v0Free ≤ k.ic ∧ k.v1Free ≤ k.ic

/-- The core whose turn it is may issue an instruction of its context x: it is calm, the instruction is well formed and allowed in the
context's mode, its queues can be read and pushed, and the units it names are the context's or free. -/
structure Ready (s : State) (x : Nat) (i : Instr) : Prop where
  /-- the core is calm -/
  calm  : Calm (coreOf s s.turn) x
  /-- the instruction is well formed -/
  wf    : i.wf = true
  /-- it is a slot instruction -/
  slot  : i.homeSlot.isSome = true
  /-- a privileged instruction issues in privileged mode -/
  priv  : needsPriv i = true → (ctxOf s s.turn x).priv = true
  /-- the queues it reads are not empty -/
  heads : emptyQueue (coreOf s s.turn) x (soloAt s x i) = false
  /-- a push has room at the neighbour -/
  room  : pushFull s s.turn x (soloAt s x i) = false
  /-- tiles and pages it names are owned by the context or free -/
  owner : ownerTrap (coreOf s s.turn) s.turn x i = none
  /-- the context has asked nothing of another module's die -/
  asks  : (s.mod.exchanges.any fun e => e.ofBundle s.turn x) = false

/-- The state after an instruction that took effect: `s'` is what its effect left at once of `slotState s x i`, `lands` are its results with their
latencies, `arrs` the replies it awaits, `ctl` what it does to the sequencer. The bundle's bookkeeping is added (07 R171, R172, R192; 10 R276). -/
def issued (s : State) (x : Nat) (i : Instr) (s' : State) (lands : List (Nat × Land)) (arrs : List Arrival) (ctl : Ctl) : State :=
  commit (acquired s x i) s.turn x (soloAt s x i) none [(soloWork i, .ok (slotLeft (acquired s x i) s') lands arrs ctl)]

/-! ### What statements say of one instruction -/

/-- SRC(a) for context x of the core whose turn it is (13 R329). -/
def operand (s : State) (x : Nat) (a : SCode) : Word := srcVal (coreOf s s.turn) x a

/-- A[n] of context x. -/
def addrOf (s : State) (x : Nat) (n : AReg) : Word := aReg (ctxOf s s.turn x) n.toNat

/-- P[n] of context x. -/
def predOf (s : State) (x : Nat) (n : PReg) : Bool := pReg (ctxOf s s.turn x) n.toNat

/-- Tile register v of the core whose turn it is. -/
def tileOf (s : State) (v : VReg) : Tile := vReg (coreOf s s.turn) v.toNat

/-- On a ready core the instruction ends in the state its effect leaves of `slotState s x i`: `s'` at once, `lands` with their latencies, `arrs` when
their accesses are answered, `ctl` at the sequencer. In `s'` the effect lacks no response of another module's die and no page that migrates. -/
def Yields (s : State) (x : Nat) (i : Instr) (s' : State) (lands : List (Nat × Land)) (arrs : List Arrival) (ctl : Ctl) : Prop :=
  Ready s x i → s'.mod.want = .nothing → exec i s = .next (issued s x i s' lands arrs ctl)

/-- On a ready core the instruction has these results after one latency, and no other effect. -/
def Results (s : State) (x : Nat) (i : Instr) (lat : Nat) (ls : List Land) : Prop := Yields s x i (slotState s x i) (ls.map (lat, ·)) [] .next

/-- On a ready core the instruction writes DST(d, v) after a latency, and no other effect. -/
def Writes (s : State) (x : Nat) (i : Instr) (lat : Nat) (d : SCode) (v : Word) : Prop := Results s x i lat (dstLand d v)

/-- On a ready core the instruction transfers control to y, where y is a target, and has these results. -/
def Transfers (s : State) (x : Nat) (i : Instr) (y : Word) (ls : List Land) : Prop :=
  targetOk (coreOf s s.turn) x (ctxOf s s.turn x).priv y = true → Yields s x i (slotState s x i) (ls.map (1, ·)) [] (.jump y.toNat)

/-- On a ready core the instruction takes this trap. -/
def TakesTrap (s : State) (x : Nat) (i : Instr) (cause : Nat) (info : Word) : Prop :=
  Ready s x i → exec i s = .next (issueTrap s s.turn x { cause := cause, slot := (i.homeSlot.getD .c).num, info := info })

/-- The header address of the bundle after that of context x, which holds one slot. -/
def nextPc (s : State) (x : Nat) : Nat := (ctxOf s s.turn x).pc.toNat + 8

/-- Element j of an operand vb: of a tile register, or the low bits of a scalar (16 R411). -/
def elemB (s : State) (x : Nat) (vb : BitVec 6) (vf : Bool) (w j : Nat) : Nat :=
  if vf then (operand s x vb).toNat % 2 ^ w else elemOf (tileOf s vb) w j

/-- On a ready core, with a shape and a type its entry accepts, a vector instruction writes `f j` to each enabled element j of vd, with
the flags these raise, after its latency; SRS advances when it rounds (16 R409 to R414, 11 R292). -/
def VecEach (s : State) (x : Nat) (i : Instr) (vd : VReg) (mk : MReg) (rounds : Bool) (f : Nat → Res1 Nat) : Prop :=
  let t := ctxOf s s.turn x
  let rs := (enabledIdx t mk).map fun j => (j, f j)
  vShapeBad t i = false → vFmtBad t i = false →
    Yields s x i (srsStep (slotState s x i) s.turn x rounds)
      ((tileLand vd (tyWidth (fmtVT t)) (rs.map fun p => (p.1, p.2.val)) ++ flagLand (rs.foldl (fun f p => f ||| p.2.flags) 0)).map (vLat t i, ·))
      [] .next

/-! ### What an instruction leaves alone -/

/-- The destination of an instruction that only computes a scalar register from registers and immediates (14). -/
def scalarDest : Instr → Option SCode
  | .add d _ _ | .sub d _ _ | .mul d _ _ | .mulh d _ _ | .mulhu d _ _ | .div d _ _ | .divu d _ _ | .rem d _ _ | .remu d _ _ | .and d _ _
  | .or d _ _ | .xor d _ _ | .andn d _ _ | .shl d _ _ | .shr d _ _ | .sar d _ _ | .rol d _ _ | .min d _ _ | .max d _ _ | .minu d _ _
  | .maxu d _ _ | .clz d _ | .popc d _ | .sel d _ _ _ | .addi d _ _ | .andi d _ _ | .ori d _ _ | .xori d _ _ | .shli d _ _ | .shri d _ _
  | .sari d _ _ | .roli d _ _ | .movi d _ | .insh d _ _ | .aget d _ | .lidx d _ | .fadd d _ _ _ | .fsub d _ _ _ | .fmul d _ _ _
  | .ffma d _ _ _ | .fmin d _ _ _ | .fmax d _ _ _ => some d
  | _ => none

/-- The destination of an instruction that only computes a predicate. -/
def predDest : Instr → Option PReg
  | .pcmp d _ _ _ | .pcmpi _ d _ _ | .plog d _ _ _ | .fcmp d _ _ _ _ => some d
  | _ => none

/-- The destination of an instruction that only computes an address register. -/
def addrDest : Instr → Option AReg
  | .amov d _ | .aadd d _ _ | .aaddi d _ _ => some d
  | _ => none

/-- The instructions of the three kinds that round once and so advance SRS (11 R292). -/
def roundsOnce : Instr → Bool
  | .fadd _ _ _ _ | .fsub _ _ _ _ | .fmul _ _ _ _ | .ffma _ _ _ _ => true
  | _ => false

/-- The instruction reads the head of q4 or of q6, and so acquires: lines of its core's first-level cache go (06 R145, 09 R240, R244). -/
def acquires (s : State) (x : Nat) (i : Instr) : Bool := (soloAt s x i).heads.contains 4 || (soloAt s x i).heads.contains 6

/-- A context `u` is as `o` was but for its scalar, address and predicate registers, its loop stack, SRS, STAT and where it stands. -/
def SameCtx (o u : Ctx) : Prop :=
  { u with s := o.s, a := o.a, p := o.p, lsCnt := o.lsCnt, lsBody := o.lsBody, srs := o.srs, stat := o.stat, pc := o.pc, grp := o.grp,
           atLand := o.atLand, held := o.held, kept := o.kept } = o

/-- A core `u` is as `o` was but for its contexts, what is in flight and awaited, its issue cycles, its interval's record and the lines of its
first-level cache. -/
def SameCore (o u : Core) : Prop :=
  { u with ctxs := o.ctxs, ic := o.ic, sliceUsed := o.sliceUsed, pend := o.pend, arrivals := o.arrivals, shadow := o.shadow,
           l1 := o.l1 } = o

/-! ### Commands -/

/-- The command in hand is command c, and it runs (03 R69). -/
def InHand (s : State) (c : Cmd) : Prop := cmdOf s s.focus.die s.focus.cid = some c ∧ c.state = 2

/-- The command in hand is who asks other modules' dies (01 R20). -/
def cmdAsker (s : State) : Asker := .cmd s.focus.die s.focus.cid

/-- The state a command's step is made of. -/
def cmdState (s : State) : State := beginAsking s (cmdAsker s)

/-- The step of the command in hand leaves the state t of `cmdState s`, where it lacks no response of another module's die and no page that
migrates. -/
def CmdGoes (s : State) (i : Instr) (t : State) : Prop := t.mod.want = .nothing → exec i s = .next (asked s t (cmdAsker s))

/-- The step that leaves t of `cmdState s` waits where it lacks something: nothing of it is made but the request it sends, and the command is tried
again (10 R262). -/
def CmdWaits (s : State) (i : Instr) (t : State) : Prop :=
  t.mod.want ≠ .nothing → exec i s = .next (waitCmd (endAsking s t (cmdAsker s)).1 s.focus.die s.focus.cid)

/-- The step brings the command in hand to its end: it leaves the state t of `cmdState s`, in which the command's finish is due with a code, 0 for
none (03 R70, R79). -/
def Ends (s : State) (i : Instr) (t : State) (code : Nat) : Prop := CmdGoes s i (finishCmd t s.focus.die s.focus.cid code)

/-! ### Steps outside commands and bundles -/

/-- The state such a step is made of: it asks other modules' dies as itself (01 R20). -/
def stepState (s : State) (i : Instr) : State := beginAsking s (.step i 0 0)

/-- The step leaves the state t of `stepState s i`, where it lacks no response of another module's die and no page that migrates. -/
def StepGoes (s : State) (i : Instr) (t : State) : Prop := t.mod.want = .nothing → exec i s = .next (asked s t (.step i 0 0))

/-- The step that leaves t of `stepState s i` waits where it lacks something: nothing of it is made but the request it sends, and it is tried
again. -/
def StepWaits (s : State) (i : Instr) (t : State) : Prop :=
  t.mod.want ≠ .nothing → exec i s = .next (waitCredit (endAsking s t (.step i 0 0)).1 i)

/-- A step ends in a next state. -/
def Goes (o : Host.Outcome State Fault Refusal) : Prop := ∃ t, o = .next t

end Sys2Proof.Machine
end

