-- ==== Sys2Proof/Certificates/Slice0/Obligations.lean ====
section
/-! DEFINITION. The statements about the machine. -/

open Sys2Proof Sys2Proof.Machine

/-! ### Scalar instructions -/

/-- 14 R377, 11 R294, R295: the integer operations on registers, their results and latencies. -/
def Obligations.IntegerResultsOfRegisters : Prop :=
  ∀ (s : State) (x : Nat) (d a b : SCode) (p : PReg),
    let A := operand s x a
    let B := operand s x b
    Writes s x (.add d a b) 1 d (A + B) ∧ Writes s x (.sub d a b) 1 d (A - B) ∧
    Writes s x (.mul d a b) 3 d (A * B) ∧
    Writes s x (.mulh d a b) 3 d (BitVec.ofInt 64 (A.toInt * B.toInt / 2 ^ 64)) ∧
    Writes s x (.mulhu d a b) 3 d (BitVec.ofNat 64 (A.toNat * B.toNat / 2 ^ 64)) ∧
    Writes s x (.and d a b) 1 d (A &&& B) ∧ Writes s x (.or d a b) 1 d (A ||| B) ∧ Writes s x (.xor d a b) 1 d (A ^^^ B) ∧
    Writes s x (.andn d a b) 1 d (A &&& ~~~B) ∧
    Writes s x (.shl d a b) 1 d (A <<< (B.toNat % 64)) ∧ Writes s x (.shr d a b) 1 d (A >>> (B.toNat % 64)) ∧
    Writes s x (.sar d a b) 1 d (A.sshiftRight (B.toNat % 64)) ∧ Writes s x (.rol d a b) 1 d (A.rotateLeft (B.toNat % 64)) ∧
    Writes s x (.min d a b) 1 d (if A.toInt ≤ B.toInt then A else B) ∧ Writes s x (.max d a b) 1 d (if B.toInt ≤ A.toInt then A else B) ∧
    Writes s x (.minu d a b) 1 d (if A.toNat ≤ B.toNat then A else B) ∧ Writes s x (.maxu d a b) 1 d (if B.toNat ≤ A.toNat then A else B) ∧
    Writes s x (.clz d a) 1 d (if A = 0 then 64 else BitVec.ofNat 64 (63 - Nat.log2 A.toNat)) ∧
    Writes s x (.popc d a) 1 d (BitVec.ofNat 64 ((List.range 64).countP A.getLsbD)) ∧
    Writes s x (.sel d a b p) 1 d (if predOf s x p then A else B)

/-- 11 R295: quotients and remainders, with DZ for a divisor 0. -/
def Obligations.DivisionResultsAndFlag : Prop :=
  ∀ (s : State) (x : Nat) (d a b : SCode),
    let A := operand s x a
    let B := operand s x b
    let dz := if B = 0 then [Land.flags (BitVec.ofNat 64 flagDZ)] else []
    Results s x (.div d a b) 18 (dstLand d (if B = 0 then 0 else BitVec.ofInt 64 (A.toInt.tdiv B.toInt)) ++ dz) ∧
    Results s x (.divu d a b) 18 (dstLand d (if B = 0 then 0 else A / B) ++ dz) ∧
    Results s x (.rem d a b) 18 (dstLand d (if B = 0 then A else BitVec.ofInt 64 (A.toInt.tmod B.toInt)) ++ dz) ∧
    Results s x (.remu d a b) 18 (dstLand d (if B = 0 then A else A % B) ++ dz)

/-- 14 R378, R379, 13 R337: immediates are sign-extended to 64 bits; shift counts are plain. -/
def Obligations.IntegerResultsOfImmediates : Prop :=
  ∀ (s : State) (x : Nat) (d a : SCode) (imm : BitVec 12) (sh : BitVec 6) (i18 : BitVec 18) (k : BitVec 2) (i16 : BitVec 16),
    let A := operand s x a
    let D := operand s x d
    Writes s x (.addi d a imm) 1 d (A + imm.signExtend 64) ∧ Writes s x (.andi d a imm) 1 d (A &&& imm.signExtend 64) ∧
    Writes s x (.ori d a imm) 1 d (A ||| imm.signExtend 64) ∧ Writes s x (.xori d a imm) 1 d (A ^^^ imm.signExtend 64) ∧
    Writes s x (.shli d a sh) 1 d (A <<< sh.toNat) ∧ Writes s x (.shri d a sh) 1 d (A >>> sh.toNat) ∧
    Writes s x (.sari d a sh) 1 d (A.sshiftRight sh.toNat) ∧ Writes s x (.roli d a sh) 1 d (A.rotateLeft sh.toNat) ∧
    Writes s x (.movi d i18) 1 d (i18.signExtend 64) ∧
    ∃ v : Word, Writes s x (.insh d k i16) 1 d v ∧
      ∀ n, n < 64 → v.getLsbD n = if 16 * k.toNat ≤ n ∧ n < 16 * k.toNat + 16 then i16.getLsbD (n - 16 * k.toNat) else D.getLsbD n

/-- 14 R363, R364, R380 to R382: predicates, address registers, the loop index and control registers. A write to FMT, SHP or RMODE
lands 5 issue cycles later (07 R187). -/
def Obligations.PredicateAddressAndControlResults : Prop :=
  ∀ (s : State) (x : Nat) (d a b : SCode) (pd pa pb : PReg) (ad aa : AReg) (cond depth : BitVec 3) (imm : BitVec 12) (tt : BitVec 4),
    let A := operand s x a
    let B := operand s x b
    let holds := fun (c : BitVec 3) (u v : Word) =>
      c = 0 ∧ u = v ∨ c = 1 ∧ u ≠ v ∨ c = 2 ∧ u.toInt < v.toInt ∨ c = 3 ∧ v.toInt ≤ u.toInt ∨ c = 4 ∧ u.toNat < v.toNat ∨
      c = 5 ∧ v.toNat ≤ u.toNat ∨ c = 6 ∧ u &&& v ≠ 0 ∨ c = 7 ∧ u &&& v = 0
    (∃ r : Bool, Results s x (.pcmp pd a b cond) 1 [.pred pd.toNat r] ∧ (r = true ↔ holds cond A B)) ∧
    (∃ r : Bool, Results s x (.pcmpi cond pd a imm) 1 [.pred pd.toNat r] ∧ (r = true ↔ holds cond A (imm.signExtend 64))) ∧
    Results s x (.plog pd pa pb tt) 1 [.pred pd.toNat (tt.getLsbD (2 * (predOf s x pa).toNat + (predOf s x pb).toNat))] ∧
    Results s x (.amov ad a) 1 [.addr ad.toNat A] ∧ Results s x (.aadd ad aa b) 1 [.addr ad.toNat (addrOf s x aa + B)] ∧
    Results s x (.aaddi ad aa imm) 1 [.addr ad.toNat (addrOf s x aa + imm.signExtend 64)] ∧
    Writes s x (.aget d aa) 1 d (addrOf s x aa) ∧
    Writes s x (.lidx d depth) 1 d (loopIndex (ctxOf s s.turn x) depth.toNat) ∧
    Results s x (.mtc a imm) (if imm = 1 ∨ imm = 2 ∨ imm = 3 then 5 else 1) [.control imm.toNat A] ∧
    Writes s x (.mfc d imm) 1 d (readCr s s.turn x imm.toNat)

/-- 14 R383 to R385: scalar floating point, 4 issue cycles; sums, products and conversions round once under RMODE and advance SRS. -/
def Obligations.ScalarFloatingResults : Prop :=
  ∀ (s : State) (x : Nat) (d a b : SCode) (pd : PReg) (cond : BitVec 3) (t64 : Bool) (dt st : BitVec 4),
    let t := ctxOf s s.turn x
    let ty := if t64 then 1 else 0
    let w := if t64 then 64 else 32
    let A := decodeFp ty ((operand s x a).toNat % 2 ^ w)
    let B := decodeFp ty ((operand s x b).toNat % 2 ^ w)
    let D := decodeFp ty ((operand s x d).toNat % 2 ^ w)
    let rdn := (rndOf t).mode == 2
    let rounded := fun (i : Instr) (v : Val × Nat) =>
      let r := roundFp ty (rndOf t) 0 v.1
      Yields s x i (srsStep (slotState s x i) s.turn x true) ((dstLand d (BitVec.ofNat 64 r.val) ++ flagLand (r.flags ||| v.2)).map (4, ·)) [] .next
    let exact := fun (i : Instr) (v : Val) => Writes s x i 4 d (BitVec.ofNat 64 (roundFp ty rne 0 v).val)
    let r := roundTy dt.toNat (rndOf t) 0 (decodeVal st.toNat ((operand s x a).toNat % 2 ^ tyWidth st.toNat))
    rounded (.fadd d a b t64) (addVal rdn A B) ∧ rounded (.fsub d a b t64) (addVal rdn A B.neg) ∧ rounded (.fmul d a b t64) (mulVal A B) ∧
    rounded (.ffma d a b t64) (fmaVal rdn A B D) ∧ exact (.fmin d a b t64) (minVal A B) ∧ exact (.fmax d a b t64) (maxVal A B) ∧
    Results s x (.fcmp pd a b cond t64) 4 [.pred pd.toNat (fcond cond.toNat A B)] ∧
    (dt.toNat < 14 → st.toNat < 14 →
      Yields s x (.fcvt d a dt st) (srsStep (slotState s x (.fcvt d a dt st)) s.turn x (convRounds st.toNat dt.toNat false))
        ((dstLand d (if isSIntTy dt.toNat then BitVec.ofInt 64 (toSigned (tyWidth dt.toNat) r.val) else BitVec.ofNat 64 r.val) ++ flagLand r.flags ++
          amxLands (narrowing st.toNat dt.toNat false) [decodeVal st.toNat ((operand s x a).toNat % 2 ^ tyWidth st.toNat)]).map (4, ·)) [] .next)

/-! ### The sequencer -/

/-- 14 R355 to R357: transfers of control; CALL and CALLI leave the next bundle's address in lk (s55). A transfer to an address that fails
its tests traps with BAD_TARGET, EINFO the address. -/
def Obligations.TransfersOfControl : Prop :=
  ∀ (s : State) (x : Nat) (a : SCode) (p : PReg) (n : Bool) (disp : BitVec 20),
    let t := ctxOf s s.turn x
    let y : Word := BitVec.ofNat 64 t.pc.toNat + disp.signExtend 64 * 4
    let link := [Land.scalar 55 (BitVec.ofNat 64 (nextPc s x))]
    let bad := fun (y : Word) (i : Instr) => targetOk (coreOf s s.turn) x t.priv y = false → TakesTrap s x i 5 y
    Transfers s x (.br disp) y [] ∧
    ((predOf s x p != n) = true → Transfers s x (.brp p n disp) y []) ∧
    ((predOf s x p != n) = false → Results s x (.brp p n disp) 1 []) ∧
    Transfers s x (.call disp) y link ∧ Transfers s x (.calli a) (operand s x a) link ∧
    Transfers s x (.jmpi a) (operand s x a) [] ∧ Transfers s x .ret (sReg t 55) [] ∧
    bad y (.br disp) ∧ ((predOf s x p != n) = true → bad y (.brp p n disp)) ∧ bad y (.call disp) ∧ bad (operand s x a) (.calli a) ∧
    bad (operand s x a) (.jmpi a) ∧ bad (sReg t 55) .ret

/-- 14 R358 to R362: LOOP and LOOPI push the lowest inactive entry of the loop stack, or skip their body when the count is 0; LBRK leaves
the innermost loop, and without one changes nothing. -/
def Obligations.LoopsBeginAndEnd : Prop :=
  ∀ (s : State) (x j : Nat) (a : SCode) (cnt len : BitVec 12),
    let k := coreOf s s.turn
    let t := ctxOf s s.turn x
    let enter := fun (i : Instr) (n : Nat) =>
      (n ≠ 0 → j < 6 → loopActive t j = false → (∀ h < j, loopActive t h = true) →
        Yields s x i (slotState s x i)
          [(1, .control (0x20 + 2 * j) (BitVec.ofNat 64 n)),
           (1, .control (0x21 + 2 * j) (BitVec.ofNat 64 (2 ^ 63 + len.toNat * 2 ^ 18 + nextPc s x)))] [] .loop) ∧
      (n = 0 → Transfers s x i (BitVec.ofNat 64 (walkBundles k len.toNat (nextPc s x))) [])
    enter (.loop a len) (fld (operand s x a) 31 0) ∧ enter (.loopi cnt len) cnt.toNat ∧
    (innermost t = none → Results s x .lbrk 1 []) ∧
    (innermost t = some j →
      Transfers s x .lbrk (BitVec.ofNat 64 (nextAddr k (loopLast k t j))) [.control (0x21 + 2 * j) (setFld (tabGet 0 t.lsBody j) 63 63 0)])

/-- 14 R365 to R367, 08 R198: PHASE names a new boundary, or the present one; a checkpoint precedes CKPT's bundle; YIELD. -/
def Obligations.PhaseCheckpointAndYield : Prop :=
  ∀ (s : State) (x : Nat) (u : BitVec 12),
    let k := coreOf s s.turn
    (u.toNat = k.spadUnits → Results s x (.phase u) 1 []) ∧
    (u.toNat ≠ k.spadUnits → (u.toNat < k.spadUnits → runAbove k x u.toNat = none) →
      Yields s x (.phase u) (moveBoundary (slotState s x (.phase u)) s.turn u.toNat) [] [] .next ∧
      let m := coreOf (moveBoundary (slotState s x (.phase u)) s.turn u.toNat) s.turn
      m.spadUnits = u.toNat ∧ m.drain = some (m.ic + 256 * (max u.toNat k.spadUnits - min u.toNat k.spadUnits), k.spadUnits)) ∧
    Results s x .ckpt 1 [] ∧ Yields s x .yield (slotState s x .yield) [] [] (.leave .yield)

/-- 14 R368 to R371: SPAWN's result is that of admitting its table, unless its admission meets a migrating page (log 21); JOIN gives the
summary of a join whose count has reached its target, and bit 31 alone for a word that names no join of the context; TKILL gives the number of
children it killed; EXIT ends the task. -/
def Obligations.ChildTasksAndExit : Prop :=
  ∀ (s : State) (x : Nat) (d a b : SCode) (die : Bool),
    let e := soloEnv s x
    let z := slotState s x
    let r := spawnRun (z (.spawn d a b die)) (e (.spawn d a b die)) (operand s x d) (operand s x a) (operand s x b) die
    let own := ownJoin s (e (.join d a)) (operand s x a)
    (r.2.toNat ≠ waitErr → Yields s x (.spawn d a b die) r.1 ((dstLand d r.2).map (1, ·)) [] .next) ∧
    (fld (operand s x a) 5 0 ≠ 0 → r = (z (.spawn d a b die), 3)) ∧ (4096 < (operand s x b).toNat → r = (z (.spawn d a b die), 3)) ∧
    (own = none → Writes s x (.join d a) 1 d 0x80000000) ∧
    (∀ j rec', own = some (j, rec') → rec'.target.toNat ≤ rec'.count.toNat →
      Yields s x (.join d a) (dropAllClean (z (.join d a)) s.turn) ((dstLand d (joinWord rec')).map (1, ·)) [] .next) ∧
    (own = none → Writes s x (.tkill d a b) 1 d 0) ∧
    (∀ j rec', own = some (j, rec') →
      let kids := (joinChildren s (dieOfCore s.turn) j).filter fun p => operand s x b == BitVec.allOnes 64 || p.2 == (operand s x b).toNat
      Yields s x (.tkill d a b) (killAll killFuel (kids.map (·.1)) (z (.tkill d a b))) ((dstLand d (BitVec.ofNat 64 kids.length)).map (1, ·)) [] .next) ∧
    Yields s x .exit (z .exit) [] [] (.leave .exit)

/-- 14 R372 to R375: TRAP, SYSC and BRK trap with their immediate in EINFO; ERET, CTXSW and HALT go on at EPC, or at the bundle after it;
a CTXSW whose choice is the interrupted context itself is an ERET, whose target may fail. -/
def Obligations.ProgramTrapsAndReturns : Prop :=
  ∀ (s : State) (x : Nat) (imm : BitVec 18) (a : SCode) (nx : Bool),
    let k := coreOf s s.turn
    let epc := fld (ctxOf s s.turn x).epc 17 0
    let y := if nx then nextAddr k epc else epc
    TakesTrap s x (.trap imm) 0x14 (imm.setWidth 64) ∧ TakesTrap s x (.sysc imm) 0x13 (imm.setWidth 64) ∧
    TakesTrap s x (.brk imm) 0x15 (imm.setWidth 64) ∧
    (targetOk k x false (BitVec.ofNat 64 y) = true → Yields s x (.eret nx) (slotState s x (.eret nx)) [] [] (.leave (.eret y))) ∧
    (targetOk k x false (BitVec.ofNat 64 y) = false → TakesTrap s x (.eret nx) 5 (BitVec.ofNat 64 y)) ∧
    (choosesSelf s s.turn x (operand s x a) = false ∨ targetOk k x false (BitVec.ofNat 64 y) = true →
      Yields s x (.ctxsw a nx) (slotState s x (.ctxsw a nx)) [] [] (.leave (.ctxsw (operand s x a) y))) ∧
    (choosesSelf s s.turn x (operand s x a) = true → targetOk k x false (BitVec.ofNat 64 y) = false →
      TakesTrap s x (.ctxsw a nx) 5 (BitVec.ofNat 64 y)) ∧
    Yields s x (.halt nx) (slotState s x (.halt nx)) [] [] (.leave (.halt y))

/-! ### Memory -/

/-- 15 R386, R389: scalar loads by what the access of their bytes gives; addresses that are no multiple of the size trap with ALIGN. -/
def Obligations.ScalarLoads : Prop :=
  ∀ (s s' : State) (x : Nat) (d : SCode) (ab : AReg) (sz : BitVec 2) (off : BitVec 12) (bs : List Byte),
    let va : Word := addrOf s x ab + off.signExtend 64 * BitVec.ofNat 64 (2 ^ sz.toNat)
    let n := 2 ^ sz.toNat
    let reply := fun (v : Word) => ({ ctx := x, dst := some d.toNat, val := .data v, p7 := some true } : Arrival)
    let plain := fun (i : Instr) (hint : Nat) (signed : Bool) =>
      (va.toNat % n = 0 → coreRead (slotState s x i) s.turn x va.toNat n hint false = (s', .bytes bs) →
        Yields s x i s' [] [reply (if signed then BitVec.ofInt 64 (toSigned (8 * n) (leNat bs)) else BitVec.ofNat 64 (leNat bs % 2 ^ (8 * n)))] .next) ∧
      (va.toNat % n = 0 → coreRead (slotState s x i) s.turn x va.toNat n hint false = (s', .nonres) →
        Yields s x i s' [] [{ ctx := x, dst := some d.toNat, p7 := some false }] .next) ∧
      (va.toNat % n ≠ 0 → TakesTrap s x i 8 va)
    plain (.ld d ab sz off) 0 false ∧ plain (.lds d ab sz off) 0 true ∧ plain (.ldlu d ab sz off) 3 false

/-- 15 R386, R390, R404: a scalar store writes the low bytes of its register where its address resolves; p7 tells of a page that is not
resident. -/
def Obligations.ScalarStores : Prop :=
  ∀ (s s' : State) (x : Nat) (b : SCode) (ab : AReg) (sz : BitVec 2) (off : BitVec 12),
    let va : Word := addrOf s x ab + off.signExtend 64 * BitVec.ofNat 64 (2 ^ sz.toNat)
    let n := 2 ^ sz.toNat
    let go := coreWrite (slotState s x (.st b ab sz off)) s.turn x va.toNat (leBytes n (operand s x b).toNat) 0 false
    (∀ bs, va.toNat % n = 0 → go = (s', .bytes bs) → Yields s x (.st b ab sz off) s' [] [{ ctx := x, store := true, p7 := some true }] .next) ∧
    (va.toNat % n = 0 → go = (s', .nonres) → Yields s x (.st b ab sz off) s' [] [{ ctx := x, store := true, p7 := some false }] .next) ∧
    (va.toNat % n ≠ 0 → TakesTrap s x (.st b ab sz off) 8 va)

/-- 15 R404: CFLUSH and CDISC act on a line of a WB or WBDC page that permits reading, or writing; one that does not is PROT; on other memory,
system space and pages that are not resident among it, they change nothing. CPREF reads the line of any WB or WBDC page into the caches, and does nothing
elsewhere or where it fails. -/
def Obligations.CacheLineInstructions : Prop :=
  ∀ (s : State) (x : Nat) (ab : AReg) (off : BitVec 12),
    let va : Word := addrOf s x ab + off.signExtend 64 * 8
    let asid := (ctxOf s s.turn x).asid
    let z := slotState s x
    let at_ := fun (i : Instr) => lineLoc (z i) s.turn asid va.toNat
    let i := Instr.cflush ab off
    let j := Instr.cdisc ab off
    let k := Instr.cpref ab off
    let late := fun (i : Instr) (t : State) => Ready s x i → exec i s = .next (trapRunning t s.turn x
      { cause := 0x09, slot := 3, late := true, info := va })
    (va.toNat / 2 ^ 56 = 0xFF → Yields s x i (z i) [] [] .next ∧ Yields s x j (z j) [] [] .next ∧ Yields s x k (z k) [] [] .next) ∧
    (va.toNat / 2 ^ 56 ≠ 0xFF →
      (∀ h pa ca rd wr, at_ i = .page h pa ca rd wr →
        (rd = true → Yields s x i (l1FlushLine (z i) s.turn asid (va.toNat / 64)) [] [] .next) ∧
        (rd = false → late i s)) ∧
      (∀ h pa ca rd wr, at_ j = .page h pa ca rd wr →
        let m := (resolve (z j) (clusterOfCore s.turn) asid va.toNat 1 ⟨false, true, false, true⟩).1
        (wr = true → Yields s x j
          (modDie (discardLine m s.turn asid (va.toNat / 64)) h fun d => { d with cache := dcDrop d.cache (pa / 64) }) [] [] .next) ∧
        (wr = false → late j s)) ∧
      (at_ i = .quiet → Yields s x i (z i) [] [] .next) ∧ (at_ j = .quiet → Yields s x j (z j) [] [] .next) ∧
      (∀ h pa ca rd wr, at_ k = .page h pa ca rd wr →
        Yields s x k (cachedRead (z k) s.turn asid (va.toNat / 64 * 64) h (pa / 64 * 64) 64 ⟨ca, 0⟩).1 [] [] .next) ∧
      ((∀ h pa ca rd wr, at_ k ≠ .page h pa ca rd wr) → Yields s x k (z k) [] [] .next))

/-- 15 R394, R395: tile loads and stores, row by row, with the mask of the elements that were resident; the elements of rows that meet are
stored in a free order (log 46). -/
def Obligations.TileLoadsAndStores : Prop :=
  ∀ (s : State) (x : Nat) (v : VReg) (ab : AReg) (ps : SCode) (mk : MReg) (hint : BitVec 2),
    let t := ctxOf s s.turn x
    let base := addrOf s x ab
    let pitch := operand s x ps
    let m := mReg t mk.toNat
    let rows := List.range (shpRows t)
    let z := slotState s x (.vst v ab ps mk hint)
    let ld := rows.foldl (loadRow t s.turn x base pitch m mk hint.toNat) { s := slotState s x (.vld v ab ps mk hint), mask := m }
    let st := (storeUnits z t base pitch m mk).foldl (storeRow t s.turn x (tileOf s v) base pitch m mk hint.toNat)
      { s := usedUnits z t base pitch m mk, mask := m }
    let reply := fun (a : TileGot) =>
      ({ ctx := x, mask := if mk == 0 then none else some (mk.toNat, a.mask), flags := if mk == 0 && a.nres then BitVec.ofNat 64 flagNRES else 0 } : Arrival)
    (tileTrap t base pitch m mk = none → ld.fails = [] →
      Yields s x (.vld v ab ps mk hint) ld.s [] [{ reply ld with tile := some (v.toNat, BitVec.ofNat 262144 ld.data, BitVec.ofNat 262144 ld.sel) }] .next) ∧
    (tileTrap t base pitch m mk = none → st.fails = [] → Yields s x (.vst v ab ps mk hint) st.s [] [{ reply st with store := true }] .next) ∧
    (∀ z w, tileTrap t base pitch m mk = some (z, w) → TakesTrap s x (.vld v ab ps mk hint) z w ∧ TakesTrap s x (.vst v ab ps mk hint) z w)

/-- 08 R207 to R209, 15 R391 to R393, 09 R235: a full/empty access whose word lies on a die of this module: LDW and LDC take effect on a
full word, STF on an empty one; the try forms tell in p6 whether they did; FEQ gives F and W; FEMK writes F. -/
def Obligations.FullEmptyAccesses : Prop :=
  ∀ (s s1 : State) (x : Nat) (d b : SCode) (aa : AReg) (sc ord : BitVec 3) (h pa : Nat) (ce : Bool),
    let va := addrOf s x aa
    let v := operand s x b
    let e := soloEnv s x
    let full := fullBit (dieOf s1 h) pa
    let here := fun (i : Instr) (wr : Bool) => va.toNat % 8 = 0 ∧ feLoc (slotState s x i) (e i) va wr = (s1, .word h pa ce)
    let clean := ¬(ce && badCheck s1 h pa 8) = true
    let word := fun (i : Instr) => feWord s1 (e i) h pa va
    let got := fun (i : Instr) (t : State) => feAcquire (wakeWord t h (pa / 8)) (e i) h pa va sc ord
    let taken := fun (r : State × Word) => (clearReleases r.1 h (.word pa), r.2)
    let lands := fun (i : Instr) (r : State × Word) (p6 : Option Bool) =>
      Yields s x i r.1 [] [{ ctx := x, dst := some d.toNat, val := .data (word i), p6 := p6, p7 := some true, flags := r.2 }] .next
    let stored := fun (i : Instr) (t : State) (p6 : Option Bool) => Yields s x i t [] [{ ctx := x, store := true, p6 := p6, p7 := some true }] .next
    let ldw := Instr.ldw d aa sc ord
    let ldc := Instr.ldc d aa sc ord
    let ldct := Instr.ldct d aa sc ord
    let stf := Instr.stf aa b sc ord
    let stft := Instr.stft aa b sc ord
    let feq := Instr.feq d aa sc ord
    let femk := Instr.femk aa b sc ord
    (here ldw false → clean → full = true → lands ldw (got ldw (modCtx s1 s.turn x (noteRead · va.toNat))) none) ∧
    (here ldc true → clean → full = true → lands ldc (taken (got ldc (putFull s1 h pa false))) none) ∧
    (here ldct true → clean → full = true → lands ldct (taken (got ldct (putFull s1 h pa false))) (some true)) ∧
    (here ldct true → clean → full = false →
      Yields s x ldct s1 [] [{ ctx := x, store := true, p6 := some false, p7 := some true }] .next) ∧
    (here stf true → full = false → stored stf (feFill s1 (e stf) h pa va v sc ord) none) ∧
    (here stft true → full = false → stored stft (feFill s1 (e stft) h pa va v sc ord) (some true)) ∧
    (here stft true → full = true → stored stft s1 (some false)) ∧
    (here feq false →
      let r := feAcquire (modCtx s1 s.turn x (noteRead · va.toNat)) (e feq) h pa va sc ord
      Yields s x feq r.1 []
        [{ ctx := x, dst := some d.toNat, val := .data (BitVec.ofNat 64 (full.toNat + 2 * (waitBit (dieOf s1 h) pa).toNat)), p7 := some true, flags := r.2 }] .next) ∧
    (here femk true →
      stored femk (feRelease (clearReleases (wakeWord (putFull (fePublish s1 (e femk) va ord) h pa (v.getLsbD 0)) h (pa / 8)) h (.word pa)) (e femk) h pa sc ord) none)

/-! ### Counters, rings, fences and bindings -/

/-- 15 R396 to R399, 09 R235: counters of this module, and rings. CADD gives the value before its addition; CWAIT goes on when the counter
has reached its threshold; CREAD reads; RBACQ gives the address of the next buffer when one is free; RBREL releases one. -/
def Obligations.CountersAndRings : Prop :=
  ∀ (s : State) (x h : Nat) (d a b : SCode) (ad : AReg) (sc ord : BitVec 3),
    let id := ctrId (operand s x a)
    let here := routed s (ctrDie id) = true ∧ localDie s (ctrDie id) = some h
    let old := ctrVal s h (ctrIdx id)
    let inc := operand s x b
    let e := soloEnv s x
    let z := slotState s x
    let scope := if ord.getLsbD 1 then some sc.toNat else none
    let reply := fun (f : Word) => ({ ctx := x, dst := some d.toNat, val := .data old, flags := f } : Arrival)
    let ring := fld (operand s x a) 9 0
    let r := ringOf (z (.rbacq ad a sc)) (dieOfCore s.turn) ring
    let q := ringOf (z (.rbrel a sc)) (dieOfCore s.turn) ring
    let took := takeTicket (z (.rbacq ad a sc)) (e (.rbacq ad a sc)) ring r
    (here → (ctxOf s s.turn x).spec = none → old.toNat + inc.toNat ≤ ctrMax →
      let s1 := (coreAdd (z (.cadd d a b sc ord)) s.turn id inc scope).1
      let s2 := if ord.getLsbD 0 then ctrAcquire s1 (e (.cadd d a b sc ord)) h id sc.toNat else (s1, 0)
      Yields s x (.cadd d a b sc ord) s2.1 [] [reply s2.2] .next) ∧
    (here → (operand s x b).toNat ≤ old.toNat →
      let w := z (.cwait d a b sc ord)
      let s2 := if ord = 1 then ctrAcquire w (e (.cwait d a b sc ord)) h id sc.toNat else (w, 0)
      Yields s x (.cwait d a b sc ord) s2.1 [] [reply s2.2] .next) ∧
    (here →
      let w := z (.cread d a sc ord)
      let s2 := if ord = 1 then ctrAcquire w (e (.cread d a sc ord)) h id sc.toNat else (w, 0)
      Yields s x (.cread d a sc ord) s2.1 [] [reply s2.2] .next) ∧
    (ringOk s r = true →
      let s1 := modCtx took.1 s.turn x fun t => { t with ticket := some (ring, took.2) }
      let s2 := modCtx s1 s.turn x fun t => { t with ticket := none, bufs := t.bufs ++ [(ring, took.2)] }
      took.2.toNat + 1 ≤ (ctrById s1 r.rel.toNat).toNat + r.n → ∀ g, localDie s2 (ctrDie r.rel.toNat) = some g →
      let s3 := ctrAcquire s2 (e (.rbacq ad a sc)) g r.rel.toNat sc.toNat
      Yields s x (.rbacq ad a sc) s3.1 []
        [{ ctx := x, adst := some (ad.toNat, r.base + BitVec.ofNat 64 (took.2.toNat % r.n * r.stride)), flags := s3.2 }] .next) ∧
    (ringOk s q = true → (ctxOf s s.turn x).spec = none →
      Yields s x (.rbrel a sc) (coreAdd (modCtx (z (.rbrel a sc)) s.turn x (dropBuf · ring)) s.turn q.rel.toNat 1 (some sc.toNat)).1 [] [] .next)

/-- 15 R400 to R405, R407: fences, curtains, bindings, page requests, accumulator atomics and TLB invalidation, on dies of this module. -/
def Obligations.FencesBindingsAndInvalidation : Prop :=
  ∀ (s : State) (x h : Nat) (d b : SCode) (aa : AReg) (sc ord mode : BitVec 3),
    let va := addrOf s x aa
    let v := operand s x b
    let asid := (ctxOf s s.turn x).asid
    let id := ctrId v
    let z := slotState s x
    let req : PgReq := { asid := asid, va := va, ctr := BitVec.ofNat 20 id, core := s.turn, ctx := x }
    let ob := va.toNat / 2 ^ 56
    let region := va.toNat % 256 = 0 ∧ v ≠ 0 ∧ v.toNat ≤ 2 ^ 32 ∧ ob < 0xFC ∧ (va.toNat + 256 * v.toNat - 1) / 2 ^ 56 = ob ∧ routed s ob = true ∧
      localDie s ob = some h
    Yields s x (.fence sc 0) (fenceEngines (z (.fence sc 0)) s.turn x) [] [] .next ∧
    (ord ≠ 0 →
      let s1 := if ord.getLsbD 1 then releaseAll (z (.fence sc ord)) s.turn else z (.fence sc ord)
      Yields s x (.fence sc ord) (if ord.getLsbD 0 && sc != 0 then dropAllClean s1 s.turn else s1) [] [] .next) ∧
    (∀ q, localDie s (va.toNat / 2 ^ 56) = some h → curtainOf s h asid va.toNat = some q →
      Yields s x (.publ aa sc) (raise (releaseBound (z (.publ aa sc)) s.turn (.curtain (BitVec.ofNat 64 (q.back * 65536)))) (.core s.turn) sc.toNat h q) [] [] .next) ∧
    (va.toNat % 8 ≠ 0 → TakesTrap s x (.tlbi aa b) 8 va) ∧
    (region →
      let o := operand s x d
      let pages := (va.toNat % 65536 + 256 * v.toNat + 65535) / 65536
      let l := fun (obj : BindObj) => bindBlocks (dieOf s h).binds asid (va.toNat / 256) v.toNat (some obj)
      let clear := (dieOf s h).curtains.any (overCurtain asid (va.toNat / 65536) pages) = false
      let q : Curtain := ⟨asid, va.toNat / 65536, v.toNat / 256, o.toNat / 65536, false⟩
      (clear → bindsOver (l (.ctr (o.setWidth 20))) asid = false →
        Yields s x (.bind d aa b 0) (modDie (z (.bind d aa b 0)) h fun k => { k with binds := l (.ctr (o.setWidth 20)) }) [] [] .next) ∧
      (o.toNat % 8 = 0 → clear → bindsOver (l (.word o)) asid = false →
        Yields s x (.bind d aa b 1) (modDie (z (.bind d aa b 1)) h fun k => { k with binds := l (.word o) }) [] [] .next) ∧
      (curtainOk s h asid va v o = true → bindsOver (l (.curtain o)) asid = false →
        Yields s x (.bind d aa b 2) (modDie (z (.bind d aa b 2)) h fun k => { k with
          binds := l (.curtain o),
          curtains := if k.curtains.any (fun p => p.asid == asid && p.base == q.base) then k.curtains else k.curtains ++ [q] }) [] [] .next)) ∧
    (region →
      let lo := va.toNat / 256
      let hit := (dieOf s h).curtains.filter fun q => q.asid == asid && decide (256 * q.base < lo + v.toNat) && decide (lo < 256 * (q.base + q.len))
      let l := bindBlocks (dieOf s h).binds asid lo v.toNat none
      (∀ q ∈ hit, lo ≤ 256 * q.base ∧ 256 * (q.base + q.len) ≤ lo + v.toNat) → bindsOver l asid = false →
      Yields s x (.unbind aa b) (hit.foldl (fun s q => removeCurtain s h q) (modDie (z (.unbind aa b)) h fun k => { k with binds := l })) [] [] .next) ∧
    (routed s (ctrDie id) = true → va.toNat / 2 ^ 56 < 0xFC → routed s (va.toNat / 2 ^ 56) = true → localDie s (va.toNat / 2 ^ 56) = some h →
      (pgCase (z (.pgreq aa b)) h asid va.toNat = .later → Yields s x (.pgreq aa b) (modDie (z (.pgreq aa b)) h fun k => { k with pgreqs := k.pgreqs ++ [req] }) [] [] .next) ∧
      (∀ bad, pgCase (z (.pgreq aa b)) h asid va.toNat = .now bad → Yields s x (.pgreq aa b) (endPgreq (z (.pgreq aa b)) h req bad) [] [] .next)) ∧
    (∀ o off, accTarget (clusterOfCore s.turn) va = some (o, off) → isFirmwareCore s o = false → (coreOf s o).retired = false →
      (mode = 1 → va.toNat % 4096 % 48 = 0 ∧ va.toNat % 4096 ≤ 4032) → (mode ≠ 1 → va.toNat % 4 = 0) →
      let op : AccOp := if mode = 0 then .addF32 off (decodeFp 0 (fld v 31 0))
        else if mode = 1 then .lax (85 * (off / 4096) + va.toNat % 4096 / 48) (decodeFp 1 v.toNat)
        else .put off 4 (fld v 31 0)
      Yields s x (.accad aa b mode) (z (.accad aa b mode)) [(24, .accAt o [op])] [{ ctx := x, store := true, p7 := some true }] .next) ∧
    (va.toNat % 8 = 0 → va.toNat / 2 ^ 56 < 0xFC → routed s (va.toNat / 2 ^ 56) = true → localDie s (va.toNat / 2 ^ 56) = some h →
      Yields s x (.tlbi aa b) (modDie (z (.tlbi aa b)) h fun k =>
        { k with tlb := k.tlb.filter (fun t => !tlbiHit va.toNat v t), tlbPtrs := k.tlbPtrs.filter fun t => !tlbiPtr va.toNat v t }) [] [] .next)

/-! ### Vector instructions -/

/-- 16 R416, R420: arithmetic and bitwise operations per enabled element. Floating results are rounded once; integers wrap. -/
def Obligations.VectorArithmetic : Prop :=
  ∀ (s : State) (x : Nat) (vd va : VReg) (vb : BitVec 6) (mk : MReg) (vf : Bool),
    let t := ctxOf s s.turn x
    let ty := fmtVT t
    let w := tyWidth ty
    let A := elemOf (tileOf s va) w
    let B := elemB s x vb vf w
    let D := elemOf (tileOf s vd) w
    let fl := fun n => decodeFp ty n
    let rdn := (rndOf t).mode == 2
    let arith := fun (i : Instr) (ff : Val → Val → Val → Val × Nat) (fi : Int → Int → Int → Int) =>
      VecEach s x i vd mk (isFloatTy ty) fun j =>
        if isFloatTy ty then
          let v := ff (fl (A j)) (fl (B j)) (fl (D j))
          let r := roundFp ty (rndOf t) j v.1
          ⟨r.val, r.flags ||| v.2⟩
        else ⟨ofSigned w (fi (intOf ty (A j)) (intOf ty (B j)) (intOf ty (D j))), 0⟩
    arith (.vadd vd va vb mk vf) (fun a b _ => addVal rdn a b) (fun a b _ => a + b) ∧
    arith (.vsub vd va vb mk vf) (fun a b _ => addVal rdn a b.neg) (fun a b _ => a - b) ∧
    arith (.vmul vd va vb mk vf) (fun a b _ => mulVal a b) (fun a b _ => a * b) ∧
    arith (.vfma vd va vb mk vf) (fun a b d => fmaVal rdn a b d) (fun a b d => a * b + d) ∧
    arith (.vfms vd va vb mk vf) (fun a b d => fmaVal rdn a b d.neg) (fun a b d => a * b - d) ∧
    arith (.vfnma vd va vb mk vf) (fun a b d => fmaVal rdn a.neg b d) (fun a b d => d - a * b)

/-- 16 R416, R419, R420: minima, maxima, magnitudes, limits, selects and bit operations per element: none rounds. -/
def Obligations.VectorPicksAndBits : Prop :=
  ∀ (s : State) (x : Nat) (vd va : VReg) (vb : BitVec 6) (mk : MReg) (vf : Bool),
    let t := ctxOf s s.turn x
    let ty := fmtVT t
    let w := tyWidth ty
    let A := elemOf (tileOf s va) w
    let B := elemB s x vb vf w
    let fl := fun n => decodeFp ty n
    let exact := fun v => (roundFp ty rne 0 v).val
    let two := fun (i : Instr) (ff : Val → Val → Val) (fi : Int → Int → Int) =>
      VecEach s x i vd mk false fun j =>
        ⟨if isFloatTy ty then exact (ff (fl (A j)) (fl (B j))) else ofSigned w (fi (intOf ty (A j)) (intOf ty (B j))), 0⟩
    let one := fun (i : Instr) (ff : Val → Val) (fi : Int → Int) =>
      VecEach s x i vd mk false fun j => ⟨if isFloatTy ty then exact (ff (fl (A j))) else ofSigned w (fi (intOf ty (A j))), 0⟩
    let bits := fun (i : Instr) (f : Nat → Nat → Nat) => VecEach s x i vd mk false fun j => ⟨f (A j) (B j) % 2 ^ w, 0⟩
    two (.vmin vd va vb mk vf) minVal min ∧ two (.vmax vd va vb mk vf) maxVal max ∧
    two (.vclamp vd va vb mk vf) clampVal (fun a b => if b.natAbs < a.natAbs then (if a < 0 then -(b.natAbs : Int) else b.natAbs) else a) ∧
    one (.vabs vd va mk) Val.abs (fun a => a.natAbs) ∧ one (.vneg vd va mk) Val.neg (fun a => -a) ∧
    bits (.vand vd va vb mk vf) (· &&& ·) ∧ bits (.vor vd va vb mk vf) (· ||| ·) ∧ bits (.vxor vd va vb mk vf) (· ^^^ ·) ∧
    bits (.vnot vd va mk) (fun a _ => 2 ^ w - 1 - a) ∧
    bits (.vshl vd va vb mk vf) (fun a b => a * 2 ^ (b % w)) ∧ bits (.vshr vd va vb mk vf) (fun a b => a / 2 ^ (b % w)) ∧
    bits (.vsar vd va vb mk vf) (fun a b => ofSigned w (toSigned w a / (2 ^ (b % w) : Nat))) ∧
    VecEach s x (.vsel vd va vb mk vf) vd 0 false (fun j => ⟨if maskOn t mk j then A j else B j, 0⟩)

/-- 16 R417, R418, R421, R422: special functions, compares and conversions. The VSF value that rounds as the exact one is the model's (log 1). -/
def Obligations.VectorFunctionsComparesAndConversions : Prop :=
  ∀ (s : State) (x : Nat) (vd va : VReg) (vb cond : BitVec 6) (mk md : MReg) (vf : Bool) (fn : BitVec 3) (dt : BitVec 4),
    let t := ctxOf s s.turn x
    let ty := fmtVT t
    let w := tyWidth ty
    let A := elemOf (tileOf s va) w
    let B := elemB s x vb vf w
    let ok := fun (i : Instr) => vShapeBad t i = false ∧ vFmtBad t i = false
    let sf := fun j => vsfVal fn.toNat (decodeFp ty (A j))
    let src : TyM := (ty, fmtAM t)
    let dst : TyM := (dt.toNat, fmtBM t)
    let same := fmtAM t == fmtBM t
    let el := typedElem t (tileOf s va) src
    let cvt := Instr.vcvt vd va dt mk
    let amx := amxLands (narrowing src.1 dst.1 same) ((enabledIdx t mk).map el)
    (ok (.vsf vd va fn mk) →
      let rs := (enabledIdx t mk).map fun j =>
        let r := roundFp ty (rndOf t) j (sf j).1
        (j, (⟨r.val, r.flags ||| (sf j).2⟩ : Res1 Nat))
      Yields s x (.vsf vd va fn mk) (srsStep (slotState s x (.vsf vd va fn mk)) s.turn x true)
        ((tileLand vd w (rs.map fun p => (p.1, p.2.val)) ++ flagLand (rs.foldl (fun f p => f ||| p.2.flags) 0)).map (vLat t (.vsf vd va fn mk), ·)) [] .next) ∧
    (ok (.vcmp cond va vb md vf) →
      ∃ m : Mask, Results s x (.vcmp cond va vb md vf) (vLat t (.vcmp cond va vb md vf)) [.mask md.toNat m] ∧
        ∀ j, j < 8192 → m.getLsbD j = (decide (j < shpN t) &&
          (if isFloatTy ty then fcond cond.toNat (decodeFp ty (A j)) (decodeFp ty (B j)) else icond cond.toNat (intOf ty (A j)) (intOf ty (B j))))) ∧
    (ok cvt → isBfpTy dst.1 = false →
      let rs := (enabledIdx t mk).map fun j => (j, roundTy dst.1 (rndOf t) j (el j))
      Yields s x cvt (srsStep (slotState s x cvt) s.turn x (convRounds src.1 dst.1 same))
        ((tileLand vd (tyWidth dst.1) (rs.map fun p => (p.1, p.2.val)) ++ flagLand (rs.foldl (fun f p => f ||| p.2.flags) 0) ++ amx).map (vLat t cvt, ·))
        [] .next) ∧
    (ok cvt → isBfpTy dst.1 = true →
      let o := bfpTile t dst.2 (rndOf t) el
      Yields s x cvt (srsStep (slotState s x cvt) s.turn x (convRounds src.1 dst.1 same))
        ((.tile vd.toNat (BitVec.ofNat 262144 o.1) (BitVec.ofNat 262144 (2 ^ (8 * tileBytes t dst) - 1)) :: flagLand o.2 ++ amx).map (vLat t cvt, ·)) [] .next) ∧
    VecEach s x (.vpadd vd va vb mk vf) vd mk true (fun j =>
      let b := if vf then (operand s x vb).toNat / 2 ^ (8 * (j % 4)) % 256 else elemOf (tileOf s vb) 8 j
      let v := addVal ((rndOf t).mode == 2) (decodeFp ty (elemOf (tileOf s va) 8 j)) (decodeFp ty b)
      let r := roundFp ty (rndOf t) j v.1
      ⟨r.val, r.flags ||| v.2⟩)

/-- 16 R423, R424, R428 to R431: permutes, moves, broadcasts, inserts, extracts and coordinates. -/
def Obligations.VectorMoves : Prop :=
  ∀ (s : State) (x : Nat) (vd va vb : VReg) (d a b : SCode) (mk : MReg) (kind : BitVec 2),
    let t := ctxOf s s.turn x
    let ty := fmtVT t
    let w := tyWidth ty
    let A := elemOf (tileOf s va) w
    let ok := fun (i : Instr) => vShapeBad t i = false ∧ vFmtBad t i = false
    let n := shpN t
    let i := (operand s x a).toNat
    let k := (operand s x b).toNat
    let packed := (enabledIdx t mk).map A
    let iota := fun (i : Instr) (base : Int) => VecEach s x i vd mk (isFloatTy ty) fun j =>
      roundTy ty (rndOf t) j (Val.ofInt (base + (if kind = 0 then j else if kind = 1 then j / shpCols t else j % shpCols t : Nat)))
    VecEach s x (.vperm vd va vb mk) vd mk false (fun j =>
      let p := elemOf (tileOf s vb) 32 j
      ⟨if p < n then A p else 0, 0⟩) ∧
    VecEach s x (.vtrn vd va mk) vd mk false (fun j => ⟨A (j % shpRows t * shpCols t + j / shpRows t), 0⟩) ∧
    (ok (.vcompact vd va mk) →
      Results s x (.vcompact vd va mk) (vLat t (.vcompact vd va mk)) (tileLand vd w ((List.range n).map fun j => (j, packed.getD j 0)))) ∧
    VecEach s x (.vbcast vd va mk) vd mk false (fun j => ⟨A (j % shpCols t), 0⟩) ∧
    VecEach s x (.vbcastScalar vd b mk) vd mk false (fun _ => ⟨k % 2 ^ w, 0⟩) ∧
    (isBfpTy ty = false → VecEach s x (.vmov vd va mk) vd mk false (fun j => ⟨A j, 0⟩)) ∧
    (isBfpTy ty = true → ok (.vmov vd va mk) →
      Results s x (.vmov vd va mk) (vLat t (.vmov vd va mk))
        [.tile vd.toNat (tileOf s va) (BitVec.ofNat 262144 (2 ^ (8 * tileBytes t (ty, fmtAM t)) - 1))]) ∧
    (ok (.vins vd a b) → i < n → Results s x (.vins vd a b) (vLat t (.vins vd a b)) (tileLand vd w [(i, k % 2 ^ w)])) ∧
    (ok (.vins vd a b) → n ≤ i → Results s x (.vins vd a b) 1 []) ∧
    (ok (.vext d va b) →
      let v := if k < n then A k else 0
      Writes s x (.vext d va b) (vLat t (.vext d va b)) d (if isSIntTy ty then BitVec.ofInt 64 (toSigned w v) else BitVec.ofNat 64 v)) ∧
    iota (.viota vd kind mk) 0 ∧ iota (.viotaBase vd kind b mk) (operand s x b).toInt

/-- 16 R425 to R427, R432 to R434: sums, minima and maxima over an axis, scans, segmented sums, noise digits and replay. -/
def Obligations.VectorSumsNoiseAndReplay : Prop :=
  ∀ (s : State) (x : Nat) (vd va : VReg) (b : SCode) (op : BitVec 3) (axis : BitVec 2) (mk : MReg) (ex val : Bool) (h : BitVec 4),
    let t := ctxOf s s.turn x
    let ty := fmtVT t
    let w := tyWidth ty
    let A := elemOf (tileOf s va) w
    let ok := fun (i : Instr) => vShapeBad t i = false ∧ vFmtBad t i = false
    let on := fun (g : List Nat) => g.filter (maskOn t mk)
    let groups := (axisGroups t axis.toNat).map fun g => (on g).map A
    let writes := fun (i : Instr) (rounds : Bool) (rs : List (Nat × Res1 Nat)) =>
      Yields s x i (srsStep (slotState s x i) s.turn x rounds)
        ((tileLand vd w (rs.map fun p => (p.1, p.2.val)) ++ flagLand (rs.foldl (fun f p => f ||| p.2.flags) 0)).map (vLat t i, ·)) [] .next
    let red := Instr.vred vd va op axis mk
    let scan := Instr.vscan vd va ex axis mk
    let seg := Instr.vsegred vd va mk
    let win := fun (gs : List (List Nat)) => termWindow ty gs.flatten
    let runs := (axisGroups t axis.toNat).map on
    let segs := (segments t mk).map fun g => g.map A
    let hd := handleOf t h.toNat
    let noise := fun (i : Instr) (off : Nat → Nat × Nat) => VecEach s x i vd mk false fun j =>
      digitElem ty hd.2.2 val (noiseDigit hd.1 hd.2.1 (off j).1 (off j).2)
    (ok red → (op = 0 → tooMany ty groups = false) →
      writes red (op == 0 && isFloatTy ty) ((List.range groups.length).map fun g =>
        (g, if op = 0 then sumTerms ty (win groups) (rndOf t) g (groups.getD g []) else if op = 1 then ⟨minElem ty (groups.getD g []), 0⟩
            else ⟨maxElem ty (groups.getD g []), 0⟩))) ∧
    (ok scan → tooMany ty runs = false →
      writes scan (isFloatTy ty) (runs.flatMap fun g => (List.range g.length).map fun k =>
        (g.getD k 0, sumTerms ty (win (runs.map fun g => g.map A)) (rndOf t) (g.getD k 0) ((g.take (if ex then k else k + 1)).map A)))) ∧
    (ok seg → tooMany ty segs = false →
      writes seg (isFloatTy ty) ((List.range segs.length).map fun g => (g, sumTerms ty (win segs) (rndOf t) g (segs.getD g [])))) ∧
    noise (.nzgen vd val h b mk) (fun j =>
      ((fld (operand s x b) 63 32 + j / shpCols t) % 2 ^ 32, (fld (operand s x b) 31 0 + j % shpCols t) % 2 ^ 32)) ∧
    noise (.rngd vd va val h mk) (fun j => (elemOf (tileOf s va) 64 j / 2 ^ 32, elemOf (tileOf s va) 64 j % 2 ^ 32)) ∧
    (replayBad (tileOf s va) = false →
      VecEach s x (.vreplay vd va mk) vd mk false fun j =>
        let o := (List.range (tileField (tileOf s va) 12 13)).foldl
          (fun acc k => replayEntry (tileOf s va) (j / shpCols t) (j % shpCols t) k acc) (elemOf (tileOf s vd) 32 j, 0)
        ⟨o.1, o.2⟩)

/-- 16 R435 to R439: moves to and from the accumulator store, and masks. -/
def Obligations.AccumulatorMovesAndMasks : Prop :=
  ∀ (s : State) (x : Nat) (v : VReg) (d a : SCode) (la : Bool) (mode kind : BitVec 2) (mk md ma mb : MReg) (tt : BitVec 4),
    let t := ctxOf s s.turn x
    let k := coreOf s s.turn
    let ty := fmtVT t
    let off := fld (operand s x a) 20 0
    let w := tyWidth ty / 8
    let ok := fun (i : Instr) (w : Nat) =>
      vShapeBad t i = false ∧ vFmtBad t i = false ∧ accAligned (accLaMode i) off = true ∧ accPast (accLaMode i) off w (shpN t) = false
    let rd := Instr.accrd v a la mk
    let wr := Instr.accwr v a mode mk
    let one := fun j => if la then laCvt (slotLa k (85 * (off / 4096) + off % 4096 / 48 + j)) ty (rndOf t) j else (⟨accSpan k (off + w * j) w, 0⟩ : Res1 Nat)
    let rs := (enabledIdx t mk).map fun j => (j, one j)
    let set := (List.range (min (shpN t) 8192)).filter (mReg t ma.toNat).getLsbD
    (ok rd w →
      Yields s x rd (srsStep (slotState s x rd) s.turn x la)
        ((tileLand v (tyWidth ty) (rs.map fun p => (p.1, p.2.val)) ++ flagLand (rs.foldl (fun f p => f ||| p.2.flags) 0)).map (vLat t rd, ·)) [] .next) ∧
    (ok wr (if mode = 1 then 4 else w) →
      Results s x wr (vLat t wr) [.acc ((enabledIdx t mk).flatMap fun j =>
        let b := elemOf (tileOf s v) (tyWidth ty) j
        if mode = 0 then accPut (off + w * j) w b
        else if mode = 1 then [AccOp.addF32 (off + 4 * j) (decodeFp 0 b)]
        else [AccOp.lax (85 * (off / 4096) + off % 4096 / 48 + j) (decodeVal ty b)])]) ∧
    (∃ m : Mask, Results s x (.mlog md ma mb tt) (vLat t (.mlog md ma mb tt)) [.mask md.toNat m] ∧
      ∀ j, j < 8192 → m.getLsbD j = tt.getLsbD (2 * ((mReg t ma.toNat).getLsbD j).toNat + ((mReg t mb.toNat).getLsbD j).toNat)) ∧
    Writes s x (.mcnt d ma kind) (vLat t (.mcnt d ma kind)) d
      (BitVec.ofNat 64 (if kind = 0 then set.length else if kind = 1 then (set.head?).getD (min (shpN t) 8192) else (set.getLast?).getD (min (shpN t) 8192)))

/-! ### Matrix commands and engines -/

/-- 17 R450, R455 to R459: the commands that set the registers of the matrix engine land after one issue cycle and push a token. -/
def Obligations.MatrixRegisterCommands : Prop :=
  ∀ (s : State) (x : Nat) (a b : SCode) (reg : BitVec 12) (n : BitVec 5) (c : BitVec 3),
    let k := coreOf s s.turn
    let t := ctxOf s s.turn x
    let v := operand s x a
    let d := operand s x b
    let sends := fun (i : Instr) (op lat : Nat) (ls : List Land) =>
      Yields s x i (modCtx (slotState s x i) s.turn x fun t => { t with serial := t.serial + 1 }) ((ls ++ [Land.token t.serial.toNat op 0]).map (lat, ·)) [] .next
    let f := mxField reg.toNat v
    let spad := MxOperand.spad v 0
    (mxOpen t = false → sends (.mxset reg a) 1 1 [.mx f.1 f.2]) ∧
    (fld d 39 32 ≤ 63 → sends (.mxpd a b) 6 1 [.mx .pds v, .mx .pdp (BitVec.ofNat 64 (2 ^ 41 + fld d 40 0))]) ∧
    sends .mxpdOff 6 1 [.mx .pdp (setFld t.mx.pdp 41 41 0)] ∧
    ((mxOpen t && mxDen t) = false → sends (.mxdn n a) 7 1 [.bmap n.toNat (BitVec.ofNat 32 (fld v 20 0))]) ∧
    (let z := slotState s x (.mxcv c a)
     k.mxwFree ≤ k.ic → k.mxcvFree ≤ k.ic → v.toNat % 8 = 0 → operandProt z s.turn spad 1 520 = none → (operandRows z s.turn spad 1 520).2 = false →
      sends (.mxcv c a) 8 12 [.curve c.toNat (BitVec.ofNat 4160 ((operandRows z s.turn spad 1 520).1.headD 0))]) ∧
    (v.toNat % 8 = 0 → sends (.mxtap a) 9 1 [.mx .tap v]) ∧ (v.toNat % 32 = 0 → sends (.mxsp a) 0x0A 1 [.mx .spm v])

/-- 12 R313, R315, R320; 17 R451 to R454: the weight fetch, the stream, the opening of a chain and its closing, on operands that lie in
scratchpad or in tile registers. -/
def Obligations.MatrixCommands : Prop :=
  ∀ (s : State) (x : Nat) (a b : SCode) (v : VReg),
    let k := coreOf s s.turn
    let t := ctxOf s s.turn x
    let spad := MxOperand.spad (operand s x a) (operand s x b)
    let tile := MxOperand.tile v.toNat
    let next := fun (s : State) => modCtx s s.turn x fun t => { t with serial := t.serial + 1 }
    let typed := (kLimit t).isSome = true ∧ kOver t = false
    let weight := fun (i : Instr) (o : MxOperand) =>
      let z := slotState s x i
      let rows := if mxSparse t then mxK t / 2 else mxK t
      let len := rowBytes (mxSrc t) (mxN t)
      let mo := MxOperand.spad t.mx.spm 0
      k.mxwFree ≤ k.ic → k.mxcvFree ≤ k.ic → k.otherFree ≤ k.ic → typed → srcOk t = true → operandShape o rows len = false →
      operandProt z s.turn o rows len = none → (operandRows z s.turn o rows len).2 = false →
      (mxSparse t = true → mxK t % 4 = 0 ∧ operandProt z s.turn mo 1 (8 * mxK t) = none ∧ (operandRows z s.turn mo 1 (8 * mxK t)).2 = false) →
      let metab := if mxSparse t then (operandRows z s.turn mo 1 (8 * mxK t)).1.headD 0 else 0
      Yields s x i (next z) [(80, .weights (fetchWeights t metab (operandRows z s.turn o rows len).1)), (80, .token t.serial.toNat 2 0)] [] .next
    let stream := fun (i : Instr) (o : MxOperand) =>
      let z := slotState s x i
      let len := rowBytes (fmtAT t) (mxK t)
      let w := weightsFor z k.wActive (mxK t) (mxN t)
      k.streamFree ≤ k.ic → typed → mxaShape t = false → operandShape o (mxM t) len = false → operandProt z s.turn o (mxM t) len = none →
      (operandRows z s.turn o (mxM t) len).2 = false → w.2 = false → t.mx.clus.getLsbD 24 = false →
      Yields s x i (next (srsStep z s.turn x (mxMode t == 0)))
        [((if mxDen t then 52 else 40) + mxM t,
          .mxa { mxJob t with rows := (operandRows z s.turn o (mxM t) len).1.map (rowVals (fmtAT t) (mxK t)), wts := w.1, since := s.clock })] [] .next
    let close := fun (i : Instr) (o : MxOperand) =>
      let z := slotState s x i
      let len := mxN t * (tyWidth (otType (fld t.fmt 19 18)) / 8)
      k.streamFree ≤ k.ic → mxOpen t = true → typed → operandShape o (mxM t) len = false → operandProt z s.turn o (mxM t) len = none →
      Yields s x i (next (srsStep z s.turn x true)) [(24 + mxceOcc t, .mxce { mxJob t with dst := o })] [] .next
    weight (.mxw a b) spad ∧ weight (.mxwTile v) tile ∧ stream (.mxa a b) spad ∧ stream (.mxaTile v) tile ∧
    close (.mxce a b) spad ∧ close (.mxceTile v) tile ∧
    (k.streamFree ≤ k.ic → (mxDen t = true → bmapOk t = true) → mxPage t + chainPages t ≤ 512 → (kLimit t).isSome = true →
      let win := clampInt (-400) (-100) (toSigned 16 (fld (operand s x a) 15 0))
      let las := mxM t * mxN t * (if mxDen t then 1 + (branchCount t).1 else 1)
      Yields s x (.mxcb a)
        (next (slotState s x (.mxcb a)))
        [(8 + chainPages t, .mxOpen win),
         (8 + chainPages t, .acc ((List.range (chainSlots t)).map fun i =>
            if i < las then AccOp.openSlot (85 * mxPage t + i) win else AccOp.clearSlot (85 * mxPage t + i))),
         (8 + chainPages t, .token t.serial.toNat 4 0)] [] .next)

/-- 17 R461 to R468: copy registers, and the acceptance of copies, transposes, gathers and scatters by the cluster's engines. -/
def Obligations.EngineCommands : Prop :=
  ∀ (s : State) (x : Nat) (a b : SCode) (reg : BitVec 12) (tok rb : Bool) (m : BitVec 3) (kind : BitVec 2),
    let k := coreOf s s.turn
    let t := ctxOf s s.turn x
    let A := operand s x a
    let B := operand s x b
    let z := slotState s x
    let s0 := fun (i : Instr) => publishAll (z i) s.turn
    let s1 := fun (i : Instr) => maybeSerial (s0 i) s.turn x tok
    let cp := acceptCopy (s1 (.cpgo tok a b)) s.turn t.asid (.ctx s.turn x) 0x11 t.serial.toNat tok A B (copyExt t) (copySstr t) (copyDstr t)
      (fld (cpReg t 0x30) 6 0) (fld (cpReg t 0x33) 1 0) (cpReg t 0x31) (cpReg t 0x32)
    let rd := trRead (s0 (.trpush m kind a b)) (clusterOfCore s.turn) t.asid A.toNat B (trRowBytes kind.toNat (m.toNat + 2))
    let moves := fun (i : Instr) (scatter : Bool) =>
      let r := acceptGather (s1 i) s.turn t.asid scatter A B (fld (cpReg t 0x33) 1 0) (cpReg t 0x31) (cpReg t 0x32)
      engineLoad k < 16 → r.2.2.1 < waitPage →
      Yields s x i (placeEng r.1 s.turn
        { owner := .ctx s.turn x, asid := t.asid, op := if scatter then 0x21 else 0x20, serial := t.serial.toNat, tok := tok, cnt := cpReg t 0x31,
          flag := cpReg t 0x32, work := r.2.1, status := r.2.2.1,
          held := heldPages t.asid (if r.2.2.1 = 0 then r.2.2.2 else []) (cpReg t 0x32), since := s.clock } false) [] [] .next
    Results s x (.cpset reg a) 1 [.cp reg.toNat (cpMask reg.toNat A)] ∧
    (engineLoad k < 16 → cp.2.1.status < waitPage → Yields s x (.cpgo tok a b) (placeEng cp.1 s.turn cp.2.1 cp.2.2) [] [] .next) ∧
    moves (.gthr tok a b) false ∧ moves (.sctr tok a b) true ∧
    (rotBad B = false → ¬(kind = 2 ∧ m = 7) → trDepth k.trq + trPlaces kind.toNat ≤ 8 → rd.2.2 < waitPage →
      Yields s x (.trpush m kind a b)
        (modCore rd.1 s.turn fun k => { k with trq := k.trq ++ [⟨k.ic, kind.toNat, m.toNat + 2, rd.2.1, rd.2.2⟩] }) [] [] .next) ∧
    (∀ tile rest, k.trq = tile :: rest → tile.at_ + 48 ≤ k.ic →
      let rnd := rndOf t
      let narrow := rb && tile.kind == 2
      let ranges := if tile.status = 0 then (trWrites tile narrow A B rnd).1.map fun p => (p.1, p.2.length) else []
      let w := z (.trpop tok rb a b)
      let st := trpopStatus w (clusterOfCore s.turn) t.asid tile rb B ranges
      let s2 := modCore (maybeSerial (srsStep w s.turn x narrow) s.turn x tok) s.turn fun k => { k with trq := rest }
      st < waitPage →
      Yields s x (.trpop tok rb a b)
        (placeEng (if st = 0 then markPages s2 (clusterOfCore s.turn) t.asid (pagesOf ranges) else s2) s.turn
          { owner := .ctx s.turn x, asid := t.asid, op := 0x19, serial := t.serial.toNat, tok := tok, cnt := 0, flag := 0,
            work := .trpop tile rb A B rnd.mode rnd.srs t.fmt, status := st, held := if st = 0 then heldPages t.asid ranges 0 else [],
            due := if ownSpad A.toNat then some (k.ic + if tile.kind == 1 then 32 else 16) else none, since := s.clock } false)
        [] [] .next)

/-- 17 R470 to R474: queue pairs, group records and graphs. A queue pair that is not set up, and a node or root no graph has, answer with
status 1. -/
def Obligations.CollectiveAndGraphCommands : Prop :=
  ∀ (s : State) (x : Nat) (a b : SCode) (qp : BitVec 8) (grp : BitVec 12),
    let t := ctxOf s s.turn x
    let d := dieOfCore s.turn
    let A := operand s x a
    let n := (operand s x b).toNat
    let z := slotState s x
    let e := soloEnv s x
    let c := s.turn
    let token := fun (s : State) (engine serial op code : Nat) =>
      modCore (modCtx s c x fun t => { t with serial := t.serial + 1 }) c (pushToken · x engine serial op code)
    let rd := engRead (publishAll (z (.qppost qp a b)) s.turn) (clusterOfCore c) t.asid A.toNat (64 * n)
    let ser := t.serial.toNat
    (qpOf s d qp.toNat = none → Yields s x (.qppost qp a b) (token (z (.qppost qp a b)) 4 ser 0x28 1) [] [] .next) ∧
    (∀ p bs s', qpOf s d qp.toNat = some p → 0 < n → n ≤ 64 → A.toNat % 64 = 0 → p.entries.length + n ≤ 64 → rd.2 = .ok bs →
      postEntries rd.1 d qp.toNat t.asid (.ctx c x) (postedRaws n bs) = some s' → Yields s x (.qppost qp a b) (token s' 4 ser 0x28 0) [] [] .next) ∧
    (∀ g bs s2, collOf s d grp.toNat = some g → A.toNat % 32 = 0 → scputRecord (publishAll (z (.scput grp a)) s.turn) (e (.scput grp a)) A = (s2, .ok bs) →
      Yields s x (.scput grp a) (sendRecord s2 d grp.toNat g bs) [] [] .next) ∧
    (∀ g, collOf s d grp.toNat = some g → g.log = false →
      Yields s x (.scred grp a) (sendAll (z (.scred grp a)) g grp.toNat d (leBytes 8 A.toNat) fun z => .scredArrive z grp g.gen g.rank A) [] [] .next) ∧
    (let s1 := releaseAll (z (.gnode a b)) s.turn
     ∀ g bs s2, (graphsOf s1 d t.asid).find? (fun g => g.root == A) = some g → 0 < n → n ≤ 4096 →
      engRead s1 (clusterOfCore c) t.asid (nodeVa A g.count) (64 * n) = (s2, .ok bs) → (postedRaws n bs).all appendOk = true →
      let r := GraphRun.launchFrom n g.count { g with s := s2, count := g.count + n }
      r.waits = false →
      let s3 := r.keep
      Yields s x (.gnode a b) (token s3 5 (ctxOf s3 c x).serial.toNat 0x30 0) [] [] .next) ∧
    (let s1 := releaseAll (z (.gsig a)) s.turn
     ∀ g i rec', (graphsOf s1 d t.asid).find? (fun g => (nodeAt g A.toNat).isSome) = some g → nodeAt g A.toNat = some i →
      (g.node i).2 = some rec' → fieldOf rec' 0 1 = 0 → fieldOf rec' 2 2 ≠ 0 →
      let r := (g.node i).1.signal i
      r.waits = false →
      let s3 := r.keep
      Yields s x (.gsig a) (token s3 5 (ctxOf s3 c x).serial.toNat 0x31 0) [] [] .next)

/-! ### Links and the beat -/

/-- 01 R20, R21: the flit a link sends next belongs to the first channel, in the order of service, that has credit and a flit for the link. -/
def Obligations.ServiceOrderOfChannels : Prop :=
  ∀ (s : State) (n : Nat) (credit : BitVec 8) (f : Flit), nextFlit s n credit = some f →
    let order := [0, 4, 2, 1, 3]
    let waits := fun (g : Flit) => g ∈ s.mod.txq ∧ mayLeave s n g = true ∧ credit.getLsbD g.vc = true ∧ g.vc ∈ order
    waits f ∧ ∀ g, waits g → order.idxOf f.vc ≤ order.idxOf g.vc

/-- 01 R18, R21, R26: a link that is up sends its next flit and keeps it until it is acknowledged; it delivers a good flit in order, drops a
flit whose check fails and names the SEQ it expects, and then the delivered flits are taken (`takeAll`, whose waiting is log 19's choice); it sends again,
in their order, the flits from the SEQ that the other side names. -/
def Obligations.FlitsAreSentAndReceived : Prop :=
  ∀ (s : State) (link : LinkId) (credit : BitVec 8) (seq : BitVec 12) (f : Flit) (b : List Byte),
    let n := link.val
    let l := linkOf s n
    let back := l.replay.dropWhile fun z => z.seq != seq.toNat
    let good := (b.length = 256 ∨ b.length = 64) ∧ fieldOf b 8 8 = crc64 (b.take 8 ++ b.drop 16)
    let leaves := fun (m : Module) (k : Link) => { s with mod := { m with links := tabPut s.mod.links n k } }
    l.state = 2 →
    (l.replay.length < 256 → nextFlit s n credit = some f →
      exec (.flitSend link credit) s = .next
        (leaves { s.mod with txq := s.mod.txq.erase f, out := s.mod.out ++ [.flit n (flitBytes s n l.next f)] }
          { l with next := (l.next + 1) % 4096, replay := l.replay ++ [⟨l.next, f, 0⟩] })) ∧
    (good → fieldOf b 4 2 % 4096 = l.expect → 1 ≤ fieldOf b 0 1 → fieldOf b 0 1 ≤ 3 → fieldOf b 1 1 % 16 ≤ 4 →
      exec (.flitReceive link b) s = .next (takeAll
        (leaves { s.mod with rxq := s.mod.rxq ++ [⟨fieldOf b 3 1, fieldOf b 2 1 % 4, fieldOf b 1 1 % 16, fieldOf b 0 1, b.drop 16⟩] }
          { l with replay := ackReplay l.replay (fieldOf b 6 2 % 4096), expect := (l.expect + 1) % 4096, nacked := false }))) ∧
    (¬good →
      exec (.flitReceive link b) s = .next (takeAll
        (leaves { s.mod with txq := s.mod.txq ++ [⟨n / 3, n, 4, 4, padTo 240 (leBytes 2 l.expect)⟩] }
          { l with crcerr := min (l.crcerr + 1) 65535, nacked := true }))) ∧
    ((∃ z ∈ l.replay, z.seq = seq.toNat) → (∀ z ∈ back, z.resends < 8) →
      exec (.linkResend link seq) s = .next
        (leaves { s.mod with out := s.mod.out ++ back.map fun z => .flit n (flitBytes s n z.seq z.flit) }
          { l with retries := min (l.retries + 1) 65535, replay := back.map fun z => { z with resends := z.resends + 1 } }))

/-- 01 R27 to R30, 03 R76: a link with a flit resent 8 times, or without an acknowledgement, fails: its flits go back in front of the
queue, and with no link left the module is isolated. A link that has trained to the port it must report is up, another is down; the
command of a training finishes with its last link. -/
def Obligations.LinksFailAndTrain : Prop :=
  ∀ (s : State) (link : LinkId) (port : BitVec 8),
    let n := link.val
    let l := linkOf s n
    let serves := fun (m : Nat) => m < 12 ∧ m ≠ n ∧ ((linkOf s m).state = 1 ∨ (linkOf s m).state = 2)
    let fails := fun (i : Instr) => l.state = 2 → ∃ t, exec i s = .next t ∧ (linkOf t n).state = 3 ∧ (linkOf t n).replay = [] ∧
      ((∃ m, serves m) →
        t.mod.txq = (l.replay.map (·.flit)).filter (fun f => f.kind != 4) ++ s.mod.txq.filter fun f => !(f.kind == 4 && f.dst == n)) ∧
      ((∀ m, ¬serves m) → t.mod.reach = [] ∧ t.mod.txq = [])
    ((∃ z ∈ l.replay, 8 ≤ z.resends) → fails (.resendLimit link)) ∧
    (l.replay ≠ [] → fails (.ackTimeout link)) ∧
    (∀ tr want, s.mod.training = some tr → tr.links.find? (fun p => p.1 == n) = some (n, want) →
      (∃ t, exec (.linkTrainDone link port) s = .next t ∧ (linkOf t n).port = port.toNat ∧
        (linkOf t n).state = (if want = none ∨ want = some port.toNat then 2 else 0) ∧
        (if ∀ p ∈ tr.links, p.1 = n then t.mod.training = none ∧ ⟨.commandFinish, ⟨tr.die, tr.cid⟩⟩ ∈ t.agenda
         else t.mod.training.map (·.links) = some (tr.links.filter fun p => p.1 != n))) ∧
      (∃ t, exec (.linkTrainTimeout link) s = .next t ∧ (linkOf t n).state = 0 ∧
        ((∀ p ∈ tr.links, p.1 = n) → t.mod.training = none ∧ ⟨.commandFinish, ⟨tr.die, tr.cid⟩⟩ ∈ t.agenda)))

/-- 01 R32, R34: a beat adds exactly 1 to the counter of its die and to no other; at the loss of the beat master the working module with
the lowest id becomes master, and no counter jumps. -/
def Obligations.BeatsAdvanceByOne : Prop :=
  ∀ (s : State) (die : DieId),
    (∃ t, exec (.beatTick die) s = .next t ∧ (dieOf t die.val).beat = (dieOf s die.val).beat + 1 ∧
      ∀ e, e ≠ die.val → dieOf t e = dieOf s e) ∧
    (s.mod.master ≠ moduleNo s →
      let l := s.mod.reach.filter fun m => m != s.mod.master
      ∃ t, exec .beatMasterLoss s = .next t ∧ t.mod.reach = l ∧ t.mod.master ∈ moduleNo s :: l ∧
        (∀ m ∈ moduleNo s :: l, t.mod.master ≤ m) ∧ t.dies = s.dies)

/-! ### Power and boot -/

/-- 01 R35, R40, 04 R99: throttling, the power cap, and the ways into S5, where nothing of dies, cores and keys is left. -/
def Obligations.PowerSteps : Prop :=
  ∀ (s : State) (die : DieId) (watts degC : Nat) (v : Word),
    let off := fun (t : State) => t.mod.power = 5 ∧ t.dies = [] ∧ t.cores = [] ∧ t.agenda = [] ∧ t.mail = [] ∧ t.mod.sec.keys = [] ∧
      t.mod.booted = false ∧ t.mod.policy = s.mod.policy ∧ t.mod.portbNext = s.mod.portbNext ∧ t.mod.sec.resf = s.mod.sec.resf
    (s.mod.power ≤ 1 → (s.mod.cap < watts ∨ 105 ≤ degC) →
      exec (.throttleEnter die watts degC) s = .next { s with mod := { s.mod with power := 1, mhz := max 1100 (s.mod.mhz - 100), throt := true } }) ∧
    (s.mod.power = 1 → watts ≤ s.mod.cap → degC < 105 →
      exec (.throttleExit die watts degC) s = .next { s with mod := { s.mod with power := 0, mhz := 3300 } }) ∧
    (115 ≤ degC → ∃ t, exec (.thermalShutdown die degC) s = .next t ∧ off t) ∧
    (∃ t, exec .powerOff s = .next t ∧ off t) ∧
    exec (.pwrCapWrite v) s = .next { s with mod := { s.mod with cap := max 1000 (min 2800 (fld v 11 0)) } } ∧
    exec .throtClear s = .next { s with mod := { s.mod with throt := false } }

/-- 04 R83 to R85, R98: the boot ROM starts Amigen in the mode of the policy, or leaves BOOTF alone; the return from S3 goes on where the
image is whole and its measurement agrees, and else enters S5 with RESF and without keys. Whether the image is whole is a free value. -/
def Obligations.BootAndReturnFromS3 : Prop :=
  ∀ (s : State) (die : DieId),
    let good := imageOk && policyOk (flashRecord s)
    let whole := (Config.freeValue s.freeCtr).getLsbD 0 && s.mod.saved == s.mod.sec.measBoot
    (s.mod.booted = false → s.mod.sec.bootf = false → ∃ t, exec .boot s = .next t ∧ t.mod.booted = good ∧ t.mod.sec.bootf = !good ∧ t.mod.power = 0 ∧
      (good = true → t.mod.sec.mode = fieldOf (flashRecord s) 5 1 ∧ t.mod.sec.debug = 0 ∧ t.mod.mhz = 3300 ∧
        t.mod.sec.measBoot = extend (extend 0 Config.image) ((flashRecord s).take 128))) ∧
    (s.mod.power = 3 → ∃ t, exec (.s3Return die) s = .next t ∧
      if whole then t = wakeModule
        { s with mod := { s.mod with power := 0, mhz := 3300, sec := { s.mod.sec with resf := false } }, freeCtr := s.freeCtr + 1 }
      else t.mod.power = 5 ∧ t.mod.sec.resf = true ∧ t.mod.sec.keys = [] ∧ t.dies = [] ∧ t.cores = [])

/-! ### The host port -/

/-- 02 R45, R51 to R54, 22 R504, 10 R262: an access through BAR2, through HDM in CXL Type-2 mode, or of a peer in peer mode, whose every piece
translates is performed; a read that fails completes without data, a write that fails is dropped and counted; one that meets a page that migrates, or
asks another module's die, waits, behind those of the host that wait already. An access of one word of BAR0 is one of its register. Without CXL
Type-2 mode there is no HDM range (the model's choice, log 25). In S3 BAR0 answers at its control page and the doorbells alone (04 R98). -/
def Obligations.HostAccesses : Prop :=
  ∀ (s s' : State) (sp : HostSpace) (off n : Nat) (bs : List Byte) (addr : Word) (ls : List (Nat × Loc × Nat)),
    let comes := fun (i : Instr) (t : State) => StepGoes s i t ∧ StepWaits s i t
    let reads := fun (i : Instr) (o : Nat) =>
      let places := hostPlaces (stepState s i) false o n
      (mailHas s i = false → places = (s', .goes ls) →
        let r := hostTakes s'.mod.aptAs ls s'
        comes i (sendOut r.1 (.completion (some r.2.1) r.2.2))) ∧
      (mailHas s i = false → places = (s', .fails) → comes i (sendOut s' (.completion none false))) ∧
      (mailHas s i = false → places = (s', .waits) → StepWaits s i (lacks s' .page)) ∧
      (mailHas s i = true → exec i s = .next (waitCredit s i))
    let writes := fun (i : Instr) (o : Nat) =>
      let places := hostPlaces (stepState s i) true o bs.length
      (mailHas s i = false → places = (s', .goes ls) → comes i (hostFills ls (hostPuts s'.mod.aptAs ls bs s'))) ∧
      (mailHas s i = false → places = (s', .fails) → comes i { s' with mod := { s'.mod with dropw := s'.mod.dropw + 1 } }) ∧
      (mailHas s i = false → places = (s', .waits) → StepWaits s i (lacks s' .page)) ∧
      (mailHas s i = true → exec i s = .next (waitCredit s i))
    (sp = .bar2 ∨ (sp = .hdm ∧ s.mod.cxlA = true) → reads (.hostRead sp off n) off ∧ writes (.hostWrite sp off bs) off) ∧
    (s.mod.cxlA = false → exec (.hostRead .hdm off n) s = .next (sendOut s (.completion none false)) ∧ exec (.hostWrite .hdm off bs) s = .next s) ∧
    (bar0Answers s off = false → exec (.hostRead .bar0 off n) s = .next (sendOut s (.completion none false))) ∧
    (bar0Answers s off = true → off % 8 = 0 →
      exec (.hostRead .bar0 off 8) s = .next (sendOut (bar0Read s off).1 (.completion (some (leBytes 8 (bar0Read s off).2.toNat)) false))) ∧
    (s.mod.power = 3 → (bar0Answers s off = true ↔ off < 0x1000 ∨ (0x100000 ≤ off ∧ off < 0x110000 ∧ off % 0x100 = 0x28))) ∧
    (off % 8 = 0 → bs.length = 8 → exec (.hostWrite .bar0 off bs) s = exec (.registerWrite off (BitVec.ofNat 64 (leNat bs))) s) ∧
    (fld s.mod.portb 1 0 = 1 → reads (.peerRequest addr n none) addr.toNat ∧ writes (.peerRequest addr n (some bs)) addr.toNat) ∧
    (fld s.mod.portb 1 0 ≠ 1 → exec (.peerRequest addr n none) s = .next s ∧ exec (.peerRequest addr n (some bs)) s = .next s)

/-- 00 R7, 01 R40, 02 R51, R55, R56: a write of HOST_STAT clears its counts; of PWR_CAP it stores CAP and clears THROT where bit 12 is 1; a
write of another register of the module control page, or of what does not answer, changes nothing. A peer's load that is not answered ends in
PEER_ABORT at its address; an expander that is lost is no longer present. -/
def Obligations.HostRegisters : Prop :=
  ∀ (s : State) (v : Word) (off e : Nat) (core : CoreId),
    let cleared := { s with mod := { s.mod with ccerr := 0, dropw := 0 } }
    exec (.hostStatWrite v) s = .next cleared ∧
    (bar0Answers s off = true →
      (off = 0x408 → exec (.registerWrite off v) s = .next cleared) ∧
      (off = 0x300 → exec (.registerWrite off v) s = .next
        { s with mod := { s.mod with cap := max 1000 (min 2800 (fld v 11 0)), throt := s.mod.throt && !v.getLsbD 12 } }) ∧
      (off < 0x1000 → off ≠ 0x300 → off ≠ 0x408 → exec (.registerWrite off v) s = .next s)) ∧
    (bar0Answers s off = false → exec (.registerWrite off v) s = .next s) ∧
    (∀ i a, (coreOf s core.val).arrivals.findIdx? (peerLoad s core.val) = some i → (coreOf s core.val).arrivals[i]? = some a →
      exec (.peerLoadTimeout core) s = .next (deliver (modCore s core.val fun k => { k with arrivals := k.arrivals.eraseIdx i })
        (.lateCause core a.mark 0x0A 9 a.asked))) ∧
    (e < 4 → ∃ t, exec (.expanderLoss e) s = .next t ∧ t.dies = s.dies ∧ t.cores = s.cores ∧
      ∀ j, j < 64 → t.mod.portb.getLsbD j = (s.mod.portb.getLsbD j && j != 8 + e))

/-! ### Streams -/

/-- 03 R60 to R62, R67, R80, 04 R98, R99, 05 R105: the registers of a stream. STRM_CFG stores its fields while EN is 0 and sets EN where LOG2N and
BASE pass; while BASE's page migrates, or another module's die has not answered, the write waits. In S3 and S5 these registers do not answer but for
the doorbell. ZERO, ABORT, RESUME and the doorbell; polling; ageing. -/
def Obligations.StreamRegisters : Prop :=
  ∀ (s s' : State) (die : DieId) (strm : StreamId) (v : Word),
    let d := die.val
    let n := strm.val
    let t := streamOf s d n
    let w := v &&& 0xFFFF0000000003DF
    let wr := Instr.strmCfgWrite die strm v
    let b := stepState s wr
    let off := modStream b d n fun u => { u with cfg := setFld w 9 9 0 }
    let asid := fld w 63 48
    let base := fld t.base 63 12 * 4096
    (3 ≤ s.mod.power → exec wr s = .next s ∧ exec (.strmCtlZero die strm) s = .next s ∧ exec (.strmCtlAbort die strm) s = .next s ∧
      exec (.strmCtlResume die strm) s = .next s) ∧
    (s.mod.power < 3 → t.en = true → StepGoes s wr (if v.getLsbD 9 then b else modStream b d n fun u => { u with cfg := setFld u.cfg 9 9 0 })) ∧
    (s.mod.power < 3 → t.en = false → v.getLsbD 9 = false → StepGoes s wr off) ∧
    (s.mod.power < 3 → t.en = false → v.getLsbD 9 = true → (fld w 4 0 < 4 ∨ 16 < fld w 4 0) →
      StepGoes s wr (modStream off d n fun u => { u with code := 3 })) ∧
    (s.mod.power < 3 → t.en = false → v.getLsbD 9 = true → 4 ≤ fld w 4 0 → fld w 4 0 ≤ 16 →
      (∀ bs, fwRead off d asid base 1 = (s', .ok bs) → StepGoes s wr (modStream s' d n fun u => { u with cfg := w })) ∧
      (∀ e, fwRead off d asid base 1 = (s', .error e) → e < waitPage → StepGoes s wr (modStream s' d n fun u => { u with code := 0x0B })) ∧
      (∀ e, fwRead off d asid base 1 = (s', .error e) → waitPage ≤ e → StepWaits s wr (lacks s' .page))) ∧
    (s.mod.power < 3 → t.en = false → exec (.strmCtlZero die strm) s = .next (modStream s d n fun u => { u with pos := 0 })) ∧
    (s.mod.power < 3 → ∃ z, exec (.strmCtlAbort die strm) s = .next z ∧
      ∀ cid c, cmdOf s d cid = some c → cid < 2 ^ 64 → c.strm = n → c.state = 1 →
        ∃ c', cmdOf z d cid = some c' ∧ c'.state = 5 ∧ c'.err = 0x11 ∧ c'.tEnd = (dieOf s d).beat) ∧
    (s.mod.power < 3 → t.halt = true → exec (.strmCtlResume die strm) s = .next
      (deliver (modStream s d n fun u => { u with halt := false }) (.slotAccept die strm))) ∧
    (t.en = true → t.db = true → s.mod.power ≠ 3 → exec (.strmDb die strm) s = .next
      (deliver (modStream s d n fun u => { u with rung := true }) (.slotAccept die strm))) ∧
    (s.mod.power = 3 → ∃ z, exec (.strmDb die strm) s = .next z ∧ z.agenda.head? = some ⟨.s3Return die, {}⟩) ∧
    (fwRuns s = true → ∃ z, exec (.pollInterval die) s = .next z ∧ z.dies = s.dies ∧
      ∀ m u, (m, u) ∈ (dieOf s d).streams → u.en = true → u.halt = false → (u.db = true → u.rung = true) →
        ⟨.slotAccept die (Fin.ofNat 64 m), {}⟩ ∈ z.agenda) ∧
    (∀ b, (readyCmd s d n).isSome = true → t.since = some b → 65536 ≤ ((dieOf s d).beat - b).toNat → effPrio t < 3 →
      exec (.streamAging die strm) s = .next (modStream s d n fun u => { u with raised := u.raised + 1, since := some (dieOf s d).beat }))

/-- 05 R104, R105: the stream whose command begins next has a command that may begin, and no stream with such a command has a higher
effective priority, which is at most 3. -/
def Obligations.HighestPriorityIsServed : Prop :=
  ∀ (s : State) (d n cid : Nat), chooseStream s d = some (n, cid) →
    readyCmd s d n = some cid ∧ effPrio (streamOf s d n) ≤ 3 ∧
    ∀ m z, readyCmd s d m = some z → effPrio (streamOf s d m) ≤ effPrio (streamOf s d n)

/-- 03 R67 to R71, 05 R104: a published slot enters the prompt book; the chosen command begins; a command that ends performs its completion
actions, of which one that names no counter, flag and interrupt has only its record. Inspection and finish wait for a page that migrates and for
another module's die: nothing of them is made but the request they send. -/
def Obligations.SlotsEnterAndCommandsFinish : Prop :=
  ∀ (s s' : State) (die : DieId) (strm : StreamId) (raw : List Byte) (bad n cid : Nat) (c : Cmd),
    let d := die.val
    let acc := Instr.slotAccept die strm
    let t := streamOf s d strm.val
    let e := s.focus.die
    let id := s.focus.cid
    let b := beginAsking s (.step .commandFinish e id)
    let fin := completionActions (releaseLaunch b e c) e id c
    let end_ := Fin.ofNat 4 e
    let ends := match c.node with
      | some (g, i) => deliver (deliver fin (.graphNodeEnd end_ g i)) (.commandSelect end_)
      | none => deliver fin (.commandSelect end_)
    (fwRuns s = true → t.en = true → t.halt = false → (t.db = true → t.rung = true) → nextSlot (stepState s acc) d t = (s', .slot raw bad) →
      bad ≠ waitErr → pbFull s' d = false →
      StepGoes s acc (enterSlot s' d strm.val t raw bad) ∧
      ((enterSlot s' d strm.val t raw bad).mod.want ≠ .nothing →
        exec acc s = .next (endAsking s (enterSlot s' d strm.val t raw bad) (.step acc 0 0)).1)) ∧
    (fwRuns s = true → chooseStream s d = some (n, cid) →
      let s1 := modDie s d fun k => { k with served := tabPut k.served (effPrio (streamOf s d n)) n }
      exec (.commandSelect die) s = .next
        (deliver (noteReady (beginCmd (modStream s1 d n fun u => { u with raised := 0, since := none }) d cid) d) (.commandSelect die))) ∧
    (fwRuns s = true → chooseStream s d = none → exec (.commandSelect die) s = .next (noteReady s d)) ∧
    (InHand s c →
      (ends.mod.want = .nothing → exec .commandFinish s = .next (asked s ends (.step .commandFinish e id))) ∧
      (ends.mod.want ≠ .nothing →
        exec .commandFinish s = .next (postpone (endAsking s ends (.step .commandFinish e id)).1 .commandFinish e id))) ∧
    (fieldOf c.slot 8 4 < 2 ^ 31 → fieldOf c.slot 16 8 = 0 → fieldOf c.slot 24 2 < 2 ^ 15 →
      completionActions s d cid c = putCmd s d cid fun k => { k with state := if k.err = 0 then 3 else 4, tEnd := (dieOf s d).beat })

/-! ### Commands -/

/-- 03 R73, R74, 08 R203, 10 R262, R264, R265, 06 R153: what the commands that need no core do, on the command in hand. A PAGEOP handles its pages
one by one: a page's operation begins with one step and ends with the next. A CTRWAIT on a counter of another module's die asks that die. -/
def Obligations.SimpleCommands : Prop :=
  ∀ (s : State) (c : Cmd), InHand s c →
    let d := s.focus.die
    let cid := s.focus.cid
    let b := cmdState s
    let asid := cmdAsid s d c
    let id := fieldOf c.slot 32 4 % 2 ^ 20
    let upTo := match c.work with | .pages n moving => (n, moving) | _ => (0, false)
    let va := fieldOf c.slot 40 8 + 65536 * upTo.1
    let late := c.type = 7 ∧ fieldOf c.slot 48 8 ≠ 0 ∧ fieldOf c.slot 48 8 ≤ 16 * ((dieOf s d).beat - c.tBeg).toNat
    let goesOn := fun (i : Instr) (t : State) =>
      (fieldOf c.slot 48 8 / 65536 ≤ upTo.1 + 1 → Ends s i t 0) ∧
      (upTo.1 + 1 < fieldOf c.slot 48 8 / 65536 →
        CmdGoes s i (modCmd t d cid fun k => { k with waits := true, work := .pages (upTo.1 + 1) false }))
    let page := fun (i : Instr) (f : State → Nat → Nat → Nat → Leaf → PageStep) =>
      let r := pageStep f b asid va
      (upTo.2 = false →
        (∀ e, r.2 = .fail e → Ends s i r.1 e) ∧ (r.2 = .skip → goesOn i r.1) ∧
        (∀ o l k, r.2 = .start o l k →
          CmdGoes s i (modCmd (startMove r.1 o asid va l k) d cid fun k => { k with waits := true, work := .pages upTo.1 true })) ∧
        (r.2 = .wait → CmdGoes s i (modCmd r.1 d cid fun k => { k with waits := true }))) ∧
      (upTo.2 = true → ∀ o, localDie s (va / 2 ^ 56) = some o →
        (moveOf s o asid va = none → goesOn i b) ∧
        (∀ m, moveOf s o asid va = some m →
          let z := endMove b o m
          (z.2 = true → goesOn i z.1) ∧ (z.2 = false → Ends s i z.1 0x0B)))
    Ends s .nop b 0 ∧ Ends s .mark b 0 ∧
    ((∀ f ∈ (streamOf s d c.strm).frames, f.cid ≠ cid) → Ends s .indirect b c.err) ∧
    (routed s (ctrDie id) = true → Ends s .ctrset (payAll (ctrWrite b d id (wordAt c.slot 40))) 0) ∧
    (∀ h, routed s (ctrDie id) = true → localDie s (ctrDie id) = some h →
      let now := (ctrVal s h (ctrIdx id)).toNat
      (fieldOf c.slot 40 8 ≤ now → Ends s .ctrwait b 0) ∧
      (now < fieldOf c.slot 40 8 → CmdGoes s .ctrwait (modCmd b d cid fun k => { k with waits := true })) ∧
      (now < fieldOf c.slot 40 8 → late → Ends s .ctrwaitTimeout b 8)) ∧
    (routed s (ctrDie id) = true → localDie s (ctrDie id) = none →
      let r := ask b d (ctrDie id) 0 id (.ctrGet (wordAt c.slot 40) 0)
      (r.2.isSome = true → Ends s .ctrwait r.1 0) ∧ (r.2 = none → CmdWaits s .ctrwait r.1) ∧
      ((∀ x ∈ s.mod.exchanges, x.asker = .cmd d cid → x.reply = none) → late → Ends s .ctrwaitTimeout b 8)) ∧
    (fieldOf c.slot 40 4 = 0 → Ends s .cuesheet (selectPhase b d (fieldOf c.slot 44 4)) 0) ∧
    (∀ s' bs, fieldOf c.slot 40 4 ≠ 0 → fwRead b d asid (fieldOf c.slot 32 8) (fieldOf c.slot 40 4) = (s', .ok bs) →
      (cueOk bs (fieldOf c.slot 44 4) = true → Ends s .cuesheet (selectPhase (loadSheet (measure s' bs) d bs) d (fieldOf c.slot 44 4)) 0) ∧
      (cueOk bs (fieldOf c.slot 44 4) = false → Ends s .cuesheet s' 3)) ∧
    page .pageopFetch fetchStepOf ∧ page .pageopEvict (evictStepOf c upTo.1) ∧ page .pageopMigrate (migrateStepOf c) ∧
    (∀ p s' bs z, qpOf s d (fieldOf c.slot 32 4) = some p → p.entries.length + fieldOf c.slot 36 4 ≤ 64 →
      fwRead b d asid (fieldOf c.slot 40 8) (64 * fieldOf c.slot 36 4) = (s', .ok bs) →
      postEntries s' d (fieldOf c.slot 32 4) asid .firmware (postedRaws (fieldOf c.slot 36 4) bs) = some z → Ends s .qppostCmd z 0)

/-- 05 R107 to R129, 03 R73, 10 R259: the commands that launch work, once their images, presets and tables have been read. A table that fails at its
begin ends its command, and halts its stream where admission refuses an entry. The gangs whose beat has come are released in one step. -/
def Obligations.LaunchCommands : Prop :=
  ∀ (s s1 s2 : State) (c : Cmd), InHand s c →
    let d := s.focus.die
    let cid := s.focus.cid
    let b := cmdState s
    let raw := c.slot
    let asid := cmdAsid s d c
    let n := fieldOf raw 40 4
    let mask := slotMask raw d d
    let cores := maskedCores raw d
    let fails := fun (i : Instr) (e : Nat) =>
      (e = 3 ∨ e = 7 → CmdGoes s i (finishHalt s1 d cid e)) ∧ (e ≠ 3 → e ≠ 7 → Ends s i s1 e)
    (c.work = .none →
      (∀ img ps, (∀ k ∈ cores, (coreOf s k).retired = false) → cores ≠ [] → badCore s raw d = false → hookBad s raw d = false →
        fieldOf raw 100 1 + imageWindows n ≤ 8 → gangBlocked s raw d = false →
        codeRead (fetchRange d asid (pagesOf [(fieldOf raw 32 8, n)]) b) d asid (fieldOf raw 32 8) n = (s1, .ok img) →
        presetsOf s1 d asid raw = (s2, .ok ps) → CmdGoes s .gang (loadGang s2 d cid c img ps)) ∧
      (∀ j, cachesBusy s raw d (fieldOf raw 53 1 == 1) = false → lowestFreeJoin s d = some j →
        CmdGoes s .tasks (startTasksCmd b d cid j c) ∧
        ∀ e, beginTable b d asid c (fieldOf raw 52 1 == 1) false = (s1, .error e) → fails .tasks e) ∧
      (∀ ts, beginTable b d asid c false true = (s1, .ok ts) →
        let us := sortTasks (ts.map fun t => { t with launch := .ordered d cid t.index, child := t.index, strm := (d, c.strm), pool := mask })
        us ≠ [] → CmdGoes s .ordered (queueTasks (modCmd (acquireFence s1 c (poolCores s1 d mask)) d cid fun k =>
          { k with waits := false, work := .ordered (us.map (·.index)) 0 }) d us mask false)) ∧
      (∀ e, beginTable b d asid c false true = (s1, .error e) → fails .ordered e) ∧
      (∀ bs, fwRead b d asid (wordAt raw 32).toNat (64 * n) = (s1, .ok bs) →
        let g := GraphRun.launchFrom n 0
          { s := s1, d := d, cid := cid, asid := asid, strm := c.strm, root := wordAt raw 32, count := n, launched := [], erred := 0, closed := false }
        g.waits = false → CmdGoes s .graph ({ g with s := modCmd g.s d cid fun k => { k with waits := false } } : GraphRun).keep)) ∧
    (∀ ks ended beat, c.work = .gang ks ended (some beat) →
      ((∀ k ∈ ks, beat ≤ (dieOf s (dieOfCore k)).beat.toNat) →
        d < 4 → (d, cid, c) ∈ dueGangs b ∧ CmdGoes s .gangRelease (releaseGangs b)) ∧
      ((∃ k ∈ ks, (dieOf s (dieOfCore k)).beat.toNat < beat) → CmdGoes s .gangRelease b)) ∧
    (∀ order done_ ix k x q, c.work = .ordered order done_ → order[done_]? = some ix →
      (orderedCtxs s d cid).find? (fun p => p.2.2 == ix) = some (k, x, ix) → (ctxOf s k x).spec = some q →
      (q.ended = some 0 → CmdGoes s .taskCommit (nextOldest (commitTask b k x d cid q (order.drop (done_ + 1))) d cid order done_)) ∧
      (∀ z, z ≠ 0 → q.ended = some z → CmdGoes s .taskCommit (nextOldest (endAndKill b k x (.fault z)) d cid order done_))) ∧
    ((fieldOf raw 48 8 = 0 ∨ fieldOf raw 56 4 = 0) → Ends s .copy b 0) ∧
    (fieldOf raw 48 8 ≠ 0 → fieldOf raw 56 4 ≠ 0 →
      (c.refusal ≠ 0 → Ends s .copy b (engErr c.refusal)) ∧
      (c.refusal = 0 → CmdGoes s .copy (modCore b (fwCoreOf s d) fun k => { k with engs := k.engs ++
        [{ owner := .firmware d cid, asid := asid, op := 0, serial := 0, tok := false, cnt := 0, flag := 0,
           work := .copy (wordAt raw 32) (wordAt raw 40) [fieldOf raw 56 4] [wordAt raw 64] [wordAt raw 72] (fieldOf raw 48 8) (fieldOf raw 60 1),
           status := 0, held := heldPages asid (copyRows raw true ++ copyRows raw false) 0, since := s.clock }] }))) ∧
    (∀ (die : DieId) g i node, graphOf s die.val g = some i → node ∈ i.launched →
      let step := Instr.graphNodeEnd die g node
      let r := takeBody (stepState s step) die.val g node
      let h := { i with s := r.1, launched := i.launched.erase node }
      let e := if r.2 = 0 then h.endClean node else h.endError node r.2
      (e.waits = false → StepGoes s step e.keep ∧ StepWaits s step e.keep) ∧ (e.waits = true → StepWaits s step (lacks e.s .page)))

/-- 03 R75, R76, 02 R42, R45, R48, 06 R142, 08 R222, 21 R496: the functions of FWCALL with arguments in their ranges. -/
def Obligations.FirmwareCalls : Prop :=
  ∀ (s s1 : State) (c : Cmd), InHand s c →
    let d := s.focus.die
    let z := cmdState s
    let raw := c.slot
    let asid := cmdAsid s d c
    let only := fun (l : List (Nat × Nat)) => zeroBut raw l 40 252 = true
    let b := fieldOf raw 40 1
    let b' := fieldOf raw 41 1
    (only [(40, 41)] → b ≤ 62 → Ends s .setModuleId { z with mod := { z.mod with modId := BitVec.ofNat 64 (128 + b) } } 0) ∧
    (only [(40, 42)] → b ≤ 2 → b' ≤ 2 → Ends s .portbMode { z with mod := { z.mod with portbNext := (b, b') } } 0) ∧
    (only [(40, 42), (48, 64)] → b ≤ 3 → b' ≤ 63 → Ends s .swtWrite
      (modDie z b fun k => { k with swtLo := tabSet 0 k.swtLo b' (wordAt raw 48 &&& 0xFFFFFFFFFFFFFFF1),
                                    swtHi := tabSet 0 k.swtHi b' (wordAt raw 56 &&& 0x0003FFFFFFFFF000) }) 0) ∧
    (only [(40, 50)] → Ends s .aperture { z with mod := { z.mod with aptVa := wordAt raw 40, aptAs := fieldOf raw 48 2 } } 0) ∧
    (∀ s2 h bs, only [(40, 44)] → s.mod.modId.getLsbD 7 = true → s.mod.training = none →
      fwRead z d asid (fieldOf raw 40 4) 8 = (s1, .ok h) → 1 ≤ fieldOf h 0 4 → fieldOf h 0 4 ≤ 12 →
      fwRead s1 d asid (fieldOf raw 40 4) (8 + 4 * fieldOf h 0 4) = (s2, .ok bs) → portListOk bs (fieldOf h 0 4) = true →
      CmdGoes s .domainJoin (modCmd (startJoin s2 d s.focus.cid ((List.range (fieldOf h 0 4)).map (portEntry bs))) d s.focus.cid
        fun k => { k with waits := false })) ∧
    (only [(40, 41)] → b ≤ 11 → s.mod.training = none →
      CmdGoes s .linkRetrain (modCmd (modMod (trainLink z b) fun m => { m with training := some ⟨d, s.focus.cid, [(b, none)], false⟩ }) d s.focus.cid
        fun k => { k with waits := false })) ∧
    (∀ bs s2 ms s3 lr, only [(40, 48)] → fwRead z d asid (fieldOf raw 40 8) 64 = (s1, .ok bs) →
      let id := fieldOf bs 0 2 % 4096
      let g := descGroup bs asid
      let h := { g with members := ms.map (·.toNat) }
      let s4 := fetchRange d asid (pagesOf [(g.ring.toNat, groupArea g)]) s3
      groupOk s1 d bs g none = true → collOf s1 d id = none → fwRead s1 d asid (fieldOf bs 8 8) g.n = (s2, .ok ms) →
      membersOk s2 d h h.members = true → (if g.log then fwRead s2 d asid g.lraddr.toNat 4 else (s2, .ok [])) = (s3, .ok lr) →
      dramFail s4 d asid g.ring.toNat (groupArea g) = 0 → Ends s .groupSet (installGroup s4 d id none h) 0) ∧
    (only [(40, 44), (48, 56)] → fieldOf raw 40 2 ≤ 255 → fieldOf raw 42 2 ≤ 4095 → fieldOf raw 48 8 % 512 = 0 →
      let z := fetchRange d asid (pagesOf [(fieldOf raw 48 8, 512)]) z
      dramFail z d asid (fieldOf raw 48 8) 512 = 0 → qpOf z d (fieldOf raw 40 2) = none →
      Ends s .qpSet (setQp z d (fieldOf raw 40 2) { grp := fieldOf raw 42 2, ring := BitVec.ofNat 64 (fieldOf raw 48 8), asid := asid }) 0) ∧
    (only [(40, 42), (44, 58), (64, 72)] → hookOk s raw = true →
      (fieldOf raw 56 2 = 0 → Ends s .coreHook (placeHook z (64 * b + b') raw []) 0) ∧
      (∀ img, fieldOf raw 56 2 ≠ 0 →
        codeRead (fetchRange d asid (pagesOf [(fieldOf raw 48 8, fieldOf raw 56 2)]) z) d asid (fieldOf raw 48 8) (fieldOf raw 56 2) = (s1, .ok img) →
        Ends s .coreHook (placeHook s1 (64 * b + b') raw img) 0)) ∧
    (∀ bs, only [(40, 41), (42, 44), (48, 56)] → b ≤ 3 → fieldOf raw 42 2 ≤ 1023 → fwRead z d asid (fieldOf raw 48 8) 32 = (s1, .ok bs) →
      fieldOf bs 13 3 = 0 → fieldOf bs 24 8 = 0 → fieldOf bs 16 4 < 2 ^ 20 → fieldOf bs 20 4 < 2 ^ 20 → ringOk s1 (ringDescOf bs) = true →
      Ends s .ringSet (physWrite s1 b (ringAddr (dieOf s1 b) (fieldOf raw 42 2)) bs) 0)

/-- 04 R84, R87 to R100: the subfunctions of FWCALL SECURITY. What depends on a signature says which way it goes by the signature's check. -/
def Obligations.SecurityCalls : Prop :=
  ∀ (s s1 : State) (c : Cmd), InHand s c →
    let d := s.focus.die
    let y := cmdState s
    let raw := c.slot
    let asid := cmdAsid s d c
    let only := fun (l : List (Nat × Nat)) => zeroBut raw l 40 252 = true
    let b' := fieldOf raw 41 1
    let off := fieldOf raw 48 8
    let len := fieldOf raw 56 8
    let tenant := 1 ≤ b' ∧ b' ≤ 16
    (only [(40, 42)] → b' ≤ 2 → b' = s.mod.sec.mode + 1 →
      let z := if b' = 2 then endSession y d else y
      Ends s .raiseMode { z with mod := { z.mod with sec := { z.mod.sec with mode := b' } } } 0) ∧
    (∀ s2 w pk, only [(40, 44), (48, 64)] → s.mod.sec.mode = 2 → tenant → boundElsewhere s (fieldOf raw 42 2) b' = false →
      fwRead y d asid off 1632 = (s1, .ok w) → fwRead s1 d asid len 64 = (s2, .ok pk) →
      Ends s .loadKey (bindAs (modSec s2 fun x => { x with keys := tabPut x.keys b' ⟨unwrapKey s2 b' w, pk⟩ }) (fieldOf raw 42 2) b') 0) ∧
    (only [(40, 42)] → s.mod.sec.mode = 2 → tenant →
      Ends s .dropKey (modSec y fun x => { x with keys := tabDel x.keys b', windows := x.windows.filter fun w => w.tenant != b' }) 0) ∧
    (∀ sig, only [(40, 42), (48, 72)] → s.mod.sec.mode = 2 → tenant → windowOk s b' off len = true →
      fwRead y d asid (fieldOf raw 64 8) 29792 = (s1, .ok sig) →
      let ok := windowSigned s1 4 b' off len sig
      Ends s .openWindow (freshNonce (modSec s1 fun x => { x with windows := if ok then x.windows ++ [⟨b', off, len⟩] else x.windows })) (if ok then 0 else 3)) ∧
    (∀ sig, only [(40, 42), (48, 56), (64, 72)] → s.mod.sec.mode = 2 → tenant → (∃ w ∈ s.mod.sec.windows, w.tenant = b' ∧ w.off = off) →
      fwRead y d asid (fieldOf raw 64 8) 29792 = (s1, .ok sig) →
      let ok := windowSigned s1 12 b' off 0 sig
      Ends s .closeWindow (freshNonce (modSec s1 fun x =>
        { x with windows := if ok then x.windows.filter fun w => !(w.tenant == b' && w.off == off) else x.windows })) (if ok then 0 else 3)) ∧
    (∀ u, only [(40, 41), (48, 56)] → fwWrite y d asid off (ekey s ++ idSign (serialBytes ++ ekey s)) = (s1, .ok u) → Ends s .getEkey s1 0) ∧
    (∀ bs, only [(40, 41), (48, 56)] → fwRead y d asid off (128 + 29792) = (s1, .ok bs) →
      Ends s .policyWrite (modMod s1 fun m => { m with policy := if policyOk bs then some bs else m.policy }) (if policyOk bs then 0 else 3)) ∧
    (only [(40, 42), (48, 56)] → 1 ≤ b' → b' ≤ 2 → s.mod.sec.events.length < 4095 →
      (tokenNeed s.mod.sec.mode b' = .free → off = 0 → Ends s .debugUnlock (freshNonce (openSession y d b' 0 [])) 0) ∧
      (∀ bs, tokenNeed s.mod.sec.mode b' ≠ .free → fwRead y d asid off (64 + 29792) = (s1, .ok bs) →
        CmdGoes s .debugUnlock (unlockWith s1 d s.focus.cid b' (tokenNeed s.mod.sec.mode b') bs))) ∧
    (only [(40, 41)] → Ends s .debugEnd (endSession y d) 0) ∧
    (∀ u, only [(40, 41), (48, 56), (64, 96)] →
      let body := reportBody s ((raw.drop 64).take 32)
      fwWrite y d asid off (body ++ idSign body) = (s1, .ok u) → Ends s .attest s1 0) ∧
    (only [(40, 42), (48, 50)] → b' ≤ 3 → fieldOf raw 48 2 ≤ 15 → (∀ k < 4, (fieldOf raw 48 2).testBit k = true → clusterBusy s (4 * b' + k) = false) →
      let z := ((List.range 4).filter fun k => (fieldOf raw 48 2).testBit k).foldl (fun z k => loseSpad z (4 * b' + k)) y
      Ends s .gate (modDie z b' fun x => { x with gated := BitVec.ofNat 4 (fieldOf raw 48 2) }) 0) ∧
    (only [(40, 41)] →
      let z := requestAll (modMod (endSession y d) fun m => { m with susp := true })
      (quiet z = false → CmdGoes s .suspend (postpone z .suspend d s.focus.cid)) ∧
      (quiet z = true →
        let x := completionActions (z.cores.foldl (fun t e => publishAll t e.1) z) d s.focus.cid c
        CmdGoes s .suspend { x with mod := { x.mod with power := 3, saved := x.mod.sec.measBoot, susp := false } })) ∧
    (only [(40, 41)] → Ends s .resume y 0)

/-! ### The steps of a core -/

/-- 07 R171, R186, 08 R210, 10 R268, R272, 15 R396, 04 R92: what the core whose bundle is fetched does with it. A header that is not legal traps
with ILLEGAL_HDR; a trap of the next bundle can be taken by itself; a failed retry counts, and behind the last one the budget is exhausted in the
same step; at another module's die the attempts are counted by its responses, and the last one parks the context there; a context that is leaving its
core waits until its accesses are answered; a halted core steps. What another module's die has performed for a bundle the bundle takes before anything
stops its core. -/
def Obligations.CoresIssueAndRetry : Prop :=
  ∀ (s : State) (core : CoreId) (x : Nat) (b : Bundle),
    let c := core.val
    let k := coreOf s c
    let t := ctxOf s c x
    let b' := issueOf k x b
    let taken := replyReady s c x
    let runs := fun (s : State) => firstFail (runBundle s c x b') c x
    k.run = some x →
    (issueStops k = true → taken = false → exec (.bundleIssue core) s = .next s) ∧
    (issueStops k = false ∨ taken = true → ∀ l, leaving t = some l →
      exec (.bundleIssue core) s = .next (if unsettled s c x then s else leaveNow s c x l)) ∧
    ((issueStops k = false ∧ k.dbgReq = false ∨ taken = true) → leaving t = none → t.inAmigen = false →
      (sleeps t = false ∨ answeredNow s c x = true) → (t.killed = true ∨ backFull t = false ∨ taken = true) →
      (t.killed = false ∨ taken = false →
        (fetched s c x = .ok b → exec (.bundleIssue core) s = .next (runs s)) ∧
        (∀ e, fetched s c x = .error e → k.rerun = none → exec (.bundleIssue core) s = .next (firstFail (issueTrap s c x
          { cause := 1, info := BitVec.ofNat 64 (leNat (memRead k.imem t.pc.toNat 4)) }) c x))) ∧
      (t.killed = true → taken = true →
        let z := issueFetched (modCtx s c x fun u => { u with killed := false }) c x
        exec (.bundleIssue core) s = .next (firstFail (if (ctxOf z c x).status = .none then z
          else modCtx z c x fun u => { u with killed := true }) c x))) ∧
    (issueStops k = false → leaving t = none → fetched s c x = .ok b → ∀ z, bundleTrap s c x b' = some z →
      exec (.trapTake core) s = .next (issueTrap s c x z)) ∧
    (issueStops k = false → ∀ op va v n, t.held = some (.fe op va v n) →
      (heldAbroad s t = none →
        let z := issueFetched (modCtx s c x fun u => { u with killed := false }) c x
        let y := modCtx z c x fun u => { u with killed := t.killed }
        (feHeld z c x = true → exec (.feRetry core) s = .next (if budgetUsed t then exhaust y c x op va v else modCtx y c x countFail)) ∧
        (feHeld z c x = false → t.killed = false → exec (.feRetry core) s = .next z) ∧
        (feHeld z c x = true → budgetUsed t = true → exec (.feBudgetExhausted core) s = .next (exhaust y c x op va v)) ∧
        (feHeld z c x = false → t.killed = false → budgetUsed t = true → exec (.feBudgetExhausted core) s = .next z)) ∧
      (∀ g, heldAbroad s t = some g →
        (asksNow s c x = true → exec (.feRetry core) s = .next s) ∧
        (asksNow s c x = false → ∀ r, attemptFailed s c x = some r →
          (r.park = 1 → unanswered s c x = false →
            exec (.feRetry core) s = .next (parkAbroad s c x g) ∧ exec (.feBudgetExhausted core) s = .next (parkAbroad s c x g)) ∧
          (r.park = 2 → exec (.feRetry core) s = .next (issueTrap s c x { cause := 0x0B, slot := 3, info := va ||| (1 <<< 63 : Word) })) ∧
          (r.park = 0 → fld t.feb 15 0 ≤ n → rehearsing k = false → t.feb.getLsbD 16 = true →
            exec (.feRetry core) s = .next (issueTrap s c x { cause := 0x0B, slot := 3, info := va })) ∧
          (r.park = 0 → n < fld t.feb 15 0 → t.killed = false → exec (.feRetry core) s = .next
            (issueFetched (modCtx (dropBundle s c x) c x fun u => { u with held := some (.fe op va v (n + 1)) }) c x))))) ∧
    (issueStops k = false → ∀ id thr, t.held = some (.ctr id thr) → (t.killed = false ∨ taken = false) → fetched s c x = .ok b →
      (∀ h, localDie s (ctrDie id) = some h → thr.toNat ≤ (ctrVal s h (ctrIdx id)).toNat → exec (.cwaitSatisfied core) s = .next (runs s)) ∧
      (localDie s (ctrDie id) = none → answeredNow s c x = true → exec (.cwaitSatisfied core) s = .next (runs s))) ∧
    (s.mod.sec.debug = 2 → s.mod.sec.events.length < 4095 → s.mod.sec.mode ≠ 2 → k.dbgHalt = true → leaving t = none → t.inAmigen = false →
      (t.killed = false ∨ taken = false) →
      fetched s c x = .ok b → exec (.debugStep core) s = .next (settle (runs (logEvent s (dieOfCore c) c .step)) c))

/-- 10 R274 to R280, 05 R130, 07 R186, R188, R189, 08 R198: checkpoints, late causes, reruns and rehearsal, and switches of the running
context. What a core's context still awaits holds back a checkpoint, a switch, a rollback. -/
def Obligations.IntervalsAndSwitches : Prop :=
  ∀ (s : State) (core : CoreId) (x : Nat),
    let c := core.val
    let k := coreOf s c
    let t := ctxOf s c x
    exec (.phaseDrainEnd core) s = .next (modCore s c fun k => { k with drain := none }) ∧
    (k.run = some x →
      (issueStops k = false → unsettled s c x = false → leaving t = none →
        (rehearsing k = false → exec (.checkpoint core) s = .next (takeCheckpoint s c x)) ∧
        (rehearsing k = true → exec (.checkpoint core) s = .next (stopRerun s c x))) ∧
      (k.tslice ≠ 0 → k.tslice.toNat ≤ k.sliceUsed → exec (.sliceEnd core) s = .next (modCore s c fun k => { k with preempt := true })) ∧
      (k.preempt = true → t.atLand = true → t.priv = false → issueStops k = false → leaving t = none → unsettled s c x = false →
        firstRows s c x = false → exec (.preemptLand core) s = .next (switchAway (settle s c) c x .ready)) ∧
      (∀ count cause sub info,
        let z := earlier k.late (count, { cause := cause, sub := sub % 256, level := sub / 256 % 4, slot := 3, late := true, info := info })
        let a := modCore s c fun k => { k with late := none }
        (unsettled s c x = true → exec (.lateCause core count cause sub info) s = .next (modCore s c fun k => { k with late := some z })) ∧
        (unsettled s c x = false → stopsBefore k z.1 = true → exec (.lateCause core count cause sub info) s = .next a) ∧
        (unsettled s c x = false → stopsBefore k z.1 = false →
          (k.shadow = none → exec (.lateCause core count cause sub info) s = .next (trapRunning a c x z.2)) ∧
          (k.shadow.isSome = true → rehearsing k = true → exec (.lateCause core count cause sub info) s = .next (stopRerun a c x)) ∧
          (k.shadow.isSome = true → rehearsing k = false →
            exec (.lateCause core count cause sub info) s = .next (startRerun a c x ⟨[], some z, 1, none⟩)))) ∧
      (∀ h, k.shadow = some h → k.retired = false → rehearsing k = false →
        let a := modCore s c fun k => { k with intErr := false }
        (unsettled s c x = true → exec (.internalError core) s = .next (modCore s c fun k => { k with intErr := true })) ∧
        (unsettled s c x = false → h.uncopied = false → exec (.internalError core) s = .next (startRerun a c x ⟨[], none, 2, none⟩)) ∧
        (unsettled s c x = false → h.uncopied = true → exec (.internalError core) s = .next (endRunning
          (modDie a (dieOfCore c) fun d => { d with rehFaulted := min (d.rehFaulted + 1) 0xFFFF }) c x .integrity))) ∧
      (k.retired = false → rehearsing k = true →
        let no := Instr.rehearsalCompare core false
        let z := retireCore (stepState s no) c
        exec (.rehearsalCompare core true) s = .next (modCore (modDie s (dieOfCore c) fun d => { d with rehAgreed := min (d.rehAgreed + 1) 0xFFFFFFFF })
          c fun k => { k with rerun := none }) ∧
        StepGoes s no z ∧
        (z.mod.want ≠ .nothing → exec no s = .next (modCore (endAsking s z (.step no 0 0)).1 c fun k => { k with intErr := true })))) ∧
    (k.run = none → issueStops k = false → k.dbgReq = false → exec (.preemptLand core) s = .next (runNext c 9 k.lastCtx s))

/-- 08 R212 to R214, 05 R114, R115, 07 R183, 10 R262, R263, 12 R321, 17 R443, R444, R452, R464: wakes, starts of tasks, replies, and completions of
the engines: the oldest command of an engine moves and completes, unless a page or another module's die it needs has not come; a copy completes behind
those of its cluster that arrived before it. -/
def Obligations.WakesStartsAndCompletions : Prop :=
  ∀ (s : State) (core : CoreId) (die : DieId) (cl : Fin 4) (pa : Nat) (bs : List Byte) (cx : CtxId),
    let c := core.val
    let d := die.val
    let k := coreOf s c
    let of := fun (p : Park) => p.pa / 8 == pa / 8
    let bucket := bucketOf (pa / 8 * 8)
    let engine := fun (i : Instr) (n : Nat) => ∀ e l, takeEng (fun e => engNo e == n) k.engs = some (e, l) →
      (n = 1 → earlierCopy s c e.since = none) →
      let r := engTry (modCore s c fun k => { k with engs := l }) c e
      (r.2 = false → exec i s = .next r.1) ∧ (r.2 = true → exec i s = .next (modCore r.1 c fun z => { z with engs := k.engs }))
    exec (.wakeWalk die pa) s = .next ((((bucketList (dieOf s d) bucket).map (parkAt (dieOf s d))).filter of).foldl (wakeOne · d ·)
      (modDie s d fun k => dropFrom k bucket of)) ∧
    exec (.taskStart core) s = .next (placeAll (if k.retired || isFirmwareCore s c then s else startTasks c 8 s) (dieOfCore c)) ∧
    (performHeld s c = none →
      exec (.loadReturn core bs) s = .next (arriveFirst s c (fun a => !a.store && a.returns) bs [] k.arrivals) ∧
      exec (.ownerReply core) s = .next (arriveFirst s c (fun a => a.store && a.returns) [] [] k.arrivals)) ∧
    (∀ t, performHeld s c = some t → exec (.loadReturn core bs) s = .next t ∧ exec (.ownerReply core) s = .next t) ∧
    exec (.tokenEnter core cx) s = .next (modCore s c flushTokens) ∧
    (∀ i r, (dieOf s d).pgreqs[i]? = some r →
      let z := servePgreq s d r
      exec (.pgreqDone die i) s = .next (if z.2 then modDie z.1 d fun k => { k with pgreqs := k.pgreqs.eraseIdx i } else z.1)) ∧
    engine (.copyComplete core) 1 ∧ engine (.gatherComplete core) 2 ∧ engine (.transposeComplete core) 3 ∧
    (∀ e l, takeEng (fun e => engNo e == 1) k.engs = some (e, l) →
      let r := serveEarlier c e.since 256 s
      exec (.copyComplete core) s = .next (if r.2 then r.1 else completeOwn r.1 c fun e => engNo e == 1)) ∧
    (let z := landDue s c
     let tried := k.pend.any (·.waits)
     (tried = true ∨ (coreOf z c).pend.find? (fun p => coopLand p.land) = none → exec (.matrixComplete core) s = .next z) ∧
     (∀ p, tried = false → (coreOf z c).pend.find? (fun p => coopLand p.land) = some p →
       exec (.matrixComplete core) s = .next
         (landCycle (setCore z c { coreOf z c with pend := (coreOf z c).pend.erase p, streamFree := (coreOf z c).ic }) c [p]))) ∧
    (let all := List.range 16
     let q := 4 * d + cl.val
     let c0 := 16 * q
     (∀ g, lateGroup s q = some g →
       exec (.coopTimeout die cl) s = .next (all.foldl (fun z i => match (coreOf z (c0 + i)).coop with
         | some (y, mask, tag, j) => if (mask, tag) = g then modCore z (c0 + i) fun k => pushToken { k with coop := none, streamFree := k.ic } y 0 j.serial 3 1
             else z
         | none => z) s)) ∧
     (lateGroup s q = none → exec (.coopTimeout die cl) s = .next s) ∧
     exec (.coopStart die cl) s = .next (all.foldl (fun z i => match (coreOf z (c0 + i)).coop with
       | some (_, mask, tag, j) => if groupReady z q mask tag then (groupOf q mask).foldl (fun z e => startMember z j e) z else z
       | none => z) s))

/-- 04 R92, R94, R100, 07 R186, R189: at level D2, while the log has room and outside Sealed mode, a debugger halts a core once its context has
nothing under way and its next bundle neither traps nor exhausts a budget, lets it and a context that HALT holds go on, and reads and writes
registers, tiles, masks, pages, queues and memory; weight buffers, the transposition queue, the branch map and F and W of words. From D1 on it reads counters and the trace. Each access enters the log. How a debugger
names what it reads is the model's choice (log 24). -/
def Obligations.DebugSteps : Prop :=
  ∀ (s : State) (core : CoreId) (cx : CtxId) (n : Fin 56) (p : PReg) (a : AReg) (cr : BitVec 12) (asid : BitVec 16) (va v : Word)
    (vr : VReg) (mr : MReg) (i12 : BitVec 12) (i7 : BitVec 7) (page i9 : BitVec 9) (q : Fin 8) (i64 : Fin 64) (i15 : BitVec 15)
    (b1 b2 : Bool) (row col : BitVec 10) (ti : Fin 8) (tr : BitVec 5) (tw : BitVec 6) (cn : BitVec 3),
    let c := core.val
    let x := cx.val
    let k := coreOf s c
    let t := ctxOf s c x
    let z := logEvent s (dieOfCore c) c .access
    let go := modCore s c fun k => { k with dbgHalt := false }
    let halts := logEvent (modCore (settle s c) c fun k => { k with dbgHalt := true, dbgReq := false }) (dieOfCore c) c .halt
    let reads := fun (r : DebugTarget) (w : Word) => exec (.debugAccess core r none) s = .next (sendOut z (.debug w))
    let writes := fun (r : DebugTarget) (t : State) => exec (.debugAccess core r (some v)) s = .next t
    (1 ≤ s.mod.sec.debug → s.mod.sec.events.length < 4095 → s.mod.sec.mode ≠ 2 →
      reads (.counter i12) (ctrVal s (dieOfCore c) i12.toNat) ∧ reads .drops (BitVec.ofNat 64 k.q7drop) ∧
      reads (.trace i64) (k.q7.getD i64.val 0) ∧ reads (.total true) (BitVec.ofNat 64 s.mod.dropw) ∧
      reads (.total false) (BitVec.ofNat 64 s.mod.ccerr)) ∧
    (s.mod.sec.debug = 2 → s.mod.sec.events.length < 4095 → s.mod.sec.mode ≠ 2 →
      (k.dbgHalt = true → exec (.debugHalt core) s = .next s) ∧
      (k.dbgHalt = false → k.run = none → exec (.debugHalt core) s = .next halts) ∧
      (∀ y, k.dbgHalt = false → k.run = some y →
        let waits := issueStops k || unsettled s c y || (leaving (ctxOf s c y)).isSome || firstRows s c y
        (waits = false → exec (.debugHalt core) s = .next halts) ∧
        (waits = true → exec (.debugHalt core) s = .next (modCore s c fun k => { k with dbgReq := true }))) ∧
      (t.status ≠ .halted → exec (.debugResume core cx) s = .next go) ∧
      ((ctxOf go c x).status = .halted → exec (.debugResume core cx) s = .next (makeReady go c x)) ∧
      reads (.scalar cx n) (sReg t n.val) ∧ writes (.scalar cx n) (modCtx z c x (setSReg · n.val v)) ∧
      reads (.addr cx a) (aReg t a.toNat) ∧ writes (.addr cx a) (modCtx z c x (setAReg · a.toNat v)) ∧
      reads (.pred cx p) (BitVec.ofNat 64 (pReg t p.toNat).toNat) ∧ writes (.pred cx p) (modCtx z c x (setPReg · p.toNat (v.getLsbD 0))) ∧
      reads (.control cx cr) (readCr s c x cr.toNat) ∧ writes (.control cx cr) (writeCr z c x cr.toNat v) ∧
      reads (.pc cx) (t.pc.setWidth 64) ∧ writes (.pc cx) (modCtx z c x fun t => { t with pc := BitVec.ofNat 18 v.toNat, grp := [] }) ∧
      reads (.tile vr i12) ((vReg k vr.toNat).extractLsb' (64 * i12.toNat) 64) ∧
      writes (.tile vr i12) (modCore z c fun k => setVReg k vr.toNat (setWordOf (vReg k vr.toNat) i12.toNat v)) ∧
      reads (.mask cx mr i7) ((mReg t mr.toNat).extractLsb' (64 * i7.toNat) 64) ∧
      writes (.mask cx mr i7) (modCtx z c x fun t => setMReg t mr.toNat (setWordOf (mReg t mr.toNat) i7.toNat v)) ∧
      reads (.acc page i9) ((accPage k page.toNat).extractLsb' (64 * i9.toNat) 64) ∧
      writes (.acc page i9) (modCore z c fun k => setAccPage k page.toNat (setWordOf (accPage k page.toNat) i9.toNat v)) ∧
      reads (.queue cx q i64) ((queueOf k x q.val).getD i64.val 0) ∧
      writes (.queue cx q i64) (modCore z c fun k => setQueue k x q.val ((queueOf k x q.val).set i64.val v)) ∧
      reads (.cp cx i12) (cpReg t i12.toNat) ∧
      writes (.cp cx i12) (modCtx z c x fun t => { t with cp := tabSet (cpDefault i12.toNat) t.cp i12.toNat (cpMask i12.toNat v) }) ∧
      (∀ r w, mxOfId i12.toNat 0 = some (r, w) → reads (.mx cx i12) (getMx t.mx r)) ∧
      (∀ r w, mxOfId i12.toNat v = some (r, w) → writes (.mx cx i12) (modCtx z c x fun t => { t with mx := setMx t.mx r w })) ∧
      reads (.instr i15) (BitVec.ofNat 64 (leNat (memRead k.imem (8 * i15.toNat) 8))) ∧
      writes (.instr i15) (modCore z c fun k => { k with imem := memWrite k.imem (8 * i15.toNat) (leBytes 8 v.toNat) }) ∧
      reads (.weight b1 b2 row col) (weightWord (if b1 then k.wOther else k.wActive) b2 row.toNat col.toNat) ∧
      writes (.weight b1 b2 row col) (modCore z c fun k =>
        if b1 then { k with wOther := setWeight k.wOther b2 row.toNat col.toNat v } else { k with wActive := setWeight k.wActive b2 row.toNat col.toNat v }) ∧
      (∀ e, k.trq[ti.val]? = some e →
        reads (.trans ti tr tw) (BitVec.ofNat 64 (leNat (((e.rows.getD tr.toNat []).drop (8 * tw.toNat)).take 8)))) ∧
      writes (.trans ti tr tw) (modCore z c fun k => { k with trq := k.trq.modify ti.val fun e =>
        { e with rows := e.rows.modify tr.toNat fun bs => setBytes bs (8 * tw.toNat) (leBytes 8 v.toNat) } }) ∧
      reads (.branch cx tr) ((bmapEntry t tr.toNat).setWidth 64) ∧
      writes (.branch cx tr) (modCtx z c x fun t => { t with bmap := tabSet 0 t.bmap tr.toNat (v.setWidth 32 &&& 0x1FFFFF) }) ∧
      reads (.closed cx) (t.closed.setWidth 64) ∧ writes (.closed cx) (modCtx z c x fun t => { t with closed := v.setWidth 32 }) ∧
      reads (.curve cx cn i7) ((tabGet 0 t.curves cn.toNat).extractLsb' (64 * i7.toNat) 64) ∧
      writes (.curve cx cn i7) (modCtx z c x fun t =>
        { t with curves := tabSet 0 t.curves cn.toNat (setWordOf (tabGet 0 t.curves cn.toNat) i7.toNat v) }) ∧
      reads (.serial cx) (t.serial.setWidth 64) ∧ writes (.serial cx) (modCtx z c x fun t => { t with serial := v.setWidth 32 }) ∧
      (let mem := fun (i : Instr) => logEvent (stepState s i) (dieOfCore c) c .access
       let word := va.toNat / 8 * 8
       let rd := Instr.debugAccess core (.mem asid va) none
       let wr := Instr.debugAccess core (.mem asid va) (some v)
       let rb := Instr.debugAccess core (.wordBits asid va) none
       let wb := Instr.debugAccess core (.wordBits asid va) (some v)
       let comes := fun (i : Instr) (t : State) => StepGoes s i t ∧ StepWaits s i t
       (∀ s1 bs, engRead (mem rd) (clusterOfCore c) asid.toNat word 8 = (s1, .ok bs) →
         comes rd (sendOut s1 (.debug (BitVec.ofNat 64 (leNat bs))))) ∧
       (∀ s1 u, engWrite (mem wr) (clusterOfCore c) asid.toNat word (leBytes 8 v.toNat) none = (s1, .ok u) → comes wr s1) ∧
       (∀ s1 h pa ca ce ing out, engLoc (mem rb) (clusterOfCore c) asid.toNat word 8 false = (s1, .ok (.home h pa ca ce ing out)) →
         comes rb (sendOut s1 (.debug (BitVec.ofNat 64 ((fullBit (dieOf s1 h) pa).toNat + 2 * (waitBit (dieOf s1 h) pa).toNat))))) ∧
       (∀ s1 h pa ca ce ing out, engLoc (mem wb) (clusterOfCore c) asid.toNat word 8 true = (s1, .ok (.home h pa ca ce ing out)) →
         comes wb (modDie s1 h fun k => setWait (setFull k pa (v.getLsbD 0)) pa (v.getLsbD 1)))))

/-! ### Collectives -/

/-- 06 R155 to R160, 10 R262: work entries start when they are armed, chunks land or are held in the order of their arrival, and entries
complete. One that meets a page that migrates, or asks another module's die, goes on later. Whether a chunk that could land at once does so is a free
value (log 1). -/
def Obligations.WorkEntriesRun : Prop :=
  ∀ (s : State) (die : DieId) (qp : BitVec 8) (ck : Chunk) (code : Nat),
    let d := die.val
    let k := dieOf s d
    let s1 := { s with freeCtr := s.freeCtr + 1 }
    let now := (Config.freeValue s.freeCtr).getLsbD 0
    let i := Instr.chunkArrive die ck
    let start := Instr.workEntryStart die qp
    let arrives := fun (t : State) => exec i s = .next t
    let held := fun (s1 : State) =>
      let k := dieOf s1 d
      if k.spill = [] ∧ chunkBytes k.staging + ck.data.length ≤ stagingSize then modDie s1 d fun k => { k with staging := k.staging ++ [ck] }
      else if chunkBytes k.spill + ck.data.length ≤ spillSize then modDie s1 d fun k => { k with spill := k.spill ++ [ck] }
      else waitCredit s1 i
    let ends := fun (p : Qp) (e : WorkEntry) (z : Nat) =>
      let asker := Asker.step (.workEntryComplete die qp 0) 0 e.serial
      let t := completeEntry (beginAsking s asker) d qp.toNat p e z
      (t.mod.want = .nothing → exec (.workEntryComplete die qp code) s = .next (asked s t asker)) ∧
      (t.mod.want ≠ .nothing → exec (.workEntryComplete die qp code) s = .next (endAsking s t asker).1)
    (∀ p e, qpOf s d qp.toNat = some p → nextEntry p = some e →
      let a := armed (stepState s start) d e
      let t := if a.2 then startEntry a.1 d qp.toNat e else a.1
      let z := (endAsking s t (.step start 0 0)).1
      (t.mod.want ≠ .nothing → exec start s = .next z) ∧
      (t.mod.want = .nothing → z = asked s t (.step start 0 0) ∧
        (((qpOf z d qp.toNat).bind nextEntry).map (·.serial) = some e.serial → exec start s = .next z) ∧
        (((qpOf z d qp.toNat).bind nextEntry).map (·.serial) ≠ some e.serial → exec start s = .next (deliver z start)))) ∧
    (mailHas s i = true → arrives (waitCredit s1 i)) ∧
    (mailHas s i = false →
      (k.staging = [] → k.spill = [] → now = true →
        ((landing s1 d ck false).2 = false → arrives (landing s1 d ck false).1) ∧
        ((landing s1 d ck false).2 = true → mailHas (landing s1 d ck false).1 i = false → arrives (held (landing s1 d ck false).1))) ∧
      ((k.staging ≠ [] ∨ k.spill ≠ [] ∨ now = false) → arrives (held s1))) ∧
    (∀ a l, k.staging = a :: l →
      let r := landing (modDie s d fun k => { k with staging := l }) d a false
      exec (.spillRefetch die) s = .next (if r.2 then modDie r.1 d fun k => { k with staging := a :: l } else r.1)) ∧
    (∀ a l, k.staging = [] → k.spill = a :: l →
      let r := landing (modDie s d fun k => { k with spill := l }) d a true
      exec (.spillRefetch die) s = .next (if r.2 then modDie r.1 d fun k => { k with spill := a :: l } else r.1)) ∧
    (∀ a l sp, (landing (modDie s d l) d a sp).2 = false ↔
      (landChunk (stepState (modDie s d l) (.spillRefetch (Fin.ofNat 4 d))) d a sp).mod.want = .nothing) ∧
    (∀ p e z, qpOf s d qp.toNat = some p → p.entries.find? (fun e => e.code.isSome) = some e → e.code = some z → ends p e z) ∧
    (∀ p e, qpOf s d qp.toNat = some p → p.entries.find? (fun e => e.code.isSome) = none →
      p.entries.find? (fun e => awaitsAnswer s e code) = some e → code ≤ 8 → ends p e code)

/-- 06 R141 to R150, R161: a log group. Contributions are kept for their step; the leader closes its open step when every rank is in, or
late, within UWIN; an endpoint stores the step and acknowledges it; one that lacks records of a step that is closed fetches them from another member's
endpoint, or goes on behind the oldest step that endpoint retains (log 58); at QUORUM the step is sealed; another die takes over as leader, behind the
highest closed step that a surviving endpoint holds; a generation advances. -/
def Obligations.LogGroupsGoOn : Prop :=
  ∀ (s : State) (die : DieId) (grp : BitVec 12) (g : Group) (l : Lead) (rec' : List Byte) (src rank : Nat) (seq : Word),
    let d := die.val
    let id := grp.toNat
    let take := endpointTake s d id src rec' g
    let comes := fun (i : Instr) (t : State) => StepGoes s i t ∧ StepWaits s i t
    let assembles := Instr.stepAssemble die grp
    let takes := Instr.leaderTakeover die grp
    let b := stepState s assembles
    collOf s d id = some g → g.log = true →
    (leadOf s d id = none → exec (.contributionArrive die grp g.gen src false rec') s = .next take) ∧
    (leadOf take d id = some l → exec (.contributionArrive die grp g.gen src false rec') s = .next (leaderTake take d id src rec' l)) ∧
    exec (.contributionArrive die grp g.gen src true rec') s = .next (leaderRecord s d id rec' g) ∧
    (leadOf s d id = some l →
      (l.closeBeat + l.grp.dl ≤ (dieOf s d).beat.toNat →
        exec (.stepDeadline die grp) s = .next (deliver (setLead s d id { l with late := true }) (.stepClose die grp))) ∧
      ((allIn l || l.late) = true → windowOpen l = true →
        comes (.stepClose die grp) (closeStep (stepState s (.stepClose die grp)) d id l)) ∧
      (∀ step, (l.closes.find? fun e => e.2 == seq.toNat).map (·.1) = some step →
        let old := tabGet [] l.acks step
        rank ∉ old → step ∉ l.sealed →
        (old.length + 1 < l.grp.quorum → exec (.closeAck die grp l.grp.gen seq rank) s =
          .next (setLead s d id { l with acks := tabPut l.acks step (old ++ [rank]) })) ∧
        (l.grp.quorum ≤ old.length + 1 → exec (.closeAck die grp l.grp.gen seq rank) s =
          .next (deliver (sendAll (setLead s d id { l with sealed := l.sealed ++ [step], acks := tabDel (tabPut l.acks step (old ++ [rank])) step })
            l.grp id d (leBytes 8 seq.toNat) fun e => .sealAnnounce e grp l.grp.gen seq) (.stepClose die grp))))) ∧
    ((coreOf s (listenCore d g)).q4.length < 64 →
      (∀ rs, stepRecords g = some rs → comes assembles (assemble b d id g rs)) ∧
      (stepRecords g = none → (∃ c ∈ g.emitted, c.rank = 0xFFFF) →
        (∀ s1 rs, fetchFrom b d id g g.members = (s1, some rs) → comes assembles (assemble s1 d id g rs)) ∧
        (∀ s1 s2 h, fetchFrom b d id g g.members = (s1, none) → resumeFrom s1 d id g g.members = (s2, some h) →
          comes assembles (deliver (keepGroup s2 d id h) assembles)) ∧
        (∀ s1 s2, fetchFrom b d id g g.members = (s1, none) → resumeFrom s1 d id g g.members = (s2, none) → comes assembles s2))) ∧
    (64 ≤ (coreOf s (listenCore d g)).q4.length → ((stepRecords g).isSome = true ∨ ∃ c ∈ g.emitted, c.rank = 0xFFFF) →
      exec assembles s = .next (waitCredit s assembles)) ∧
    (g.sealed < seq.toNat → exec (.sealAnnounce die grp g.gen seq) s = .next (keepGroup s d id { g with sealed := seq.toNat })) ∧
    (takesOver s d id g = true →
      let r := survivors (stepState s takes) d id g
      let t := takeOver (stepState s takes) d id g
      comes takes t ∧
      ∀ m high, bestOf r.2 = some (m, high) → (∀ e ∈ r.2, e.2.1 ≤ high) ∧ ⟨.stepClose die grp, {}⟩ ∈ t.agenda ∧
        ∃ k, leadOf t d id = some k ∧ k.grp = { g with leader := some (globalDie s d) } ∧ k.open_ = g.first + high / (g.n + 1) ∧ k.seq = high) ∧
    (takesOver s d id g = false → exec takes s = .next s) ∧
    (leadOf s d id = none → exec (.generationAdvance die grp) s = .next (setGroup s d id { g with gen := g.gen + 1 }))

/-- 06 R161 to R164: a reduce group. A record takes the next place of the arrival area and q4 tells it; a term waits for those of every rank,
whose sum goes to q5; the loss of a member advances the generation and gives NaN for what is pending; a stale record is counted. -/
def Obligations.ReduceGroupsGoOn : Prop :=
  ∀ (s : State) (die : DieId) (grp : BitVec 12) (gen : BitVec 4) (g : Group) (rec' : List Byte) (rank : Nat) (v : Word),
    let d := die.val
    let id := grp.toNat
    let c := listenCore d g
    let h := { g with terms := g.terms ++ [(rank, v)] }
    collOf s d id = some g → g.log = false → s.mail = [] →
    ((coreOf s c).q4.length < 64 →
      let va := g.ring.toNat + 64 + 32 * (g.high % 64)
      let z := turnFull (dieWrite s d none g.asid va (rec'.take 32)).1 d g.asid va 32
      exec (.reduceRecordArrive die grp g.gen rec') s = .next (modCore (keepGroup z d id { g with high := g.high + 1 }) c
        fun k => { k with q4 := k.q4 ++ [BitVec.ofNat 64 (g.high % 64)] })) ∧
    (readyTerms h = none → exec (.scredArrive die grp g.gen rank v) s = .next (setGroup s d id h)) ∧
    (∀ ts, readyTerms h = some ts → (coreOf s c).q5.length < 64 →
      exec (.scredArrive die grp g.gen rank v) s = .next (modCore (setGroup s d id { h with terms := restTerms h }) c
        fun k => { k with q5 := k.q5 ++ [reduceSum ts] })) ∧
    (rank < g.n →
      let n := g.owed + pendingOps s d id g
      let lost := { g with gen := g.gen + 1, terms := [], stale := g.stale + 1, owed := n }
      let z := keepGroup s d id lost
      (n = 0 → exec (.memberLoss die grp rank) s = .next z) ∧
      (n ≠ 0 → (coreOf z c).q5.length + n ≤ 64 →
        exec (.memberLoss die grp rank) s = .next (modCore (setGroup z d id { lost with owed := 0 }) c
          fun k => { k with q5 := k.q5 ++ List.replicate n 0x7FF8000000000000 }))) ∧
    (gen ≠ g.gen → exec (.reduceRecordArrive die grp gen rec') s = .next (countStale s d id g) ∧
      exec (.scredArrive die grp gen rank v) s = .next (countStale s d id g))

/-! ### Encoding -/

/-- 13 R336, 14 R356, R358, R377, 15 R390, 16 R414, 17 R451: words that the spec's entries give as examples decode to what they stand for. -/
def Obligations.WordsDecode : Prop :=
  decodeClass .control 0x0240000C = .ok (.brp 2 false 12) ∧ decodeClass .control 0x0900A003 = .ok (.loopi 10 3) ∧
  decodeClass .scalar 0x011020C0 = .ok (.add 4 2 3) ∧ decodeClass .memory 0x0328B000 = .ok (.st 10 2 3 0) ∧
  decodeClass .vector 0x04042201 = .ok (.vfma 1 2 8 0 true) ∧ decodeClass .engine 0x02000515 = .ok (.mxw 20 21) ∧
  decodeHeader 0x9D03028A = { sig := 0x9D, zero := 0, gneg := false, guard := 3, pop := 2, stop := true, pres := 0x0A }

/-- 13 R336 to R343: the decoder of its class reads the word of every well-formed slot instruction as that instruction, and gives only
well-formed instructions of its class. -/
def Obligations.DecodeOfEncode : Prop :=
  (∀ (i : Instr) (c : SlotClass), i.wf = true → i.slotClass = some c → ∃ w, encodeNat i = some w ∧ w < 2 ^ 32 ∧ decodeClass c w = .ok i) ∧
  ∀ (c : SlotClass) (w : Nat) (i : Instr), decodeClass c w = .ok i → i.wf = true ∧ i.slotClass = some c

/-- 13 R332, R334: the fields of a header, and the tests a word must pass to be one. -/
def Obligations.HeadersDecode : Prop :=
  (∀ h : Header, decodeHeader (encodeHeader h) = h ∧ encodeHeader h < 2 ^ 32) ∧
  (∀ w, w < 2 ^ 32 → encodeHeader (decodeHeader w) = w ∧
    ((decodeHeader w).ok = true ↔ w / 2 ^ 24 = 0x9D ∧ w / 2 ^ 20 % 16 = 0)) ∧
  ∀ (b0 b1 b2 b3 : Byte) (bs : List Byte), (b3 ≠ 0x9D ∨ b2.toNat / 16 ≠ 0) → decodeBundle (b0 :: b1 :: b2 :: b3 :: bs) = .error .header

/-! ### A step -/

/-- 07 R171: where the bytes at the program counter decode to the bundle of one well-formed instruction, the step of the core whose turn it
is runs that instruction, and a waiting access whose budget allows no retry exhausts it with that first failure (08 R210); the model's clock and
turn go on (log 5). -/
def Obligations.StepRunsTheDecodedInstruction : Prop :=
  ∀ (s t : State) (x : Nat) (i : Instr) (sl : Slot) (w : Nat),
    let k := coreOf s s.turn
    let o := ctxOf s s.turn x
    s.mod.booted = true → s.mod.power < 3 → s.agenda = [] → s.clock % 8 ≠ 1 → s.clock % 8 ≠ 3 → s.clock % 8 ≠ 5 → s.turn < 256 →
    s.mod.susp = false → k.run = some x → issueStops k = false → k.dbgReq = false → k.engs = [] → k.arrivals = [] → k.pend = [] → k.coop = none →
    k.preempt = false → o.held = none → o.inAmigen = false →
    (s.mod.exchanges.any fun e => e.ofBundle s.turn x) = false → (o.killed = true ∨ backFull o = false) → i.wf = true → i.homeSlot = some sl →
    encodeNat i = some w →
    decodeBundle (imemAt k x o.priv o.pc.toNat) = .ok ⟨soloHeader sl, [(sl, w, .ok i)]⟩ →
    exec i { s with focus := {} } = .next t →
      let u := firstFail t s.turn x
      step s = .next { u with clock := s.clock + 1, turn := turnAfter u s.turn }

/-- 10 R270, R272: on a calm core in user mode, whose context has asked nothing of another module's die, a trap saves the address of its bundle, its cause and its information, enters privileged mode
and goes to TVEC; no register and no memory changes. A privileged instruction in user mode traps with ILLEGAL_OP, its word in EINFO. -/
def Obligations.TrapsAreTaken : Prop :=
  ∀ (s : State) (x : Nat) (z : TrapInfo) (i : Instr),
    let c := s.turn
    let o := ctxOf s c x
    let t := issueTrap s c x z
    let u := ctxOf t c x
    Calm (coreOf s c) x → (s.mod.exchanges.any fun e => e.ofBundle c x) = false → o.priv = false →
    (z.cause ≠ 0x11 →
      u.epc = o.pc.setWidth 64 ∧ u.pc = o.tvec.setWidth 18 ∧ u.priv = true ∧ u.einfo = z.info ∧
      fld u.ecause 7 0 = z.cause % 256 ∧ fld u.ecause 15 8 = z.sub % 256 ∧ fld u.ecause 20 20 = z.late.toNat ∧ fld u.ecause 23 21 = z.slot % 8 ∧
      fld u.ecause 27 26 = z.level % 4 ∧ u.inAmigen = (coreOf s c).hook.isNone ∧
      { u with epc := o.epc, pc := o.pc, priv := o.priv, einfo := o.einfo, ecause := o.ecause, inAmigen := o.inAmigen, grp := o.grp, held := o.held } = o ∧
      t.mod = s.mod ∧ t.dies = s.dies ∧ ∀ e, e ≠ c → coreOf t e = coreOf s e) ∧
    (i.wf = true → needsPriv i = true → emptyQueue (coreOf s c) x (soloAt s x i) = false → pushFull s c x (soloAt s x i) = false →
      exec i s = .next (issueTrap s c x { cause := 2, slot := (i.homeSlot.getD .c).num, info := BitVec.ofNat 64 ((encodeNat i).getD 0) }))

/-- 07 R171, R174, R181: after an instruction with results the issue cycle count is one higher and the program counter is behind its bundle;
results with a latency of one cycle have landed, others are in flight and have changed no register. A transfer takes four cycles and goes to
its target. A result that lands changes its register alone, where no rerun is under way. -/
def Obligations.ResultsLandAfterTheirLatency : Prop :=
  ∀ (s : State) (x lat y n : Nat) (i : Instr) (ls : List Land) (v : Word) (b : Bool) (tile tsel : Tile) (m : Mask),
    let c := s.turn
    let k := coreOf s c
    let o := ctxOf s c x
    let t := issued s x i (slotState s x i) (ls.map (lat, ·)) [] .next
    let u := ctxOf t c x
    let j := issued s x i (slotState s x i) [] [] (.jump y)
    let lands := fun (z : Land) => applyLand s c ⟨k.ic, x, z⟩
    (Ready s x i →
      (1 < lat ∨ lat = 1 ∧ ls = [.scalar n v] →
        (coreOf t c).ic = k.ic + 1 ∧ (innermost o = none → u.pc = BitVec.ofNat 18 (nextPc s x)) ∧ u.grp = []) ∧
      (1 < lat → (coreOf t c).pend = ls.map (fun z => ⟨k.ic + lat, x, z⟩) ∧ u.s = o.s ∧ u.a = o.a ∧ u.p = o.p ∧ u.m = o.m ∧ (coreOf t c).v = k.v) ∧
      (lat = 1 → ls = [.scalar n v] → (coreOf t c).pend = [] ∧ ∀ r, sReg u r = if r = n ∧ n ≠ 0 then v else sReg o r) ∧
      (ctxOf j c x).pc = BitVec.ofNat 18 y ∧ (coreOf j c).ic = k.ic + 4 ∧ (ctxOf j c x).grp = []) ∧
    (k.rerun = none →
      lands (.scalar n v) = modCtx s c x (setSReg · n v) ∧ lands (.addr n v) = modCtx s c x (setAReg · n v) ∧
      lands (.pred n b) = modCtx s c x (setPReg · n b) ∧ lands (.mask n m) = modCtx s c x (setMReg · n m) ∧
      lands (.tile n tile tsel) = modCore s c (fun k => setVReg k n (mergeBits (vReg k n) tile tsel)) ∧
      lands (.flags v) = modCtx s c x fun t => { t with stat := t.stat ||| v })

/-! ### Frames -/

/-- 13 R328, R329, 14: an instruction that computes a register from registers and immediates changes no memory, no special register, no tile,
mask, accumulator or queue, and no register but its destination; the loop stack moves only in a loop, SRS only where it rounds. One whose
destination is a neighbour's queue (07 R178) changes that queue alone, or sets STAT.QDROP. One that reads the head of q4 or of q6 acquires (06
R145, 09 R240, R244): the lines of its core's first-level cache go, all of them by the model's choice (log 21), dirty bytes home;
no other one changes a byte. -/
def Obligations.RegisterInstructionsFrame : Prop :=
  ∀ (s t : State) (x : Nat) (i : Instr),
    let c := s.turn
    let o := ctxOf s c x
    let u := ctxOf t c x
    let butLines := fun (e : Nat) => { coreOf t e with l1 := (coreOf s e).l1 }
    Ready s x i → ((scalarDest i).isSome = true ∨ (predDest i).isSome = true ∨ (addrDest i).isSome = true) → exec i s = .next t →
      t.mod = s.mod ∧ t.mail = s.mail ∧
      (acquires s x i = false → t.dies = s.dies ∧ ∀ e, (coreOf t e).l1 = (coreOf s e).l1) ∧
      (acquires s x i = true → t.dies = (dropAllClean s c).dies ∧
        ∀ e, (coreOf t e).l1 = if e = l1Core s c then [] else (coreOf s e).l1) ∧
      SameCore (coreOf s c) (coreOf t c) ∧ (∀ y, y ≠ x → ctxOf t c y = ctxOf s c y) ∧
      SameCtx o u ∧ (innermost o = none → u.lsCnt = o.lsCnt ∧ u.lsBody = o.lsBody) ∧ (roundsOnce i = false → u.srs = o.srs) ∧
      (∀ n, (∀ d, scalarDest i = some d → d.toNat ≠ n) → sReg u n = sReg o n) ∧
      (∀ n, (∀ d, addrDest i = some d → d.toNat ≠ n) → aReg u n = aReg o n) ∧
      (∀ n, n < 8 → (∀ d, predDest i = some d → d.toNat ≠ n) → pReg u n = pReg o n) ∧ sReg u 0 = 0 ∧ pReg u 0 = true ∧
      ((∀ d, scalarDest i = some d → d.toNat < 56) → u.stat = o.stat ∧ ∀ e, e ≠ c → butLines e = coreOf s e) ∧
      (∀ d, scalarDest i = some d → 56 ≤ d.toNat →
        let q := d.toNat - 56
        let n := neighbour c q
        (u.stat = o.stat ∨ pushReaches s n x = false ∧ u.stat = o.stat ||| BitVec.ofNat 64 flagQDROP) ∧
        (∀ e, e ≠ c → e ≠ n → butLines e = coreOf s e) ∧
        (butLines n = coreOf s n ∨ ∃ v, butLines n = setQueue (coreOf s n) x q (queueOf (coreOf s n) x q ++ [v])))

/-- 15 R390, 08 R194, R208: ST whose address resolves to a resident page of a die, for a context that is not speculative. On a page that the
first-level cache does not hold it writes its register's low bytes at that physical address and no other byte; on a WB page whose line the
cache holds it writes no byte at any home. F of every word stays, and no register, tile, page of the accumulators or queue changes. `s1` is
the state that the translation of the address leaves; where the register is the head of q4 or of q6, an acquire comes before it (06 R145, 09 R240;
log 21), which sends dirty lines home; where it is of neither no byte of a die has changed before `s1` but by the translation. A task that an ORDERED
command launched notes the line it writes. -/
def Obligations.StoreFrame : Prop :=
  ∀ (s s1 t : State) (x h pa ca : Nat) (ce ing : Bool) (b : SCode) (ab : AReg) (sz : BitVec 2) (off : BitVec 12),
    let c := s.turn
    let o := ctxOf s c x
    let u := ctxOf t c x
    let i := Instr.st b ab sz off
    let va : Word := addrOf s x ab + off.signExtend 64 * BitVec.ofNat 64 (2 ^ sz.toNat)
    let n := 2 ^ sz.toNat
    let bs := leBytes n (operand s x b).toNat
    Ready s x i → va.toNat % n = 0 →
    resolve (slotState s x i) (clusterOfCore c) o.asid va.toNat n ⟨false, true, false, true⟩ = (s1, .ok (.home h pa ca ce ing false)) →
    exec i s = .next t →
      (slotState s x i).dies = (if acquires s x i then (dropAllClean s c).dies else s.dies) ∧
      (ca ≠ 0 → (∀ j, j < n → memGet (dieOf t h).mem (pa + j) = bs.getD j 0) ∧
        ∀ d a, (d ≠ h ∨ a < pa ∨ pa + n ≤ a) → memGet (dieOf t d).mem a = memGet (dieOf s1 d).mem a) ∧
      (ca = 0 → (l1Find (coreOf s1 (l1Core s1 c)).l1 o.asid (va.toNat / 64)).isSome = true →
        ∀ d a, memGet (dieOf t d).mem a = memGet (dieOf s1 d).mem a) ∧
      (ca ≠ 0 → ∀ d a, fullBit (dieOf t d) a = fullBit (dieOf s1 d) a) ∧
      t.mod = { s1.mod with asker := s.mod.asker, taken := s.mod.taken, want := s.mod.want } ∧
      (ca ≠ 0 → SameCore (coreOf s1 c) (coreOf t c) ∧ ∀ e, (coreOf t e).l1 = (coreOf s1 e).l1 ∧ (e ≠ c → coreOf t e = coreOf s1 e)) ∧
      SameCtx { o with direct := u.direct } u ∧ ((∀ d cid j, o.launch ≠ .ordered d cid j) → u.direct = o.direct) ∧
      u.s = o.s ∧ u.a = o.a ∧ u.p = o.p ∧ u.stat = o.stat ∧ u.srs = o.srs ∧
      (innermost o = none → u.lsCnt = o.lsCnt ∧ u.lsBody = o.lsBody)

/-- 00 R4, 08 R207, R213: what is written to memory is read back, no other byte changes, and the canonical form stays; numbers stand in
little-endian order. -/
def Obligations.MemoryReadsBack : Prop :=
  ∀ (m : Memory) (a q n : Nat) (bs : List Byte) (s : State) (d e : Nat) (v : Nat),
    (a ≤ q → q < a + bs.length → memGet (memWrite m a bs) q = bs.getD (q - a) 0) ∧
    (q < a ∨ a + bs.length ≤ q → memGet (memWrite m a bs) q = memGet m q) ∧
    (Memory.wf m → Memory.wf (memWrite m a bs)) ∧
    leNat (leBytes n v) = v % 2 ^ (8 * n) ∧ (leBytes n v).length = n ∧
    physRead (physWrite s d a bs) d a bs.length = bs ∧
    (d ≠ e → physRead (physWrite s d a bs) e q n = physRead s e q n) ∧
    (q + n ≤ a ∨ a + bs.length ≤ q → physRead (physWrite s d a bs) d q n = physRead s d q n)

/-! ### Reset and power -/

/-- 01 R37, R38, R40, 02 R43, R55, 03 R60, 04 R101, 08 R207, R210, 11 R285, R292, 12 R309, 17 R460: what reset leaves, where the spec says it. -/
def Obligations.ResetState : Prop :=
  let s := State.reset
  s.mod.modId = 0 ∧ s.mod.portb = 0 ∧ s.mod.cap = 2800 ∧ s.mod.throt = false ∧ s.mod.ccerr = 0 ∧ s.mod.dropw = 0 ∧
  s.mod.sec.debug = 0 ∧ s.mod.sec.bootf = false ∧ s.mod.sec.measBoot = 0 ∧ s.mod.sec.measRun = 0 ∧
  (∀ n, linkOf s n = {}) ∧
  (∀ d, (dieOf s d).beat = 0 ∧ (∀ a, memGet (dieOf s d).mem a = 0 ∧ fullBit (dieOf s d) a = false ∧ waitBit (dieOf s d) a = false) ∧
    (∀ n, streamOf s d n = {}) ∧ (dieOf s d).cmds = [] ∧ (dieOf s d).gated = 0) ∧
  (∀ c, (coreOf s c).spadUnits = 6 ∧ (coreOf s c).retired = false ∧ (coreOf s c).q4 = [] ∧ (coreOf s c).q5 = [] ∧ (coreOf s c).q7 = []) ∧
  (∀ c x, let t := ctxOf s c x
    t.fmt = 0 ∧ t.shp = 0 ∧ t.rmode = 0 ∧ t.srs = 1 ∧ t.amx = 0 ∧ t.feb = 64 ∧ t.stat = 0 ∧ t.mx.k = 0xF0000 ∧ t.mx.acc = 0x6D400000 ∧
    cpReg t 0 = 1 ∧ cpReg t 0x30 = 1 ∧ cpReg t 0x33 = 3) ∧ State.memWf s

/-- 04 R99: a module in S5 with no boot due stays there: no step changes its state, its dies or its cores, and again no boot is due. -/
def Obligations.PoweredOffRests : Prop :=
  let off := fun (s : State) => s.mod.power = 5 ∧ ∀ d ∈ s.agenda, d.step ≠ .boot
  (∀ s t, off s → step s = .next t → off t ∧ t.mod = s.mod ∧ t.dies = s.dies ∧ t.cores = s.cores ∧ t.agenda = s.agenda) ∧
  (∀ s, off s → ∃ t, step s = .next t)
end

