-- ==== Sys2Proof/Laws/Table.lean ====
section
/-! SUPPORT. Laws of the tables: an entry reads as what was set last, and no other entry changes. They hold of every list of
pairs, in rising order or not. -/

namespace Sys2Proof.Machine

variable {α : Type}

@[simp] theorem tabGet_nil (d : α) (n : Nat) : tabGet d [] n = d := rfl

@[simp] theorem tabGet_tabPut (d : α) (t : Tab α) (n m : Nat) (x : α) : tabGet d (tabPut t n x) m = if n = m then x else tabGet d t m := by
  induction t with
  | nil => rfl
  | cons e t ih =>
    obtain ⟨k, v⟩ := e
    by_cases h : k = n
    · subst h
      by_cases hm : k = m <;> simp [tabPut, tabGet, hm]
    · by_cases hl : n < k
      · simp only [tabPut, h, hl, if_true, if_false, tabGet]
      · simp only [tabPut, h, hl, if_false, tabGet, ih]
        by_cases hm : k = m
        · have : n ≠ m := fun g => h (hm.trans g.symm)
          simp [hm, this]
        · simp [hm]

@[simp] theorem tabPut_tabPut (t : Tab α) (n : Nat) (x y : α) : tabPut (tabPut t n x) n y = tabPut t n y := by
  induction t with
  | nil => simp [tabPut]
  | cons e t ih =>
    obtain ⟨k, v⟩ := e
    by_cases h : k = n
    · simp [tabPut, h]
    · by_cases hl : n < k
      · simp [tabPut, h, hl]
      · simp [tabPut, h, hl, ih]

@[simp] theorem tabGet_tabDel (d : α) (t : Tab α) (n m : Nat) : tabGet d (tabDel t n) m = if n = m then d else tabGet d t m := by
  induction t with
  | nil => simp [tabDel]
  | cons e t ih =>
    obtain ⟨k, v⟩ := e
    by_cases h : k = n
    · subst h
      simp only [tabDel, if_true, ih, tabGet]
      by_cases hm : k = m <;> simp [hm]
    · simp only [tabDel, h, if_false, tabGet, ih]
      by_cases hm : k = m
      · have : n ≠ m := fun g => h (hm.trans g.symm)
        simp [hm, this]
      · simp [hm]

@[simp] theorem tabGet_tabSet [DecidableEq α] (d : α) (t : Tab α) (n m : Nat) (x : α) :
    tabGet d (tabSet d t n x) m = if n = m then x else tabGet d t m := by
  unfold tabSet
  by_cases h : x = d
  · simp [h]
  · simp [h]

/-- An entry that a table does not list reads as the default. -/
theorem tabGet_of_notin (d : α) (t : Tab α) (n : Nat) (h : ∀ e ∈ t, e.1 ≠ n) : tabGet d t n = d := by
  induction t with
  | nil => rfl
  | cons e t ih =>
    have h1 : e.1 ≠ n := h e (by simp)
    have h2 := ih fun z hz => h z (by simp [hz])
    simp [tabGet, h1, h2]

end Sys2Proof.Machine
end

