-- ==== Sys2Proof/Laws/State.lean ====
section
/-! SUPPORT. What each update of the state changes and what it leaves: one lemma per field per update. -/

namespace Sys2Proof.Machine

/-! ### Dies and cores -/

@[simp] theorem setDie_mod (s : State) (d : Nat) (x : Die) : (setDie s d x).mod = s.mod := rfl
@[simp] theorem setDie_cores (s : State) (d : Nat) (x : Die) : (setDie s d x).cores = s.cores := rfl
@[simp] theorem setDie_agenda (s : State) (d : Nat) (x : Die) : (setDie s d x).agenda = s.agenda := rfl
@[simp] theorem setDie_focus (s : State) (d : Nat) (x : Die) : (setDie s d x).focus = s.focus := rfl
@[simp] theorem setDie_mail (s : State) (d : Nat) (x : Die) : (setDie s d x).mail = s.mail := rfl
@[simp] theorem setDie_turn (s : State) (d : Nat) (x : Die) : (setDie s d x).turn = s.turn := rfl
@[simp] theorem setDie_clock (s : State) (d : Nat) (x : Die) : (setDie s d x).clock = s.clock := rfl
@[simp] theorem setDie_freeCtr (s : State) (d : Nat) (x : Die) : (setDie s d x).freeCtr = s.freeCtr := rfl

@[simp] theorem setCore_mod (s : State) (c : Nat) (x : Core) : (setCore s c x).mod = s.mod := rfl
@[simp] theorem setCore_dies (s : State) (c : Nat) (x : Core) : (setCore s c x).dies = s.dies := rfl
@[simp] theorem setCore_agenda (s : State) (c : Nat) (x : Core) : (setCore s c x).agenda = s.agenda := rfl
@[simp] theorem setCore_focus (s : State) (c : Nat) (x : Core) : (setCore s c x).focus = s.focus := rfl
@[simp] theorem setCore_mail (s : State) (c : Nat) (x : Core) : (setCore s c x).mail = s.mail := rfl
@[simp] theorem setCore_turn (s : State) (c : Nat) (x : Core) : (setCore s c x).turn = s.turn := rfl
@[simp] theorem setCore_clock (s : State) (c : Nat) (x : Core) : (setCore s c x).clock = s.clock := rfl
@[simp] theorem setCore_freeCtr (s : State) (c : Nat) (x : Core) : (setCore s c x).freeCtr = s.freeCtr := rfl

@[simp] theorem modDie_mod (s : State) (d : Nat) (f : Die → Die) : (modDie s d f).mod = s.mod := rfl
@[simp] theorem modDie_cores (s : State) (d : Nat) (f : Die → Die) : (modDie s d f).cores = s.cores := rfl
@[simp] theorem modDie_agenda (s : State) (d : Nat) (f : Die → Die) : (modDie s d f).agenda = s.agenda := rfl
@[simp] theorem modDie_focus (s : State) (d : Nat) (f : Die → Die) : (modDie s d f).focus = s.focus := rfl
@[simp] theorem modDie_mail (s : State) (d : Nat) (f : Die → Die) : (modDie s d f).mail = s.mail := rfl
@[simp] theorem modDie_turn (s : State) (d : Nat) (f : Die → Die) : (modDie s d f).turn = s.turn := rfl
@[simp] theorem modDie_clock (s : State) (d : Nat) (f : Die → Die) : (modDie s d f).clock = s.clock := rfl
@[simp] theorem modDie_freeCtr (s : State) (d : Nat) (f : Die → Die) : (modDie s d f).freeCtr = s.freeCtr := rfl

@[simp] theorem modCore_mod (s : State) (c : Nat) (f : Core → Core) : (modCore s c f).mod = s.mod := rfl
@[simp] theorem modCore_dies (s : State) (c : Nat) (f : Core → Core) : (modCore s c f).dies = s.dies := rfl
@[simp] theorem modCore_agenda (s : State) (c : Nat) (f : Core → Core) : (modCore s c f).agenda = s.agenda := rfl
@[simp] theorem modCore_focus (s : State) (c : Nat) (f : Core → Core) : (modCore s c f).focus = s.focus := rfl
@[simp] theorem modCore_mail (s : State) (c : Nat) (f : Core → Core) : (modCore s c f).mail = s.mail := rfl
@[simp] theorem modCore_turn (s : State) (c : Nat) (f : Core → Core) : (modCore s c f).turn = s.turn := rfl
@[simp] theorem modCore_clock (s : State) (c : Nat) (f : Core → Core) : (modCore s c f).clock = s.clock := rfl
@[simp] theorem modCore_freeCtr (s : State) (c : Nat) (f : Core → Core) : (modCore s c f).freeCtr = s.freeCtr := rfl

@[simp] theorem setCtx_mod (s : State) (c x : Nat) (t : Ctx) : (setCtx s c x t).mod = s.mod := rfl
@[simp] theorem setCtx_dies (s : State) (c x : Nat) (t : Ctx) : (setCtx s c x t).dies = s.dies := rfl
@[simp] theorem setCtx_agenda (s : State) (c x : Nat) (t : Ctx) : (setCtx s c x t).agenda = s.agenda := rfl
@[simp] theorem setCtx_focus (s : State) (c x : Nat) (t : Ctx) : (setCtx s c x t).focus = s.focus := rfl
@[simp] theorem setCtx_mail (s : State) (c x : Nat) (t : Ctx) : (setCtx s c x t).mail = s.mail := rfl
@[simp] theorem setCtx_turn (s : State) (c x : Nat) (t : Ctx) : (setCtx s c x t).turn = s.turn := rfl
@[simp] theorem setCtx_clock (s : State) (c x : Nat) (t : Ctx) : (setCtx s c x t).clock = s.clock := rfl
@[simp] theorem setCtx_freeCtr (s : State) (c x : Nat) (t : Ctx) : (setCtx s c x t).freeCtr = s.freeCtr := rfl

@[simp] theorem modCtx_mod (s : State) (c x : Nat) (f : Ctx → Ctx) : (modCtx s c x f).mod = s.mod := rfl
@[simp] theorem modCtx_dies (s : State) (c x : Nat) (f : Ctx → Ctx) : (modCtx s c x f).dies = s.dies := rfl
@[simp] theorem modCtx_agenda (s : State) (c x : Nat) (f : Ctx → Ctx) : (modCtx s c x f).agenda = s.agenda := rfl
@[simp] theorem modCtx_focus (s : State) (c x : Nat) (f : Ctx → Ctx) : (modCtx s c x f).focus = s.focus := rfl
@[simp] theorem modCtx_mail (s : State) (c x : Nat) (f : Ctx → Ctx) : (modCtx s c x f).mail = s.mail := rfl
@[simp] theorem modCtx_turn (s : State) (c x : Nat) (f : Ctx → Ctx) : (modCtx s c x f).turn = s.turn := rfl
@[simp] theorem modCtx_clock (s : State) (c x : Nat) (f : Ctx → Ctx) : (modCtx s c x f).clock = s.clock := rfl
@[simp] theorem modCtx_freeCtr (s : State) (c x : Nat) (f : Ctx → Ctx) : (modCtx s c x f).freeCtr = s.freeCtr := rfl

@[simp] theorem bumpFree_mod (s : State) : (bumpFree s).mod = s.mod := rfl
@[simp] theorem bumpFree_dies (s : State) : (bumpFree s).dies = s.dies := rfl
@[simp] theorem bumpFree_cores (s : State) : (bumpFree s).cores = s.cores := rfl
@[simp] theorem bumpFree_agenda (s : State) : (bumpFree s).agenda = s.agenda := rfl
@[simp] theorem bumpFree_focus (s : State) : (bumpFree s).focus = s.focus := rfl
@[simp] theorem bumpFree_mail (s : State) : (bumpFree s).mail = s.mail := rfl
@[simp] theorem bumpFree_turn (s : State) : (bumpFree s).turn = s.turn := rfl
@[simp] theorem bumpFree_clock (s : State) : (bumpFree s).clock = s.clock := rfl

@[simp] theorem dieOf_setDie (s : State) (d e : Nat) (x : Die) : dieOf (setDie s d x) e = if d = e then x else dieOf s e := tabGet_tabPut ..
@[simp] theorem dieOf_modDie (s : State) (d e : Nat) (f : Die → Die) : dieOf (modDie s d f) e = if d = e then f (dieOf s d) else dieOf s e := tabGet_tabPut ..
@[simp] theorem coreOf_setDie (s : State) (d c : Nat) (x : Die) : coreOf (setDie s d x) c = coreOf s c := rfl
@[simp] theorem coreOf_modDie (s : State) (d c : Nat) (f : Die → Die) : coreOf (modDie s d f) c = coreOf s c := rfl
@[simp] theorem coreOf_setCore (s : State) (c e : Nat) (x : Core) : coreOf (setCore s c x) e = if c = e then x else coreOf s e := tabGet_tabPut ..
@[simp] theorem coreOf_modCore (s : State) (c e : Nat) (f : Core → Core) : coreOf (modCore s c f) e = if c = e then f (coreOf s c) else coreOf s e :=
  tabGet_tabPut ..
@[simp] theorem dieOf_setCore (s : State) (c d : Nat) (x : Core) : dieOf (setCore s c x) d = dieOf s d := rfl
@[simp] theorem dieOf_modCore (s : State) (c d : Nat) (f : Core → Core) : dieOf (modCore s c f) d = dieOf s d := rfl
@[simp] theorem dieOf_modCtx (s : State) (c x d : Nat) (f : Ctx → Ctx) : dieOf (modCtx s c x f) d = dieOf s d := rfl
@[simp] theorem coreCtx_setCoreCtx (k : Core) (x y : Nat) (t : Ctx) : coreCtx (setCoreCtx k x t) y = if x = y then t else coreCtx k y := tabGet_tabPut ..
@[simp] theorem ctxOf_modCtx (s : State) (c x : Nat) (f : Ctx → Ctx) : ctxOf (modCtx s c x f) c x = f (ctxOf s c x) := by
  simp [ctxOf, modCtx, setCtx]
theorem ctxOf_modCtx_of_ne (s : State) (c x e y : Nat) (f : Ctx → Ctx) (h : c ≠ e ∨ x ≠ y) : ctxOf (modCtx s c x f) e y = ctxOf s e y := by
  by_cases hc : c = e
  · subst hc
    have hx : x ≠ y := h.resolve_left fun g => g rfl
    simp [ctxOf, modCtx, setCtx, hx]
  · simp [ctxOf, modCtx, setCtx, hc]
theorem coreOf_modCtx_of_ne (s : State) (c x e : Nat) (f : Ctx → Ctx) (h : c ≠ e) : coreOf (modCtx s c x f) e = coreOf s e := by
  simp [modCtx, setCtx, h]
@[simp] theorem setDie_setDie (s : State) (d : Nat) (x y : Die) : setDie (setDie s d x) d y = setDie s d y := by simp [setDie]
@[simp] theorem setCore_setCore (s : State) (c : Nat) (x y : Core) : setCore (setCore s c x) c y = setCore s c y := by simp [setCore]

/-! ### A core -/

@[simp] theorem setCoreCtx_run (k : Core) (x : Nat) (t : Ctx) : (setCoreCtx k x t).run = k.run := rfl
@[simp] theorem setCoreCtx_lastCtx (k : Core) (x : Nat) (t : Ctx) : (setCoreCtx k x t).lastCtx = k.lastCtx := rfl
@[simp] theorem setCoreCtx_sliceUsed (k : Core) (x : Nat) (t : Ctx) : (setCoreCtx k x t).sliceUsed = k.sliceUsed := rfl
@[simp] theorem setCoreCtx_preempt (k : Core) (x : Nat) (t : Ctx) : (setCoreCtx k x t).preempt = k.preempt := rfl
@[simp] theorem setCoreCtx_tslice (k : Core) (x : Nat) (t : Ctx) : (setCoreCtx k x t).tslice = k.tslice := rfl
@[simp] theorem setCoreCtx_ic (k : Core) (x : Nat) (t : Ctx) : (setCoreCtx k x t).ic = k.ic := rfl
@[simp] theorem setCoreCtx_imem (k : Core) (x : Nat) (t : Ctx) : (setCoreCtx k x t).imem = k.imem := rfl
@[simp] theorem setCoreCtx_loaded (k : Core) (x : Nat) (t : Ctx) : (setCoreCtx k x t).loaded = k.loaded := rfl
@[simp] theorem setCoreCtx_hook (k : Core) (x : Nat) (t : Ctx) : (setCoreCtx k x t).hook = k.hook := rfl
@[simp] theorem setCoreCtx_pend (k : Core) (x : Nat) (t : Ctx) : (setCoreCtx k x t).pend = k.pend := rfl
@[simp] theorem setCoreCtx_arrivals (k : Core) (x : Nat) (t : Ctx) : (setCoreCtx k x t).arrivals = k.arrivals := rfl
@[simp] theorem setCoreCtx_v (k : Core) (x : Nat) (t : Ctx) : (setCoreCtx k x t).v = k.v := rfl
@[simp] theorem setCoreCtx_vtag (k : Core) (x : Nat) (t : Ctx) : (setCoreCtx k x t).vtag = k.vtag := rfl
@[simp] theorem setCoreCtx_acc (k : Core) (x : Nat) (t : Ctx) : (setCoreCtx k x t).acc = k.acc := rfl
@[simp] theorem setCoreCtx_atag (k : Core) (x : Nat) (t : Ctx) : (setCoreCtx k x t).atag = k.atag := rfl
@[simp] theorem setCoreCtx_q4 (k : Core) (x : Nat) (t : Ctx) : (setCoreCtx k x t).q4 = k.q4 := rfl
@[simp] theorem setCoreCtx_q5 (k : Core) (x : Nat) (t : Ctx) : (setCoreCtx k x t).q5 = k.q5 := rfl
@[simp] theorem setCoreCtx_q7 (k : Core) (x : Nat) (t : Ctx) : (setCoreCtx k x t).q7 = k.q7 := rfl
@[simp] theorem setCoreCtx_q7drop (k : Core) (x : Nat) (t : Ctx) : (setCoreCtx k x t).q7drop = k.q7drop := rfl
@[simp] theorem setCoreCtx_v0Free (k : Core) (x : Nat) (t : Ctx) : (setCoreCtx k x t).v0Free = k.v0Free := rfl
@[simp] theorem setCoreCtx_v1Free (k : Core) (x : Nat) (t : Ctx) : (setCoreCtx k x t).v1Free = k.v1Free := rfl
@[simp] theorem setCoreCtx_streamFree (k : Core) (x : Nat) (t : Ctx) : (setCoreCtx k x t).streamFree = k.streamFree := rfl
@[simp] theorem setCoreCtx_mxwFree (k : Core) (x : Nat) (t : Ctx) : (setCoreCtx k x t).mxwFree = k.mxwFree := rfl
@[simp] theorem setCoreCtx_mxcvFree (k : Core) (x : Nat) (t : Ctx) : (setCoreCtx k x t).mxcvFree = k.mxcvFree := rfl
@[simp] theorem setCoreCtx_wActive (k : Core) (x : Nat) (t : Ctx) : (setCoreCtx k x t).wActive = k.wActive := rfl
@[simp] theorem setCoreCtx_wOther (k : Core) (x : Nat) (t : Ctx) : (setCoreCtx k x t).wOther = k.wOther := rfl
@[simp] theorem setCoreCtx_otherFree (k : Core) (x : Nat) (t : Ctx) : (setCoreCtx k x t).otherFree = k.otherFree := rfl
@[simp] theorem setCoreCtx_activeFree (k : Core) (x : Nat) (t : Ctx) : (setCoreCtx k x t).activeFree = k.activeFree := rfl
@[simp] theorem setCoreCtx_spadUnits (k : Core) (x : Nat) (t : Ctx) : (setCoreCtx k x t).spadUnits = k.spadUnits := rfl
@[simp] theorem setCoreCtx_drain (k : Core) (x : Nat) (t : Ctx) : (setCoreCtx k x t).drain = k.drain := rfl
@[simp] theorem setCoreCtx_l1 (k : Core) (x : Nat) (t : Ctx) : (setCoreCtx k x t).l1 = k.l1 := rfl
@[simp] theorem setCoreCtx_l1Ptr (k : Core) (x : Nat) (t : Ctx) : (setCoreCtx k x t).l1Ptr = k.l1Ptr := rfl
@[simp] theorem setCoreCtx_trq (k : Core) (x : Nat) (t : Ctx) : (setCoreCtx k x t).trq = k.trq := rfl
@[simp] theorem setCoreCtx_engs (k : Core) (x : Nat) (t : Ctx) : (setCoreCtx k x t).engs = k.engs := rfl
@[simp] theorem setCoreCtx_tokens (k : Core) (x : Nat) (t : Ctx) : (setCoreCtx k x t).tokens = k.tokens := rfl
@[simp] theorem setCoreCtx_waitq (k : Core) (x : Nat) (t : Ctx) : (setCoreCtx k x t).waitq = k.waitq := rfl
@[simp] theorem setCoreCtx_coop (k : Core) (x : Nat) (t : Ctx) : (setCoreCtx k x t).coop = k.coop := rfl
@[simp] theorem setCoreCtx_retired (k : Core) (x : Nat) (t : Ctx) : (setCoreCtx k x t).retired = k.retired := rfl
@[simp] theorem setCoreCtx_dbgHalt (k : Core) (x : Nat) (t : Ctx) : (setCoreCtx k x t).dbgHalt = k.dbgHalt := rfl
@[simp] theorem setCoreCtx_dbgReq (k : Core) (x : Nat) (t : Ctx) : (setCoreCtx k x t).dbgReq = k.dbgReq := rfl
@[simp] theorem setCoreCtx_late (k : Core) (x : Nat) (t : Ctx) : (setCoreCtx k x t).late = k.late := rfl
@[simp] theorem setCoreCtx_intErr (k : Core) (x : Nat) (t : Ctx) : (setCoreCtx k x t).intErr = k.intErr := rfl
@[simp] theorem setCoreCtx_shadow (k : Core) (x : Nat) (t : Ctx) : (setCoreCtx k x t).shadow = k.shadow := rfl
@[simp] theorem setCoreCtx_rerun (k : Core) (x : Nat) (t : Ctx) : (setCoreCtx k x t).rerun = k.rerun := rfl

@[simp] theorem setVReg_ctxs (k : Core) (n : Nat) (x : Tile) : (setVReg k n x).ctxs = k.ctxs := rfl
@[simp] theorem setVReg_run (k : Core) (n : Nat) (x : Tile) : (setVReg k n x).run = k.run := rfl
@[simp] theorem setVReg_lastCtx (k : Core) (n : Nat) (x : Tile) : (setVReg k n x).lastCtx = k.lastCtx := rfl
@[simp] theorem setVReg_sliceUsed (k : Core) (n : Nat) (x : Tile) : (setVReg k n x).sliceUsed = k.sliceUsed := rfl
@[simp] theorem setVReg_preempt (k : Core) (n : Nat) (x : Tile) : (setVReg k n x).preempt = k.preempt := rfl
@[simp] theorem setVReg_tslice (k : Core) (n : Nat) (x : Tile) : (setVReg k n x).tslice = k.tslice := rfl
@[simp] theorem setVReg_ic (k : Core) (n : Nat) (x : Tile) : (setVReg k n x).ic = k.ic := rfl
@[simp] theorem setVReg_imem (k : Core) (n : Nat) (x : Tile) : (setVReg k n x).imem = k.imem := rfl
@[simp] theorem setVReg_loaded (k : Core) (n : Nat) (x : Tile) : (setVReg k n x).loaded = k.loaded := rfl
@[simp] theorem setVReg_hook (k : Core) (n : Nat) (x : Tile) : (setVReg k n x).hook = k.hook := rfl
@[simp] theorem setVReg_pend (k : Core) (n : Nat) (x : Tile) : (setVReg k n x).pend = k.pend := rfl
@[simp] theorem setVReg_arrivals (k : Core) (n : Nat) (x : Tile) : (setVReg k n x).arrivals = k.arrivals := rfl
@[simp] theorem setVReg_vtag (k : Core) (n : Nat) (x : Tile) : (setVReg k n x).vtag = k.vtag := rfl
@[simp] theorem setVReg_acc (k : Core) (n : Nat) (x : Tile) : (setVReg k n x).acc = k.acc := rfl
@[simp] theorem setVReg_atag (k : Core) (n : Nat) (x : Tile) : (setVReg k n x).atag = k.atag := rfl
@[simp] theorem setVReg_q4 (k : Core) (n : Nat) (x : Tile) : (setVReg k n x).q4 = k.q4 := rfl
@[simp] theorem setVReg_q5 (k : Core) (n : Nat) (x : Tile) : (setVReg k n x).q5 = k.q5 := rfl
@[simp] theorem setVReg_q7 (k : Core) (n : Nat) (x : Tile) : (setVReg k n x).q7 = k.q7 := rfl
@[simp] theorem setVReg_q7drop (k : Core) (n : Nat) (x : Tile) : (setVReg k n x).q7drop = k.q7drop := rfl
@[simp] theorem setVReg_v0Free (k : Core) (n : Nat) (x : Tile) : (setVReg k n x).v0Free = k.v0Free := rfl
@[simp] theorem setVReg_v1Free (k : Core) (n : Nat) (x : Tile) : (setVReg k n x).v1Free = k.v1Free := rfl
@[simp] theorem setVReg_streamFree (k : Core) (n : Nat) (x : Tile) : (setVReg k n x).streamFree = k.streamFree := rfl
@[simp] theorem setVReg_mxwFree (k : Core) (n : Nat) (x : Tile) : (setVReg k n x).mxwFree = k.mxwFree := rfl
@[simp] theorem setVReg_mxcvFree (k : Core) (n : Nat) (x : Tile) : (setVReg k n x).mxcvFree = k.mxcvFree := rfl
@[simp] theorem setVReg_wActive (k : Core) (n : Nat) (x : Tile) : (setVReg k n x).wActive = k.wActive := rfl
@[simp] theorem setVReg_wOther (k : Core) (n : Nat) (x : Tile) : (setVReg k n x).wOther = k.wOther := rfl
@[simp] theorem setVReg_otherFree (k : Core) (n : Nat) (x : Tile) : (setVReg k n x).otherFree = k.otherFree := rfl
@[simp] theorem setVReg_activeFree (k : Core) (n : Nat) (x : Tile) : (setVReg k n x).activeFree = k.activeFree := rfl
@[simp] theorem setVReg_spadUnits (k : Core) (n : Nat) (x : Tile) : (setVReg k n x).spadUnits = k.spadUnits := rfl
@[simp] theorem setVReg_drain (k : Core) (n : Nat) (x : Tile) : (setVReg k n x).drain = k.drain := rfl
@[simp] theorem setVReg_l1 (k : Core) (n : Nat) (x : Tile) : (setVReg k n x).l1 = k.l1 := rfl
@[simp] theorem setVReg_l1Ptr (k : Core) (n : Nat) (x : Tile) : (setVReg k n x).l1Ptr = k.l1Ptr := rfl
@[simp] theorem setVReg_trq (k : Core) (n : Nat) (x : Tile) : (setVReg k n x).trq = k.trq := rfl
@[simp] theorem setVReg_engs (k : Core) (n : Nat) (x : Tile) : (setVReg k n x).engs = k.engs := rfl
@[simp] theorem setVReg_tokens (k : Core) (n : Nat) (x : Tile) : (setVReg k n x).tokens = k.tokens := rfl
@[simp] theorem setVReg_waitq (k : Core) (n : Nat) (x : Tile) : (setVReg k n x).waitq = k.waitq := rfl
@[simp] theorem setVReg_coop (k : Core) (n : Nat) (x : Tile) : (setVReg k n x).coop = k.coop := rfl
@[simp] theorem setVReg_retired (k : Core) (n : Nat) (x : Tile) : (setVReg k n x).retired = k.retired := rfl
@[simp] theorem setVReg_dbgHalt (k : Core) (n : Nat) (x : Tile) : (setVReg k n x).dbgHalt = k.dbgHalt := rfl
@[simp] theorem setVReg_dbgReq (k : Core) (n : Nat) (x : Tile) : (setVReg k n x).dbgReq = k.dbgReq := rfl
@[simp] theorem setVReg_late (k : Core) (n : Nat) (x : Tile) : (setVReg k n x).late = k.late := rfl
@[simp] theorem setVReg_intErr (k : Core) (n : Nat) (x : Tile) : (setVReg k n x).intErr = k.intErr := rfl
@[simp] theorem setVReg_shadow (k : Core) (n : Nat) (x : Tile) : (setVReg k n x).shadow = k.shadow := rfl
@[simp] theorem setVReg_rerun (k : Core) (n : Nat) (x : Tile) : (setVReg k n x).rerun = k.rerun := rfl

@[simp] theorem setAccPage_ctxs (k : Core) (n : Nat) (x : Page) : (setAccPage k n x).ctxs = k.ctxs := by unfold setAccPage; split <;> rfl
@[simp] theorem setAccPage_run (k : Core) (n : Nat) (x : Page) : (setAccPage k n x).run = k.run := by unfold setAccPage; split <;> rfl
@[simp] theorem setAccPage_lastCtx (k : Core) (n : Nat) (x : Page) : (setAccPage k n x).lastCtx = k.lastCtx := by unfold setAccPage; split <;> rfl
@[simp] theorem setAccPage_sliceUsed (k : Core) (n : Nat) (x : Page) : (setAccPage k n x).sliceUsed = k.sliceUsed := by unfold setAccPage; split <;> rfl
@[simp] theorem setAccPage_preempt (k : Core) (n : Nat) (x : Page) : (setAccPage k n x).preempt = k.preempt := by unfold setAccPage; split <;> rfl
@[simp] theorem setAccPage_tslice (k : Core) (n : Nat) (x : Page) : (setAccPage k n x).tslice = k.tslice := by unfold setAccPage; split <;> rfl
@[simp] theorem setAccPage_ic (k : Core) (n : Nat) (x : Page) : (setAccPage k n x).ic = k.ic := by unfold setAccPage; split <;> rfl
@[simp] theorem setAccPage_imem (k : Core) (n : Nat) (x : Page) : (setAccPage k n x).imem = k.imem := by unfold setAccPage; split <;> rfl
@[simp] theorem setAccPage_loaded (k : Core) (n : Nat) (x : Page) : (setAccPage k n x).loaded = k.loaded := by unfold setAccPage; split <;> rfl
@[simp] theorem setAccPage_hook (k : Core) (n : Nat) (x : Page) : (setAccPage k n x).hook = k.hook := by unfold setAccPage; split <;> rfl
@[simp] theorem setAccPage_pend (k : Core) (n : Nat) (x : Page) : (setAccPage k n x).pend = k.pend := by unfold setAccPage; split <;> rfl
@[simp] theorem setAccPage_arrivals (k : Core) (n : Nat) (x : Page) : (setAccPage k n x).arrivals = k.arrivals := by unfold setAccPage; split <;> rfl
@[simp] theorem setAccPage_v (k : Core) (n : Nat) (x : Page) : (setAccPage k n x).v = k.v := by unfold setAccPage; split <;> rfl
@[simp] theorem setAccPage_vtag (k : Core) (n : Nat) (x : Page) : (setAccPage k n x).vtag = k.vtag := by unfold setAccPage; split <;> rfl
@[simp] theorem setAccPage_atag (k : Core) (n : Nat) (x : Page) : (setAccPage k n x).atag = k.atag := by unfold setAccPage; split <;> rfl
@[simp] theorem setAccPage_q4 (k : Core) (n : Nat) (x : Page) : (setAccPage k n x).q4 = k.q4 := by unfold setAccPage; split <;> rfl
@[simp] theorem setAccPage_q5 (k : Core) (n : Nat) (x : Page) : (setAccPage k n x).q5 = k.q5 := by unfold setAccPage; split <;> rfl
@[simp] theorem setAccPage_q7 (k : Core) (n : Nat) (x : Page) : (setAccPage k n x).q7 = k.q7 := by unfold setAccPage; split <;> rfl
@[simp] theorem setAccPage_q7drop (k : Core) (n : Nat) (x : Page) : (setAccPage k n x).q7drop = k.q7drop := by unfold setAccPage; split <;> rfl
@[simp] theorem setAccPage_v0Free (k : Core) (n : Nat) (x : Page) : (setAccPage k n x).v0Free = k.v0Free := by unfold setAccPage; split <;> rfl
@[simp] theorem setAccPage_v1Free (k : Core) (n : Nat) (x : Page) : (setAccPage k n x).v1Free = k.v1Free := by unfold setAccPage; split <;> rfl
@[simp] theorem setAccPage_streamFree (k : Core) (n : Nat) (x : Page) : (setAccPage k n x).streamFree = k.streamFree := by unfold setAccPage; split <;> rfl
@[simp] theorem setAccPage_mxwFree (k : Core) (n : Nat) (x : Page) : (setAccPage k n x).mxwFree = k.mxwFree := by unfold setAccPage; split <;> rfl
@[simp] theorem setAccPage_mxcvFree (k : Core) (n : Nat) (x : Page) : (setAccPage k n x).mxcvFree = k.mxcvFree := by unfold setAccPage; split <;> rfl
@[simp] theorem setAccPage_wActive (k : Core) (n : Nat) (x : Page) : (setAccPage k n x).wActive = k.wActive := by unfold setAccPage; split <;> rfl
@[simp] theorem setAccPage_wOther (k : Core) (n : Nat) (x : Page) : (setAccPage k n x).wOther = k.wOther := by unfold setAccPage; split <;> rfl
@[simp] theorem setAccPage_otherFree (k : Core) (n : Nat) (x : Page) : (setAccPage k n x).otherFree = k.otherFree := by unfold setAccPage; split <;> rfl
@[simp] theorem setAccPage_activeFree (k : Core) (n : Nat) (x : Page) : (setAccPage k n x).activeFree = k.activeFree := by unfold setAccPage; split <;> rfl
@[simp] theorem setAccPage_spadUnits (k : Core) (n : Nat) (x : Page) : (setAccPage k n x).spadUnits = k.spadUnits := by unfold setAccPage; split <;> rfl
@[simp] theorem setAccPage_drain (k : Core) (n : Nat) (x : Page) : (setAccPage k n x).drain = k.drain := by unfold setAccPage; split <;> rfl
@[simp] theorem setAccPage_l1 (k : Core) (n : Nat) (x : Page) : (setAccPage k n x).l1 = k.l1 := by unfold setAccPage; split <;> rfl
@[simp] theorem setAccPage_l1Ptr (k : Core) (n : Nat) (x : Page) : (setAccPage k n x).l1Ptr = k.l1Ptr := by unfold setAccPage; split <;> rfl
@[simp] theorem setAccPage_trq (k : Core) (n : Nat) (x : Page) : (setAccPage k n x).trq = k.trq := by unfold setAccPage; split <;> rfl
@[simp] theorem setAccPage_engs (k : Core) (n : Nat) (x : Page) : (setAccPage k n x).engs = k.engs := by unfold setAccPage; split <;> rfl
@[simp] theorem setAccPage_tokens (k : Core) (n : Nat) (x : Page) : (setAccPage k n x).tokens = k.tokens := by unfold setAccPage; split <;> rfl
@[simp] theorem setAccPage_waitq (k : Core) (n : Nat) (x : Page) : (setAccPage k n x).waitq = k.waitq := by unfold setAccPage; split <;> rfl
@[simp] theorem setAccPage_coop (k : Core) (n : Nat) (x : Page) : (setAccPage k n x).coop = k.coop := by unfold setAccPage; split <;> rfl
@[simp] theorem setAccPage_retired (k : Core) (n : Nat) (x : Page) : (setAccPage k n x).retired = k.retired := by unfold setAccPage; split <;> rfl
@[simp] theorem setAccPage_dbgHalt (k : Core) (n : Nat) (x : Page) : (setAccPage k n x).dbgHalt = k.dbgHalt := by unfold setAccPage; split <;> rfl
@[simp] theorem setAccPage_dbgReq (k : Core) (n : Nat) (x : Page) : (setAccPage k n x).dbgReq = k.dbgReq := by unfold setAccPage; split <;> rfl
@[simp] theorem setAccPage_late (k : Core) (n : Nat) (x : Page) : (setAccPage k n x).late = k.late := by unfold setAccPage; split <;> rfl
@[simp] theorem setAccPage_intErr (k : Core) (n : Nat) (x : Page) : (setAccPage k n x).intErr = k.intErr := by unfold setAccPage; split <;> rfl
@[simp] theorem setAccPage_shadow (k : Core) (n : Nat) (x : Page) : (setAccPage k n x).shadow = k.shadow := by unfold setAccPage; split <;> rfl
@[simp] theorem setAccPage_rerun (k : Core) (n : Nat) (x : Page) : (setAccPage k n x).rerun = k.rerun := by unfold setAccPage; split <;> rfl

@[simp] theorem addLands_ctxs (k : Core) (x lat : Nat) (ls : List Land) : (addLands k x lat ls).ctxs = k.ctxs := rfl
@[simp] theorem addLands_run (k : Core) (x lat : Nat) (ls : List Land) : (addLands k x lat ls).run = k.run := rfl
@[simp] theorem addLands_lastCtx (k : Core) (x lat : Nat) (ls : List Land) : (addLands k x lat ls).lastCtx = k.lastCtx := rfl
@[simp] theorem addLands_sliceUsed (k : Core) (x lat : Nat) (ls : List Land) : (addLands k x lat ls).sliceUsed = k.sliceUsed := rfl
@[simp] theorem addLands_preempt (k : Core) (x lat : Nat) (ls : List Land) : (addLands k x lat ls).preempt = k.preempt := rfl
@[simp] theorem addLands_tslice (k : Core) (x lat : Nat) (ls : List Land) : (addLands k x lat ls).tslice = k.tslice := rfl
@[simp] theorem addLands_ic (k : Core) (x lat : Nat) (ls : List Land) : (addLands k x lat ls).ic = k.ic := rfl
@[simp] theorem addLands_imem (k : Core) (x lat : Nat) (ls : List Land) : (addLands k x lat ls).imem = k.imem := rfl
@[simp] theorem addLands_loaded (k : Core) (x lat : Nat) (ls : List Land) : (addLands k x lat ls).loaded = k.loaded := rfl
@[simp] theorem addLands_hook (k : Core) (x lat : Nat) (ls : List Land) : (addLands k x lat ls).hook = k.hook := rfl
@[simp] theorem addLands_arrivals (k : Core) (x lat : Nat) (ls : List Land) : (addLands k x lat ls).arrivals = k.arrivals := rfl
@[simp] theorem addLands_v (k : Core) (x lat : Nat) (ls : List Land) : (addLands k x lat ls).v = k.v := rfl
@[simp] theorem addLands_vtag (k : Core) (x lat : Nat) (ls : List Land) : (addLands k x lat ls).vtag = k.vtag := rfl
@[simp] theorem addLands_acc (k : Core) (x lat : Nat) (ls : List Land) : (addLands k x lat ls).acc = k.acc := rfl
@[simp] theorem addLands_atag (k : Core) (x lat : Nat) (ls : List Land) : (addLands k x lat ls).atag = k.atag := rfl
@[simp] theorem addLands_q4 (k : Core) (x lat : Nat) (ls : List Land) : (addLands k x lat ls).q4 = k.q4 := rfl
@[simp] theorem addLands_q5 (k : Core) (x lat : Nat) (ls : List Land) : (addLands k x lat ls).q5 = k.q5 := rfl
@[simp] theorem addLands_q7 (k : Core) (x lat : Nat) (ls : List Land) : (addLands k x lat ls).q7 = k.q7 := rfl
@[simp] theorem addLands_q7drop (k : Core) (x lat : Nat) (ls : List Land) : (addLands k x lat ls).q7drop = k.q7drop := rfl
@[simp] theorem addLands_v0Free (k : Core) (x lat : Nat) (ls : List Land) : (addLands k x lat ls).v0Free = k.v0Free := rfl
@[simp] theorem addLands_v1Free (k : Core) (x lat : Nat) (ls : List Land) : (addLands k x lat ls).v1Free = k.v1Free := rfl
@[simp] theorem addLands_streamFree (k : Core) (x lat : Nat) (ls : List Land) : (addLands k x lat ls).streamFree = k.streamFree := rfl
@[simp] theorem addLands_mxwFree (k : Core) (x lat : Nat) (ls : List Land) : (addLands k x lat ls).mxwFree = k.mxwFree := rfl
@[simp] theorem addLands_mxcvFree (k : Core) (x lat : Nat) (ls : List Land) : (addLands k x lat ls).mxcvFree = k.mxcvFree := rfl
@[simp] theorem addLands_wActive (k : Core) (x lat : Nat) (ls : List Land) : (addLands k x lat ls).wActive = k.wActive := rfl
@[simp] theorem addLands_wOther (k : Core) (x lat : Nat) (ls : List Land) : (addLands k x lat ls).wOther = k.wOther := rfl
@[simp] theorem addLands_otherFree (k : Core) (x lat : Nat) (ls : List Land) : (addLands k x lat ls).otherFree = k.otherFree := rfl
@[simp] theorem addLands_activeFree (k : Core) (x lat : Nat) (ls : List Land) : (addLands k x lat ls).activeFree = k.activeFree := rfl
@[simp] theorem addLands_spadUnits (k : Core) (x lat : Nat) (ls : List Land) : (addLands k x lat ls).spadUnits = k.spadUnits := rfl
@[simp] theorem addLands_drain (k : Core) (x lat : Nat) (ls : List Land) : (addLands k x lat ls).drain = k.drain := rfl
@[simp] theorem addLands_l1 (k : Core) (x lat : Nat) (ls : List Land) : (addLands k x lat ls).l1 = k.l1 := rfl
@[simp] theorem addLands_l1Ptr (k : Core) (x lat : Nat) (ls : List Land) : (addLands k x lat ls).l1Ptr = k.l1Ptr := rfl
@[simp] theorem addLands_trq (k : Core) (x lat : Nat) (ls : List Land) : (addLands k x lat ls).trq = k.trq := rfl
@[simp] theorem addLands_engs (k : Core) (x lat : Nat) (ls : List Land) : (addLands k x lat ls).engs = k.engs := rfl
@[simp] theorem addLands_tokens (k : Core) (x lat : Nat) (ls : List Land) : (addLands k x lat ls).tokens = k.tokens := rfl
@[simp] theorem addLands_waitq (k : Core) (x lat : Nat) (ls : List Land) : (addLands k x lat ls).waitq = k.waitq := rfl
@[simp] theorem addLands_coop (k : Core) (x lat : Nat) (ls : List Land) : (addLands k x lat ls).coop = k.coop := rfl
@[simp] theorem addLands_retired (k : Core) (x lat : Nat) (ls : List Land) : (addLands k x lat ls).retired = k.retired := rfl
@[simp] theorem addLands_dbgHalt (k : Core) (x lat : Nat) (ls : List Land) : (addLands k x lat ls).dbgHalt = k.dbgHalt := rfl
@[simp] theorem addLands_dbgReq (k : Core) (x lat : Nat) (ls : List Land) : (addLands k x lat ls).dbgReq = k.dbgReq := rfl
@[simp] theorem addLands_late (k : Core) (x lat : Nat) (ls : List Land) : (addLands k x lat ls).late = k.late := rfl
@[simp] theorem addLands_intErr (k : Core) (x lat : Nat) (ls : List Land) : (addLands k x lat ls).intErr = k.intErr := rfl
@[simp] theorem addLands_shadow (k : Core) (x lat : Nat) (ls : List Land) : (addLands k x lat ls).shadow = k.shadow := rfl
@[simp] theorem addLands_rerun (k : Core) (x lat : Nat) (ls : List Land) : (addLands k x lat ls).rerun = k.rerun := rfl

/-! ### A context -/

@[simp] theorem setSReg_status (t : Ctx) (n : Nat) (v : Word) : (setSReg t n v).status = t.status := by unfold setSReg; split <;> rfl
@[simp] theorem setSReg_priv (t : Ctx) (n : Nat) (v : Word) : (setSReg t n v).priv = t.priv := by unfold setSReg; split <;> rfl
@[simp] theorem setSReg_inAmigen (t : Ctx) (n : Nat) (v : Word) : (setSReg t n v).inAmigen = t.inAmigen := by unfold setSReg; split <;> rfl
@[simp] theorem setSReg_killed (t : Ctx) (n : Nat) (v : Word) : (setSReg t n v).killed = t.killed := by unfold setSReg; split <;> rfl
@[simp] theorem setSReg_fresh (t : Ctx) (n : Nat) (v : Word) : (setSReg t n v).fresh = t.fresh := by unfold setSReg; split <;> rfl
@[simp] theorem setSReg_asid (t : Ctx) (n : Nat) (v : Word) : (setSReg t n v).asid = t.asid := by unfold setSReg; split <;> rfl
@[simp] theorem setSReg_launch (t : Ctx) (n : Nat) (v : Word) : (setSReg t n v).launch = t.launch := by unfold setSReg; split <;> rfl
@[simp] theorem setSReg_join (t : Ctx) (n : Nat) (v : Word) : (setSReg t n v).join = t.join := by unfold setSReg; split <;> rfl
@[simp] theorem setSReg_child (t : Ctx) (n : Nat) (v : Word) : (setSReg t n v).child = t.child := by unfold setSReg; split <;> rfl
@[simp] theorem setSReg_under (t : Ctx) (n : Nat) (v : Word) : (setSReg t n v).under = t.under := by unfold setSReg; split <;> rfl
@[simp] theorem setSReg_order (t : Ctx) (n : Nat) (v : Word) : (setSReg t n v).order = t.order := by unfold setSReg; split <;> rfl
@[simp] theorem setSReg_strm (t : Ctx) (n : Nat) (v : Word) : (setSReg t n v).strm = t.strm := by unfold setSReg; split <;> rfl
@[simp] theorem setSReg_res (t : Ctx) (n : Nat) (v : Word) : (setSReg t n v).res = t.res := by unfold setSReg; split <;> rfl
@[simp] theorem setSReg_pool (t : Ctx) (n : Nat) (v : Word) : (setSReg t n v).pool = t.pool := by unfold setSReg; split <;> rfl
@[simp] theorem setSReg_a (t : Ctx) (n : Nat) (v : Word) : (setSReg t n v).a = t.a := by unfold setSReg; split <;> rfl
@[simp] theorem setSReg_p (t : Ctx) (n : Nat) (v : Word) : (setSReg t n v).p = t.p := by unfold setSReg; split <;> rfl
@[simp] theorem setSReg_m (t : Ctx) (n : Nat) (v : Word) : (setSReg t n v).m = t.m := by unfold setSReg; split <;> rfl
@[simp] theorem setSReg_pc (t : Ctx) (n : Nat) (v : Word) : (setSReg t n v).pc = t.pc := by unfold setSReg; split <;> rfl
@[simp] theorem setSReg_lsCnt (t : Ctx) (n : Nat) (v : Word) : (setSReg t n v).lsCnt = t.lsCnt := by unfold setSReg; split <;> rfl
@[simp] theorem setSReg_lsBody (t : Ctx) (n : Nat) (v : Word) : (setSReg t n v).lsBody = t.lsBody := by unfold setSReg; split <;> rfl
@[simp] theorem setSReg_fmt (t : Ctx) (n : Nat) (v : Word) : (setSReg t n v).fmt = t.fmt := by unfold setSReg; split <;> rfl
@[simp] theorem setSReg_shp (t : Ctx) (n : Nat) (v : Word) : (setSReg t n v).shp = t.shp := by unfold setSReg; split <;> rfl
@[simp] theorem setSReg_rmode (t : Ctx) (n : Nat) (v : Word) : (setSReg t n v).rmode = t.rmode := by unfold setSReg; split <;> rfl
@[simp] theorem setSReg_srs (t : Ctx) (n : Nat) (v : Word) : (setSReg t n v).srs = t.srs := by unfold setSReg; split <;> rfl
@[simp] theorem setSReg_amx (t : Ctx) (n : Nat) (v : Word) : (setSReg t n v).amx = t.amx := by unfold setSReg; split <;> rfl
@[simp] theorem setSReg_feb (t : Ctx) (n : Nat) (v : Word) : (setSReg t n v).feb = t.feb := by unfold setSReg; split <;> rfl
@[simp] theorem setSReg_stat (t : Ctx) (n : Nat) (v : Word) : (setSReg t n v).stat = t.stat := by unfold setSReg; split <;> rfl
@[simp] theorem setSReg_handles (t : Ctx) (n : Nat) (v : Word) : (setSReg t n v).handles = t.handles := by unfold setSReg; split <;> rfl
@[simp] theorem setSReg_tvec (t : Ctx) (n : Nat) (v : Word) : (setSReg t n v).tvec = t.tvec := by unfold setSReg; split <;> rfl
@[simp] theorem setSReg_epc (t : Ctx) (n : Nat) (v : Word) : (setSReg t n v).epc = t.epc := by unfold setSReg; split <;> rfl
@[simp] theorem setSReg_ecause (t : Ctx) (n : Nat) (v : Word) : (setSReg t n v).ecause = t.ecause := by unfold setSReg; split <;> rfl
@[simp] theorem setSReg_einfo (t : Ctx) (n : Nat) (v : Word) : (setSReg t n v).einfo = t.einfo := by unfold setSReg; split <;> rfl
@[simp] theorem setSReg_csa (t : Ctx) (n : Nat) (v : Word) : (setSReg t n v).csa = t.csa := by unfold setSReg; split <;> rfl
@[simp] theorem setSReg_mx (t : Ctx) (n : Nat) (v : Word) : (setSReg t n v).mx = t.mx := by unfold setSReg; split <;> rfl
@[simp] theorem setSReg_cp (t : Ctx) (n : Nat) (v : Word) : (setSReg t n v).cp = t.cp := by unfold setSReg; split <;> rfl
@[simp] theorem setSReg_serial (t : Ctx) (n : Nat) (v : Word) : (setSReg t n v).serial = t.serial := by unfold setSReg; split <;> rfl
@[simp] theorem setSReg_bmap (t : Ctx) (n : Nat) (v : Word) : (setSReg t n v).bmap = t.bmap := by unfold setSReg; split <;> rfl
@[simp] theorem setSReg_curves (t : Ctx) (n : Nat) (v : Word) : (setSReg t n v).curves = t.curves := by unfold setSReg; split <;> rfl
@[simp] theorem setSReg_closed (t : Ctx) (n : Nat) (v : Word) : (setSReg t n v).closed = t.closed := by unfold setSReg; split <;> rfl
@[simp] theorem setSReg_q (t : Ctx) (n : Nat) (v : Word) : (setSReg t n v).q = t.q := by unfold setSReg; split <;> rfl
@[simp] theorem setSReg_grp (t : Ctx) (n : Nat) (v : Word) : (setSReg t n v).grp = t.grp := by unfold setSReg; split <;> rfl
@[simp] theorem setSReg_held (t : Ctx) (n : Nat) (v : Word) : (setSReg t n v).held = t.held := by unfold setSReg; split <;> rfl
@[simp] theorem setSReg_replay (t : Ctx) (n : Nat) (v : Word) : (setSReg t n v).replay = t.replay := by unfold setSReg; split <;> rfl
@[simp] theorem setSReg_replayTo (t : Ctx) (n : Nat) (v : Word) : (setSReg t n v).replayTo = t.replayTo := by unfold setSReg; split <;> rfl
@[simp] theorem setSReg_kept (t : Ctx) (n : Nat) (v : Word) : (setSReg t n v).kept = t.kept := by unfold setSReg; split <;> rfl
@[simp] theorem setSReg_atLand (t : Ctx) (n : Nat) (v : Word) : (setSReg t n v).atLand = t.atLand := by unfold setSReg; split <;> rfl
@[simp] theorem setSReg_ticket (t : Ctx) (n : Nat) (v : Word) : (setSReg t n v).ticket = t.ticket := by unfold setSReg; split <;> rfl
@[simp] theorem setSReg_bufs (t : Ctx) (n : Nat) (v : Word) : (setSReg t n v).bufs = t.bufs := by unfold setSReg; split <;> rfl
@[simp] theorem setSReg_spec (t : Ctx) (n : Nat) (v : Word) : (setSReg t n v).spec = t.spec := by unfold setSReg; split <;> rfl
@[simp] theorem setSReg_direct (t : Ctx) (n : Nat) (v : Word) : (setSReg t n v).direct = t.direct := by unfold setSReg; split <;> rfl
@[simp] theorem setSReg_spawned (t : Ctx) (n : Nat) (v : Word) : (setSReg t n v).spawned = t.spawned := by unfold setSReg; split <;> rfl
@[simp] theorem setSReg_vsaved (t : Ctx) (n : Nat) (v : Word) : (setSReg t n v).vsaved = t.vsaved := by unfold setSReg; split <;> rfl
@[simp] theorem setSReg_asaved (t : Ctx) (n : Nat) (v : Word) : (setSReg t n v).asaved = t.asaved := by unfold setSReg; split <;> rfl
@[simp] theorem setSReg_saveV (t : Ctx) (n : Nat) (v : Word) : (setSReg t n v).saveV = t.saveV := by unfold setSReg; split <;> rfl
@[simp] theorem setSReg_saveA (t : Ctx) (n : Nat) (v : Word) : (setSReg t n v).saveA = t.saveA := by unfold setSReg; split <;> rfl

@[simp] theorem setAReg_status (t : Ctx) (n : Nat) (v : Word) : (setAReg t n v).status = t.status := rfl
@[simp] theorem setAReg_priv (t : Ctx) (n : Nat) (v : Word) : (setAReg t n v).priv = t.priv := rfl
@[simp] theorem setAReg_inAmigen (t : Ctx) (n : Nat) (v : Word) : (setAReg t n v).inAmigen = t.inAmigen := rfl
@[simp] theorem setAReg_killed (t : Ctx) (n : Nat) (v : Word) : (setAReg t n v).killed = t.killed := rfl
@[simp] theorem setAReg_fresh (t : Ctx) (n : Nat) (v : Word) : (setAReg t n v).fresh = t.fresh := rfl
@[simp] theorem setAReg_asid (t : Ctx) (n : Nat) (v : Word) : (setAReg t n v).asid = t.asid := rfl
@[simp] theorem setAReg_launch (t : Ctx) (n : Nat) (v : Word) : (setAReg t n v).launch = t.launch := rfl
@[simp] theorem setAReg_join (t : Ctx) (n : Nat) (v : Word) : (setAReg t n v).join = t.join := rfl
@[simp] theorem setAReg_child (t : Ctx) (n : Nat) (v : Word) : (setAReg t n v).child = t.child := rfl
@[simp] theorem setAReg_under (t : Ctx) (n : Nat) (v : Word) : (setAReg t n v).under = t.under := rfl
@[simp] theorem setAReg_order (t : Ctx) (n : Nat) (v : Word) : (setAReg t n v).order = t.order := rfl
@[simp] theorem setAReg_strm (t : Ctx) (n : Nat) (v : Word) : (setAReg t n v).strm = t.strm := rfl
@[simp] theorem setAReg_res (t : Ctx) (n : Nat) (v : Word) : (setAReg t n v).res = t.res := rfl
@[simp] theorem setAReg_pool (t : Ctx) (n : Nat) (v : Word) : (setAReg t n v).pool = t.pool := rfl
@[simp] theorem setAReg_s (t : Ctx) (n : Nat) (v : Word) : (setAReg t n v).s = t.s := rfl
@[simp] theorem setAReg_p (t : Ctx) (n : Nat) (v : Word) : (setAReg t n v).p = t.p := rfl
@[simp] theorem setAReg_m (t : Ctx) (n : Nat) (v : Word) : (setAReg t n v).m = t.m := rfl
@[simp] theorem setAReg_pc (t : Ctx) (n : Nat) (v : Word) : (setAReg t n v).pc = t.pc := rfl
@[simp] theorem setAReg_lsCnt (t : Ctx) (n : Nat) (v : Word) : (setAReg t n v).lsCnt = t.lsCnt := rfl
@[simp] theorem setAReg_lsBody (t : Ctx) (n : Nat) (v : Word) : (setAReg t n v).lsBody = t.lsBody := rfl
@[simp] theorem setAReg_fmt (t : Ctx) (n : Nat) (v : Word) : (setAReg t n v).fmt = t.fmt := rfl
@[simp] theorem setAReg_shp (t : Ctx) (n : Nat) (v : Word) : (setAReg t n v).shp = t.shp := rfl
@[simp] theorem setAReg_rmode (t : Ctx) (n : Nat) (v : Word) : (setAReg t n v).rmode = t.rmode := rfl
@[simp] theorem setAReg_srs (t : Ctx) (n : Nat) (v : Word) : (setAReg t n v).srs = t.srs := rfl
@[simp] theorem setAReg_amx (t : Ctx) (n : Nat) (v : Word) : (setAReg t n v).amx = t.amx := rfl
@[simp] theorem setAReg_feb (t : Ctx) (n : Nat) (v : Word) : (setAReg t n v).feb = t.feb := rfl
@[simp] theorem setAReg_stat (t : Ctx) (n : Nat) (v : Word) : (setAReg t n v).stat = t.stat := rfl
@[simp] theorem setAReg_handles (t : Ctx) (n : Nat) (v : Word) : (setAReg t n v).handles = t.handles := rfl
@[simp] theorem setAReg_tvec (t : Ctx) (n : Nat) (v : Word) : (setAReg t n v).tvec = t.tvec := rfl
@[simp] theorem setAReg_epc (t : Ctx) (n : Nat) (v : Word) : (setAReg t n v).epc = t.epc := rfl
@[simp] theorem setAReg_ecause (t : Ctx) (n : Nat) (v : Word) : (setAReg t n v).ecause = t.ecause := rfl
@[simp] theorem setAReg_einfo (t : Ctx) (n : Nat) (v : Word) : (setAReg t n v).einfo = t.einfo := rfl
@[simp] theorem setAReg_csa (t : Ctx) (n : Nat) (v : Word) : (setAReg t n v).csa = t.csa := rfl
@[simp] theorem setAReg_mx (t : Ctx) (n : Nat) (v : Word) : (setAReg t n v).mx = t.mx := rfl
@[simp] theorem setAReg_cp (t : Ctx) (n : Nat) (v : Word) : (setAReg t n v).cp = t.cp := rfl
@[simp] theorem setAReg_serial (t : Ctx) (n : Nat) (v : Word) : (setAReg t n v).serial = t.serial := rfl
@[simp] theorem setAReg_bmap (t : Ctx) (n : Nat) (v : Word) : (setAReg t n v).bmap = t.bmap := rfl
@[simp] theorem setAReg_curves (t : Ctx) (n : Nat) (v : Word) : (setAReg t n v).curves = t.curves := rfl
@[simp] theorem setAReg_closed (t : Ctx) (n : Nat) (v : Word) : (setAReg t n v).closed = t.closed := rfl
@[simp] theorem setAReg_q (t : Ctx) (n : Nat) (v : Word) : (setAReg t n v).q = t.q := rfl
@[simp] theorem setAReg_grp (t : Ctx) (n : Nat) (v : Word) : (setAReg t n v).grp = t.grp := rfl
@[simp] theorem setAReg_held (t : Ctx) (n : Nat) (v : Word) : (setAReg t n v).held = t.held := rfl
@[simp] theorem setAReg_replay (t : Ctx) (n : Nat) (v : Word) : (setAReg t n v).replay = t.replay := rfl
@[simp] theorem setAReg_replayTo (t : Ctx) (n : Nat) (v : Word) : (setAReg t n v).replayTo = t.replayTo := rfl
@[simp] theorem setAReg_kept (t : Ctx) (n : Nat) (v : Word) : (setAReg t n v).kept = t.kept := rfl
@[simp] theorem setAReg_atLand (t : Ctx) (n : Nat) (v : Word) : (setAReg t n v).atLand = t.atLand := rfl
@[simp] theorem setAReg_ticket (t : Ctx) (n : Nat) (v : Word) : (setAReg t n v).ticket = t.ticket := rfl
@[simp] theorem setAReg_bufs (t : Ctx) (n : Nat) (v : Word) : (setAReg t n v).bufs = t.bufs := rfl
@[simp] theorem setAReg_spec (t : Ctx) (n : Nat) (v : Word) : (setAReg t n v).spec = t.spec := rfl
@[simp] theorem setAReg_direct (t : Ctx) (n : Nat) (v : Word) : (setAReg t n v).direct = t.direct := rfl
@[simp] theorem setAReg_spawned (t : Ctx) (n : Nat) (v : Word) : (setAReg t n v).spawned = t.spawned := rfl
@[simp] theorem setAReg_vsaved (t : Ctx) (n : Nat) (v : Word) : (setAReg t n v).vsaved = t.vsaved := rfl
@[simp] theorem setAReg_asaved (t : Ctx) (n : Nat) (v : Word) : (setAReg t n v).asaved = t.asaved := rfl
@[simp] theorem setAReg_saveV (t : Ctx) (n : Nat) (v : Word) : (setAReg t n v).saveV = t.saveV := rfl
@[simp] theorem setAReg_saveA (t : Ctx) (n : Nat) (v : Word) : (setAReg t n v).saveA = t.saveA := rfl

@[simp] theorem setPReg_status (t : Ctx) (n : Nat) (b : Bool) : (setPReg t n b).status = t.status := by unfold setPReg; split <;> rfl
@[simp] theorem setPReg_priv (t : Ctx) (n : Nat) (b : Bool) : (setPReg t n b).priv = t.priv := by unfold setPReg; split <;> rfl
@[simp] theorem setPReg_inAmigen (t : Ctx) (n : Nat) (b : Bool) : (setPReg t n b).inAmigen = t.inAmigen := by unfold setPReg; split <;> rfl
@[simp] theorem setPReg_killed (t : Ctx) (n : Nat) (b : Bool) : (setPReg t n b).killed = t.killed := by unfold setPReg; split <;> rfl
@[simp] theorem setPReg_fresh (t : Ctx) (n : Nat) (b : Bool) : (setPReg t n b).fresh = t.fresh := by unfold setPReg; split <;> rfl
@[simp] theorem setPReg_asid (t : Ctx) (n : Nat) (b : Bool) : (setPReg t n b).asid = t.asid := by unfold setPReg; split <;> rfl
@[simp] theorem setPReg_launch (t : Ctx) (n : Nat) (b : Bool) : (setPReg t n b).launch = t.launch := by unfold setPReg; split <;> rfl
@[simp] theorem setPReg_join (t : Ctx) (n : Nat) (b : Bool) : (setPReg t n b).join = t.join := by unfold setPReg; split <;> rfl
@[simp] theorem setPReg_child (t : Ctx) (n : Nat) (b : Bool) : (setPReg t n b).child = t.child := by unfold setPReg; split <;> rfl
@[simp] theorem setPReg_under (t : Ctx) (n : Nat) (b : Bool) : (setPReg t n b).under = t.under := by unfold setPReg; split <;> rfl
@[simp] theorem setPReg_order (t : Ctx) (n : Nat) (b : Bool) : (setPReg t n b).order = t.order := by unfold setPReg; split <;> rfl
@[simp] theorem setPReg_strm (t : Ctx) (n : Nat) (b : Bool) : (setPReg t n b).strm = t.strm := by unfold setPReg; split <;> rfl
@[simp] theorem setPReg_res (t : Ctx) (n : Nat) (b : Bool) : (setPReg t n b).res = t.res := by unfold setPReg; split <;> rfl
@[simp] theorem setPReg_pool (t : Ctx) (n : Nat) (b : Bool) : (setPReg t n b).pool = t.pool := by unfold setPReg; split <;> rfl
@[simp] theorem setPReg_s (t : Ctx) (n : Nat) (b : Bool) : (setPReg t n b).s = t.s := by unfold setPReg; split <;> rfl
@[simp] theorem setPReg_a (t : Ctx) (n : Nat) (b : Bool) : (setPReg t n b).a = t.a := by unfold setPReg; split <;> rfl
@[simp] theorem setPReg_m (t : Ctx) (n : Nat) (b : Bool) : (setPReg t n b).m = t.m := by unfold setPReg; split <;> rfl
@[simp] theorem setPReg_pc (t : Ctx) (n : Nat) (b : Bool) : (setPReg t n b).pc = t.pc := by unfold setPReg; split <;> rfl
@[simp] theorem setPReg_lsCnt (t : Ctx) (n : Nat) (b : Bool) : (setPReg t n b).lsCnt = t.lsCnt := by unfold setPReg; split <;> rfl
@[simp] theorem setPReg_lsBody (t : Ctx) (n : Nat) (b : Bool) : (setPReg t n b).lsBody = t.lsBody := by unfold setPReg; split <;> rfl
@[simp] theorem setPReg_fmt (t : Ctx) (n : Nat) (b : Bool) : (setPReg t n b).fmt = t.fmt := by unfold setPReg; split <;> rfl
@[simp] theorem setPReg_shp (t : Ctx) (n : Nat) (b : Bool) : (setPReg t n b).shp = t.shp := by unfold setPReg; split <;> rfl
@[simp] theorem setPReg_rmode (t : Ctx) (n : Nat) (b : Bool) : (setPReg t n b).rmode = t.rmode := by unfold setPReg; split <;> rfl
@[simp] theorem setPReg_srs (t : Ctx) (n : Nat) (b : Bool) : (setPReg t n b).srs = t.srs := by unfold setPReg; split <;> rfl
@[simp] theorem setPReg_amx (t : Ctx) (n : Nat) (b : Bool) : (setPReg t n b).amx = t.amx := by unfold setPReg; split <;> rfl
@[simp] theorem setPReg_feb (t : Ctx) (n : Nat) (b : Bool) : (setPReg t n b).feb = t.feb := by unfold setPReg; split <;> rfl
@[simp] theorem setPReg_stat (t : Ctx) (n : Nat) (b : Bool) : (setPReg t n b).stat = t.stat := by unfold setPReg; split <;> rfl
@[simp] theorem setPReg_handles (t : Ctx) (n : Nat) (b : Bool) : (setPReg t n b).handles = t.handles := by unfold setPReg; split <;> rfl
@[simp] theorem setPReg_tvec (t : Ctx) (n : Nat) (b : Bool) : (setPReg t n b).tvec = t.tvec := by unfold setPReg; split <;> rfl
@[simp] theorem setPReg_epc (t : Ctx) (n : Nat) (b : Bool) : (setPReg t n b).epc = t.epc := by unfold setPReg; split <;> rfl
@[simp] theorem setPReg_ecause (t : Ctx) (n : Nat) (b : Bool) : (setPReg t n b).ecause = t.ecause := by unfold setPReg; split <;> rfl
@[simp] theorem setPReg_einfo (t : Ctx) (n : Nat) (b : Bool) : (setPReg t n b).einfo = t.einfo := by unfold setPReg; split <;> rfl
@[simp] theorem setPReg_csa (t : Ctx) (n : Nat) (b : Bool) : (setPReg t n b).csa = t.csa := by unfold setPReg; split <;> rfl
@[simp] theorem setPReg_mx (t : Ctx) (n : Nat) (b : Bool) : (setPReg t n b).mx = t.mx := by unfold setPReg; split <;> rfl
@[simp] theorem setPReg_cp (t : Ctx) (n : Nat) (b : Bool) : (setPReg t n b).cp = t.cp := by unfold setPReg; split <;> rfl
@[simp] theorem setPReg_serial (t : Ctx) (n : Nat) (b : Bool) : (setPReg t n b).serial = t.serial := by unfold setPReg; split <;> rfl
@[simp] theorem setPReg_bmap (t : Ctx) (n : Nat) (b : Bool) : (setPReg t n b).bmap = t.bmap := by unfold setPReg; split <;> rfl
@[simp] theorem setPReg_curves (t : Ctx) (n : Nat) (b : Bool) : (setPReg t n b).curves = t.curves := by unfold setPReg; split <;> rfl
@[simp] theorem setPReg_closed (t : Ctx) (n : Nat) (b : Bool) : (setPReg t n b).closed = t.closed := by unfold setPReg; split <;> rfl
@[simp] theorem setPReg_q (t : Ctx) (n : Nat) (b : Bool) : (setPReg t n b).q = t.q := by unfold setPReg; split <;> rfl
@[simp] theorem setPReg_grp (t : Ctx) (n : Nat) (b : Bool) : (setPReg t n b).grp = t.grp := by unfold setPReg; split <;> rfl
@[simp] theorem setPReg_held (t : Ctx) (n : Nat) (b : Bool) : (setPReg t n b).held = t.held := by unfold setPReg; split <;> rfl
@[simp] theorem setPReg_replay (t : Ctx) (n : Nat) (b : Bool) : (setPReg t n b).replay = t.replay := by unfold setPReg; split <;> rfl
@[simp] theorem setPReg_replayTo (t : Ctx) (n : Nat) (b : Bool) : (setPReg t n b).replayTo = t.replayTo := by unfold setPReg; split <;> rfl
@[simp] theorem setPReg_kept (t : Ctx) (n : Nat) (b : Bool) : (setPReg t n b).kept = t.kept := by unfold setPReg; split <;> rfl
@[simp] theorem setPReg_atLand (t : Ctx) (n : Nat) (b : Bool) : (setPReg t n b).atLand = t.atLand := by unfold setPReg; split <;> rfl
@[simp] theorem setPReg_ticket (t : Ctx) (n : Nat) (b : Bool) : (setPReg t n b).ticket = t.ticket := by unfold setPReg; split <;> rfl
@[simp] theorem setPReg_bufs (t : Ctx) (n : Nat) (b : Bool) : (setPReg t n b).bufs = t.bufs := by unfold setPReg; split <;> rfl
@[simp] theorem setPReg_spec (t : Ctx) (n : Nat) (b : Bool) : (setPReg t n b).spec = t.spec := by unfold setPReg; split <;> rfl
@[simp] theorem setPReg_direct (t : Ctx) (n : Nat) (b : Bool) : (setPReg t n b).direct = t.direct := by unfold setPReg; split <;> rfl
@[simp] theorem setPReg_spawned (t : Ctx) (n : Nat) (b : Bool) : (setPReg t n b).spawned = t.spawned := by unfold setPReg; split <;> rfl
@[simp] theorem setPReg_vsaved (t : Ctx) (n : Nat) (b : Bool) : (setPReg t n b).vsaved = t.vsaved := by unfold setPReg; split <;> rfl
@[simp] theorem setPReg_asaved (t : Ctx) (n : Nat) (b : Bool) : (setPReg t n b).asaved = t.asaved := by unfold setPReg; split <;> rfl
@[simp] theorem setPReg_saveV (t : Ctx) (n : Nat) (b : Bool) : (setPReg t n b).saveV = t.saveV := by unfold setPReg; split <;> rfl
@[simp] theorem setPReg_saveA (t : Ctx) (n : Nat) (b : Bool) : (setPReg t n b).saveA = t.saveA := by unfold setPReg; split <;> rfl

@[simp] theorem setMReg_status (t : Ctx) (n : Nat) (v : Mask) : (setMReg t n v).status = t.status := by unfold setMReg; split <;> rfl
@[simp] theorem setMReg_priv (t : Ctx) (n : Nat) (v : Mask) : (setMReg t n v).priv = t.priv := by unfold setMReg; split <;> rfl
@[simp] theorem setMReg_inAmigen (t : Ctx) (n : Nat) (v : Mask) : (setMReg t n v).inAmigen = t.inAmigen := by unfold setMReg; split <;> rfl
@[simp] theorem setMReg_killed (t : Ctx) (n : Nat) (v : Mask) : (setMReg t n v).killed = t.killed := by unfold setMReg; split <;> rfl
@[simp] theorem setMReg_fresh (t : Ctx) (n : Nat) (v : Mask) : (setMReg t n v).fresh = t.fresh := by unfold setMReg; split <;> rfl
@[simp] theorem setMReg_asid (t : Ctx) (n : Nat) (v : Mask) : (setMReg t n v).asid = t.asid := by unfold setMReg; split <;> rfl
@[simp] theorem setMReg_launch (t : Ctx) (n : Nat) (v : Mask) : (setMReg t n v).launch = t.launch := by unfold setMReg; split <;> rfl
@[simp] theorem setMReg_join (t : Ctx) (n : Nat) (v : Mask) : (setMReg t n v).join = t.join := by unfold setMReg; split <;> rfl
@[simp] theorem setMReg_child (t : Ctx) (n : Nat) (v : Mask) : (setMReg t n v).child = t.child := by unfold setMReg; split <;> rfl
@[simp] theorem setMReg_under (t : Ctx) (n : Nat) (v : Mask) : (setMReg t n v).under = t.under := by unfold setMReg; split <;> rfl
@[simp] theorem setMReg_order (t : Ctx) (n : Nat) (v : Mask) : (setMReg t n v).order = t.order := by unfold setMReg; split <;> rfl
@[simp] theorem setMReg_strm (t : Ctx) (n : Nat) (v : Mask) : (setMReg t n v).strm = t.strm := by unfold setMReg; split <;> rfl
@[simp] theorem setMReg_res (t : Ctx) (n : Nat) (v : Mask) : (setMReg t n v).res = t.res := by unfold setMReg; split <;> rfl
@[simp] theorem setMReg_pool (t : Ctx) (n : Nat) (v : Mask) : (setMReg t n v).pool = t.pool := by unfold setMReg; split <;> rfl
@[simp] theorem setMReg_s (t : Ctx) (n : Nat) (v : Mask) : (setMReg t n v).s = t.s := by unfold setMReg; split <;> rfl
@[simp] theorem setMReg_a (t : Ctx) (n : Nat) (v : Mask) : (setMReg t n v).a = t.a := by unfold setMReg; split <;> rfl
@[simp] theorem setMReg_p (t : Ctx) (n : Nat) (v : Mask) : (setMReg t n v).p = t.p := by unfold setMReg; split <;> rfl
@[simp] theorem setMReg_pc (t : Ctx) (n : Nat) (v : Mask) : (setMReg t n v).pc = t.pc := by unfold setMReg; split <;> rfl
@[simp] theorem setMReg_lsCnt (t : Ctx) (n : Nat) (v : Mask) : (setMReg t n v).lsCnt = t.lsCnt := by unfold setMReg; split <;> rfl
@[simp] theorem setMReg_lsBody (t : Ctx) (n : Nat) (v : Mask) : (setMReg t n v).lsBody = t.lsBody := by unfold setMReg; split <;> rfl
@[simp] theorem setMReg_fmt (t : Ctx) (n : Nat) (v : Mask) : (setMReg t n v).fmt = t.fmt := by unfold setMReg; split <;> rfl
@[simp] theorem setMReg_shp (t : Ctx) (n : Nat) (v : Mask) : (setMReg t n v).shp = t.shp := by unfold setMReg; split <;> rfl
@[simp] theorem setMReg_rmode (t : Ctx) (n : Nat) (v : Mask) : (setMReg t n v).rmode = t.rmode := by unfold setMReg; split <;> rfl
@[simp] theorem setMReg_srs (t : Ctx) (n : Nat) (v : Mask) : (setMReg t n v).srs = t.srs := by unfold setMReg; split <;> rfl
@[simp] theorem setMReg_amx (t : Ctx) (n : Nat) (v : Mask) : (setMReg t n v).amx = t.amx := by unfold setMReg; split <;> rfl
@[simp] theorem setMReg_feb (t : Ctx) (n : Nat) (v : Mask) : (setMReg t n v).feb = t.feb := by unfold setMReg; split <;> rfl
@[simp] theorem setMReg_stat (t : Ctx) (n : Nat) (v : Mask) : (setMReg t n v).stat = t.stat := by unfold setMReg; split <;> rfl
@[simp] theorem setMReg_handles (t : Ctx) (n : Nat) (v : Mask) : (setMReg t n v).handles = t.handles := by unfold setMReg; split <;> rfl
@[simp] theorem setMReg_tvec (t : Ctx) (n : Nat) (v : Mask) : (setMReg t n v).tvec = t.tvec := by unfold setMReg; split <;> rfl
@[simp] theorem setMReg_epc (t : Ctx) (n : Nat) (v : Mask) : (setMReg t n v).epc = t.epc := by unfold setMReg; split <;> rfl
@[simp] theorem setMReg_ecause (t : Ctx) (n : Nat) (v : Mask) : (setMReg t n v).ecause = t.ecause := by unfold setMReg; split <;> rfl
@[simp] theorem setMReg_einfo (t : Ctx) (n : Nat) (v : Mask) : (setMReg t n v).einfo = t.einfo := by unfold setMReg; split <;> rfl
@[simp] theorem setMReg_csa (t : Ctx) (n : Nat) (v : Mask) : (setMReg t n v).csa = t.csa := by unfold setMReg; split <;> rfl
@[simp] theorem setMReg_mx (t : Ctx) (n : Nat) (v : Mask) : (setMReg t n v).mx = t.mx := by unfold setMReg; split <;> rfl
@[simp] theorem setMReg_cp (t : Ctx) (n : Nat) (v : Mask) : (setMReg t n v).cp = t.cp := by unfold setMReg; split <;> rfl
@[simp] theorem setMReg_serial (t : Ctx) (n : Nat) (v : Mask) : (setMReg t n v).serial = t.serial := by unfold setMReg; split <;> rfl
@[simp] theorem setMReg_bmap (t : Ctx) (n : Nat) (v : Mask) : (setMReg t n v).bmap = t.bmap := by unfold setMReg; split <;> rfl
@[simp] theorem setMReg_curves (t : Ctx) (n : Nat) (v : Mask) : (setMReg t n v).curves = t.curves := by unfold setMReg; split <;> rfl
@[simp] theorem setMReg_closed (t : Ctx) (n : Nat) (v : Mask) : (setMReg t n v).closed = t.closed := by unfold setMReg; split <;> rfl
@[simp] theorem setMReg_q (t : Ctx) (n : Nat) (v : Mask) : (setMReg t n v).q = t.q := by unfold setMReg; split <;> rfl
@[simp] theorem setMReg_grp (t : Ctx) (n : Nat) (v : Mask) : (setMReg t n v).grp = t.grp := by unfold setMReg; split <;> rfl
@[simp] theorem setMReg_held (t : Ctx) (n : Nat) (v : Mask) : (setMReg t n v).held = t.held := by unfold setMReg; split <;> rfl
@[simp] theorem setMReg_replay (t : Ctx) (n : Nat) (v : Mask) : (setMReg t n v).replay = t.replay := by unfold setMReg; split <;> rfl
@[simp] theorem setMReg_replayTo (t : Ctx) (n : Nat) (v : Mask) : (setMReg t n v).replayTo = t.replayTo := by unfold setMReg; split <;> rfl
@[simp] theorem setMReg_kept (t : Ctx) (n : Nat) (v : Mask) : (setMReg t n v).kept = t.kept := by unfold setMReg; split <;> rfl
@[simp] theorem setMReg_atLand (t : Ctx) (n : Nat) (v : Mask) : (setMReg t n v).atLand = t.atLand := by unfold setMReg; split <;> rfl
@[simp] theorem setMReg_ticket (t : Ctx) (n : Nat) (v : Mask) : (setMReg t n v).ticket = t.ticket := by unfold setMReg; split <;> rfl
@[simp] theorem setMReg_bufs (t : Ctx) (n : Nat) (v : Mask) : (setMReg t n v).bufs = t.bufs := by unfold setMReg; split <;> rfl
@[simp] theorem setMReg_spec (t : Ctx) (n : Nat) (v : Mask) : (setMReg t n v).spec = t.spec := by unfold setMReg; split <;> rfl
@[simp] theorem setMReg_direct (t : Ctx) (n : Nat) (v : Mask) : (setMReg t n v).direct = t.direct := by unfold setMReg; split <;> rfl
@[simp] theorem setMReg_spawned (t : Ctx) (n : Nat) (v : Mask) : (setMReg t n v).spawned = t.spawned := by unfold setMReg; split <;> rfl
@[simp] theorem setMReg_vsaved (t : Ctx) (n : Nat) (v : Mask) : (setMReg t n v).vsaved = t.vsaved := by unfold setMReg; split <;> rfl
@[simp] theorem setMReg_asaved (t : Ctx) (n : Nat) (v : Mask) : (setMReg t n v).asaved = t.asaved := by unfold setMReg; split <;> rfl
@[simp] theorem setMReg_saveV (t : Ctx) (n : Nat) (v : Mask) : (setMReg t n v).saveV = t.saveV := by unfold setMReg; split <;> rfl
@[simp] theorem setMReg_saveA (t : Ctx) (n : Nat) (v : Mask) : (setMReg t n v).saveA = t.saveA := by unfold setMReg; split <;> rfl

/-! ### Registers: a register holds what was written, and no other changes -/

theorem sReg_zero (t : Ctx) : sReg t 0 = 0 := rfl
theorem pReg_zero (t : Ctx) : pReg t 0 = true := rfl
theorem mReg_zero (t : Ctx) : mReg t 0 = BitVec.allOnes 8192 := rfl
@[simp] theorem sReg_setSReg (t : Ctx) (n m : Nat) (v : Word) : sReg (setSReg t n v) m = if n = m ∧ n ≠ 0 then v else sReg t m := by
  unfold sReg setSReg
  by_cases hn : n = 0
  · simp [hn]
  · by_cases hm : m = 0
    · simp [hm, hn]
    · simp [hn, hm]
@[simp] theorem aReg_setAReg (t : Ctx) (n m : Nat) (v : Word) : aReg (setAReg t n v) m = if n = m then v else aReg t m := tabGet_tabSet ..
@[simp] theorem vReg_setVReg (k : Core) (n m : Nat) (x : Tile) : vReg (setVReg k n x) m = if n = m then x else vReg k m := tabGet_tabSet ..
@[simp] theorem mReg_setMReg (t : Ctx) (n m : Nat) (v : Mask) : mReg (setMReg t n v) m = if n = m ∧ n ≠ 0 then v else mReg t m := by
  unfold mReg setMReg
  by_cases hn : n = 0
  · simp [hn]
  · by_cases hm : m = 0
    · simp [hm, hn]
    · simp [hn, hm]
@[simp] theorem accPage_setAccPage (k : Core) (n m : Nat) (x : Page) : accPage (setAccPage k n x) m = if n = m ∧ n < 512 then x else accPage k m := by
  unfold accPage setAccPage
  by_cases hn : 512 ≤ n
  · have : ¬n < 512 := by omega
    simp [hn, this]
  · have : n < 512 := by omega
    simp [hn, this]

end Sys2Proof.Machine
end

