-- ==== Sys2Proof/Laws/Memory.lean ====
section
/-! SUPPORT. Laws of memory: what was written is read, no other byte changes, and the canonical form stays. -/

namespace Sys2Proof.Machine

variable {α : Type}

/-! ### Tables in parts -/

theorem tabGet_append_left (d : α) (l r : Tab α) (n : Nat) (h : ∀ e ∈ r, e.1 ≠ n) : tabGet d (l ++ r) n = tabGet d l n := by
  induction l with
  | nil => simpa using tabGet_of_notin d r n h
  | cons e l ih => simp only [List.cons_append, tabGet, ih]

theorem tabGet_append_right (d : α) (l r : Tab α) (n : Nat) (h : ∀ e ∈ l, e.1 ≠ n) : tabGet d (l ++ r) n = tabGet d r n := by
  induction l with
  | nil => rfl
  | cons e l ih =>
    have h1 : e.1 ≠ n := h e (by simp)
    simp only [List.cons_append, tabGet, h1, if_false]
    exact ih fun z hz => h z (by simp [hz])

theorem tabGet_filter (d : α) (t : Tab α) (p : Nat → Bool) (n : Nat) (h : p n = true) : tabGet d (t.filter fun e => p e.1) n = tabGet d t n := by
  induction t with
  | nil => rfl
  | cons e t ih =>
    by_cases hk : e.1 = n
    · subst hk
      simp only [List.filter_cons, h, if_true, tabGet]
    · by_cases hp : p e.1 = true
      · simp only [List.filter_cons, hp, if_true, tabGet, hk, if_false, ih]
      · simp only [List.filter_cons, hp, if_false, tabGet, hk, ih, Bool.false_eq_true]

/-! ### Reading what was written -/

/-- The cells of bytes have addresses in their range. -/
theorem cellsOf_range (a : Nat) (bs : List Byte) : ∀ e ∈ cellsOf a bs, a ≤ e.1 ∧ e.1 < a + bs.length ∧ e.2 ≠ memDefault := by
  induction bs generalizing a with
  | nil => simp [cellsOf]
  | cons b bs ih =>
    intro e he
    simp only [cellsOf] at he
    split at he
    · have := ih (a + 1) e he
      simp only [List.length_cons]
      exact ⟨by omega, by omega, this.2.2⟩
    · rcases List.mem_cons.mp he with rfl | he
      · simp only [List.length_cons]
        exact ⟨Nat.le_refl a, by omega, ‹_›⟩
      · have := ih (a + 1) e he
        simp only [List.length_cons]
        exact ⟨by omega, by omega, this.2.2⟩

/-- The cells of bytes read as the bytes. -/
theorem memGet_cellsOf (a : Nat) (bs : List Byte) (q : Nat) (h : a ≤ q) : memGet (cellsOf a bs) q = bs.getD (q - a) 0 := by
  induction bs generalizing a with
  | nil => rfl
  | cons b bs ih =>
    have hout : ∀ e ∈ cellsOf (a + 1) bs, e.1 ≠ a := fun e he => by have := (cellsOf_range (a + 1) bs e he).1; omega
    by_cases hq : q = a
    · subst hq
      simp only [cellsOf]
      split
      · rename_i hb
        rw [memGet, tabGet_of_notin _ _ _ hout]
        simp [hb]
      · simp [memGet, tabGet]
    · have hs : q - a = q - (a + 1) + 1 := by omega
      have := ih (a + 1) (by omega)
      simp only [cellsOf]
      split
      · rw [this, hs]; simp
      · have hne : a ≠ q := fun g => hq g.symm
        simp only [memGet, tabGet, hne, if_false] at this ⊢
        rw [this, hs]; simp

/-- A byte reads as what was written over it. -/
theorem memGet_memWrite_in (m : Memory) (a : Nat) (bs : List Byte) (q : Nat) (h1 : a ≤ q) (h2 : q < a + bs.length) :
    memGet (memWrite m a bs) q = bs.getD (q - a) 0 := by
  unfold memWrite
  rw [memGet, tabGet_append_right _ _ _ _ (fun e he => by have := List.of_mem_filter he; simp at this; omega),
    tabGet_append_left _ _ _ _ (fun e he => by have := List.of_mem_filter he; simp at this; omega)]
  exact memGet_cellsOf a bs q h1

/-- A write leaves every byte outside its range. -/
theorem memGet_memWrite_out (m : Memory) (a : Nat) (bs : List Byte) (q : Nat) (h : q < a ∨ a + bs.length ≤ q) :
    memGet (memWrite m a bs) q = memGet m q := by
  have hc : ∀ e ∈ cellsOf a bs, e.1 ≠ q := fun e he => by have := cellsOf_range a bs e he; omega
  unfold memWrite memGet
  rcases h with h | h
  · rw [tabGet_append_left _ _ _ _ (fun e he => ?_), tabGet_filter _ _ (fun k => decide (k < a)) _ (by simpa using h)]
    rcases List.mem_append.mp he with he | he
    · exact hc e he
    · have := List.of_mem_filter he; simp at this; omega
  · rw [tabGet_append_right _ _ _ _ (fun e he => by have := List.of_mem_filter he; simp at this; omega), tabGet_append_right _ _ _ _ hc,
      tabGet_filter _ _ (fun k => decide (a + bs.length ≤ k)) _ (by simpa using h)]

/-! ### The canonical form -/

/-- The canonical form: rising addresses and no entry equal to the default. -/
theorem memWf_iff (m : Memory) : Memory.wf m ↔ m.Pairwise (fun x y => x.1 < y.1) ∧ ∀ e ∈ m, e.2 ≠ memDefault := by
  induction m with
  | nil => simp [Memory.wf, memWf]
  | cons e m ih =>
    obtain ⟨a, b⟩ := e
    match m, ih with
    | [], _ => simp [Memory.wf, memWf]
    | (a', b') :: m, ih =>
      simp only [Memory.wf, memWf, Bool.and_eq_true, decide_eq_true_eq, bne_iff_ne, ne_eq, List.pairwise_cons, List.mem_cons, forall_eq_or_imp] at ih ⊢
      rw [ih]
      constructor
      · rintro ⟨⟨h1, h2⟩, ⟨h3, h4⟩, h5⟩
        exact ⟨⟨⟨h1, fun z hz => Nat.lt_trans h1 (h3 z hz)⟩, h3, h4⟩, h2, h5⟩
      · rintro ⟨⟨⟨h1, _⟩, h3, h4⟩, h2, h5⟩
        exact ⟨⟨h1, h2⟩, ⟨h3, h4⟩, h5⟩

/-- The cells of bytes are in canonical form. -/
theorem cellsOf_rising (a : Nat) (bs : List Byte) : (cellsOf a bs).Pairwise (fun x y => x.1 < y.1) := by
  induction bs generalizing a with
  | nil => simp [cellsOf]
  | cons b bs ih =>
    simp only [cellsOf]
    split
    · exact ih (a + 1)
    · refine List.pairwise_cons.mpr ⟨fun e he => ?_, ih (a + 1)⟩
      have := (cellsOf_range (a + 1) bs e he).1
      show a < e.1
      omega

/-- A write keeps the canonical form. -/
theorem memWrite_wf (m : Memory) (a : Nat) (bs : List Byte) (h : Memory.wf m) : Memory.wf (memWrite m a bs) := by
  rw [memWf_iff] at h ⊢
  unfold memWrite
  have hlo : ∀ e ∈ m.filter (fun c => decide (c.1 < a)), e.1 < a := fun e he => by have := List.of_mem_filter he; simpa using this
  have hhi : ∀ e ∈ m.filter (fun c => decide (a + bs.length ≤ c.1)), a + bs.length ≤ e.1 := fun e he => by
    have := List.of_mem_filter he; simpa using this
  constructor
  · refine List.pairwise_append.mpr ⟨h.1.filter _, List.pairwise_append.mpr ⟨cellsOf_rising a bs, h.1.filter _, ?_⟩, ?_⟩
    · intro x hx y hy
      have := cellsOf_range a bs x hx; have := hhi y hy; omega
    · intro x hx y hy
      have := hlo x hx
      rcases List.mem_append.mp hy with hy | hy
      · have := cellsOf_range a bs y hy; omega
      · have := hhi y hy; omega
  · intro e he
    rcases List.mem_append.mp he with he | he
    · exact h.2 e (List.mem_of_mem_filter he)
    · rcases List.mem_append.mp he with he | he
      · exact (cellsOf_range a bs e he).2.2
      · exact h.2 e (List.mem_of_mem_filter he)

/-- Cells taken out leave the canonical form. -/
theorem memWf_filter (m : Memory) (p : Host.Cell → Bool) (h : Memory.wf m) : Memory.wf (m.filter p) := by
  rw [memWf_iff] at h ⊢
  exact ⟨h.1.filter p, fun e he => h.2 e (List.mem_of_mem_filter he)⟩

/-! ### Bytes and numbers -/

theorem leBytes_length (n v : Nat) : (leBytes n v).length = n := by
  induction n generalizing v with
  | zero => rfl
  | succ n ih => simp [leBytes, ih]

theorem leNat_leBytes (n v : Nat) : leNat (leBytes n v) = v % 2 ^ (8 * n) := by
  induction n generalizing v with
  | zero => simp [leBytes, leNat, Nat.mod_one]
  | succ n ih =>
    simp only [leBytes, leNat, ih, BitVec.toNat_ofNat]
    rw [show 8 * (n + 1) = 8 + 8 * n by omega, Nat.pow_add, Nat.mod_mul]

/-- The bytes read from a range of memory. -/
theorem memRead_getD (m : Memory) (a n i : Nat) (h : i < n) : (memRead m a n).getD i 0 = memGet m (a + i) := by
  simp only [memRead, List.getD_eq_getElem?_getD, List.getElem?_map, List.getElem?_range h, Option.map_some, Option.getD_some]
  exact tabGet_filter _ _ (fun k => decide (a ≤ k) && decide (k < a + n)) _ (by simp; omega)

theorem memRead_length (m : Memory) (a n : Nat) : (memRead m a n).length = n := by simp [memRead]

/-- Two reads agree where every byte does. -/
theorem memRead_congr (m m' : Memory) (a n : Nat) (h : ∀ i, i < n → memGet m (a + i) = memGet m' (a + i)) : memRead m a n = memRead m' a n := by
  apply List.ext_getElem
  · simp [memRead_length]
  · intro i h1 h2
    have hi : i < n := by simpa [memRead_length] using h1
    have e1 := memRead_getD m a n i hi
    have e2 := memRead_getD m' a n i hi
    rw [List.getD_eq_getElem _ _ h1] at e1
    rw [List.getD_eq_getElem _ _ h2] at e2
    rw [e1, e2, h i hi]

/-- A range reads as what was written over it. -/
theorem memRead_memWrite_self (m : Memory) (a : Nat) (bs : List Byte) : memRead (memWrite m a bs) a bs.length = bs := by
  apply List.ext_getElem
  · simp [memRead_length]
  · intro i h1 h2
    have e1 := memRead_getD (memWrite m a bs) a bs.length i h2
    rw [List.getD_eq_getElem _ _ h1, memGet_memWrite_in _ _ _ _ (by omega) (by omega)] at e1
    rw [e1, show a + i - a = i by omega, List.getD_eq_getElem _ _ h2]

/-- A range outside a write reads as before. -/
theorem memRead_memWrite_out (m : Memory) (a q n : Nat) (bs : List Byte) (h : q + n ≤ a ∨ a + bs.length ≤ q) :
    memRead (memWrite m a bs) q n = memRead m q n :=
  memRead_congr _ _ _ _ fun i hi => memGet_memWrite_out _ _ _ _ (by omega)

/-! ### Wakes and writes at a home: memory, F and the dies -/

@[simp] theorem dieOf_postWake (s : State) (d pa e : Nat) : dieOf (postWake s d pa) e = dieOf s e := rfl

/-- A wake changes W of its word and what is due, and nothing else of a die. -/
theorem dieOf_wakeWord (s : State) (d w e : Nat) :
    ∃ ws, dieOf (wakeWord s d w) e = { dieOf s e with waits := ws } := by
  unfold wakeWord
  split
  · by_cases h : d = e
    · refine ⟨tabDel (dieOf s d).waits w, ?_⟩
      rw [dieOf_postWake, dieOf_modDie]
      simp [h]
    · refine ⟨(dieOf s e).waits, ?_⟩
      rw [dieOf_postWake, dieOf_modDie]
      simp [h]
  · exact ⟨(dieOf s e).waits, rfl⟩

/-- A wake changes no core and no part of the module. -/
theorem wakeWord_rest (s : State) (d w : Nat) : (wakeWord s d w).cores = s.cores ∧ (wakeWord s d w).mod = s.mod := by
  unfold wakeWord
  split <;> exact ⟨rfl, rfl⟩

/-- Wakes of a range change W of their words and what is due, and nothing else. -/
theorem wakeRange_rest (s : State) (d pa n : Nat) :
    (∀ e, ∃ ws, dieOf (wakeRange s d pa n) e = { dieOf s e with waits := ws }) ∧ (wakeRange s d pa n).cores = s.cores ∧
      (wakeRange s d pa n).mod = s.mod := by
  unfold wakeRange
  generalize wordsTouched pa n = l
  induction l generalizing s with
  | nil => exact ⟨fun e => ⟨(dieOf s e).waits, rfl⟩, rfl, rfl⟩
  | cons w l ih =>
    obtain ⟨h1, h2, h3⟩ := ih (wakeWord s d w)
    have hr := wakeWord_rest s d w
    refine ⟨fun e => ?_, h2.trans hr.1, h3.trans hr.2⟩
    obtain ⟨ws, he⟩ := h1 e
    obtain ⟨ws', he'⟩ := dieOf_wakeWord s d w e
    exact ⟨ws, by rw [List.foldl_cons, he, he']⟩

/-- A write at a home: its die's memory is written; F of every word, every other die, every core and the module stay. -/
theorem physWrite_rest (s : State) (d pa : Nat) (bs : List Byte) :
    (dieOf (physWrite s d pa bs) d).mem = memWrite (dieOf s d).mem pa bs ∧
    (∀ e, (dieOf (physWrite s d pa bs) e).full = (dieOf s e).full) ∧
    (∀ e, d ≠ e → (dieOf (physWrite s d pa bs) e).mem = (dieOf s e).mem) ∧
    (physWrite s d pa bs).cores = s.cores ∧ (physWrite s d pa bs).mod = s.mod := by
  unfold physWrite
  simp only
  generalize hs : (modDie s d _) = s2
  obtain ⟨h1, h2, h3⟩ := wakeRange_rest s2 d pa bs.length
  refine ⟨?_, fun e => ?_, fun e he => ?_, h2.trans (by rw [← hs]; rfl), h3.trans (by rw [← hs]; rfl)⟩
  · obtain ⟨ws, h⟩ := h1 d
    rw [h, ← hs]; simp
  · obtain ⟨ws, h⟩ := h1 e
    rw [h, ← hs]
    by_cases hd : d = e <;> simp [hd]
  · obtain ⟨ws, h⟩ := h1 e
    rw [h, ← hs]; simp [he]

end Sys2Proof.Machine
end

