-- ==== Sys2Proof/Laws/Cache.lean ====
section
/-! SUPPORT. What the write-backs of first-level lines can change: the dies and what is due, never a core but for its list of lines. -/

namespace Sys2Proof.Machine

/-- `t` differs from `s` in its dies and in what is due alone. -/
structure DiesOnly (s t : State) : Prop where
  /-- cores -/
  cores : t.cores = s.cores
  /-- the module -/
  mod   : t.mod = s.mod
  /-- whose turn it is -/
  turn  : t.turn = s.turn
  /-- arrivals that wait -/
  mail  : t.mail = s.mail

theorem DiesOnly.refl (s : State) : DiesOnly s s := ⟨rfl, rfl, rfl, rfl⟩

theorem DiesOnly.trans {s t u : State} (h : DiesOnly s t) (g : DiesOnly t u) : DiesOnly s u :=
  ⟨g.cores.trans h.cores, g.mod.trans h.mod, g.turn.trans h.turn, g.mail.trans h.mail⟩

/-- A fold of steps that change dies alone. -/
theorem DiesOnly.foldl {α : Type} {f : State → α → State} (h : ∀ s a, DiesOnly s (f s a)) (l : List α) (s : State) :
    DiesOnly s (l.foldl f s) := by
  induction l generalizing s with
  | nil => exact .refl s
  | cons a l ih => exact (h s a).trans (ih _)

theorem modDie_only (s : State) (d : Nat) (f : Die → Die) : DiesOnly s (modDie s d f) := ⟨rfl, rfl, rfl, rfl⟩

theorem wakeWord_only (s : State) (d w : Nat) : DiesOnly s (wakeWord s d w) := by
  unfold wakeWord; split <;> exact ⟨rfl, rfl, rfl, rfl⟩

theorem physWrite_only (s : State) (d pa : Nat) (bs : List Byte) : DiesOnly s (physWrite s d pa bs) :=
  (modDie_only s d _).trans (DiesOnly.foldl (fun t w => wakeWord_only t d w) _ _)

theorem physCarry_only (s : State) (d pa : Nat) (bs : List Byte) (c : BitVec 16) : DiesOnly s (physCarry s d pa bs c) := by
  unfold physCarry; simp only
  split
  · exact (physWrite_only ..).trans (modDie_only ..)
  · exact physWrite_only ..

theorem translate_only (s : State) (d asid va : Nat) : DiesOnly s (translate s d asid va).1 := by
  unfold translate
  split
  · exact .refl s
  · split
    · exact .refl s
    · simp only
      generalize hs : (if List.isEmpty _ = true then s else modDie s d _) = t
      have h1 : DiesOnly s t := by
        rw [← hs]; split
        · exact .refl s
        · exact modDie_only ..
      split
      · exact h1
      · refine h1.trans ?_
        split
        · exact ⟨rfl, rfl, rfl, rfl⟩
        · rename_i l _ _ _
          have h := physWrite_only t d l.ptePa (leBytes 8 (l.pte ||| 0x20).toNat)
          exact ⟨h.cores, h.mod, h.turn, h.mail⟩

theorem markDirty_only (s : State) (d asid va : Nat) (l : Leaf) : DiesOnly s (markDirty s d asid va l) := by
  unfold markDirty
  split
  · exact .refl s
  · exact (physWrite_only ..).trans (modDie_only ..)

theorem landLine_only (s : State) (d pa : Nat) (l : Line) : DiesOnly s (landLine s d pa l) := by
  unfold landLine
  split
  · exact physCarry_only ..
  · exact DiesOnly.foldl (fun t r => physWrite_only ..) _ _

theorem placeOf_only (s : State) (d asid va : Nat) (b : Bool) : DiesOnly s (placeOf s d asid va b).1 := by
  unfold placeOf
  have h := translate_only s d asid va
  revert h
  generalize translate s d asid va = p
  obtain ⟨s1, r⟩ := p
  intro h
  cases r with
  | error f => exact h
  | ok l =>
    dsimp only
    split
    · exact h
    · have g := translate_only s1 d asid (frameVa s1 d asid va b)
      revert g
      generalize translate s1 d asid (frameVa s1 d asid va b) = q
      obtain ⟨s2, r2⟩ := q
      intro g
      cases r2 <;> exact h.trans g

/-- A write-back changes dies alone. -/
theorem writeBack_only (s : State) (l : Line) : DiesOnly s (writeBack s l) := by
  unfold writeBack
  split
  · exact .refl s
  · simp only
    split
    · exact .refl s
    · rename_i d _
      have ht := placeOf_only s d l.asid (64 * l.line) false
      split
      · split
        · exact ht.trans (modDie_only ..)
        · split
          · exact ht
          · exact ht.trans ((markDirty_only ..).trans (landLine_only ..))
      · exact ht.trans (modDie_only ..)
      · exact ht

/-- Lines that leave a first-level cache leave the cores as they were, but for one core's list of lines. -/
theorem l1Evict_rest (s : State) (c : Nat) (p : Line → Bool) :
    DiesOnly (modCore s (l1Core s c) fun k => { k with l1 := k.l1.filter fun l => !p l }) (l1Evict s c p) := by
  unfold l1Evict
  simp only [List.partition_eq_filter_filter]
  exact DiesOnly.foldl writeBack_only _ _

/-- What a bundle that acquires at a queue's head leaves: each core as it was but for its first-level lines, the module, the mail. -/
theorem acquireHeads_rest (s : State) (c : Nat) (b : Issue) :
    (∀ e, { coreOf (acquireHeads s c b) e with l1 := (coreOf s e).l1 } = coreOf s e) ∧ (acquireHeads s c b).mod = s.mod ∧
      (acquireHeads s c b).mail = s.mail ∧ (acquireHeads s c b).turn = s.turn := by
  unfold acquireHeads dropAllClean
  split
  · have h := l1Evict_rest s c fun _ => true
    refine ⟨fun e => ?_, h.mod, h.mail, h.turn⟩
    have hc : coreOf (l1Evict s c fun _ => true) e = coreOf (modCore s (l1Core s c) fun k => { k with l1 := k.l1.filter fun l => !true }) e := by
      unfold coreOf; rw [h.cores]
    rw [hc, coreOf_modCore]
    split
    · rename_i he; subst he; rfl
    · rfl
  · exact ⟨fun _ => rfl, rfl, rfl, rfl⟩

/-- A bundle that reads no queue that an acquire stands behind acquires nothing. -/
theorem acquireHeads_none (s : State) (c : Nat) (b : Issue) (h4 : b.heads.contains 4 = false) (h6 : b.heads.contains 6 = false) :
    acquireHeads s c b = s := by
  unfold acquireHeads; simp only [h4, h6]; rfl

end Sys2Proof.Machine
end

