-- ==== Sys2Proof/Laws/Issue.lean ====
section
/-! SUPPORT. The issue of one instruction alone in its bundle, said once: on a ready core its effect is all that happens, with the
bundle's bookkeeping. -/

namespace Sys2Proof.Machine

/-! ### What an acquire at a queue's head leaves alone -/

/-- The core of an acquiring bundle is as it was but for its first-level lines. -/
theorem acquired_core (s : State) (x : Nat) (i : Instr) (e : Nat) : ∃ l, coreOf (acquired s x i) e = { coreOf s e with l1 := l } :=
  ⟨(coreOf (acquired s x i) e).l1,
    congrArg (fun k => { k with l1 := (coreOf (acquired s x i) e).l1 }) ((acquireHeads_rest s s.turn (soloAt s x i)).1 e)⟩

/-- The state of a slot has the cores of the acquired state. -/
@[simp] theorem coreOf_slotState (s : State) (x : Nat) (i : Instr) (e : Nat) : coreOf (slotState s x i) e = coreOf (acquired s x i) e := rfl

/-- Contexts are as they were. -/
@[simp] theorem ctxOf_acquired (s : State) (x : Nat) (i : Instr) (e y : Nat) : ctxOf (acquired s x i) e y = ctxOf s e y := by
  obtain ⟨l, h⟩ := acquired_core s x i e
  unfold ctxOf; rw [h]; rfl

@[simp] theorem ctxOf_slotState (s : State) (x : Nat) (i : Instr) (e y : Nat) : ctxOf (slotState s x i) e y = ctxOf s e y :=
  ctxOf_acquired s x i e y

/-- The module is as it was. -/
theorem acquired_mod (s : State) (x : Nat) (i : Instr) : (acquired s x i).mod = s.mod := (acquireHeads_rest s s.turn (soloAt s x i)).2.1

/-- A slot has asked nothing when its effect begins. -/
@[simp] theorem want_slotState (s : State) (x : Nat) (i : Instr) : (slotState s x i).mod.want = .nothing := rfl

/-- Operands are as they were. -/
@[simp] theorem srcVal_acquired (s : State) (x : Nat) (i : Instr) (a : SCode) : srcVal (coreOf (acquired s x i) s.turn) x a = operand s x a := by
  obtain ⟨l, h⟩ := acquired_core s x i s.turn
  rw [h]; rfl

/-- Targets are as they were. -/
@[simp] theorem targetOk_acquired (s : State) (x : Nat) (i : Instr) (b : Bool) (y : Word) :
    targetOk (coreOf (acquired s x i) s.turn) x b y = targetOk (coreOf s s.turn) x b y := by
  obtain ⟨l, h⟩ := acquired_core s x i s.turn
  rw [h]; rfl

/-- A tile is as it was. -/
@[simp] theorem vReg_acquired (s : State) (x : Nat) (i : Instr) (n : Nat) :
    vReg (coreOf (acquired s x i) s.turn) n = vReg (coreOf s s.turn) n := by
  obtain ⟨l, h⟩ := acquired_core s x i s.turn
  rw [h]; rfl

/-! ### Issue -/

/-- A context that has asked nothing waits for nothing, on a calm core. -/
theorem Calm.settled {s : State} {x : Nat} (hc : Calm (coreOf s s.turn) x)
    (ha : (s.mod.exchanges.any fun e => e.ofBundle s.turn x) = false) : unsettled s s.turn x = false ∧ awaiting s s.turn x = false := by
  have he : ∀ e ∈ s.mod.exchanges, e.ofBundle s.turn x = false := by simpa using ha
  have ho : asksOutside s s.turn x = false := by
    unfold asksOutside
    simp only [List.any_eq_false, Bool.and_eq_true, not_and, Bool.not_eq_true]
    intro e hm h
    rw [he e hm] at h; cases h
  have h1 : awaiting s s.turn x = false := by
    simp [awaiting, awaitingBut, awaitsOutside, hc.awaits, hc.coop, hc.pend, ho]
  exact ⟨by simp [unsettled, h1, engsWait, hc.engines], h1⟩

/-- A calm core admits the bundle unchanged, where its queues can be read and pushed and its context has asked nothing. -/
theorem Calm.admits {s : State} {x : Nat} {i : Instr} (hc : Calm (coreOf s s.turn) x)
    (hq : emptyQueue (coreOf s s.turn) x (soloAt s x i) = false) (hp : pushFull s s.turn x (soloAt s x i) = false)
    (ha : (s.mod.exchanges.any fun e => e.ofBundle s.turn x) = false) :
    admitted s s.turn x (soloAt s x i) = .ok s := by
  have hu := hc.settled ha
  obtain ⟨_, ha, hg, _, _, _, hr, hpe, haw, hen, hco, ⟨sh, hs, hid, hcnt⟩, _, _⟩ := hc
  have hk : (ctxOf s s.turn x).killed = false := ha
  have hcp : needCheckpoint (coreOf s s.turn) s.turn x (soloAt s x i) = false := by
    simp [needCheckpoint, justChecked, hs, hid, hcnt, hpe, haw]
  have hgo : (soloAt s x i).guardOn (coreCtx (coreOf s s.turn) x) = true := by
    simp [Issue.guardOn, soloAt, soloIssue, soloHeader, pReg]
  have hgt : groupTrap s.freeCtr (coreCtx (coreOf s s.turn) x) (soloAt s x i) = none := by
    have : sameWrites ((soloAt s x i).works.map (SlotWork.regs regsWritten)) = false := by
      simp only [soloAt, soloIssue, List.map_cons, List.map_nil]
      simp [sameWrites]
    simp [groupTrap, groupCauses, hg, this]
  simp [admitted, hk, admitLive, rerunTrap, hr, hgt, haw, hgo, rehearsing, hu.1, hcp, hq, hp]

/-- A ready core admits the bundle unchanged. -/
theorem Ready.admits {s : State} {x : Nat} {i : Instr} (h : Ready s x i) : admitted s s.turn x (soloAt s x i) = .ok s :=
  h.calm.admits h.heads h.room h.asks

/-- The outcome of the only slot, on a ready core: that of its effect, asked as its slot. -/
theorem Ready.slotRes {s : State} {x : Nat} {i : Instr} (h : Ready s x i) :
    Sys2Proof.Machine.slotRes (acquired s x i) s.turn x (soloAt s x i) none (soloWork i) =
      askingSlot (acquired s x i) s.turn x (i.homeSlot.getD .c).num (slotEffect i (soloEnv s x i)) := by
  obtain ⟨hc, hwf, _, hpr, _, _, how, _⟩ := h
  obtain ⟨hrun, _, _, hsp, hke, hre, hrr, _, _, _, _, _, hdr, hv⟩ := hc
  obtain ⟨l, hl⟩ := acquired_core s x i s.turn
  have hcx : coreCtx (coreOf (acquired s x i) s.turn) x = coreCtx (coreOf s s.turn) x := by rw [hl]; rfl
  have hpt : preTrap (coreOf (acquired s x i) s.turn) (coreCtx (coreOf s s.turn) x) (soloWork i).slot.num i = none := by
    unfold preTrap
    have h1 : (needsPriv i && !(coreCtx (coreOf s s.turn) x).priv) = false := by
      cases hn : needsPriv i
      · rfl
      · simp [show (coreCtx (coreOf s s.turn) x).priv = true from hpr hn]
    rw [hl]
    simp [h1, hdr, Nat.not_lt.mpr hv.1, Nat.not_lt.mpr hv.2]
  have hot : ownerTrap (coreOf (acquired s x i) s.turn) s.turn x i = none := by
    rw [hl, ← how]; rfl
  have hi : (soloWork i).ins = .ok i := by simp [soloWork, hwf]
  have hsd : sideOp (acquired s x i) s.turn x i = false := by
    unfold sideOp
    simp only [hcx, hsp, Option.isSome_none, Bool.false_and]
  unfold Sys2Proof.Machine.slotRes
  simp only [hi, hcx, hpt, recorded, hke, hsd, hot, withOwner, Bool.false_eq_true, if_false]
  rfl

/-- A ready core runs the effect of its instruction, and the bundle's bookkeeping follows. -/
theorem Ready.issues {s : State} {x : Nat} {i : Instr} {s' : State} {lands : List (Nat × Land)} {arrs : List Arrival} {ctl : Ctl}
    (h : Ready s x i) (he : slotEffect i (soloEnv s x i) (slotState s x i) = .ok s' lands arrs ctl) (hn : s'.mod.want = .nothing) :
    issueOne i (slotEffect i) s = .next (issued s x i s' lands arrs ctl) := by
  have had := h.admits
  have hrec : replayRec (coreOf s s.turn) x (soloAt s x i) = none := by
    simp [replayRec, replays, h.calm.rerun, h.calm.replay.1]
  have hres : Sys2Proof.Machine.slotRes (acquired s x i) s.turn x (soloAt s x i) none (soloWork i) =
      .ok (slotLeft (acquired s x i) s') lands arrs ctl := by
    rw [h.slotRes]
    unfold askingSlot
    dsimp only
    rw [show beginAsking (acquired s x i) (.bundle s.turn x (i.homeSlot.getD .c).num) = slotState s x i from rfl, he]
    simp only [hn, if_true]
    rfl
  simp only [issueOne, h.calm.runs]
  rw [show soloIssue (coreOf s s.turn) x i (slotEffect i) = soloAt s x i from rfl]
  simp only [runBundle, had, execute, hrec, primed, show (soloAt s x i).works = [soloWork i] from rfl,
    show acquireHeads s s.turn (soloAt s x i) = acquired s x i from rfl, runSlots, hres]
  simp [firstTrap, firstHold, holdsOf, firstLate, issued]

/-- The trap that an instruction's effect is, on a ready core. -/
theorem Ready.traps {s : State} {x : Nat} {i : Instr} {cause : Nat} {info : Word}
    (h : Ready s x i) (he : slotEffect i (soloEnv s x i) (slotState s x i) = .trap cause info) :
    issueOne i (slotEffect i) s =
      .next (issueTrap s s.turn x { cause := cause, slot := (i.homeSlot.getD .c).num, info := info }) := by
  have had := h.admits
  have hrec : replayRec (coreOf s s.turn) x (soloAt s x i) = none := by
    simp [replayRec, replays, h.calm.rerun, h.calm.replay.1]
  have hres : Sys2Proof.Machine.slotRes (acquired s x i) s.turn x (soloAt s x i) none (soloWork i) = .trap cause info := by
    rw [h.slotRes]
    unfold askingSlot
    dsimp only
    rw [show beginAsking (acquired s x i) (.bundle s.turn x (i.homeSlot.getD .c).num) = slotState s x i from rfl, he]
  simp only [issueOne, h.calm.runs]
  rw [show soloIssue (coreOf s s.turn) x i (slotEffect i) = soloAt s x i from rfl]
  simp only [runBundle, had, execute, hrec, primed, show (soloAt s x i).works = [soloWork i] from rfl,
    show acquireHeads s s.turn (soloAt s x i) = acquired s x i from rfl, runSlots, hres]
  simp [firstTrap]
  rfl

/-! ### What an effect reads at the issue of one instruction -/

@[simp] theorem soloEnv_core (s : State) (x : Nat) (i : Instr) : (soloEnv s x i).core = s.turn := rfl
@[simp] theorem soloEnv_ctx (s : State) (x : Nat) (i : Instr) : (soloEnv s x i).ctx = x := rfl
@[simp] theorem soloEnv_pc (s : State) (x : Nat) (i : Instr) : (soloEnv s x i).pc = (ctxOf s s.turn x).pc.toNat := rfl
@[simp] theorem soloEnv_next (s : State) (x : Nat) (i : Instr) : (soloEnv s x i).next = nextPc s x := rfl
@[simp] theorem soloEnv_src (s : State) (x : Nat) (i : Instr) (a : SCode) : (soloEnv s x i).src (slotState s x i) a = operand s x a :=
  srcVal_acquired s x i a
@[simp] theorem soloEnv_t (s : State) (x : Nat) (i : Instr) : (soloEnv s x i).t (slotState s x i) = ctxOf s s.turn x :=
  ctxOf_slotState ..
@[simp] theorem soloEnv_areg (s : State) (x : Nat) (i : Instr) (n : AReg) : (soloEnv s x i).areg (slotState s x i) n = addrOf s x n := by
  simp [Env.areg, addrOf]
@[simp] theorem soloEnv_preg (s : State) (x : Nat) (i : Instr) (n : PReg) : (soloEnv s x i).preg (slotState s x i) n = predOf s x n := by
  simp [Env.preg, predOf]

/-! ### From an instruction's effect to what a statement says of it -/

/-- What a slot instruction's step is: the issue of its effect alone. -/
abbrev Issues (i : Instr) : Prop := ∀ s, exec i s = issueOne i (slotEffect i) s

theorem Yields.of {s s' : State} {x : Nat} {i : Instr} {l : List (Nat × Land)} {a : List Arrival} {c : Ctl} (hx : Issues i)
    (h : slotEffect i (soloEnv s x i) (slotState s x i) = .ok s' l a c) : Yields s x i s' l a c := fun r hn => by
  rw [hx]; exact r.issues h hn

theorem TakesTrap.of {s : State} {x : Nat} {i : Instr} {c : Nat} {w : Word} (hx : Issues i)
    (h : slotEffect i (soloEnv s x i) (slotState s x i) = .trap c w) : TakesTrap s x i c w := fun r => by rw [hx]; exact r.traps h

theorem Results.of {s : State} {x : Nat} {i : Instr} {lat : Nat} {ls : List Land} (hx : Issues i)
    (h : slotEffect i (soloEnv s x i) (slotState s x i) = done (slotState s x i) lat ls) : Results s x i lat ls := Yields.of hx h

theorem Writes.of {s : State} {x : Nat} {i : Instr} {lat : Nat} {d : SCode} {v : Word} (hx : Issues i)
    (h : slotEffect i (soloEnv s x i) (slotState s x i) = result (slotState s x i) lat d v 0) : Writes s x i lat d v := by
  apply Results.of hx
  rw [h]
  simp [result, flagLand]

theorem Transfers.of {s : State} {x : Nat} {i : Instr} {y : Word} {ls : List Land} (hx : Issues i)
    (h : slotEffect i (soloEnv s x i) (slotState s x i) = transfer (soloEnv s x i) (slotState s x i) y ls) : Transfers s x i y ls := fun ht => by
  apply Yields.of hx
  rw [h]
  unfold transfer
  refine if_pos ?_
  simpa using ht

/-- A vector instruction whose effect is that of `vEach`. -/
theorem VecEach.of {s : State} {x : Nat} {i : Instr} {vd : VReg} {mk : MReg} {rd : Nat → Bool} {f : Env → State → Nat → Nat → Res1 Nat}
    {g : Nat → Res1 Nat} {b : Bool} (hx : Issues i)
    (he : slotEffect i (soloEnv s x i) (slotState s x i) = vEach i vd mk rd f (soloEnv s x i) (slotState s x i))
    (hb : b = rd (fmtVT (ctxOf s s.turn x)))
    (hg : ∀ j, f (soloEnv s x i) (slotState s x i) (fmtVT (ctxOf s s.turn x)) j = g j) :
    VecEach s x i vd mk b g := by
  intro h1 h2
  apply Yields.of hx
  rw [he]
  unfold vEach vChecked
  simp only [soloEnv_t]
  refine (if_neg ?_).trans ((if_neg ?_).trans ?_)
  · rw [h1]; simp
  · rw [h2]; simp
  · subst hb
    simp only [vLandElems, soloEnv_t, soloEnv_core, soloEnv_ctx, hg]
    rfl

end Sys2Proof.Machine
end

