-- ==== Sys2Proof/Laws/Advance.lean ====
section
/-! SUPPORT. The bookkeeping of an instruction alone in its bundle: what becomes of its core, and when its results land. -/

namespace Sys2Proof.Machine

/-! ### The core before the sequencer goes on -/

/-- A core after a bundle's bookkeeping: what may have changed. -/
structure Booked (k u : Core) (lands : List (Nat × Land)) (x : Nat) : Prop where
  /-- results are on their way -/
  pend : u.pend = (lands.foldl (fun k z => addLands k x z.1 [z.2]) k).pend
  /-- the interval's record goes on from the same checkpoint -/
  shadow : u.shadow.map (fun h => (h.id, h.count)) = k.shadow.map (fun h => (h.id, h.count))
  /-- nothing else but owner entries, occupied units and what is awaited -/
  rest : { u with pend := k.pend, shadow := k.shadow, vtag := k.vtag, atag := k.atag, v0Free := k.v0Free, v1Free := k.v1Free,
                  mxwFree := k.mxwFree, mxcvFree := k.mxcvFree, streamFree := k.streamFree, activeFree := k.activeFree,
                  arrivals := k.arrivals } = k

/-- What the recorded bundle leaves of the core. -/
theorem recordBundle_none (k : Core) (x : Nat) (b : Issue) (rs : List SlotOut) :
    (∃ sh, recordBundle k x b none rs = { k with shadow := sh }) ∧
    (recordBundle k x b none rs).shadow.map (fun h => (h.id, h.count)) = k.shadow.map (fun h => (h.id, h.count)) := by
  unfold recordBundle keepRec
  simp only
  split
  · refine ⟨⟨_, rfl⟩, ?_⟩
    cases k.shadow <;> rfl
  · exact ⟨⟨k.shadow, rfl⟩, rfl⟩

/-- What occupied units leave of the core. -/
theorem holdUnits_one (k : Core) (c x : Nat) (b : Issue) (w : SlotWork) (h : b.works = [w]) :
    ∃ a0 a1 m1 m2 m3 m4, holdUnits k c x b =
      { k with v0Free := a0, v1Free := a1, mxwFree := m1, mxcvFree := m2, streamFree := m3, activeFree := m4 } := by
  unfold holdUnits
  rw [h]
  simp only [List.foldl_cons, List.foldl_nil]
  split
  · rename_i i _
    have h1 : ∃ a0 a1, holdSlot k x w.slot.num i = { k with v0Free := a0, v1Free := a1 } := by
      unfold holdSlot
      split
      · exact ⟨_, k.v1Free, rfl⟩
      · split
        · exact ⟨k.v0Free, _, rfl⟩
        · exact ⟨k.v0Free, k.v1Free, rfl⟩
    obtain ⟨a0, a1, h1⟩ := h1
    rw [h1]
    generalize hk : ({ k with v0Free := a0, v1Free := a1 } : Core) = k1
    have h2 : ∃ m1 m2 m3 m4, holdPath k1 c x i = { k1 with mxwFree := m1, mxcvFree := m2, streamFree := m3, activeFree := m4 } := by
      unfold holdPath
      simp only
      split
      · exact ⟨_, k1.mxcvFree, k1.streamFree, k1.activeFree, rfl⟩
      · exact ⟨_, k1.mxcvFree, k1.streamFree, k1.activeFree, rfl⟩
      · exact ⟨k1.mxwFree, _, k1.streamFree, k1.activeFree, rfl⟩
      · split
        · exact ⟨k1.mxwFree, k1.mxcvFree, k1.streamFree, k1.activeFree, rfl⟩
        · exact ⟨k1.mxwFree, k1.mxcvFree, _, _, rfl⟩
      · split
        · exact ⟨k1.mxwFree, k1.mxcvFree, k1.streamFree, k1.activeFree, rfl⟩
        · exact ⟨k1.mxwFree, k1.mxcvFree, _, _, rfl⟩
      · exact ⟨k1.mxwFree, k1.mxcvFree, _, k1.activeFree, rfl⟩
      · exact ⟨k1.mxwFree, k1.mxcvFree, _, k1.activeFree, rfl⟩
      · exact ⟨k1.mxwFree, k1.mxcvFree, _, k1.activeFree, rfl⟩
      · exact ⟨k1.mxwFree, k1.mxcvFree, k1.streamFree, k1.activeFree, rfl⟩
    obtain ⟨m1, m2, m3, m4, h2⟩ := h2
    rw [h2, ← hk]
    exact ⟨a0, a1, m1, m2, m3, m4, rfl⟩
  · exact ⟨k.v0Free, k.v1Free, k.mxwFree, k.mxcvFree, k.streamFree, k.activeFree, rfl⟩

/-- What claimed units leave of the core. -/
theorem claimUnits_rest (k : Core) (c x : Nat) (b : Issue) :
    (∃ vt at_ sh, claimUnits k c x b = { k with vtag := vt, atag := at_, shadow := sh }) ∧
    (claimUnits k c x b).shadow.map (fun h => (h.id, h.count)) = k.shadow.map (fun h => (h.id, h.count)) := by
  unfold claimUnits
  simp only
  split
  · exact ⟨⟨k.vtag, k.atag, k.shadow, rfl⟩, rfl⟩
  · refine ⟨⟨_, _, _, rfl⟩, ?_⟩
    cases k.shadow <;> rfl

/-- Results that enter the list of those in flight change nothing else. -/
theorem foldl_addLands (k : Core) (x : Nat) (l : List (Nat × Land)) :
    ∃ p, l.foldl (fun k z => addLands k x z.1 [z.2]) k = { k with pend := p } := by
  induction l generalizing k with
  | nil => exact ⟨k.pend, rfl⟩
  | cons z l ih =>
    obtain ⟨p, h⟩ := ih (addLands k x z.1 [z.2])
    refine ⟨p, ?_⟩
    rw [List.foldl_cons, h]
    rfl

/-- The list of results in flight depends on that list and the issue cycle alone. -/
theorem foldl_addLands_congr (k u : Core) (x : Nat) (l : List (Nat × Land)) (hp : k.pend = u.pend) (hi : k.ic = u.ic) :
    (l.foldl (fun k z => addLands k x z.1 [z.2]) k).pend = (l.foldl (fun k z => addLands k x z.1 [z.2]) u).pend := by
  induction l generalizing k u with
  | nil => exact hp
  | cons z l ih =>
    simp only [List.foldl_cons]
    apply ih
    · simp [addLands, hp, hi]
    · simpa [addLands] using hi

/-- The solo bundle pops nothing. -/
theorem soloAt_pops (s : State) (x : Nat) (i : Instr) : (soloAt s x i).pops = [] := by
  have : ∀ n : Nat, (0 : BitVec 8).getLsbD n = false := fun n => BitVec.getLsbD_zero
  simp [Issue.pops, soloAt, soloIssue, soloHeader]

/-- The bookkeeping of an instruction alone in its bundle. -/
theorem booked (s : State) (k : Core) (x : Nat) (i : Instr) (s' a : State) (lands : List (Nat × Land)) (arrs : List Arrival) (ctl : Ctl)
    (hr : k.rerun = none) (ht : (coreCtx k x).replayTo = 0) :
    Booked k (popQueues (sendOuts a s.turn (claimUnits (holdUnits (recordBundle k x (soloAt s x i) none [(soloWork i, .ok s' lands arrs ctl)])
      s.turn x (soloAt s x i)) s.turn x (soloAt s x i)) x [(soloWork i, .ok s' lands arrs ctl)]) x (soloAt s x i) none) lands x := by
  obtain ⟨⟨sh1, h1⟩, g1⟩ := recordBundle_none k x (soloAt s x i) [(soloWork i, .ok s' lands arrs ctl)]
  generalize hk1 : recordBundle k x (soloAt s x i) none [(soloWork i, .ok s' lands arrs ctl)] = k1 at *
  obtain ⟨a0, a1, m1, m2, m3, m4, h2⟩ := holdUnits_one k1 s.turn x (soloAt s x i) (soloWork i) rfl
  generalize hk2 : holdUnits k1 s.turn x (soloAt s x i) = k2 at *
  obtain ⟨⟨vt, at_, sh3, h3⟩, g3⟩ := claimUnits_rest k2 s.turn x (soloAt s x i)
  generalize hk3 : claimUnits k2 s.turn x (soloAt s x i) = k3 at *
  have g2 : k2.shadow = k1.shadow := by rw [h2]
  have hold : runBefore k3 x = false := by
    have e1 : k3.rerun = none := by rw [h3, h2, h1]; exact hr
    have e2 : (coreCtx k3 x).replayTo = 0 := by rw [h3, h2, h1]; exact ht
    unfold runBefore
    split
    · simp [e1, e2]
    · rfl
  have hp : popQueues (sendOuts a s.turn k3 x [(soloWork i, .ok s' lands arrs ctl)]) x (soloAt s x i) none =
      sendOuts a s.turn k3 x [(soloWork i, .ok s' lands arrs ctl)] := by
    unfold popQueues
    simp [soloAt_pops]
  rw [hp]
  have hs : ∃ ar, sendOuts a s.turn k3 x [(soloWork i, .ok s' lands arrs ctl)] =
      { lands.foldl (fun k z => addLands k x z.1 [z.2]) k3 with arrivals := ar } := by
    unfold sendOuts
    simp only [List.foldl_cons, List.foldl_nil, hold, Bool.false_eq_true, if_false]
    exact ⟨_, rfl⟩
  obtain ⟨ar, hs⟩ := hs
  obtain ⟨p, hf⟩ := foldl_addLands k3 x lands
  have e3 : k3.pend = k.pend := by rw [h3, h2, h1]
  have e4 : k3.ic = k.ic := by rw [h3, h2, h1]
  refine ⟨?_, ?_, ?_⟩
  · rw [hs]; exact foldl_addLands_congr k3 k x lands e3 e4
  · rw [hs, hf]
    show k3.shadow.map _ = _
    rw [g3, g2, g1]
  · rw [hs, hf, h3, h2, h1]

/-! ### The sequencer goes on -/

/-- Where a sequencer's part goes, and whether it ends the group. -/
def Ctl.goes : Ctl → Option Nat × Bool
  | .jump y => (some y, false)
  | .loop => (none, true)
  | _ => (none, false)

/-- The state a bundle's bookkeeping starts from: what the effect left, once the lines it read uncached are dropped and the pages it may
write are noted for an abort. -/
def behind (s : State) (x : Nat) (i : Instr) (s' : State) : State :=
  let q := acquired s x i
  noteUndo (dropBundle (slotLeft q s') s.turn x) s.turn x (coreOf q s.turn) (pagesWritten (coreOf q s.turn) s.turn x (soloAt s x i))

/-- What an issued instruction leaves, with its bookkeeping said by `Booked`: `a` is what its effect left, `behind` it. -/
theorem issued_goes (s s' a : State) (x : Nat) (i : Instr) (lands : List (Nat × Land)) (arrs : List Arrival) (ctl : Ctl)
    (hg : ctl = .next ∨ ctl = .loop ∨ ∃ y, ctl = .jump y) (ha : a = behind s x i s')
    (hr : (coreOf a s.turn).rerun = none) (ht : (coreCtx (coreOf a s.turn) x).replayTo = 0) :
    ∃ u, Booked (coreOf a s.turn) u lands x ∧
      issued s x i s' lands arrs ctl =
        noteTimes (noteLanding (dueEngs (landDue (setCore a s.turn (advanceCore u x (soloAt s x i) ctl.goes.1 ctl.goes.2)) s.turn) s.turn)
          s.turn x) s.turn := by
  refine ⟨_, booked s (coreOf a s.turn) x i (slotLeft (acquired s x i) s') a lands arrs ctl hr ht, ?_⟩
  have hl : lastState (acquired s x i) [(soloWork i, .ok (slotLeft (acquired s x i) s') lands arrs ctl)] = slotLeft (acquired s x i) s' := rfl
  unfold issued commit
  rw [hl, show noteUndo (dropBundle (slotLeft (acquired s x i) s') s.turn x) s.turn x (coreOf (acquired s x i) s.turn)
    (pagesWritten (coreOf (acquired s x i) s.turn) s.turn x (soloAt s x i)) = a from ha.symm]
  obtain rfl | rfl | ⟨y, rfl⟩ := hg
  all_goals
    simp only [ctlOf, List.findSome?_cons, List.findSome?_nil, Option.getD_none, Option.getD_some, follow, Ctl.goes, advance, modCore,
      coreOf_setCore, if_pos, setCore_setCore]

/-- No command of the engines is due: none completes. -/
theorem dueEngs_none (s : State) (c : Nat) (h : (coreOf s c).engs = []) : dueEngs s c = s := by
  simp [dueEngs, h]

/-- Nothing is due: nothing lands. -/
theorem landDue_none (s : State) (c : Nat) (h : ∀ p ∈ (coreOf s c).pend, (coreOf s c).ic < p.due) : landDue s c = s := by
  have : (coreOf s c).pend.takeWhile (fun p => decide (p.due ≤ (coreOf s c).ic)) = [] := by
    cases hp : (coreOf s c).pend with
    | nil => rfl
    | cons p l =>
      have := h p (by rw [hp]; simp)
      simp; omega
  simp [landDue, this]

@[simp] theorem noteTimes_mod (s : State) (c : Nat) : (noteTimes s c).mod = s.mod := rfl
@[simp] theorem noteTimes_dies (s : State) (c : Nat) : (noteTimes s c).dies = s.dies := rfl
@[simp] theorem noteTimes_cores (s : State) (c : Nat) : (noteTimes s c).cores = s.cores := rfl
@[simp] theorem noteTimes_mail (s : State) (c : Nat) : (noteTimes s c).mail = s.mail := rfl
@[simp] theorem noteTimes_turn (s : State) (c : Nat) : (noteTimes s c).turn = s.turn := rfl
@[simp] theorem coreOf_noteTimes (s : State) (c e : Nat) : coreOf (noteTimes s c) e = coreOf s e := rfl
@[simp] theorem ctxOf_noteTimes (s : State) (c e y : Nat) : ctxOf (noteTimes s c) e y = ctxOf s e y := rfl

/-- A loop's end moves the loop stack alone. -/
theorem endIteration_rest (k : Core) (pc n : Nat) (t : Ctx) :
    ∃ lc lb, (endIteration k pc n t).1 = { t with lsCnt := lc, lsBody := lb } := by
  induction n generalizing t with
  | zero => exact ⟨t.lsCnt, t.lsBody, rfl⟩
  | succ n ih =>
    unfold endIteration
    split
    · exact ⟨t.lsCnt, t.lsBody, rfl⟩
    · split
      · exact ⟨t.lsCnt, t.lsBody, rfl⟩
      · simp only
        split
        · exact ⟨_, t.lsBody, rfl⟩
        · obtain ⟨lc, lb, h⟩ := ih _
          rw [h]; exact ⟨lc, lb, rfl⟩

/-- What the sequencer leaves of the context. -/
theorem advanceCtx_rest (k : Core) (b : Issue) (j : Option Nat) (e : Bool) (t : Ctx) :
    { advanceCtx k b j e t with lsCnt := t.lsCnt, lsBody := t.lsBody, pc := t.pc, grp := t.grp, atLand := t.atLand, held := t.held,
                                kept := t.kept } = t := by
  unfold advanceCtx
  cases j with
  | some y => rfl
  | none =>
    obtain ⟨lc, lb, h⟩ := endIteration_rest k b.pc 6 t
    cases b.isLoop && b.guardOn t
    · simp only [h, Bool.false_eq_true, if_false]
    · rfl

/-- Out of loops the sequencer goes to the next bundle. -/
theorem advanceCtx_next (k : Core) (b : Issue) (e : Bool) (t : Ctx) (h : innermost t = none) :
    (advanceCtx k b none e t).pc = BitVec.ofNat 18 b.next ∧ (advanceCtx k b none e t).lsCnt = t.lsCnt ∧
      (advanceCtx k b none e t).lsBody = t.lsBody := by
  have : endIteration k b.pc 6 t = (t, none, false) := by unfold endIteration; rw [h]
  unfold advanceCtx
  simp [this]

/-- A transfer goes to its target and leaves the loop stack. -/
theorem advanceCtx_jump (k : Core) (b : Issue) (e : Bool) (t : Ctx) (y : Nat) :
    (advanceCtx k b (some y) e t).pc = BitVec.ofNat 18 y ∧ (advanceCtx k b (some y) e t).grp = [] ∧
      (advanceCtx k b (some y) e t).lsCnt = t.lsCnt ∧ (advanceCtx k b (some y) e t).lsBody = t.lsBody := by
  unfold advanceCtx
  simp

/-- The contexts of a core behind a bundle. -/
@[simp] theorem coreCtx_advanceCore (k : Core) (x y : Nat) (b : Issue) (j : Option Nat) (e : Bool) :
    coreCtx (advanceCore k x b j e) y = if x = y then advanceCtx k b j e (coreCtx k x) else coreCtx k y :=
  coreCtx_setCoreCtx k x y _

@[simp] theorem advanceCore_pend (k : Core) (x : Nat) (b : Issue) (j : Option Nat) (e : Bool) : (advanceCore k x b j e).pend = k.pend := rfl
@[simp] theorem advanceCore_ic (k : Core) (x : Nat) (b : Issue) (j : Option Nat) (e : Bool) :
    (advanceCore k x b j e).ic = k.ic + bundleCycles j := rfl
@[simp] theorem advanceCore_v (k : Core) (x : Nat) (b : Issue) (j : Option Nat) (e : Bool) : (advanceCore k x b j e).v = k.v := rfl
@[simp] theorem advanceCore_rerun (k : Core) (x : Nat) (b : Issue) (j : Option Nat) (e : Bool) : (advanceCore k x b j e).rerun = k.rerun := rfl
@[simp] theorem bundleCycles_none : bundleCycles none = 1 := rfl
@[simp] theorem bundleCycles_some (y : Nat) : bundleCycles (some y) = 4 := rfl

/-- The parts of a core that a bundle's bookkeeping leaves and later results depend on. -/
theorem Booked.same {k u : Core} {l : List (Nat × Land)} {x : Nat} (h : Booked k u l x) :
    u.ctxs = k.ctxs ∧ u.ic = k.ic ∧ u.v = k.v ∧ u.rerun = k.rerun := by
  obtain ⟨_, _, h⟩ := h
  refine ⟨?_, ?_, ?_, ?_⟩ <;> rw [← h]

/-- Results of one latency stand behind those that land no later. -/
theorem foldl_addLands_same (k : Core) (x lat : Nat) (ls : List Land) (h : ∀ p ∈ k.pend, p.due ≤ k.ic + lat) :
    ((ls.map (lat, ·)).foldl (fun k z => addLands k x z.1 [z.2]) k).pend = k.pend ++ ls.map (fun z => ⟨k.ic + lat, x, z⟩) := by
  induction ls generalizing k with
  | nil => simp
  | cons z ls ih =>
    simp only [List.map_cons, List.foldl_cons]
    have hi : ∀ l : List Pend, (∀ p ∈ l, p.due ≤ k.ic + lat) → pendInsert ⟨k.ic + lat, x, z⟩ l = l ++ [⟨k.ic + lat, x, z⟩] := by
      intro l hl
      induction l with
      | nil => rfl
      | cons q l ih2 =>
        simp only [pendInsert]
        rw [if_pos (hl q (by simp)), ih2 (fun p hp => hl p (by simp [hp]))]
        rfl
    have hp : (addLands k x lat [z]).pend = k.pend ++ [⟨k.ic + lat, x, z⟩] := by
      simp [addLands, hi _ h]
    rw [ih]
    · rw [hp]; simp [addLands]
    · rw [hp]; intro p hp
      simp only [List.mem_append, List.mem_singleton] at hp
      rcases hp with hp | rfl
      · exact h p hp
      · exact Nat.le_refl _

@[simp] theorem advanceCtx_s (k : Core) (b : Issue) (j : Option Nat) (e : Bool) (t : Ctx) : (advanceCtx k b j e t).s = t.s :=
  show ({ advanceCtx k b j e t with lsCnt := t.lsCnt, lsBody := t.lsBody, pc := t.pc, grp := t.grp, atLand := t.atLand, held := t.held, kept := t.kept } : Ctx).s = t.s by
    rw [advanceCtx_rest]
@[simp] theorem advanceCtx_a (k : Core) (b : Issue) (j : Option Nat) (e : Bool) (t : Ctx) : (advanceCtx k b j e t).a = t.a :=
  show ({ advanceCtx k b j e t with lsCnt := t.lsCnt, lsBody := t.lsBody, pc := t.pc, grp := t.grp, atLand := t.atLand, held := t.held, kept := t.kept } : Ctx).a = t.a by
    rw [advanceCtx_rest]
@[simp] theorem advanceCtx_p (k : Core) (b : Issue) (j : Option Nat) (e : Bool) (t : Ctx) : (advanceCtx k b j e t).p = t.p :=
  show ({ advanceCtx k b j e t with lsCnt := t.lsCnt, lsBody := t.lsBody, pc := t.pc, grp := t.grp, atLand := t.atLand, held := t.held, kept := t.kept } : Ctx).p = t.p by
    rw [advanceCtx_rest]
@[simp] theorem advanceCtx_m (k : Core) (b : Issue) (j : Option Nat) (e : Bool) (t : Ctx) : (advanceCtx k b j e t).m = t.m :=
  show ({ advanceCtx k b j e t with lsCnt := t.lsCnt, lsBody := t.lsBody, pc := t.pc, grp := t.grp, atLand := t.atLand, held := t.held, kept := t.kept } : Ctx).m = t.m by
    rw [advanceCtx_rest]
@[simp] theorem advanceCtx_fmt (k : Core) (b : Issue) (j : Option Nat) (e : Bool) (t : Ctx) : (advanceCtx k b j e t).fmt = t.fmt :=
  show ({ advanceCtx k b j e t with lsCnt := t.lsCnt, lsBody := t.lsBody, pc := t.pc, grp := t.grp, atLand := t.atLand, held := t.held, kept := t.kept } : Ctx).fmt = t.fmt by
    rw [advanceCtx_rest]
@[simp] theorem advanceCtx_shp (k : Core) (b : Issue) (j : Option Nat) (e : Bool) (t : Ctx) : (advanceCtx k b j e t).shp = t.shp :=
  show ({ advanceCtx k b j e t with lsCnt := t.lsCnt, lsBody := t.lsBody, pc := t.pc, grp := t.grp, atLand := t.atLand, held := t.held, kept := t.kept } : Ctx).shp = t.shp by
    rw [advanceCtx_rest]
@[simp] theorem advanceCtx_rmode (k : Core) (b : Issue) (j : Option Nat) (e : Bool) (t : Ctx) : (advanceCtx k b j e t).rmode = t.rmode :=
  show ({ advanceCtx k b j e t with lsCnt := t.lsCnt, lsBody := t.lsBody, pc := t.pc, grp := t.grp, atLand := t.atLand, held := t.held, kept := t.kept } : Ctx).rmode = t.rmode by
    rw [advanceCtx_rest]
@[simp] theorem advanceCtx_srs (k : Core) (b : Issue) (j : Option Nat) (e : Bool) (t : Ctx) : (advanceCtx k b j e t).srs = t.srs :=
  show ({ advanceCtx k b j e t with lsCnt := t.lsCnt, lsBody := t.lsBody, pc := t.pc, grp := t.grp, atLand := t.atLand, held := t.held, kept := t.kept } : Ctx).srs = t.srs by
    rw [advanceCtx_rest]
@[simp] theorem advanceCtx_amx (k : Core) (b : Issue) (j : Option Nat) (e : Bool) (t : Ctx) : (advanceCtx k b j e t).amx = t.amx :=
  show ({ advanceCtx k b j e t with lsCnt := t.lsCnt, lsBody := t.lsBody, pc := t.pc, grp := t.grp, atLand := t.atLand, held := t.held, kept := t.kept } : Ctx).amx = t.amx by
    rw [advanceCtx_rest]
@[simp] theorem advanceCtx_feb (k : Core) (b : Issue) (j : Option Nat) (e : Bool) (t : Ctx) : (advanceCtx k b j e t).feb = t.feb :=
  show ({ advanceCtx k b j e t with lsCnt := t.lsCnt, lsBody := t.lsBody, pc := t.pc, grp := t.grp, atLand := t.atLand, held := t.held, kept := t.kept } : Ctx).feb = t.feb by
    rw [advanceCtx_rest]
@[simp] theorem advanceCtx_stat (k : Core) (b : Issue) (j : Option Nat) (e : Bool) (t : Ctx) : (advanceCtx k b j e t).stat = t.stat :=
  show ({ advanceCtx k b j e t with lsCnt := t.lsCnt, lsBody := t.lsBody, pc := t.pc, grp := t.grp, atLand := t.atLand, held := t.held, kept := t.kept } : Ctx).stat = t.stat by
    rw [advanceCtx_rest]
@[simp] theorem advanceCtx_q (k : Core) (b : Issue) (j : Option Nat) (e : Bool) (t : Ctx) : (advanceCtx k b j e t).q = t.q :=
  show ({ advanceCtx k b j e t with lsCnt := t.lsCnt, lsBody := t.lsBody, pc := t.pc, grp := t.grp, atLand := t.atLand, held := t.held, kept := t.kept } : Ctx).q = t.q by
    rw [advanceCtx_rest]

/-! ### A calm core's traps -/

/-- A calm core is settled. -/
theorem settle_calm (s : State) (c x : Nat) (h : Calm (coreOf s c) x) : settle s c = setCore s c (coreOf s c) := by
  have e : ({ coreOf s c with pend := [] } : Core) = coreOf s c := by
    conv => rhs; rw [show coreOf s c = { coreOf s c with pend := (coreOf s c).pend } from rfl, h.pend]
  have e1 : ({ coreOf s c with arrivals := [] } : Core) = coreOf s c := by
    conv => rhs; rw [show coreOf s c = { coreOf s c with arrivals := (coreOf s c).arrivals } from rfl, h.awaits]
  have e2 : ({ coreOf s c with drain := none } : Core) = coreOf s c := by
    conv => rhs; rw [show coreOf s c = { coreOf s c with drain := (coreOf s c).drain } from rfl, h.drain]
  have hl : landAll s c = setCore s c (coreOf s c) := by
    unfold landAll
    simp only [h.pend, List.map_nil, List.foldl_nil, List.length_nil, landCycles]
    rw [show ({ coreOf s c with pend := [], ic := (coreOf s c).ic } : Core) = coreOf s c from e]
    unfold arriveWhere
    simp only [coreOf_setCore, if_pos, h.awaits, arriveIf, modCore]
    rw [e1, setCore_setCore]
  unfold settle
  simp only [hl, modCore, coreOf_setCore, if_pos]
  rw [e2, setCore_setCore, h.engines]; rfl

/-- A context that has asked nothing has no exchange to drop. -/
theorem dropBundle_none (s : State) (c x : Nat) (h : (s.mod.exchanges.any fun e => e.ofBundle c x) = false) : dropBundle s c x = s := by
  have he : ∀ e ∈ s.mod.exchanges, e.ofBundle c x = false := by simpa using h
  unfold dropBundle
  split
  · rfl
  · refine congrArg (fun l => ({ s with mod := { s.mod with exchanges := l } } : State)) (List.filter_eq_self.mpr fun e hm => ?_)
    have := he e hm
    unfold Exchange.ofBundle at this
    split
    · simp_all only [Bool.and_eq_false_imp, beq_iff_eq, beq_eq_false_iff_ne]
      simp only [Bool.not_eq_true', Bool.and_eq_false_imp, beq_iff_eq, beq_eq_false_iff_ne]
      exact this
    · rfl

/-- The fields of ECAUSE. -/
theorem causeWord_fields (z : TrapInfo) :
    fld (causeWord z) 7 0 = z.cause % 256 ∧ fld (causeWord z) 15 8 = z.sub % 256 ∧ fld (causeWord z) 20 20 = z.late.toNat ∧ fld (causeWord z) 23 21 = z.slot % 8 ∧
      fld (causeWord z) 27 26 = z.level % 4 := by
  have := z.late.toNat_lt
  simp only [causeWord, fld, bitsOf, BitVec.toNat_ofNat]
  refine ⟨?_, ?_, ?_, ?_, ?_⟩ <;> (simp; try omega)

/-- The trap of a calm core in user mode. -/
theorem issueTrap_calm (s : State) (c x : Nat) (z : TrapInfo) (h : Calm (coreOf s c) x)
    (ha : (s.mod.exchanges.any fun e => e.ofBundle c x) = false) (hp : (ctxOf s c x).priv = false) (hz : z.cause ≠ 0x11) :
    issueTrap s c x z = takeTrap (modCtx s c x fun t => { t with replay := [], replayTo := 0 }) c x z := by
  have hr : rehearsing (coreOf s c) = false := by simp [rehearsing, h.rerun]
  have he : (s.mod.exchanges.any fun e => e.ofBundle c x && e.reply.isNone && e.counts) = false := by
    have : ∀ e ∈ s.mod.exchanges, e.ofBundle c x = false := by simpa using ha
    simp only [List.any_eq_false, Bool.and_eq_true, not_and, Bool.not_eq_true]
    intro e hm h1
    rw [this e hm] at h1; cases h1.1
  have hu : unanswered s c x = false := by
    simp [unanswered, awaitingBut, awaitsOutside, h.awaits, h.coop, h.pend, he, engsWait, h.engines]
  have e2 : ({ coreOf s c with rerun := none } : Core) = coreOf s c := by
    conv => rhs; rw [show coreOf s c = { coreOf s c with rerun := (coreOf s c).rerun } from rfl, h.rerun]
  unfold issueTrap
  simp only [hu, hr, hz, if_false, Bool.false_eq_true]
  unfold trapRunning
  have hcalm : Calm (coreOf (modCore s c fun k => { k with rerun := none }) c) x := by
    simp [e2]; exact h
  rw [dropBundle_none (modCore s c fun k => { k with rerun := none }) c x ha, settle_calm _ _ _ hcalm]
  simp only [modCore, e2, coreOf_setCore, if_pos, setCore_setCore]
  have hm : (modCtx (setCore s c (coreOf s c)) c x fun t => { t with replay := [], replayTo := 0 }) = modCtx s c x fun t => { t with replay := [], replayTo := 0 } := by
    simp [modCtx, setCtx, modCore, ctxOf]
  rw [hm]
  have : (ctxOf (modCtx s c x fun t => { t with replay := [], replayTo := 0 }) c x).priv = false := by rw [ctxOf_modCtx]; exact hp
  rw [this]; rfl

end Sys2Proof.Machine
end

