-- ==== Sys2Proof/Laws/Frame.lean ====
section
/-! SUPPORT. Instructions that only compute a register: what they leave of the machine, said once. -/

namespace Sys2Proof.Machine

/-- An instruction that only computes a scalar, predicate or address register. -/
def plainB (i : Instr) : Bool := (scalarDest i).isSome || (predDest i).isSome || (addrDest i).isSome

/-- The same as a proposition. -/
def Plain (i : Instr) : Prop := plainB i = true

/-- The tile a register name is, with a mark. -/
def tl (b : Bool) (r : Reg) : Option (Nat × Bool) := match r with | .v n => some (n, b) | _ => none

/-- Scalar sources are no tiles. -/
theorem tl_src (b : Bool) (c : SCode) : (srcReg c).filterMap (tl b) = [] := by
  simp only [srcReg]; split
  · rfl
  · split <;> rfl

/-- Scalar destinations are no tiles. -/
theorem tl_dst (b : Bool) (c : SCode) : (dstReg c).filterMap (tl b) = [] := by
  simp only [dstReg]; split
  · rfl
  · split <;> rfl

/-- Predicates are no tiles. -/
theorem tl_p (b : Bool) (c : PReg) : (pReg' c).filterMap (tl b) = [] := by
  simp only [pReg']; split <;> rfl

/-- Address registers are no tiles. -/
theorem tl_a (b : Bool) (c : AReg) : (aReg' c).filterMap (tl b) = [] := rfl

/-- Two lists without tiles. -/
theorem tl_app (b : Bool) (l m : List Reg) (h : l.filterMap (tl b) = []) (g : m.filterMap (tl b) = []) : (l ++ m).filterMap (tl b) = [] := by
  rw [List.filterMap_append, h, g]; rfl

/-- A plain instruction uses no tile. -/
theorem Plain.tiles {i : Instr} (h : Plain i) : tileUses i = [] := by
  unfold Plain at h
  have e : tileUses i = (regsRead i).filterMap (tl false) ++ (regsWritten i).filterMap (tl true) := rfl
  have h1 : (regsRead i).filterMap (tl false) = [] := by
    cases i <;> first
      | (exact absurd h Bool.false_ne_true)
      | rfl
      | exact tl_src _ _
      | exact tl_p _ _
      | exact tl_app _ _ _ (tl_src _ _) (tl_src _ _)
      | exact tl_app _ _ _ (tl_p _ _) (tl_p _ _)
      | exact tl_app _ _ _ (tl_a _ _) (tl_src _ _)
      | exact tl_app _ _ _ (tl_app _ _ _ (tl_src _ _) (tl_src _ _)) (tl_src _ _)
      | exact tl_app _ _ _ (tl_app _ _ _ (tl_src _ _) (tl_src _ _)) (tl_p _ _)
  have h2 : (regsWritten i).filterMap (tl true) = [] := by
    cases i <;> first
      | (exact absurd h Bool.false_ne_true)
      | exact tl_dst _ _
      | exact tl_p _ _
      | rfl
  rw [e, h1, h2]; rfl

/-- A plain instruction touches no page of the accumulators. -/
theorem Plain.pages {i : Instr} (h : Plain i) (k : Core) (c x : Nat) : pageUses k c x i = [] := by
  unfold Plain at h
  cases i <;> first
    | (exact absurd h Bool.false_ne_true)
    | rfl

/-- A plain instruction occupies no matrix path. -/
theorem Plain.path {i : Instr} (h : Plain i) (k : Core) (c x : Nat) : holdPath k c x i = k := by
  unfold Plain at h
  cases i <;> first
    | (exact absurd h Bool.false_ne_true)
    | rfl

/-- A plain instruction occupies no vector slot. -/
theorem Plain.slot {i : Instr} (h : Plain i) (k : Core) (x : Nat) : holdSlot k x (i.homeSlot.getD .c).num i = k := by
  unfold Plain at h
  have : i.homeSlot = some .a0 := by
    cases i <;> first
      | (exact absurd h Bool.false_ne_true)
      | rfl
  rw [this]
  rfl

/-- A plain instruction occupies and claims nothing. -/
theorem Plain.units {i : Instr} (h : Plain i) (k : Core) (c x : Nat) :
    tileUses i = [] ∧ pageUses k c x i = [] ∧ holdPath k c x i = k ∧ holdSlot k x (i.homeSlot.getD .c).num i = k :=
  ⟨h.tiles, h.pages .., h.path .., h.slot ..⟩

/-- The bookkeeping of a plain instruction alone in its bundle. -/
theorem booked_plain (s : State) (k : Core) (x : Nat) (i : Instr) (s' a : State) (lands : List (Nat × Land)) (ctl : Ctl)
    (h : Plain i) (hw : i.wf = true) (hr : k.rerun = none) (ht : (coreCtx k x).replayTo = 0) :
    ∃ sh, popQueues (sendOuts a s.turn (claimUnits (holdUnits (recordBundle k x (soloAt s x i) none [(soloWork i, .ok s' lands [] ctl)])
      s.turn x (soloAt s x i)) s.turn x (soloAt s x i)) x [(soloWork i, .ok s' lands [] ctl)]) x (soloAt s x i) none =
      { k with pend := (lands.foldl (fun k z => addLands k x z.1 [z.2]) k).pend, shadow := sh } := by
  obtain ⟨⟨sh1, h1⟩, g1⟩ := recordBundle_none k x (soloAt s x i) [(soloWork i, .ok s' lands [] ctl)]
  rw [h1]
  generalize hk1 : ({ k with shadow := sh1 } : Core) = k1 at *
  have hi : (soloWork i).ins = .ok i := by simp [soloWork, hw]
  have h2 : holdUnits k1 s.turn x (soloAt s x i) = k1 := by
    have := h.units k1 s.turn x
    unfold holdUnits
    rw [show (soloAt s x i).works = [soloWork i] from rfl]
    simp only [List.foldl_cons, List.foldl_nil, hi]
    rw [show (soloWork i).slot.num = (i.homeSlot.getD .c).num from rfl, this.2.2.2, this.2.2.1]
  have h3 : claimUnits k1 s.turn x (soloAt s x i) = k1 := by
    have := h.units k1 s.turn x
    have hin : (soloAt s x i).instrs = [i] := by
      simp [Issue.instrs, show (soloAt s x i).works = [soloWork i] from rfl, SlotWork.instr?, hi]
    unfold claimUnits
    simp [hin, this.1, this.2.1]
  rw [h2, h3]
  have hold : runBefore k1 x = false := by
    have e1 : k1.rerun = none := by rw [← hk1]; exact hr
    have e2 : (coreCtx k1 x).replayTo = 0 := by rw [← hk1]; exact ht
    unfold runBefore
    split
    · simp [e1, e2]
    · rfl
  unfold popQueues
  simp only [soloAt_pops, List.isEmpty_nil, if_true]
  unfold sendOuts
  simp only [List.foldl_cons, List.foldl_nil, hold, Bool.false_eq_true, if_false]
  obtain ⟨p, hf⟩ := foldl_addLands k1 x lands
  have hp := foldl_addLands_congr k k1 x lands (by rw [← hk1]) (by rw [← hk1])
  rw [hf] at hp ⊢
  refine ⟨sh1, ?_⟩
  rw [hp, ← hk1]
  simp

/-- What a plain instruction answers. -/
theorem Plain.effect {i : Instr} (h : Plain i) (e : Env) (s : State) :
    ∃ lat ls, slotEffect i e s = .ok (srsStep s e.core e.ctx (roundsOnce i)) (ls.map (lat, ·)) [] .next ∧ 1 ≤ lat ∧
      ((∀ d, scalarDest i = some d → ∃ v f, ls = dstLand d v ++ f ∧ (lat = 1 → f = [])) ∧ (∀ d, predDest i = some d → ∃ v f, ls = .pred d.toNat v :: f ∧ (lat = 1 → f = [])) ∧
        ∀ d, addrDest i = some d → ∃ v, ls = [.addr d.toNat v]) := by
  unfold Plain at h
  cases i <;> first
    | (exact absurd h Bool.false_ne_true)
    | (refine ⟨_, _, rfl, by decide, ?_, ?_, ?_⟩ <;> intro d hd <;> first
        | (cases hd; done)
        | (cases hd; exact ⟨_, _, rfl, fun _ => rfl⟩)
        | (cases hd; refine ⟨_, _, rfl, fun h => ?_⟩; cases h)
        | (cases hd; exact ⟨_, rfl⟩))

/-- A core without results in flight. -/
theorem pend_same (k : Core) (h : k.pend = []) : ({ k with pend := [] } : Core) = k := by cases k; cases h; rfl

/-- The only result in flight lands when it is due. -/
theorem landDue_all (s : State) (c : Nat) (k' : Core) (p : Pend) (hk : k'.pend = [p]) (hp : p.due ≤ k'.ic) (h1 : landsFirst p = false) (h0 : curveLand p = false) (h2 : matrixLand p = false) :
    landDue (setCore s c k') c = applyLand (setCore s c { k' with pend := [] }) c p := by
  unfold landDue
  simp only [coreOf_setCore, if_pos, hk]
  cases h3 : atomicLand p <;> simp [hp, landCycles, landCycle, landMatrix, h1, h0, h2, h3]

/-- Out of reruns no signature goes on. -/
theorem sigAdd_none {k : Core} (h : k.rerun = none) (bs : List Byte) : sigAdd k bs = k := by simp [sigAdd, h]

/-- The landing point is noted alike where a core was written over with itself. -/
theorem noteLanding_same (s : State) (c x : Nat) (f : Core → Core) (h : f (coreOf s c) = coreOf s c) :
    noteLanding (modCore s c f) c x = noteLanding s c x := by
  simp [noteLanding, modCtx, setCtx, modCore, h, ctxOf]

/-- A neighbour is another core. -/
theorem neighbour_ne (c q : Nat) : neighbour c q ≠ c := by
  unfold neighbour idxInCluster clusterOfCore
  simp only
  intro h
  split at h <;> omega

/-- What follows the landing of one result of a core that has no engine command and no rerun: nothing but the note of the landing point. -/
theorem land_ends (s : State) (c : Nat) (p : Pend) (k : Core) (x : Nat) (hk : coreOf (landWrite s c p) c = k) (hr : k.rerun = none)
    (he : k.engs = []) : noteLanding (dueEngs (applyLand s c p) c) c x = noteLanding (landWrite s c p) c x := by
  have h1 : coreOf (applyLand s c p) c = k := by
    unfold applyLand
    simp only [coreOf_modCore, if_true]
    rw [hk, sigAdd_none hr]
  rw [dueEngs_none _ _ (by rw [h1]; exact he)]
  unfold applyLand
  exact noteLanding_same _ _ _ _ (by rw [hk, sigAdd_none hr])

/-- The step of SRS asks nothing and leaves the module. -/
theorem srsStep_mod (s : State) (c x : Nat) (r : Bool) : (srsStep s c x r).mod = s.mod := by
  unfold srsStep; split <;> rfl

/-- Behind a plain instruction stands the acquired state with SRS stepped. -/
theorem Plain.behind_eq {s : State} {x : Nat} {i : Instr} (hp : Plain i) (hR : Ready s x i) (r : Bool) :
    behind s x i (srsStep (slotState s x i) s.turn x r) = srsStep (acquired s x i) s.turn x r := by
  have hl : slotLeft (acquired s x i) (srsStep (slotState s x i) s.turn x r) = srsStep (acquired s x i) s.turn x r := by
    cases r <;> rfl
  have ha : ((srsStep (acquired s x i) s.turn x r).mod.exchanges.any fun e => e.ofBundle s.turn x) = false := by
    rw [srsStep_mod, acquired_mod]; exact hR.asks
  have hi : (soloAt s x i).instrs = [i] := by
    simp [Issue.instrs, show (soloAt s x i).works = [soloWork i] from rfl, SlotWork.instr?, soloWork, hR.wf]
  have hw : pagesWritten (coreOf (acquired s x i) s.turn) s.turn x (soloAt s x i) = [] := by
    simp [pagesWritten, hi, hp.pages]
  unfold behind
  dsimp only
  rw [hl, dropBundle_none _ _ _ ha, hw]
  rfl

/-- What a plain instruction leaves: `a` is the acquired state with SRS stepped. -/
theorem Plain.leaves {s : State} {x : Nat} {i : Instr} (hp : Plain i) (hR : Ready s x i) :
    ∃ w' : Core, let c := s.turn
      let a := srsStep (acquired s x i) c x (roundsOnce i)
      let b := setCore a c w'
      let fin := fun t => Host.Outcome.next (noteTimes (noteLanding t c x) c)
      (∃ p sh ic sl, w' = { setCoreCtx (coreOf a c) x (coreCtx w' x) with pend := p, shadow := sh, ic := ic, sliceUsed := sl }) ∧
      (∃ k b', coreCtx w' x = advanceCtx k b' none false (ctxOf a c x)) ∧
      (exec i s = fin b ∨
       (∃ d v, scalarDest i = some d ∧ 0 < d.toNat ∧ d.toNat < 56 ∧ exec i s = fin (modCtx b c x (setSReg · d.toNat v))) ∨
       (∃ d v, predDest i = some d ∧ exec i s = fin (modCtx b c x (setPReg · d.toNat v))) ∨
       (∃ d v, addrDest i = some d ∧ exec i s = fin (modCtx b c x (setAReg · d.toNat v))) ∨
       (∃ d v, scalarDest i = some d ∧ 56 ≤ d.toNat ∧ d.toNat < 60 ∧ exec i s = fin (landPush b c x (d.toNat - 56) v))) := by
  obtain ⟨lat, ls, he, hl, hd1, hd2, hd3⟩ := hp.effect (soloEnv s x i) (slotState s x i)
  have hx : exec i s = issueOne i (slotEffect i) s := by
    have := hp
    unfold Plain at this
    cases i <;> first | rfl | (exact absurd this Bool.false_ne_true)
  have hex := hR.issues he (by rw [srsStep_mod]; rfl)
  rw [← hx] at hex
  have hwf := hR.wf
  have hc := hR.calm
  clear he hx
  simp only [soloEnv_core, soloEnv_ctx] at hex
  dsimp only
  have hbe := hp.behind_eq hR (roundsOnce i)
  obtain ⟨l1, hl1⟩ := acquired_core s x i s.turn
  generalize hs1 : srsStep (slotState s x i) s.turn x (roundsOnce i) = s1 at *
  generalize ha : srsStep (acquired s x i) s.turn x (roundsOnce i) = a at *
  have hr0 : (coreOf a s.turn).rerun = none ∧ (ctxOf a s.turn x).replayTo = 0 ∧ (coreOf a s.turn).pend = [] ∧ (coreOf a s.turn).engs = [] := by
    rw [← ha]; unfold srsStep; split
    · refine ⟨?_, ?_, ?_, ?_⟩
      · simp [modCtx, setCtx, hl1, hc.rerun]
      · rw [ctxOf_modCtx]; unfold advanceSrs; split <;> (simp only [ctxOf_acquired]; exact hc.replay.2)
      · simp [modCtx, setCtx, hl1, hc.pend]
      · simp [modCtx, setCtx, hl1, hc.engines]
    · rw [hl1, ctxOf_acquired]; exact ⟨hc.rerun, hc.replay.2, hc.pend, hc.engines⟩
  obtain ⟨hr1, hrt1, hpe1, hen1⟩ := hr0
  obtain ⟨sh, hb⟩ := booked_plain s (coreOf a s.turn) x i (slotLeft (acquired s x i) s1) a (ls.map (lat, ·)) .next hp hwf hr1 hrt1
  have hpend := foldl_addLands_same (coreOf a s.turn) x lat ls (by rw [hpe1]; simp)
  rw [hpend, hpe1, List.nil_append] at hb
  generalize hk1 : ({ coreOf a s.turn with pend := ls.map (fun z => ⟨(coreOf a s.turn).ic + lat, x, z⟩), shadow := sh } : Core) = k1 at *
  have hi : issued s x i s1 (ls.map (lat, ·)) [] .next =
      noteTimes (noteLanding (dueEngs (landDue (setCore a s.turn (advanceCore k1 x (soloAt s x i) none false)) s.turn) s.turn) s.turn x) s.turn := by
    have hl0 : lastState (acquired s x i) [(soloWork i, .ok (slotLeft (acquired s x i) s1) (ls.map (lat, ·)) [] .next)] =
      slotLeft (acquired s x i) s1 := rfl
    unfold issued commit
    rw [hl0, show noteUndo (dropBundle (slotLeft (acquired s x i) s1) s.turn x) s.turn x (coreOf (acquired s x i) s.turn)
      (pagesWritten (coreOf (acquired s x i) s.turn) s.turn x (soloAt s x i)) = a from hbe]
    simp only [ctlOf, List.findSome?_cons, List.findSome?_nil, Option.getD_none, follow, advance, modCore, coreOf_setCore, if_pos, setCore_setCore]
    rw [hb]
  rw [hi] at hex
  have hc1 : ∀ y, coreCtx k1 y = ctxOf a s.turn y := fun y => by rw [← hk1]; rfl
  generalize hw : advanceCore k1 x (soloAt s x i) none false = w at *
  have hwc : coreCtx w x = advanceCtx k1 (soloAt s x i) none false (ctxOf a s.turn x) := by rw [← hw]; simp [hc1]
  have hwp : w.pend = ls.map (fun z => ⟨(coreOf a s.turn).ic + lat, x, z⟩) := by rw [← hw, ← hk1]; rfl
  have hwi : w.ic = (coreOf a s.turn).ic + 1 := by rw [← hw, ← hk1]; rfl
  have hwr : w.rerun = none := by rw [← hw, ← hk1]; exact hr1
  have hwe : w.engs = [] := by rw [← hw, ← hk1]; exact hen1
  have hwx : ∀ l : List Pend, ∃ p sh ic sl, ({ w with pend := l } : Core) = { setCoreCtx (coreOf a s.turn) x (coreCtx { w with pend := l } x) with pend := p, shadow := sh, ic := ic, sliceUsed := sl } := by
    intro l
    refine ⟨l, w.shadow, w.ic, w.sliceUsed, ?_⟩
    rw [show coreCtx { w with pend := l } x = coreCtx w x from rfl, hwc, ← hw, ← hk1]
    rfl
  have hwc' : ∀ l : List Pend, ∃ k b', coreCtx { w with pend := l } x = advanceCtx k b' none false (ctxOf a s.turn x) := fun l => ⟨_, _, hwc⟩
  have hd0 : dueEngs (setCore a s.turn w) s.turn = setCore a s.turn w := dueEngs_none _ _ (by rw [coreOf_setCore, if_pos rfl]; exact hwe)
  by_cases hl1 : 1 < lat
  · refine ⟨w, hwx w.pend, hwc' w.pend, .inl ?_⟩
    rw [hex, landDue_none, hd0]
    intro p hp
    rw [coreOf_setCore, if_pos rfl] at hp ⊢
    rw [hwp] at hp
    simp at hp
    obtain ⟨a, _, rfl⟩ := hp
    rw [hwi]; show _ < _ + lat; omega
  · have hl1 : lat = 1 := by omega
    subst hl1
    generalize hW : ({ w with pend := [] } : Core) = W at *
    have hWr : W.rerun = none := by rw [← hW]; exact hwr
    have hWe : W.engs = [] := by rw [← hW]; exact hwe
    have one : ∀ z, ls = [z] → landsFirst ⟨(coreOf a s.turn).ic + 1, x, z⟩ = false → curveLand ⟨(coreOf a s.turn).ic + 1, x, z⟩ = false → matrixLand ⟨(coreOf a s.turn).ic + 1, x, z⟩ = false →
        (∃ k, coreOf (landWrite (setCore a s.turn W) s.turn ⟨(coreOf a s.turn).ic + 1, x, z⟩) s.turn = k ∧ k.rerun = none ∧ k.engs = []) →
        exec i s = .next (noteTimes (noteLanding (landWrite (setCore a s.turn W) s.turn ⟨(coreOf a s.turn).ic + 1, x, z⟩) s.turn x) s.turn) := by
      rintro z rfl h1 h0 h2 ⟨k, e1, e2, e3⟩
      rw [hex, landDue_all _ _ _ _ hwp (by rw [hwi]) h1 h0 h2, hW, land_ends _ _ _ k x e1 e2 e3]
    have mc : ∀ f : Ctx → Ctx, ∃ k, coreOf (modCtx (setCore a s.turn W) s.turn x f) s.turn = k ∧ k.rerun = none ∧ k.engs = [] := fun f => by
      refine ⟨_, rfl, ?_, ?_⟩
      · simpa [modCtx, setCtx] using hWr
      · simpa [modCtx, setCtx] using hWe
    refine ⟨W, by rw [← hW]; exact hwx [], by rw [← hW]; exact hwc' [], ?_⟩
    have hnil : ls = [] → exec i s = .next (noteTimes (noteLanding (setCore a s.turn W) s.turn x) s.turn) := by
      rintro rfl
      have hw0 : w.pend = [] := hwp
      rw [hex, landDue_none, hd0]
      · have e : ({ w with pend := [] } : Core) = w := pend_same w hw0
        rw [← hW, e]
      · intro p hp; rw [coreOf_setCore, if_pos rfl, hw0] at hp; simp at hp
    have h := hp
    unfold Plain plainB at h
    cases hsd : scalarDest i with
    | some d =>
      obtain ⟨v, f, hls, hf⟩ := hd1 d hsd
      rw [hf rfl, List.append_nil] at hls
      unfold dstLand at hls
      simp only at hls
      split at hls
      · exact .inl (hnil hls)
      · split at hls
        · exact .inr (.inl ⟨d, v, rfl, by omega, by omega, one _ hls rfl rfl rfl (mc _)⟩)
        · split at hls
          · refine .inr (.inr (.inr (.inr ⟨d, v, rfl, by omega, by omega, one _ hls rfl rfl rfl ?_⟩)))
            show ∃ k, coreOf (landPush (setCore a s.turn W) s.turn x (d.toNat - 56) v) s.turn = k ∧ _
            unfold landPush; simp only
            split
            · refine ⟨_, rfl, ?_, ?_⟩
              · simpa [neighbour_ne] using hWr
              · simpa [neighbour_ne] using hWe
            · exact mc _
          · exact .inl (hnil hls)
    | none =>
      cases hpd : predDest i with
      | some d =>
        obtain ⟨v, f, hls, hf⟩ := hd2 d hpd
        rw [hf rfl] at hls
        exact .inr (.inr (.inl ⟨d, v, rfl, one _ hls rfl rfl rfl (mc _)⟩))
      | none =>
        cases had : addrDest i with
        | some d =>
          obtain ⟨v, hls⟩ := hd3 d had
          exact .inr (.inr (.inr (.inl ⟨d, v, rfl, one _ hls rfl rfl rfl (mc _)⟩)))
        | none => rw [hsd, hpd, had] at h; exact absurd h Bool.false_ne_true

/-- A predicate's write changes the predicates alone. -/
theorem setPReg_same (t : Ctx) (n : Nat) (b : Bool) : { setPReg t n b with p := t.p } = t := by
  unfold setPReg; split <;> rfl

/-- A scalar's write changes the scalars alone. -/
theorem setSReg_same (t : Ctx) (n : Nat) (b : Word) : { setSReg t n b with s := t.s } = t := by
  unfold setSReg; split <;> rfl

/-- A scalar's write leaves the other scalars. -/
theorem setSReg_other (t : Ctx) (n m : Nat) (b : Word) (h : n ≠ m) : sReg (setSReg t n b) m = sReg t m := by
  unfold sReg setSReg
  split
  · rfl
  · split
    · rfl
    · simp [h]

/-- What the step of SRS leaves. -/
theorem srsStep_facts (s : State) (c x : Nat) (r : Bool) : let s1 := srsStep s c x r
  s1.mod = s.mod ∧ s1.dies = s.dies ∧ s1.mail = s.mail ∧ (∀ e, e ≠ c → coreOf s1 e = coreOf s e) ∧
   (∃ v, coreOf s1 c = { coreOf s c with ctxs := v }) ∧ (∀ y, y ≠ x → ctxOf s1 c y = ctxOf s c y) ∧ (∃ v, ctxOf s1 c x = { ctxOf s c x with srs := v }) ∧ (r = false → s1 = s) := by
  unfold srsStep
  cases r
  · exact ⟨rfl, rfl, rfl, fun _ _ => rfl, ⟨_, rfl⟩, fun _ _ => rfl, ⟨_, rfl⟩, fun _ => rfl⟩
  · refine ⟨rfl, rfl, rfl, ?_, ?_, ?_, ?_, ?_⟩
    · intro e he; exact coreOf_modCtx_of_ne _ _ _ _ _ (Ne.symm he)
    · simp only [if_true, modCtx, setCtx, modCore, coreOf_setCore]; exact ⟨_, rfl⟩
    · intro y hy; exact ctxOf_modCtx_of_ne _ _ _ _ _ _ (.inr (Ne.symm hy))
    · simp only [if_true, ctxOf_modCtx]; unfold advanceSrs; split
      · exact ⟨_, rfl⟩
      · exact ⟨_, rfl⟩
    · intro h; cases h

/-- What the acquire of a head and SRS's step leave of the core and its context. -/
theorem acquired_facts (s : State) (x : Nat) (i : Instr) (r : Bool) : let a := srsStep (acquired s x i) s.turn x r
    a.mod = s.mod ∧ a.mail = s.mail ∧ a.dies = (acquired s x i).dies ∧
      (∀ e, (coreOf a e).l1 = (coreOf (acquired s x i) e).l1) ∧
      (∀ e, e ≠ s.turn → { coreOf a e with l1 := (coreOf s e).l1 } = coreOf s e) ∧
      (∃ v, { coreOf a s.turn with l1 := (coreOf s s.turn).l1 } = { coreOf s s.turn with ctxs := v }) ∧
      (∀ y, y ≠ x → ctxOf a s.turn y = ctxOf s s.turn y) ∧ (∃ v, ctxOf a s.turn x = { ctxOf s s.turn x with srs := v }) ∧
      (r = false → ctxOf a s.turn x = ctxOf s s.turn x) := by
  obtain ⟨f1, f2, f3, f4, ⟨v, f5⟩, f6, ⟨q, f7⟩, f8⟩ := srsStep_facts (acquired s x i) s.turn x r
  obtain ⟨h1, h2, h3, _⟩ := acquireHeads_rest s s.turn (soloAt s x i)
  refine ⟨f1.trans h2, f3.trans h3, f2, fun e => ?_, fun e he => ?_, ⟨v, ?_⟩, fun y hy => (f6 y hy).trans (ctxOf_acquired ..), ⟨q, ?_⟩, fun hr => ?_⟩
  · by_cases he : e = s.turn
    · subst he; rw [f5]
    · rw [f4 e he]
  · rw [f4 e he]; exact h1 e
  · rw [f5]
    exact congrArg (fun k : Core => { k with ctxs := v }) (h1 s.turn)
  · rw [f7, ctxOf_acquired]
  · rw [f8 hr, ctxOf_acquired]

/-- The core and context behind a plain instruction, before its result lands. -/
theorem Plain.base {s : State} {x : Nat} {i : Instr} {w' : Core} {a : State}
   (ha : a = srsStep (acquired s x i) s.turn x (roundsOnce i))
   (h1 : ∃ p sh ic sl, w' = { setCoreCtx (coreOf a s.turn) x (coreCtx w' x) with pend := p, shadow := sh, ic := ic, sliceUsed := sl })
   (h2 : ∃ k b', coreCtx w' x = advanceCtx k b' none false (ctxOf a s.turn x)) :
   SameCore (coreOf s s.turn) w' ∧ (∀ y, y ≠ x → coreCtx w' y = ctxOf s s.turn y) ∧ SameCtx (ctxOf s s.turn x) (coreCtx w' x) ∧
   (innermost (ctxOf s s.turn x) = none → (coreCtx w' x).lsCnt = (ctxOf s s.turn x).lsCnt ∧ (coreCtx w' x).lsBody = (ctxOf s s.turn x).lsBody) ∧
   (roundsOnce i = false → (coreCtx w' x).srs = (ctxOf s s.turn x).srs) ∧
   (coreCtx w' x).s = (ctxOf s s.turn x).s ∧ (coreCtx w' x).a = (ctxOf s s.turn x).a ∧ (coreCtx w' x).p = (ctxOf s s.turn x).p ∧ (coreCtx w' x).stat = (ctxOf s s.turn x).stat := by
  obtain ⟨_, _, _, _, _, ⟨v, f5⟩, f6, ⟨q, f7⟩, f8⟩ := acquired_facts s x i (roundsOnce i)
  rw [← ha] at f5 f6 f7 f8
  obtain ⟨p, sh, ic, sl, h1⟩ := h1
  obtain ⟨k, b', h2⟩ := h2
  refine ⟨?_, ?_, ?_, ?_, ?_, ?_, ?_, ?_, ?_⟩
  · rw [h1]; unfold SameCore
    have := congrArg (fun k : Core => { k with ctxs := (coreOf s s.turn).ctxs, pend := (coreOf s s.turn).pend, shadow := (coreOf s s.turn).shadow,
                                               ic := (coreOf s s.turn).ic, sliceUsed := (coreOf s s.turn).sliceUsed,
                                               arrivals := (coreOf s s.turn).arrivals }) f5
    exact this
  · intro y hy; rw [h1]
    show coreCtx (setCoreCtx _ _ _) y = _
    rw [coreCtx_setCoreCtx, if_neg (Ne.symm hy)]
    exact f6 y hy
  · have := advanceCtx_rest k b' none false (ctxOf a s.turn x)
    rw [← h2, f7] at this
    unfold SameCtx
    have := congrArg (fun t : Ctx => { t with srs := (ctxOf s s.turn x).srs, s := (ctxOf s s.turn x).s, a := (ctxOf s s.turn x).a, p := (ctxOf s s.turn x).p, stat := (ctxOf s s.turn x).stat }) this
    exact this
  · intro hin
    have hin2 : innermost (ctxOf a s.turn x) = none := by rw [f7]; exact hin
    have := (advanceCtx_next k b' false _ hin2).2
    rw [← h2, f7] at this
    exact this
  · intro hr; rw [h2, f8 hr]; simp
  · rw [h2, f7]; simp
  · rw [h2, f7]; simp
  · rw [h2, f7]; simp
  · rw [h2, f7]; simp

/-- What a result of one register leaves. -/
theorem mod_facts (s1 : State) (c x : Nat) (w' : Core) (t : State) (f : Ctx → Ctx) (h : t = noteTimes (noteLanding (modCtx (setCore s1 c w') c x f) c x) c) :
  (∃ b, ctxOf t c x = { f (coreCtx w' x) with atLand := b }) ∧ (∀ o, SameCore o w' → SameCore o (coreOf t c)) ∧ (∀ y, y ≠ x → ctxOf t c y = coreCtx w' y) ∧ (t.mod = s1.mod ∧ t.dies = s1.dies ∧ t.mail = s1.mail) ∧ ∀ e, e ≠ c → coreOf t e = coreOf s1 e := by
  subst h
  refine ⟨?_, ?_, ?_, ⟨rfl, rfl, rfl⟩, ?_⟩
  · refine ⟨(f (coreCtx w' x)).atLand || groupEnds (f (coreCtx w' x)), ?_⟩
    simp [noteLanding]; simp [ctxOf]
  · intro o ho; simp [noteLanding, modCtx, setCtx]; exact ho
  · intro y hy; simp [noteLanding, ctxOf, modCtx, setCtx, Ne.symm hy]
  · intro e he; simp [noteLanding, modCtx, setCtx, Ne.symm he]

end Sys2Proof.Machine
end

