-- ==== Sys2Proof/Laws/PerInstr.lean ====
section
/-! SUPPORT. What is said of every instruction as syntax, one lemma for each constructor: its word is its own (13 R336 to R343). -/

namespace Sys2Proof.Laws.RoundTrip

open Sys2Proof

/-- A well-formed instruction of a slot class has a word, and the decoder of its class reads that word as the instruction.
A step of the module has no word. -/
def Statement (i : Instr) : Prop :=
  i.wf = true → ∀ c, i.slotClass = some c → ∃ w, encodeNat i = some w ∧ w < 2 ^ 32 ∧ decodeClass c w = .ok i

/-- A slot instruction whose class, word and operation code are known. -/
theorem of_word {i : Instr} {c : SlotClass} {w op : Nat} (hc : i.slotClass = some c) (he : encodeNat i = some w) (hl : w < 2 ^ 32)
    (ho : w / 0x1000000 = op) (hd : decodeClassOp c op w = .ok i) : Statement i := by
  intro h c' hc'
  rw [hc] at hc'
  cases hc'
  refine ⟨w, he, hl, ?_⟩
  rw [decodeClass, ho, hd]
  simp [h]

/-- A step of the module. -/
theorem of_step {i : Instr} (hc : i.slotClass = none) : Statement i := by
  intro _ c h
  rw [hc] at h
  cases h

/-- A field of bits read back. -/
theorem bits_eq {n w : Nat} {v : BitVec n} (h : w % 2 ^ n = v.toNat) : BitVec.ofNat n w = v := BitVec.eq_of_toNat_eq (by simpa using h)

/-- A field of one bit read back. -/
theorem bit_eq {w : Nat} {b : Bool} (h : w = b.toNat) : (w == 1) = b := by
  subst h
  cases b <;> rfl

theorem throttleEnter (die : DieId) (watts : Nat) (degC : Nat) : Statement (.throttleEnter die watts degC) := of_step rfl
theorem throttleExit (die : DieId) (watts : Nat) (degC : Nat) : Statement (.throttleExit die watts degC) := of_step rfl
theorem thermalShutdown (die : DieId) (degC : Nat) : Statement (.thermalShutdown die degC) := of_step rfl
theorem flitSend (link : LinkId) (credit : BitVec 8) : Statement (.flitSend link credit) := of_step rfl
theorem flitReceive (link : LinkId) (flit : List Byte) : Statement (.flitReceive link flit) := of_step rfl
theorem linkResend (link : LinkId) (seq : BitVec 12) : Statement (.linkResend link seq) := of_step rfl
theorem resendLimit (link : LinkId) : Statement (.resendLimit link) := of_step rfl
theorem ackTimeout (link : LinkId) : Statement (.ackTimeout link) := of_step rfl
theorem beatTick (die : DieId) : Statement (.beatTick die) := of_step rfl
theorem linkTrainDone (link : LinkId) (port : BitVec 8) : Statement (.linkTrainDone link port) := of_step rfl
theorem linkTrainTimeout (link : LinkId) : Statement (.linkTrainTimeout link) := of_step rfl
theorem hostRead (sp : HostSpace) (off : Nat) (len : Nat) : Statement (.hostRead sp off len) := of_step rfl
theorem hostWrite (sp : HostSpace) (off : Nat) (data : List Byte) : Statement (.hostWrite sp off data) := of_step rfl
theorem peerRequest (addr : Word) (len : Nat) (data : Option (List Byte)) : Statement (.peerRequest addr len data) := of_step rfl
theorem peerLoadTimeout (core : CoreId) : Statement (.peerLoadTimeout core) := of_step rfl
theorem strmCfgWrite (die : DieId) (strm : StreamId) (value : Word) : Statement (.strmCfgWrite die strm value) := of_step rfl
theorem strmCtlZero (die : DieId) (strm : StreamId) : Statement (.strmCtlZero die strm) := of_step rfl
theorem strmCtlAbort (die : DieId) (strm : StreamId) : Statement (.strmCtlAbort die strm) := of_step rfl
theorem strmCtlResume (die : DieId) (strm : StreamId) : Statement (.strmCtlResume die strm) := of_step rfl
theorem strmDb (die : DieId) (strm : StreamId) : Statement (.strmDb die strm) := of_step rfl
theorem pwrCapWrite (value : Word) : Statement (.pwrCapWrite value) := of_step rfl
theorem hostStatWrite (value : Word) : Statement (.hostStatWrite value) := of_step rfl
theorem registerWrite (off : Nat) (value : Word) : Statement (.registerWrite off value) := of_step rfl
theorem pollInterval (die : DieId) : Statement (.pollInterval die) := of_step rfl
theorem slotAccept (die : DieId) (strm : StreamId) : Statement (.slotAccept die strm) := of_step rfl
theorem streamAging (die : DieId) (strm : StreamId) : Statement (.streamAging die strm) := of_step rfl
theorem commandSelect (die : DieId) : Statement (.commandSelect die) := of_step rfl
theorem graphNodeEnd (die : DieId) (cid : Nat) (node : Nat) : Statement (.graphNodeEnd die cid node) := of_step rfl
theorem debugHalt (core : CoreId) : Statement (.debugHalt core) := of_step rfl
theorem s3Return (die : DieId) : Statement (.s3Return die) := of_step rfl
theorem taskStart (core : CoreId) : Statement (.taskStart core) := of_step rfl
theorem sliceEnd (core : CoreId) : Statement (.sliceEnd core) := of_step rfl
theorem preemptLand (core : CoreId) : Statement (.preemptLand core) := of_step rfl
theorem loadReturn (core : CoreId) (data : List Byte) : Statement (.loadReturn core data) := of_step rfl
theorem lateCause (core : CoreId) (count : Nat) (cause : Nat) (sub : Nat) (info : Word) : Statement (.lateCause core count cause sub info) := of_step rfl
theorem trapTake (core : CoreId) : Statement (.trapTake core) := of_step rfl
theorem feRetry (core : CoreId) : Statement (.feRetry core) := of_step rfl
theorem feBudgetExhausted (core : CoreId) : Statement (.feBudgetExhausted core) := of_step rfl
theorem wakeWalk (die : DieId) (pa : Nat) : Statement (.wakeWalk die pa) := of_step rfl
theorem cwaitSatisfied (core : CoreId) : Statement (.cwaitSatisfied core) := of_step rfl
theorem checkpoint (core : CoreId) : Statement (.checkpoint core) := of_step rfl
theorem internalError (core : CoreId) : Statement (.internalError core) := of_step rfl
theorem rehearsalCompare (core : CoreId) (agree : Bool) : Statement (.rehearsalCompare core agree) := of_step rfl
theorem phaseDrainEnd (core : CoreId) : Statement (.phaseDrainEnd core) := of_step rfl
theorem matrixComplete (core : CoreId) : Statement (.matrixComplete core) := of_step rfl
theorem coopStart (die : DieId) (cluster : Fin 4) : Statement (.coopStart die cluster) := of_step rfl
theorem coopTimeout (die : DieId) (cluster : Fin 4) : Statement (.coopTimeout die cluster) := of_step rfl
theorem copyComplete (core : CoreId) : Statement (.copyComplete core) := of_step rfl
theorem transposeComplete (core : CoreId) : Statement (.transposeComplete core) := of_step rfl
theorem gatherComplete (core : CoreId) : Statement (.gatherComplete core) := of_step rfl
theorem tokenEnter (core : CoreId) (ctx : CtxId) : Statement (.tokenEnter core ctx) := of_step rfl
theorem pgreqDone (die : DieId) (index : Nat) : Statement (.pgreqDone die index) := of_step rfl
theorem workEntryStart (die : DieId) (qp : BitVec 8) : Statement (.workEntryStart die qp) := of_step rfl
theorem chunkArrive (die : DieId) (chunk : Chunk) : Statement (.chunkArrive die chunk) := of_step rfl
theorem spillRefetch (die : DieId) : Statement (.spillRefetch die) := of_step rfl
theorem workEntryComplete (die : DieId) (qp : BitVec 8) (code : Nat) : Statement (.workEntryComplete die qp code) := of_step rfl
theorem generationAdvance (die : DieId) (grp : BitVec 12) : Statement (.generationAdvance die grp) := of_step rfl
theorem memberLoss (die : DieId) (grp : BitVec 12) (rank : Nat) : Statement (.memberLoss die grp rank) := of_step rfl
theorem contributionArrive (die : DieId) (grp : BitVec 12) (gen : BitVec 4) (src : Nat) (lead : Bool) (record : List Byte) : Statement (.contributionArrive die grp gen src lead record) := of_step rfl
theorem stepDeadline (die : DieId) (grp : BitVec 12) : Statement (.stepDeadline die grp) := of_step rfl
theorem stepClose (die : DieId) (grp : BitVec 12) : Statement (.stepClose die grp) := of_step rfl
theorem stepAssemble (die : DieId) (grp : BitVec 12) : Statement (.stepAssemble die grp) := of_step rfl
theorem closeAck (die : DieId) (grp : BitVec 12) (gen : BitVec 4) (seq : Word) (rank : Nat) : Statement (.closeAck die grp gen seq rank) := of_step rfl
theorem sealAnnounce (die : DieId) (grp : BitVec 12) (gen : BitVec 4) (seq : Word) : Statement (.sealAnnounce die grp gen seq) := of_step rfl
theorem leaderTakeover (die : DieId) (grp : BitVec 12) : Statement (.leaderTakeover die grp) := of_step rfl
theorem reduceRecordArrive (die : DieId) (grp : BitVec 12) (gen : BitVec 4) (record : List Byte) : Statement (.reduceRecordArrive die grp gen record) := of_step rfl
theorem scredArrive (die : DieId) (grp : BitVec 12) (gen : BitVec 4) (rank : Nat) (value : Word) : Statement (.scredArrive die grp gen rank value) := of_step rfl
theorem br (disp : BitVec 20) : Statement (.br disp) := by
  have := disp.isLt
  refine of_word (op := 0x01) rfl rfl (by omega) (by omega) ?_
  simp only [decodeClassOp, decodeControl]
  rw [ifFields, if_pos (by simp only [beq_iff_eq]; omega)]
  refine congrArg Except.ok (congrArg Instr.br ?_)
  · exact bits_eq (by omega)
theorem brp (p : PReg) (n : Bool) (disp : BitVec 20) : Statement (.brp p n disp) := by
  have := p.isLt; have := n.toNat_lt; have := disp.isLt
  refine of_word (op := 0x02) rfl rfl (by omega) (by omega) ?_
  simp only [decodeClassOp, decodeControl]
  rw [ifFields, if_pos rfl]
  refine congrArg Except.ok (congr (congr (congrArg Instr.brp ?_) ?_) ?_)
  · exact bits_eq (by omega)
  · exact bit_eq (by omega)
  · exact bits_eq (by omega)
theorem call (disp : BitVec 20) : Statement (.call disp) := by
  have := disp.isLt
  refine of_word (op := 0x03) rfl rfl (by omega) (by omega) ?_
  simp only [decodeClassOp, decodeControl]
  rw [ifFields, if_pos (by simp only [beq_iff_eq]; omega)]
  refine congrArg Except.ok (congrArg Instr.call ?_)
  · exact bits_eq (by omega)
theorem calli (a : SCode) : Statement (.calli a) := by
  have := a.isLt
  refine of_word (op := 0x04) rfl rfl (by omega) (by omega) ?_
  simp only [decodeClassOp, decodeControl]
  rw [ifFields, if_pos (by simp only [Bool.and_eq_true, beq_iff_eq]; omega)]
  refine congrArg Except.ok (congrArg Instr.calli ?_)
  · exact bits_eq (by omega)
theorem jmpi (a : SCode) : Statement (.jmpi a) := by
  have := a.isLt
  refine of_word (op := 0x05) rfl rfl (by omega) (by omega) ?_
  simp only [decodeClassOp, decodeControl]
  rw [ifFields, if_pos (by simp only [Bool.and_eq_true, beq_iff_eq]; omega)]
  refine congrArg Except.ok (congrArg Instr.jmpi ?_)
  · exact bits_eq (by omega)
theorem loop (a : SCode) (len : BitVec 12) : Statement (.loop a len) := by
  have := a.isLt; have := len.isLt
  refine of_word (op := 0x08) rfl rfl (by omega) (by omega) ?_
  simp only [decodeClassOp, decodeControl]
  rw [ifFields, if_pos (by simp only [beq_iff_eq]; omega)]
  refine congrArg Except.ok (congr (congrArg Instr.loop ?_) ?_)
  · exact bits_eq (by omega)
  · exact bits_eq (by omega)
theorem loopi (cnt : BitVec 12) (len : BitVec 12) : Statement (.loopi cnt len) := by
  have := cnt.isLt; have := len.isLt
  refine of_word (op := 0x09) rfl rfl (by omega) (by omega) ?_
  simp only [decodeClassOp, decodeControl]
  rw [ifFields, if_pos rfl]
  refine congrArg Except.ok (congr (congrArg Instr.loopi ?_) ?_)
  · exact bits_eq (by omega)
  · exact bits_eq (by omega)
theorem bundleIssue (core : CoreId) : Statement (.bundleIssue core) := of_step rfl
theorem mtc (a : SCode) (cr : BitVec 12) : Statement (.mtc a cr) := by
  have := a.isLt; have := cr.isLt
  refine of_word (op := 0x10) rfl rfl (by omega) (by omega) ?_
  simp only [decodeClassOp, decodeControl]
  rw [ifFields, if_pos (by simp only [beq_iff_eq]; omega)]
  refine congrArg Except.ok (congr (congrArg Instr.mtc ?_) ?_)
  · exact bits_eq (by omega)
  · exact bits_eq (by omega)
theorem mfc (d : SCode) (cr : BitVec 12) : Statement (.mfc d cr) := by
  have := d.isLt; have := cr.isLt
  refine of_word (op := 0x11) rfl rfl (by omega) (by omega) ?_
  simp only [decodeClassOp, decodeControl]
  rw [ifFields, if_pos (by simp only [beq_iff_eq]; omega)]
  refine congrArg Except.ok (congr (congrArg Instr.mfc ?_) ?_)
  · exact bits_eq (by omega)
  · exact bits_eq (by omega)
theorem phase (units : BitVec 12) : Statement (.phase units) := by
  have := units.isLt
  refine of_word (op := 0x14) rfl rfl (by omega) (by omega) ?_
  simp only [decodeClassOp, decodeControl]
  rw [ifFields, if_pos (by simp only [beq_iff_eq]; omega)]
  refine congrArg Except.ok (congrArg Instr.phase ?_)
  · exact bits_eq (by omega)
theorem spawn (d : SCode) (a : SCode) (b : SCode) (pool : Bool) : Statement (.spawn d a b pool) := by
  have := d.isLt; have := a.isLt; have := b.isLt; have := pool.toNat_lt
  refine of_word (op := 0x20) rfl rfl (by omega) (by omega) ?_
  simp only [decodeClassOp, decodeControl]
  rw [ifFields, if_pos (by simp only [beq_iff_eq]; omega)]
  refine congrArg Except.ok (congr (congr (congr (congrArg Instr.spawn ?_) ?_) ?_) ?_)
  · exact bits_eq (by omega)
  · exact bits_eq (by omega)
  · exact bits_eq (by omega)
  · exact bit_eq (by omega)
theorem join (d : SCode) (a : SCode) : Statement (.join d a) := by
  have := d.isLt; have := a.isLt
  refine of_word (op := 0x21) rfl rfl (by omega) (by omega) ?_
  simp only [decodeClassOp, decodeControl]
  rw [ifFields, if_pos (by simp only [beq_iff_eq]; omega)]
  refine congrArg Except.ok (congr (congrArg Instr.join ?_) ?_)
  · exact bits_eq (by omega)
  · exact bits_eq (by omega)
theorem tkill (d : SCode) (a : SCode) (b : SCode) : Statement (.tkill d a b) := by
  have := d.isLt; have := a.isLt; have := b.isLt
  refine of_word (op := 0x23) rfl rfl (by omega) (by omega) ?_
  simp only [decodeClassOp, decodeControl]
  rw [ifFields, if_pos (by simp only [beq_iff_eq]; omega)]
  refine congrArg Except.ok (congr (congr (congrArg Instr.tkill ?_) ?_) ?_)
  · exact bits_eq (by omega)
  · exact bits_eq (by omega)
  · exact bits_eq (by omega)
theorem trap (imm : BitVec 18) : Statement (.trap imm) := by
  have := imm.isLt
  refine of_word (op := 0x28) rfl rfl (by omega) (by omega) ?_
  simp only [decodeClassOp, decodeControl]
  rw [ifFields, if_pos (by simp only [beq_iff_eq]; omega)]
  refine congrArg Except.ok (congrArg Instr.trap ?_)
  · exact bits_eq (by omega)
theorem sysc (imm : BitVec 18) : Statement (.sysc imm) := by
  have := imm.isLt
  refine of_word (op := 0x29) rfl rfl (by omega) (by omega) ?_
  simp only [decodeClassOp, decodeControl]
  rw [ifFields, if_pos (by simp only [beq_iff_eq]; omega)]
  refine congrArg Except.ok (congrArg Instr.sysc ?_)
  · exact bits_eq (by omega)
theorem brk (imm : BitVec 18) : Statement (.brk imm) := by
  have := imm.isLt
  refine of_word (op := 0x2A) rfl rfl (by omega) (by omega) ?_
  simp only [decodeClassOp, decodeControl]
  rw [ifFields, if_pos (by simp only [beq_iff_eq]; omega)]
  refine congrArg Except.ok (congrArg Instr.brk ?_)
  · exact bits_eq (by omega)
theorem eret (nx : Bool) : Statement (.eret nx) := by
  have := nx.toNat_lt
  refine of_word (op := 0x30) rfl rfl (by omega) (by omega) ?_
  simp only [decodeClassOp, decodeControl]
  rw [ifFields, if_pos (by simp only [beq_iff_eq]; omega)]
  refine congrArg Except.ok (congrArg Instr.eret ?_)
  · exact bit_eq (by omega)
theorem ctxsw (a : SCode) (nx : Bool) : Statement (.ctxsw a nx) := by
  have := a.isLt; have := nx.toNat_lt
  refine of_word (op := 0x31) rfl rfl (by omega) (by omega) ?_
  simp only [decodeClassOp, decodeControl]
  rw [ifFields, if_pos (by simp only [Bool.and_eq_true, beq_iff_eq]; omega)]
  refine congrArg Except.ok (congr (congrArg Instr.ctxsw ?_) ?_)
  · exact bits_eq (by omega)
  · exact bit_eq (by omega)
theorem halt (nx : Bool) : Statement (.halt nx) := by
  have := nx.toNat_lt
  refine of_word (op := 0x32) rfl rfl (by omega) (by omega) ?_
  simp only [decodeClassOp, decodeControl]
  rw [ifFields, if_pos (by simp only [beq_iff_eq]; omega)]
  refine congrArg Except.ok (congrArg Instr.halt ?_)
  · exact bit_eq (by omega)
theorem add (d : SCode) (a : SCode) (b : SCode) : Statement (.add d a b) := by
  have := d.isLt; have := a.isLt; have := b.isLt
  refine of_word (op := 0x01) rfl rfl (by omega) (by omega) ?_
  simp only [decodeClassOp, decodeScalar]
  rw [ifFields, if_pos (by simp only [beq_iff_eq]; omega)]
  refine congrArg Except.ok (congr (congr (congrArg Instr.add ?_) ?_) ?_)
  · exact bits_eq (by omega)
  · exact bits_eq (by omega)
  · exact bits_eq (by omega)
theorem sub (d : SCode) (a : SCode) (b : SCode) : Statement (.sub d a b) := by
  have := d.isLt; have := a.isLt; have := b.isLt
  refine of_word (op := 0x02) rfl rfl (by omega) (by omega) ?_
  simp only [decodeClassOp, decodeScalar]
  rw [ifFields, if_pos (by simp only [beq_iff_eq]; omega)]
  refine congrArg Except.ok (congr (congr (congrArg Instr.sub ?_) ?_) ?_)
  · exact bits_eq (by omega)
  · exact bits_eq (by omega)
  · exact bits_eq (by omega)
theorem mul (d : SCode) (a : SCode) (b : SCode) : Statement (.mul d a b) := by
  have := d.isLt; have := a.isLt; have := b.isLt
  refine of_word (op := 0x03) rfl rfl (by omega) (by omega) ?_
  simp only [decodeClassOp, decodeScalar]
  rw [ifFields, if_pos (by simp only [beq_iff_eq]; omega)]
  refine congrArg Except.ok (congr (congr (congrArg Instr.mul ?_) ?_) ?_)
  · exact bits_eq (by omega)
  · exact bits_eq (by omega)
  · exact bits_eq (by omega)
theorem mulh (d : SCode) (a : SCode) (b : SCode) : Statement (.mulh d a b) := by
  have := d.isLt; have := a.isLt; have := b.isLt
  refine of_word (op := 0x04) rfl rfl (by omega) (by omega) ?_
  simp only [decodeClassOp, decodeScalar]
  rw [ifFields, if_pos (by simp only [beq_iff_eq]; omega)]
  refine congrArg Except.ok (congr (congr (congrArg Instr.mulh ?_) ?_) ?_)
  · exact bits_eq (by omega)
  · exact bits_eq (by omega)
  · exact bits_eq (by omega)
theorem mulhu (d : SCode) (a : SCode) (b : SCode) : Statement (.mulhu d a b) := by
  have := d.isLt; have := a.isLt; have := b.isLt
  refine of_word (op := 0x05) rfl rfl (by omega) (by omega) ?_
  simp only [decodeClassOp, decodeScalar]
  rw [ifFields, if_pos (by simp only [beq_iff_eq]; omega)]
  refine congrArg Except.ok (congr (congr (congrArg Instr.mulhu ?_) ?_) ?_)
  · exact bits_eq (by omega)
  · exact bits_eq (by omega)
  · exact bits_eq (by omega)
theorem div (d : SCode) (a : SCode) (b : SCode) : Statement (.div d a b) := by
  have := d.isLt; have := a.isLt; have := b.isLt
  refine of_word (op := 0x06) rfl rfl (by omega) (by omega) ?_
  simp only [decodeClassOp, decodeScalar]
  rw [ifFields, if_pos (by simp only [beq_iff_eq]; omega)]
  refine congrArg Except.ok (congr (congr (congrArg Instr.div ?_) ?_) ?_)
  · exact bits_eq (by omega)
  · exact bits_eq (by omega)
  · exact bits_eq (by omega)
theorem divu (d : SCode) (a : SCode) (b : SCode) : Statement (.divu d a b) := by
  have := d.isLt; have := a.isLt; have := b.isLt
  refine of_word (op := 0x07) rfl rfl (by omega) (by omega) ?_
  simp only [decodeClassOp, decodeScalar]
  rw [ifFields, if_pos (by simp only [beq_iff_eq]; omega)]
  refine congrArg Except.ok (congr (congr (congrArg Instr.divu ?_) ?_) ?_)
  · exact bits_eq (by omega)
  · exact bits_eq (by omega)
  · exact bits_eq (by omega)
theorem rem (d : SCode) (a : SCode) (b : SCode) : Statement (.rem d a b) := by
  have := d.isLt; have := a.isLt; have := b.isLt
  refine of_word (op := 0x08) rfl rfl (by omega) (by omega) ?_
  simp only [decodeClassOp, decodeScalar]
  rw [ifFields, if_pos (by simp only [beq_iff_eq]; omega)]
  refine congrArg Except.ok (congr (congr (congrArg Instr.rem ?_) ?_) ?_)
  · exact bits_eq (by omega)
  · exact bits_eq (by omega)
  · exact bits_eq (by omega)
theorem remu (d : SCode) (a : SCode) (b : SCode) : Statement (.remu d a b) := by
  have := d.isLt; have := a.isLt; have := b.isLt
  refine of_word (op := 0x09) rfl rfl (by omega) (by omega) ?_
  simp only [decodeClassOp, decodeScalar]
  rw [ifFields, if_pos (by simp only [beq_iff_eq]; omega)]
  refine congrArg Except.ok (congr (congr (congrArg Instr.remu ?_) ?_) ?_)
  · exact bits_eq (by omega)
  · exact bits_eq (by omega)
  · exact bits_eq (by omega)
theorem and (d : SCode) (a : SCode) (b : SCode) : Statement (.and d a b) := by
  have := d.isLt; have := a.isLt; have := b.isLt
  refine of_word (op := 0x0A) rfl rfl (by omega) (by omega) ?_
  simp only [decodeClassOp, decodeScalar]
  rw [ifFields, if_pos (by simp only [beq_iff_eq]; omega)]
  refine congrArg Except.ok (congr (congr (congrArg Instr.and ?_) ?_) ?_)
  · exact bits_eq (by omega)
  · exact bits_eq (by omega)
  · exact bits_eq (by omega)
theorem or (d : SCode) (a : SCode) (b : SCode) : Statement (.or d a b) := by
  have := d.isLt; have := a.isLt; have := b.isLt
  refine of_word (op := 0x0B) rfl rfl (by omega) (by omega) ?_
  simp only [decodeClassOp, decodeScalar]
  rw [ifFields, if_pos (by simp only [beq_iff_eq]; omega)]
  refine congrArg Except.ok (congr (congr (congrArg Instr.or ?_) ?_) ?_)
  · exact bits_eq (by omega)
  · exact bits_eq (by omega)
  · exact bits_eq (by omega)
theorem xor (d : SCode) (a : SCode) (b : SCode) : Statement (.xor d a b) := by
  have := d.isLt; have := a.isLt; have := b.isLt
  refine of_word (op := 0x0C) rfl rfl (by omega) (by omega) ?_
  simp only [decodeClassOp, decodeScalar]
  rw [ifFields, if_pos (by simp only [beq_iff_eq]; omega)]
  refine congrArg Except.ok (congr (congr (congrArg Instr.xor ?_) ?_) ?_)
  · exact bits_eq (by omega)
  · exact bits_eq (by omega)
  · exact bits_eq (by omega)
theorem andn (d : SCode) (a : SCode) (b : SCode) : Statement (.andn d a b) := by
  have := d.isLt; have := a.isLt; have := b.isLt
  refine of_word (op := 0x0D) rfl rfl (by omega) (by omega) ?_
  simp only [decodeClassOp, decodeScalar]
  rw [ifFields, if_pos (by simp only [beq_iff_eq]; omega)]
  refine congrArg Except.ok (congr (congr (congrArg Instr.andn ?_) ?_) ?_)
  · exact bits_eq (by omega)
  · exact bits_eq (by omega)
  · exact bits_eq (by omega)
theorem shl (d : SCode) (a : SCode) (b : SCode) : Statement (.shl d a b) := by
  have := d.isLt; have := a.isLt; have := b.isLt
  refine of_word (op := 0x0E) rfl rfl (by omega) (by omega) ?_
  simp only [decodeClassOp, decodeScalar]
  rw [ifFields, if_pos (by simp only [beq_iff_eq]; omega)]
  refine congrArg Except.ok (congr (congr (congrArg Instr.shl ?_) ?_) ?_)
  · exact bits_eq (by omega)
  · exact bits_eq (by omega)
  · exact bits_eq (by omega)
theorem shr (d : SCode) (a : SCode) (b : SCode) : Statement (.shr d a b) := by
  have := d.isLt; have := a.isLt; have := b.isLt
  refine of_word (op := 0x0F) rfl rfl (by omega) (by omega) ?_
  simp only [decodeClassOp, decodeScalar]
  rw [ifFields, if_pos (by simp only [beq_iff_eq]; omega)]
  refine congrArg Except.ok (congr (congr (congrArg Instr.shr ?_) ?_) ?_)
  · exact bits_eq (by omega)
  · exact bits_eq (by omega)
  · exact bits_eq (by omega)
theorem sar (d : SCode) (a : SCode) (b : SCode) : Statement (.sar d a b) := by
  have := d.isLt; have := a.isLt; have := b.isLt
  refine of_word (op := 0x10) rfl rfl (by omega) (by omega) ?_
  simp only [decodeClassOp, decodeScalar]
  rw [ifFields, if_pos (by simp only [beq_iff_eq]; omega)]
  refine congrArg Except.ok (congr (congr (congrArg Instr.sar ?_) ?_) ?_)
  · exact bits_eq (by omega)
  · exact bits_eq (by omega)
  · exact bits_eq (by omega)
theorem rol (d : SCode) (a : SCode) (b : SCode) : Statement (.rol d a b) := by
  have := d.isLt; have := a.isLt; have := b.isLt
  refine of_word (op := 0x11) rfl rfl (by omega) (by omega) ?_
  simp only [decodeClassOp, decodeScalar]
  rw [ifFields, if_pos (by simp only [beq_iff_eq]; omega)]
  refine congrArg Except.ok (congr (congr (congrArg Instr.rol ?_) ?_) ?_)
  · exact bits_eq (by omega)
  · exact bits_eq (by omega)
  · exact bits_eq (by omega)
theorem min (d : SCode) (a : SCode) (b : SCode) : Statement (.min d a b) := by
  have := d.isLt; have := a.isLt; have := b.isLt
  refine of_word (op := 0x12) rfl rfl (by omega) (by omega) ?_
  simp only [decodeClassOp, decodeScalar]
  rw [ifFields, if_pos (by simp only [beq_iff_eq]; omega)]
  refine congrArg Except.ok (congr (congr (congrArg Instr.min ?_) ?_) ?_)
  · exact bits_eq (by omega)
  · exact bits_eq (by omega)
  · exact bits_eq (by omega)
theorem max (d : SCode) (a : SCode) (b : SCode) : Statement (.max d a b) := by
  have := d.isLt; have := a.isLt; have := b.isLt
  refine of_word (op := 0x13) rfl rfl (by omega) (by omega) ?_
  simp only [decodeClassOp, decodeScalar]
  rw [ifFields, if_pos (by simp only [beq_iff_eq]; omega)]
  refine congrArg Except.ok (congr (congr (congrArg Instr.max ?_) ?_) ?_)
  · exact bits_eq (by omega)
  · exact bits_eq (by omega)
  · exact bits_eq (by omega)
theorem minu (d : SCode) (a : SCode) (b : SCode) : Statement (.minu d a b) := by
  have := d.isLt; have := a.isLt; have := b.isLt
  refine of_word (op := 0x14) rfl rfl (by omega) (by omega) ?_
  simp only [decodeClassOp, decodeScalar]
  rw [ifFields, if_pos (by simp only [beq_iff_eq]; omega)]
  refine congrArg Except.ok (congr (congr (congrArg Instr.minu ?_) ?_) ?_)
  · exact bits_eq (by omega)
  · exact bits_eq (by omega)
  · exact bits_eq (by omega)
theorem maxu (d : SCode) (a : SCode) (b : SCode) : Statement (.maxu d a b) := by
  have := d.isLt; have := a.isLt; have := b.isLt
  refine of_word (op := 0x15) rfl rfl (by omega) (by omega) ?_
  simp only [decodeClassOp, decodeScalar]
  rw [ifFields, if_pos (by simp only [beq_iff_eq]; omega)]
  refine congrArg Except.ok (congr (congr (congrArg Instr.maxu ?_) ?_) ?_)
  · exact bits_eq (by omega)
  · exact bits_eq (by omega)
  · exact bits_eq (by omega)
theorem clz (d : SCode) (a : SCode) : Statement (.clz d a) := by
  have := d.isLt; have := a.isLt
  refine of_word (op := 0x16) rfl rfl (by omega) (by omega) ?_
  simp only [decodeClassOp, decodeScalar]
  rw [ifFields, if_pos (by simp only [beq_iff_eq]; omega)]
  refine congrArg Except.ok (congr (congrArg Instr.clz ?_) ?_)
  · exact bits_eq (by omega)
  · exact bits_eq (by omega)
theorem popc (d : SCode) (a : SCode) : Statement (.popc d a) := by
  have := d.isLt; have := a.isLt
  refine of_word (op := 0x17) rfl rfl (by omega) (by omega) ?_
  simp only [decodeClassOp, decodeScalar]
  rw [ifFields, if_pos (by simp only [beq_iff_eq]; omega)]
  refine congrArg Except.ok (congr (congrArg Instr.popc ?_) ?_)
  · exact bits_eq (by omega)
  · exact bits_eq (by omega)
theorem sel (d : SCode) (a : SCode) (b : SCode) (p : PReg) : Statement (.sel d a b p) := by
  have := d.isLt; have := a.isLt; have := b.isLt; have := p.isLt
  refine of_word (op := 0x18) rfl rfl (by omega) (by omega) ?_
  simp only [decodeClassOp, decodeScalar]
  rw [ifFields, if_pos (by simp only [beq_iff_eq]; omega)]
  refine congrArg Except.ok (congr (congr (congr (congrArg Instr.sel ?_) ?_) ?_) ?_)
  · exact bits_eq (by omega)
  · exact bits_eq (by omega)
  · exact bits_eq (by omega)
  · exact bits_eq (by omega)
theorem addi (d : SCode) (a : SCode) (imm : BitVec 12) : Statement (.addi d a imm) := by
  have := d.isLt; have := a.isLt; have := imm.isLt
  refine of_word (op := 0x20) rfl rfl (by omega) (by omega) ?_
  simp only [decodeClassOp, decodeScalar]
  rw [ifFields, if_pos rfl]
  refine congrArg Except.ok (congr (congr (congrArg Instr.addi ?_) ?_) ?_)
  · exact bits_eq (by omega)
  · exact bits_eq (by omega)
  · exact bits_eq (by omega)
theorem andi (d : SCode) (a : SCode) (imm : BitVec 12) : Statement (.andi d a imm) := by
  have := d.isLt; have := a.isLt; have := imm.isLt
  refine of_word (op := 0x21) rfl rfl (by omega) (by omega) ?_
  simp only [decodeClassOp, decodeScalar]
  rw [ifFields, if_pos rfl]
  refine congrArg Except.ok (congr (congr (congrArg Instr.andi ?_) ?_) ?_)
  · exact bits_eq (by omega)
  · exact bits_eq (by omega)
  · exact bits_eq (by omega)
theorem ori (d : SCode) (a : SCode) (imm : BitVec 12) : Statement (.ori d a imm) := by
  have := d.isLt; have := a.isLt; have := imm.isLt
  refine of_word (op := 0x22) rfl rfl (by omega) (by omega) ?_
  simp only [decodeClassOp, decodeScalar]
  rw [ifFields, if_pos rfl]
  refine congrArg Except.ok (congr (congr (congrArg Instr.ori ?_) ?_) ?_)
  · exact bits_eq (by omega)
  · exact bits_eq (by omega)
  · exact bits_eq (by omega)
theorem xori (d : SCode) (a : SCode) (imm : BitVec 12) : Statement (.xori d a imm) := by
  have := d.isLt; have := a.isLt; have := imm.isLt
  refine of_word (op := 0x23) rfl rfl (by omega) (by omega) ?_
  simp only [decodeClassOp, decodeScalar]
  rw [ifFields, if_pos rfl]
  refine congrArg Except.ok (congr (congr (congrArg Instr.xori ?_) ?_) ?_)
  · exact bits_eq (by omega)
  · exact bits_eq (by omega)
  · exact bits_eq (by omega)
theorem shli (d : SCode) (a : SCode) (sh : BitVec 6) : Statement (.shli d a sh) := by
  have := d.isLt; have := a.isLt; have := sh.isLt
  refine of_word (op := 0x24) rfl rfl (by omega) (by omega) ?_
  simp only [decodeClassOp, decodeScalar]
  rw [ifFields, if_pos (by simp only [beq_iff_eq]; omega)]
  refine congrArg Except.ok (congr (congr (congrArg Instr.shli ?_) ?_) ?_)
  · exact bits_eq (by omega)
  · exact bits_eq (by omega)
  · exact bits_eq (by omega)
theorem shri (d : SCode) (a : SCode) (sh : BitVec 6) : Statement (.shri d a sh) := by
  have := d.isLt; have := a.isLt; have := sh.isLt
  refine of_word (op := 0x25) rfl rfl (by omega) (by omega) ?_
  simp only [decodeClassOp, decodeScalar]
  rw [ifFields, if_pos (by simp only [beq_iff_eq]; omega)]
  refine congrArg Except.ok (congr (congr (congrArg Instr.shri ?_) ?_) ?_)
  · exact bits_eq (by omega)
  · exact bits_eq (by omega)
  · exact bits_eq (by omega)
theorem sari (d : SCode) (a : SCode) (sh : BitVec 6) : Statement (.sari d a sh) := by
  have := d.isLt; have := a.isLt; have := sh.isLt
  refine of_word (op := 0x26) rfl rfl (by omega) (by omega) ?_
  simp only [decodeClassOp, decodeScalar]
  rw [ifFields, if_pos (by simp only [beq_iff_eq]; omega)]
  refine congrArg Except.ok (congr (congr (congrArg Instr.sari ?_) ?_) ?_)
  · exact bits_eq (by omega)
  · exact bits_eq (by omega)
  · exact bits_eq (by omega)
theorem roli (d : SCode) (a : SCode) (sh : BitVec 6) : Statement (.roli d a sh) := by
  have := d.isLt; have := a.isLt; have := sh.isLt
  refine of_word (op := 0x27) rfl rfl (by omega) (by omega) ?_
  simp only [decodeClassOp, decodeScalar]
  rw [ifFields, if_pos (by simp only [beq_iff_eq]; omega)]
  refine congrArg Except.ok (congr (congr (congrArg Instr.roli ?_) ?_) ?_)
  · exact bits_eq (by omega)
  · exact bits_eq (by omega)
  · exact bits_eq (by omega)
theorem movi (d : SCode) (imm : BitVec 18) : Statement (.movi d imm) := by
  have := d.isLt; have := imm.isLt
  refine of_word (op := 0x28) rfl rfl (by omega) (by omega) ?_
  simp only [decodeClassOp, decodeScalar]
  rw [ifFields, if_pos rfl]
  refine congrArg Except.ok (congr (congrArg Instr.movi ?_) ?_)
  · exact bits_eq (by omega)
  · exact bits_eq (by omega)
theorem insh (d : SCode) (k : BitVec 2) (imm : BitVec 16) : Statement (.insh d k imm) := by
  have := d.isLt; have := k.isLt; have := imm.isLt
  refine of_word (op := 0x29) rfl rfl (by omega) (by omega) ?_
  simp only [decodeClassOp, decodeScalar]
  rw [ifFields, if_pos rfl]
  refine congrArg Except.ok (congr (congr (congrArg Instr.insh ?_) ?_) ?_)
  · exact bits_eq (by omega)
  · exact bits_eq (by omega)
  · exact bits_eq (by omega)
theorem pcmp (pd : PReg) (a : SCode) (b : SCode) (cond : BitVec 3) : Statement (.pcmp pd a b cond) := by
  have := pd.isLt; have := a.isLt; have := b.isLt; have := cond.isLt
  refine of_word (op := 0x30) rfl rfl (by omega) (by omega) ?_
  simp only [decodeClassOp, decodeScalar]
  rw [ifFields, if_pos (by simp only [Bool.and_eq_true, beq_iff_eq]; omega)]
  refine congrArg Except.ok (congr (congr (congr (congrArg Instr.pcmp ?_) ?_) ?_) ?_)
  · exact bits_eq (by omega)
  · exact bits_eq (by omega)
  · exact bits_eq (by omega)
  · exact bits_eq (by omega)
theorem pcmpi (cond : BitVec 3) (pd : PReg) (a : SCode) (imm : BitVec 12) : Statement (.pcmpi cond pd a imm) := by
  have := cond.isLt; have := pd.isLt; have := a.isLt; have := imm.isLt
  refine of_word (op := 0x31) rfl rfl (by omega) (by omega) ?_
  simp only [decodeClassOp, decodeScalar]
  rw [ifFields, if_pos rfl]
  refine congrArg Except.ok (congr (congr (congr (congrArg Instr.pcmpi ?_) ?_) ?_) ?_)
  · exact bits_eq (by omega)
  · exact bits_eq (by omega)
  · exact bits_eq (by omega)
  · exact bits_eq (by omega)
theorem plog (pd : PReg) (pa : PReg) (pb : PReg) (tt : BitVec 4) : Statement (.plog pd pa pb tt) := by
  have := pd.isLt; have := pa.isLt; have := pb.isLt; have := tt.isLt
  refine of_word (op := 0x32) rfl rfl (by omega) (by omega) ?_
  simp only [decodeClassOp, decodeScalar]
  rw [ifFields, if_pos (by simp only [Bool.and_eq_true, beq_iff_eq]; omega)]
  refine congrArg Except.ok (congr (congr (congr (congrArg Instr.plog ?_) ?_) ?_) ?_)
  · exact bits_eq (by omega)
  · exact bits_eq (by omega)
  · exact bits_eq (by omega)
  · exact bits_eq (by omega)
theorem amov (ad : AReg) (a : SCode) : Statement (.amov ad a) := by
  have := ad.isLt; have := a.isLt
  refine of_word (op := 0x38) rfl rfl (by omega) (by omega) ?_
  simp only [decodeClassOp, decodeScalar]
  rw [ifFields, if_pos (by simp only [Bool.and_eq_true, beq_iff_eq]; omega)]
  refine congrArg Except.ok (congr (congrArg Instr.amov ?_) ?_)
  · exact bits_eq (by omega)
  · exact bits_eq (by omega)
theorem aadd (ad : AReg) (aa : AReg) (b : SCode) : Statement (.aadd ad aa b) := by
  have := ad.isLt; have := aa.isLt; have := b.isLt
  refine of_word (op := 0x39) rfl rfl (by omega) (by omega) ?_
  simp only [decodeClassOp, decodeScalar]
  rw [ifFields, if_pos (by simp only [Bool.and_eq_true, beq_iff_eq]; omega)]
  refine congrArg Except.ok (congr (congr (congrArg Instr.aadd ?_) ?_) ?_)
  · exact bits_eq (by omega)
  · exact bits_eq (by omega)
  · exact bits_eq (by omega)
theorem aaddi (ad : AReg) (aa : AReg) (imm : BitVec 12) : Statement (.aaddi ad aa imm) := by
  have := ad.isLt; have := aa.isLt; have := imm.isLt
  refine of_word (op := 0x3A) rfl rfl (by omega) (by omega) ?_
  simp only [decodeClassOp, decodeScalar]
  rw [ifFields, if_pos (by simp only [Bool.and_eq_true, beq_iff_eq]; omega)]
  refine congrArg Except.ok (congr (congr (congrArg Instr.aaddi ?_) ?_) ?_)
  · exact bits_eq (by omega)
  · exact bits_eq (by omega)
  · exact bits_eq (by omega)
theorem aget (d : SCode) (aa : AReg) : Statement (.aget d aa) := by
  have := d.isLt; have := aa.isLt
  refine of_word (op := 0x3B) rfl rfl (by omega) (by omega) ?_
  simp only [decodeClassOp, decodeScalar]
  rw [ifFields, if_pos (by simp only [Bool.and_eq_true, beq_iff_eq]; omega)]
  refine congrArg Except.ok (congr (congrArg Instr.aget ?_) ?_)
  · exact bits_eq (by omega)
  · exact bits_eq (by omega)
theorem lidx (d : SCode) (depth : BitVec 3) : Statement (.lidx d depth) := by
  have := d.isLt; have := depth.isLt
  refine of_word (op := 0x3C) rfl rfl (by omega) (by omega) ?_
  simp only [decodeClassOp, decodeScalar]
  rw [ifFields, if_pos (by simp only [beq_iff_eq]; omega)]
  refine congrArg Except.ok (congr (congrArg Instr.lidx ?_) ?_)
  · exact bits_eq (by omega)
  · exact bits_eq (by omega)
theorem fadd (d : SCode) (a : SCode) (b : SCode) (t : Bool) : Statement (.fadd d a b t) := by
  have := d.isLt; have := a.isLt; have := b.isLt; have := t.toNat_lt
  refine of_word (op := 0x40) rfl rfl (by omega) (by omega) ?_
  simp only [decodeClassOp, decodeScalar]
  rw [ifFields, if_pos (by simp only [beq_iff_eq]; omega)]
  refine congrArg Except.ok (congr (congr (congr (congrArg Instr.fadd ?_) ?_) ?_) ?_)
  · exact bits_eq (by omega)
  · exact bits_eq (by omega)
  · exact bits_eq (by omega)
  · exact bit_eq (by omega)
theorem fsub (d : SCode) (a : SCode) (b : SCode) (t : Bool) : Statement (.fsub d a b t) := by
  have := d.isLt; have := a.isLt; have := b.isLt; have := t.toNat_lt
  refine of_word (op := 0x41) rfl rfl (by omega) (by omega) ?_
  simp only [decodeClassOp, decodeScalar]
  rw [ifFields, if_pos (by simp only [beq_iff_eq]; omega)]
  refine congrArg Except.ok (congr (congr (congr (congrArg Instr.fsub ?_) ?_) ?_) ?_)
  · exact bits_eq (by omega)
  · exact bits_eq (by omega)
  · exact bits_eq (by omega)
  · exact bit_eq (by omega)
theorem fmul (d : SCode) (a : SCode) (b : SCode) (t : Bool) : Statement (.fmul d a b t) := by
  have := d.isLt; have := a.isLt; have := b.isLt; have := t.toNat_lt
  refine of_word (op := 0x42) rfl rfl (by omega) (by omega) ?_
  simp only [decodeClassOp, decodeScalar]
  rw [ifFields, if_pos (by simp only [beq_iff_eq]; omega)]
  refine congrArg Except.ok (congr (congr (congr (congrArg Instr.fmul ?_) ?_) ?_) ?_)
  · exact bits_eq (by omega)
  · exact bits_eq (by omega)
  · exact bits_eq (by omega)
  · exact bit_eq (by omega)
theorem ffma (d : SCode) (a : SCode) (b : SCode) (t : Bool) : Statement (.ffma d a b t) := by
  have := d.isLt; have := a.isLt; have := b.isLt; have := t.toNat_lt
  refine of_word (op := 0x43) rfl rfl (by omega) (by omega) ?_
  simp only [decodeClassOp, decodeScalar]
  rw [ifFields, if_pos (by simp only [beq_iff_eq]; omega)]
  refine congrArg Except.ok (congr (congr (congr (congrArg Instr.ffma ?_) ?_) ?_) ?_)
  · exact bits_eq (by omega)
  · exact bits_eq (by omega)
  · exact bits_eq (by omega)
  · exact bit_eq (by omega)
theorem fmin (d : SCode) (a : SCode) (b : SCode) (t : Bool) : Statement (.fmin d a b t) := by
  have := d.isLt; have := a.isLt; have := b.isLt; have := t.toNat_lt
  refine of_word (op := 0x44) rfl rfl (by omega) (by omega) ?_
  simp only [decodeClassOp, decodeScalar]
  rw [ifFields, if_pos (by simp only [beq_iff_eq]; omega)]
  refine congrArg Except.ok (congr (congr (congr (congrArg Instr.fmin ?_) ?_) ?_) ?_)
  · exact bits_eq (by omega)
  · exact bits_eq (by omega)
  · exact bits_eq (by omega)
  · exact bit_eq (by omega)
theorem fmax (d : SCode) (a : SCode) (b : SCode) (t : Bool) : Statement (.fmax d a b t) := by
  have := d.isLt; have := a.isLt; have := b.isLt; have := t.toNat_lt
  refine of_word (op := 0x45) rfl rfl (by omega) (by omega) ?_
  simp only [decodeClassOp, decodeScalar]
  rw [ifFields, if_pos (by simp only [beq_iff_eq]; omega)]
  refine congrArg Except.ok (congr (congr (congr (congrArg Instr.fmax ?_) ?_) ?_) ?_)
  · exact bits_eq (by omega)
  · exact bits_eq (by omega)
  · exact bits_eq (by omega)
  · exact bit_eq (by omega)
theorem fcvt (d : SCode) (a : SCode) (dt : BitVec 4) (st : BitVec 4) : Statement (.fcvt d a dt st) := by
  have := d.isLt; have := a.isLt; have := dt.isLt; have := st.isLt
  refine of_word (op := 0x46) rfl rfl (by omega) (by omega) ?_
  simp only [decodeClassOp, decodeScalar]
  rw [ifFields, if_pos (by simp only [Bool.and_eq_true, beq_iff_eq]; omega)]
  refine congrArg Except.ok (congr (congr (congr (congrArg Instr.fcvt ?_) ?_) ?_) ?_)
  · exact bits_eq (by omega)
  · exact bits_eq (by omega)
  · exact bits_eq (by omega)
  · exact bits_eq (by omega)
theorem fcmp (pd : PReg) (a : SCode) (b : SCode) (cond : BitVec 3) (t : Bool) : Statement (.fcmp pd a b cond t) := by
  have := pd.isLt; have := a.isLt; have := b.isLt; have := cond.isLt; have := t.toNat_lt
  refine of_word (op := 0x47) rfl rfl (by omega) (by omega) ?_
  simp only [decodeClassOp, decodeScalar]
  rw [ifFields, if_pos (by simp only [Bool.and_eq_true, beq_iff_eq]; omega)]
  refine congrArg Except.ok (congr (congr (congr (congr (congrArg Instr.fcmp ?_) ?_) ?_) ?_) ?_)
  · exact bits_eq (by omega)
  · exact bits_eq (by omega)
  · exact bits_eq (by omega)
  · exact bits_eq (by omega)
  · exact bit_eq (by omega)
theorem ld (d : SCode) (ab : AReg) (sz : BitVec 2) (off : BitVec 12) : Statement (.ld d ab sz off) := by
  have := d.isLt; have := ab.isLt; have := sz.isLt; have := off.isLt
  refine of_word (op := 0x01) rfl rfl (by omega) (by omega) ?_
  simp only [decodeClassOp, decodeMemory]
  rw [ifFields, if_pos rfl]
  refine congrArg Except.ok (congr (congr (congr (congrArg Instr.ld ?_) ?_) ?_) ?_)
  · exact bits_eq (by omega)
  · exact bits_eq (by omega)
  · exact bits_eq (by omega)
  · exact bits_eq (by omega)
theorem lds (d : SCode) (ab : AReg) (sz : BitVec 2) (off : BitVec 12) : Statement (.lds d ab sz off) := by
  have := d.isLt; have := ab.isLt; have := sz.isLt; have := off.isLt
  refine of_word (op := 0x02) rfl rfl (by omega) (by omega) ?_
  simp only [decodeClassOp, decodeMemory]
  rw [ifFields, if_pos rfl]
  refine congrArg Except.ok (congr (congr (congr (congrArg Instr.lds ?_) ?_) ?_) ?_)
  · exact bits_eq (by omega)
  · exact bits_eq (by omega)
  · exact bits_eq (by omega)
  · exact bits_eq (by omega)
theorem st (b : SCode) (ab : AReg) (sz : BitVec 2) (off : BitVec 12) : Statement (.st b ab sz off) := by
  have := b.isLt; have := ab.isLt; have := sz.isLt; have := off.isLt
  refine of_word (op := 0x03) rfl rfl (by omega) (by omega) ?_
  simp only [decodeClassOp, decodeMemory]
  rw [ifFields, if_pos rfl]
  refine congrArg Except.ok (congr (congr (congr (congrArg Instr.st ?_) ?_) ?_) ?_)
  · exact bits_eq (by omega)
  · exact bits_eq (by omega)
  · exact bits_eq (by omega)
  · exact bits_eq (by omega)
theorem ldlu (d : SCode) (ab : AReg) (sz : BitVec 2) (off : BitVec 12) : Statement (.ldlu d ab sz off) := by
  have := d.isLt; have := ab.isLt; have := sz.isLt; have := off.isLt
  refine of_word (op := 0x0B) rfl rfl (by omega) (by omega) ?_
  simp only [decodeClassOp, decodeMemory]
  rw [ifFields, if_pos rfl]
  refine congrArg Except.ok (congr (congr (congr (congrArg Instr.ldlu ?_) ?_) ?_) ?_)
  · exact bits_eq (by omega)
  · exact bits_eq (by omega)
  · exact bits_eq (by omega)
  · exact bits_eq (by omega)
theorem ldw (d : SCode) (aa : AReg) (scope : BitVec 3) (ord : BitVec 3) : Statement (.ldw d aa scope ord) := by
  have := d.isLt; have := aa.isLt; have := scope.isLt; have := ord.isLt
  refine of_word (op := 0x04) rfl rfl (by omega) (by omega) ?_
  simp only [decodeClassOp, decodeMemory]
  rw [ifFields, if_pos (by simp only [Bool.and_eq_true, beq_iff_eq]; omega)]
  refine congrArg Except.ok (congr (congr (congr (congrArg Instr.ldw ?_) ?_) ?_) ?_)
  · exact bits_eq (by omega)
  · exact bits_eq (by omega)
  · exact bits_eq (by omega)
  · exact bits_eq (by omega)
theorem ldc (d : SCode) (aa : AReg) (scope : BitVec 3) (ord : BitVec 3) : Statement (.ldc d aa scope ord) := by
  have := d.isLt; have := aa.isLt; have := scope.isLt; have := ord.isLt
  refine of_word (op := 0x05) rfl rfl (by omega) (by omega) ?_
  simp only [decodeClassOp, decodeMemory]
  rw [ifFields, if_pos (by simp only [Bool.and_eq_true, beq_iff_eq]; omega)]
  refine congrArg Except.ok (congr (congr (congr (congrArg Instr.ldc ?_) ?_) ?_) ?_)
  · exact bits_eq (by omega)
  · exact bits_eq (by omega)
  · exact bits_eq (by omega)
  · exact bits_eq (by omega)
theorem stf (aa : AReg) (b : SCode) (scope : BitVec 3) (ord : BitVec 3) : Statement (.stf aa b scope ord) := by
  have := aa.isLt; have := b.isLt; have := scope.isLt; have := ord.isLt
  refine of_word (op := 0x06) rfl rfl (by omega) (by omega) ?_
  simp only [decodeClassOp, decodeMemory]
  rw [ifFields, if_pos (by simp only [Bool.and_eq_true, beq_iff_eq]; omega)]
  refine congrArg Except.ok (congr (congr (congr (congrArg Instr.stf ?_) ?_) ?_) ?_)
  · exact bits_eq (by omega)
  · exact bits_eq (by omega)
  · exact bits_eq (by omega)
  · exact bits_eq (by omega)
theorem ldct (d : SCode) (aa : AReg) (scope : BitVec 3) (ord : BitVec 3) : Statement (.ldct d aa scope ord) := by
  have := d.isLt; have := aa.isLt; have := scope.isLt; have := ord.isLt
  refine of_word (op := 0x07) rfl rfl (by omega) (by omega) ?_
  simp only [decodeClassOp, decodeMemory]
  rw [ifFields, if_pos (by simp only [Bool.and_eq_true, beq_iff_eq]; omega)]
  refine congrArg Except.ok (congr (congr (congr (congrArg Instr.ldct ?_) ?_) ?_) ?_)
  · exact bits_eq (by omega)
  · exact bits_eq (by omega)
  · exact bits_eq (by omega)
  · exact bits_eq (by omega)
theorem stft (aa : AReg) (b : SCode) (scope : BitVec 3) (ord : BitVec 3) : Statement (.stft aa b scope ord) := by
  have := aa.isLt; have := b.isLt; have := scope.isLt; have := ord.isLt
  refine of_word (op := 0x08) rfl rfl (by omega) (by omega) ?_
  simp only [decodeClassOp, decodeMemory]
  rw [ifFields, if_pos (by simp only [Bool.and_eq_true, beq_iff_eq]; omega)]
  refine congrArg Except.ok (congr (congr (congr (congrArg Instr.stft ?_) ?_) ?_) ?_)
  · exact bits_eq (by omega)
  · exact bits_eq (by omega)
  · exact bits_eq (by omega)
  · exact bits_eq (by omega)
theorem feq (d : SCode) (aa : AReg) (scope : BitVec 3) (ord : BitVec 3) : Statement (.feq d aa scope ord) := by
  have := d.isLt; have := aa.isLt; have := scope.isLt; have := ord.isLt
  refine of_word (op := 0x09) rfl rfl (by omega) (by omega) ?_
  simp only [decodeClassOp, decodeMemory]
  rw [ifFields, if_pos (by simp only [Bool.and_eq_true, beq_iff_eq]; omega)]
  refine congrArg Except.ok (congr (congr (congr (congrArg Instr.feq ?_) ?_) ?_) ?_)
  · exact bits_eq (by omega)
  · exact bits_eq (by omega)
  · exact bits_eq (by omega)
  · exact bits_eq (by omega)
theorem femk (aa : AReg) (b : SCode) (scope : BitVec 3) (ord : BitVec 3) : Statement (.femk aa b scope ord) := by
  have := aa.isLt; have := b.isLt; have := scope.isLt; have := ord.isLt
  refine of_word (op := 0x0A) rfl rfl (by omega) (by omega) ?_
  simp only [decodeClassOp, decodeMemory]
  rw [ifFields, if_pos (by simp only [Bool.and_eq_true, beq_iff_eq]; omega)]
  refine congrArg Except.ok (congr (congr (congr (congrArg Instr.femk ?_) ?_) ?_) ?_)
  · exact bits_eq (by omega)
  · exact bits_eq (by omega)
  · exact bits_eq (by omega)
  · exact bits_eq (by omega)
theorem vld (v : VReg) (ab : AReg) (ps : SCode) (mk : MReg) (hint : BitVec 2) : Statement (.vld v ab ps mk hint) := by
  have := v.isLt; have := ab.isLt; have := ps.isLt; have := mk.isLt; have := hint.isLt
  refine of_word (op := 0x10) rfl rfl (by omega) (by omega) ?_
  simp only [decodeClassOp, decodeMemory]
  rw [ifFields, if_pos (by simp only [beq_iff_eq]; omega)]
  refine congrArg Except.ok (congr (congr (congr (congr (congrArg Instr.vld ?_) ?_) ?_) ?_) ?_)
  · exact bits_eq (by omega)
  · exact bits_eq (by omega)
  · exact bits_eq (by omega)
  · exact bits_eq (by omega)
  · exact bits_eq (by omega)
theorem vst (v : VReg) (ab : AReg) (ps : SCode) (mk : MReg) (hint : BitVec 2) : Statement (.vst v ab ps mk hint) := by
  have := v.isLt; have := ab.isLt; have := ps.isLt; have := mk.isLt; have := hint.isLt
  refine of_word (op := 0x11) rfl rfl (by omega) (by omega) ?_
  simp only [decodeClassOp, decodeMemory]
  rw [ifFields, if_pos (by simp only [beq_iff_eq]; omega)]
  refine congrArg Except.ok (congr (congr (congr (congr (congrArg Instr.vst ?_) ?_) ?_) ?_) ?_)
  · exact bits_eq (by omega)
  · exact bits_eq (by omega)
  · exact bits_eq (by omega)
  · exact bits_eq (by omega)
  · exact bits_eq (by omega)
theorem cadd (d : SCode) (a : SCode) (b : SCode) (scope : BitVec 3) (ord : BitVec 3) : Statement (.cadd d a b scope ord) := by
  have := d.isLt; have := a.isLt; have := b.isLt; have := scope.isLt; have := ord.isLt
  refine of_word (op := 0x18) rfl rfl (by omega) (by omega) ?_
  simp only [decodeClassOp, decodeMemory]
  rw [ifFields, if_pos rfl]
  refine congrArg Except.ok (congr (congr (congr (congr (congrArg Instr.cadd ?_) ?_) ?_) ?_) ?_)
  · exact bits_eq (by omega)
  · exact bits_eq (by omega)
  · exact bits_eq (by omega)
  · exact bits_eq (by omega)
  · exact bits_eq (by omega)
theorem cwait (d : SCode) (a : SCode) (b : SCode) (scope : BitVec 3) (ord : BitVec 3) : Statement (.cwait d a b scope ord) := by
  have := d.isLt; have := a.isLt; have := b.isLt; have := scope.isLt; have := ord.isLt
  refine of_word (op := 0x19) rfl rfl (by omega) (by omega) ?_
  simp only [decodeClassOp, decodeMemory]
  rw [ifFields, if_pos rfl]
  refine congrArg Except.ok (congr (congr (congr (congr (congrArg Instr.cwait ?_) ?_) ?_) ?_) ?_)
  · exact bits_eq (by omega)
  · exact bits_eq (by omega)
  · exact bits_eq (by omega)
  · exact bits_eq (by omega)
  · exact bits_eq (by omega)
theorem cread (d : SCode) (a : SCode) (scope : BitVec 3) (ord : BitVec 3) : Statement (.cread d a scope ord) := by
  have := d.isLt; have := a.isLt; have := scope.isLt; have := ord.isLt
  refine of_word (op := 0x1A) rfl rfl (by omega) (by omega) ?_
  simp only [decodeClassOp, decodeMemory]
  rw [ifFields, if_pos (by simp only [beq_iff_eq]; omega)]
  refine congrArg Except.ok (congr (congr (congr (congrArg Instr.cread ?_) ?_) ?_) ?_)
  · exact bits_eq (by omega)
  · exact bits_eq (by omega)
  · exact bits_eq (by omega)
  · exact bits_eq (by omega)
theorem rbacq (ad : AReg) (a : SCode) (scope : BitVec 3) : Statement (.rbacq ad a scope) := by
  have := ad.isLt; have := a.isLt; have := scope.isLt
  refine of_word (op := 0x20) rfl rfl (by omega) (by omega) ?_
  simp only [decodeClassOp, decodeMemory]
  rw [ifFields, if_pos (by simp only [Bool.and_eq_true, beq_iff_eq]; omega)]
  refine congrArg Except.ok (congr (congr (congrArg Instr.rbacq ?_) ?_) ?_)
  · exact bits_eq (by omega)
  · exact bits_eq (by omega)
  · exact bits_eq (by omega)
theorem rbrel (a : SCode) (scope : BitVec 3) : Statement (.rbrel a scope) := by
  have := a.isLt; have := scope.isLt
  refine of_word (op := 0x21) rfl rfl (by omega) (by omega) ?_
  simp only [decodeClassOp, decodeMemory]
  rw [ifFields, if_pos (by simp only [Bool.and_eq_true, beq_iff_eq]; omega)]
  refine congrArg Except.ok (congr (congrArg Instr.rbrel ?_) ?_)
  · exact bits_eq (by omega)
  · exact bits_eq (by omega)
theorem fence (scope : BitVec 3) (ord : BitVec 3) : Statement (.fence scope ord) := by
  have := scope.isLt; have := ord.isLt
  refine of_word (op := 0x28) rfl rfl (by omega) (by omega) ?_
  simp only [decodeClassOp, decodeMemory]
  rw [ifFields, if_pos (by simp only [beq_iff_eq]; omega)]
  refine congrArg Except.ok (congr (congrArg Instr.fence ?_) ?_)
  · exact bits_eq (by omega)
  · exact bits_eq (by omega)
theorem publ (aa : AReg) (scope : BitVec 3) : Statement (.publ aa scope) := by
  have := aa.isLt; have := scope.isLt
  refine of_word (op := 0x29) rfl rfl (by omega) (by omega) ?_
  simp only [decodeClassOp, decodeMemory]
  rw [ifFields, if_pos (by simp only [Bool.and_eq_true, beq_iff_eq]; omega)]
  refine congrArg Except.ok (congr (congrArg Instr.publ ?_) ?_)
  · exact bits_eq (by omega)
  · exact bits_eq (by omega)
theorem bind (d : SCode) (aa : AReg) (b : SCode) (form : BitVec 3) : Statement (.bind d aa b form) := by
  have := d.isLt; have := aa.isLt; have := b.isLt; have := form.isLt
  refine of_word (op := 0x2A) rfl rfl (by omega) (by omega) ?_
  simp only [decodeClassOp, decodeMemory]
  rw [ifFields, if_pos (by simp only [Bool.and_eq_true, beq_iff_eq]; omega)]
  refine congrArg Except.ok (congr (congr (congr (congrArg Instr.bind ?_) ?_) ?_) ?_)
  · exact bits_eq (by omega)
  · exact bits_eq (by omega)
  · exact bits_eq (by omega)
  · exact bits_eq (by omega)
theorem unbind (aa : AReg) (b : SCode) : Statement (.unbind aa b) := by
  have := aa.isLt; have := b.isLt
  refine of_word (op := 0x2B) rfl rfl (by omega) (by omega) ?_
  simp only [decodeClassOp, decodeMemory]
  rw [ifFields, if_pos (by simp only [Bool.and_eq_true, beq_iff_eq]; omega)]
  refine congrArg Except.ok (congr (congrArg Instr.unbind ?_) ?_)
  · exact bits_eq (by omega)
  · exact bits_eq (by omega)
theorem pgreq (aa : AReg) (b : SCode) : Statement (.pgreq aa b) := by
  have := aa.isLt; have := b.isLt
  refine of_word (op := 0x30) rfl rfl (by omega) (by omega) ?_
  simp only [decodeClassOp, decodeMemory]
  rw [ifFields, if_pos (by simp only [Bool.and_eq_true, beq_iff_eq]; omega)]
  refine congrArg Except.ok (congr (congrArg Instr.pgreq ?_) ?_)
  · exact bits_eq (by omega)
  · exact bits_eq (by omega)
theorem cflush (ab : AReg) (off : BitVec 12) : Statement (.cflush ab off) := by
  have := ab.isLt; have := off.isLt
  refine of_word (op := 0x31) rfl rfl (by omega) (by omega) ?_
  simp only [decodeClassOp, decodeMemory]
  rw [ifFields, if_pos (by simp only [Bool.and_eq_true, beq_iff_eq]; omega)]
  refine congrArg Except.ok (congr (congrArg Instr.cflush ?_) ?_)
  · exact bits_eq (by omega)
  · exact bits_eq (by omega)
theorem cdisc (ab : AReg) (off : BitVec 12) : Statement (.cdisc ab off) := by
  have := ab.isLt; have := off.isLt
  refine of_word (op := 0x32) rfl rfl (by omega) (by omega) ?_
  simp only [decodeClassOp, decodeMemory]
  rw [ifFields, if_pos (by simp only [Bool.and_eq_true, beq_iff_eq]; omega)]
  refine congrArg Except.ok (congr (congrArg Instr.cdisc ?_) ?_)
  · exact bits_eq (by omega)
  · exact bits_eq (by omega)
theorem cpref (ab : AReg) (off : BitVec 12) : Statement (.cpref ab off) := by
  have := ab.isLt; have := off.isLt
  refine of_word (op := 0x33) rfl rfl (by omega) (by omega) ?_
  simp only [decodeClassOp, decodeMemory]
  rw [ifFields, if_pos (by simp only [Bool.and_eq_true, beq_iff_eq]; omega)]
  refine congrArg Except.ok (congr (congrArg Instr.cpref ?_) ?_)
  · exact bits_eq (by omega)
  · exact bits_eq (by omega)
theorem accad (aa : AReg) (b : SCode) (mode : BitVec 3) : Statement (.accad aa b mode) := by
  have := aa.isLt; have := b.isLt; have := mode.isLt
  refine of_word (op := 0x34) rfl rfl (by omega) (by omega) ?_
  simp only [decodeClassOp, decodeMemory]
  rw [ifFields, if_pos (by simp only [Bool.and_eq_true, beq_iff_eq]; omega)]
  refine congrArg Except.ok (congr (congr (congrArg Instr.accad ?_) ?_) ?_)
  · exact bits_eq (by omega)
  · exact bits_eq (by omega)
  · exact bits_eq (by omega)
theorem tlbi (aa : AReg) (b : SCode) : Statement (.tlbi aa b) := by
  have := aa.isLt; have := b.isLt
  refine of_word (op := 0x38) rfl rfl (by omega) (by omega) ?_
  simp only [decodeClassOp, decodeMemory]
  rw [ifFields, if_pos (by simp only [Bool.and_eq_true, beq_iff_eq]; omega)]
  refine congrArg Except.ok (congr (congrArg Instr.tlbi ?_) ?_)
  · exact bits_eq (by omega)
  · exact bits_eq (by omega)
theorem vadd (vd : VReg) (va : VReg) (vb : BitVec 6) (mk : MReg) (vf : Bool) : Statement (.vadd vd va vb mk vf) := by
  have := vd.isLt; have := va.isLt; have := vb.isLt; have := mk.isLt; have := vf.toNat_lt
  refine of_word (op := 0x01) rfl rfl (by omega) (by omega) ?_
  simp only [decodeClassOp, decodeVector]
  rw [ifFields, if_pos (by simp only [beq_iff_eq]; omega)]
  refine congrArg Except.ok (congr (congr (congr (congr (congrArg Instr.vadd ?_) ?_) ?_) ?_) ?_)
  · exact bits_eq (by omega)
  · exact bits_eq (by omega)
  · exact bits_eq (by omega)
  · exact bits_eq (by omega)
  · exact bit_eq (by omega)
theorem vsub (vd : VReg) (va : VReg) (vb : BitVec 6) (mk : MReg) (vf : Bool) : Statement (.vsub vd va vb mk vf) := by
  have := vd.isLt; have := va.isLt; have := vb.isLt; have := mk.isLt; have := vf.toNat_lt
  refine of_word (op := 0x02) rfl rfl (by omega) (by omega) ?_
  simp only [decodeClassOp, decodeVector]
  rw [ifFields, if_pos (by simp only [beq_iff_eq]; omega)]
  refine congrArg Except.ok (congr (congr (congr (congr (congrArg Instr.vsub ?_) ?_) ?_) ?_) ?_)
  · exact bits_eq (by omega)
  · exact bits_eq (by omega)
  · exact bits_eq (by omega)
  · exact bits_eq (by omega)
  · exact bit_eq (by omega)
theorem vmul (vd : VReg) (va : VReg) (vb : BitVec 6) (mk : MReg) (vf : Bool) : Statement (.vmul vd va vb mk vf) := by
  have := vd.isLt; have := va.isLt; have := vb.isLt; have := mk.isLt; have := vf.toNat_lt
  refine of_word (op := 0x03) rfl rfl (by omega) (by omega) ?_
  simp only [decodeClassOp, decodeVector]
  rw [ifFields, if_pos (by simp only [beq_iff_eq]; omega)]
  refine congrArg Except.ok (congr (congr (congr (congr (congrArg Instr.vmul ?_) ?_) ?_) ?_) ?_)
  · exact bits_eq (by omega)
  · exact bits_eq (by omega)
  · exact bits_eq (by omega)
  · exact bits_eq (by omega)
  · exact bit_eq (by omega)
theorem vfma (vd : VReg) (va : VReg) (vb : BitVec 6) (mk : MReg) (vf : Bool) : Statement (.vfma vd va vb mk vf) := by
  have := vd.isLt; have := va.isLt; have := vb.isLt; have := mk.isLt; have := vf.toNat_lt
  refine of_word (op := 0x04) rfl rfl (by omega) (by omega) ?_
  simp only [decodeClassOp, decodeVector]
  rw [ifFields, if_pos (by simp only [beq_iff_eq]; omega)]
  refine congrArg Except.ok (congr (congr (congr (congr (congrArg Instr.vfma ?_) ?_) ?_) ?_) ?_)
  · exact bits_eq (by omega)
  · exact bits_eq (by omega)
  · exact bits_eq (by omega)
  · exact bits_eq (by omega)
  · exact bit_eq (by omega)
theorem vfms (vd : VReg) (va : VReg) (vb : BitVec 6) (mk : MReg) (vf : Bool) : Statement (.vfms vd va vb mk vf) := by
  have := vd.isLt; have := va.isLt; have := vb.isLt; have := mk.isLt; have := vf.toNat_lt
  refine of_word (op := 0x05) rfl rfl (by omega) (by omega) ?_
  simp only [decodeClassOp, decodeVector]
  rw [ifFields, if_pos (by simp only [beq_iff_eq]; omega)]
  refine congrArg Except.ok (congr (congr (congr (congr (congrArg Instr.vfms ?_) ?_) ?_) ?_) ?_)
  · exact bits_eq (by omega)
  · exact bits_eq (by omega)
  · exact bits_eq (by omega)
  · exact bits_eq (by omega)
  · exact bit_eq (by omega)
theorem vfnma (vd : VReg) (va : VReg) (vb : BitVec 6) (mk : MReg) (vf : Bool) : Statement (.vfnma vd va vb mk vf) := by
  have := vd.isLt; have := va.isLt; have := vb.isLt; have := mk.isLt; have := vf.toNat_lt
  refine of_word (op := 0x06) rfl rfl (by omega) (by omega) ?_
  simp only [decodeClassOp, decodeVector]
  rw [ifFields, if_pos (by simp only [beq_iff_eq]; omega)]
  refine congrArg Except.ok (congr (congr (congr (congr (congrArg Instr.vfnma ?_) ?_) ?_) ?_) ?_)
  · exact bits_eq (by omega)
  · exact bits_eq (by omega)
  · exact bits_eq (by omega)
  · exact bits_eq (by omega)
  · exact bit_eq (by omega)
theorem vmin (vd : VReg) (va : VReg) (vb : BitVec 6) (mk : MReg) (vf : Bool) : Statement (.vmin vd va vb mk vf) := by
  have := vd.isLt; have := va.isLt; have := vb.isLt; have := mk.isLt; have := vf.toNat_lt
  refine of_word (op := 0x07) rfl rfl (by omega) (by omega) ?_
  simp only [decodeClassOp, decodeVector]
  rw [ifFields, if_pos (by simp only [beq_iff_eq]; omega)]
  refine congrArg Except.ok (congr (congr (congr (congr (congrArg Instr.vmin ?_) ?_) ?_) ?_) ?_)
  · exact bits_eq (by omega)
  · exact bits_eq (by omega)
  · exact bits_eq (by omega)
  · exact bits_eq (by omega)
  · exact bit_eq (by omega)
theorem vmax (vd : VReg) (va : VReg) (vb : BitVec 6) (mk : MReg) (vf : Bool) : Statement (.vmax vd va vb mk vf) := by
  have := vd.isLt; have := va.isLt; have := vb.isLt; have := mk.isLt; have := vf.toNat_lt
  refine of_word (op := 0x08) rfl rfl (by omega) (by omega) ?_
  simp only [decodeClassOp, decodeVector]
  rw [ifFields, if_pos (by simp only [beq_iff_eq]; omega)]
  refine congrArg Except.ok (congr (congr (congr (congr (congrArg Instr.vmax ?_) ?_) ?_) ?_) ?_)
  · exact bits_eq (by omega)
  · exact bits_eq (by omega)
  · exact bits_eq (by omega)
  · exact bits_eq (by omega)
  · exact bit_eq (by omega)
theorem vabs (vd : VReg) (va : VReg) (mk : MReg) : Statement (.vabs vd va mk) := by
  have := vd.isLt; have := va.isLt; have := mk.isLt
  refine of_word (op := 0x09) rfl rfl (by omega) (by omega) ?_
  simp only [decodeClassOp, decodeVector]
  rw [ifFields, if_pos (by simp only [Bool.and_eq_true, beq_iff_eq]; omega)]
  refine congrArg Except.ok (congr (congr (congrArg Instr.vabs ?_) ?_) ?_)
  · exact bits_eq (by omega)
  · exact bits_eq (by omega)
  · exact bits_eq (by omega)
theorem vneg (vd : VReg) (va : VReg) (mk : MReg) : Statement (.vneg vd va mk) := by
  have := vd.isLt; have := va.isLt; have := mk.isLt
  refine of_word (op := 0x0A) rfl rfl (by omega) (by omega) ?_
  simp only [decodeClassOp, decodeVector]
  rw [ifFields, if_pos (by simp only [Bool.and_eq_true, beq_iff_eq]; omega)]
  refine congrArg Except.ok (congr (congr (congrArg Instr.vneg ?_) ?_) ?_)
  · exact bits_eq (by omega)
  · exact bits_eq (by omega)
  · exact bits_eq (by omega)
theorem vclamp (vd : VReg) (va : VReg) (vb : BitVec 6) (mk : MReg) (vf : Bool) : Statement (.vclamp vd va vb mk vf) := by
  have := vd.isLt; have := va.isLt; have := vb.isLt; have := mk.isLt; have := vf.toNat_lt
  refine of_word (op := 0x0B) rfl rfl (by omega) (by omega) ?_
  simp only [decodeClassOp, decodeVector]
  rw [ifFields, if_pos (by simp only [beq_iff_eq]; omega)]
  refine congrArg Except.ok (congr (congr (congr (congr (congrArg Instr.vclamp ?_) ?_) ?_) ?_) ?_)
  · exact bits_eq (by omega)
  · exact bits_eq (by omega)
  · exact bits_eq (by omega)
  · exact bits_eq (by omega)
  · exact bit_eq (by omega)
theorem vsf (vd : VReg) (va : VReg) (fn : BitVec 3) (mk : MReg) : Statement (.vsf vd va fn mk) := by
  have := vd.isLt; have := va.isLt; have := fn.isLt; have := mk.isLt
  refine of_word (op := 0x10) rfl rfl (by omega) (by omega) ?_
  simp only [decodeClassOp, decodeVector]
  rw [ifFields, if_pos (by simp only [Bool.and_eq_true, beq_iff_eq]; omega)]
  refine congrArg Except.ok (congr (congr (congr (congrArg Instr.vsf ?_) ?_) ?_) ?_)
  · exact bits_eq (by omega)
  · exact bits_eq (by omega)
  · exact bits_eq (by omega)
  · exact bits_eq (by omega)
theorem vcmp (cond : BitVec 6) (va : VReg) (vb : BitVec 6) (md : MReg) (vf : Bool) : Statement (.vcmp cond va vb md vf) := by
  have := cond.isLt; have := va.isLt; have := vb.isLt; have := md.isLt; have := vf.toNat_lt
  refine of_word (op := 0x11) rfl rfl (by omega) (by omega) ?_
  simp only [decodeClassOp, decodeVector]
  rw [ifFields, if_pos (by simp only [beq_iff_eq]; omega)]
  refine congrArg Except.ok (congr (congr (congr (congr (congrArg Instr.vcmp ?_) ?_) ?_) ?_) ?_)
  · exact bits_eq (by omega)
  · exact bits_eq (by omega)
  · exact bits_eq (by omega)
  · exact bits_eq (by omega)
  · exact bit_eq (by omega)
theorem vsel (vd : VReg) (va : VReg) (vb : BitVec 6) (mk : MReg) (vf : Bool) : Statement (.vsel vd va vb mk vf) := by
  have := vd.isLt; have := va.isLt; have := vb.isLt; have := mk.isLt; have := vf.toNat_lt
  refine of_word (op := 0x12) rfl rfl (by omega) (by omega) ?_
  simp only [decodeClassOp, decodeVector]
  rw [ifFields, if_pos (by simp only [beq_iff_eq]; omega)]
  refine congrArg Except.ok (congr (congr (congr (congr (congrArg Instr.vsel ?_) ?_) ?_) ?_) ?_)
  · exact bits_eq (by omega)
  · exact bits_eq (by omega)
  · exact bits_eq (by omega)
  · exact bits_eq (by omega)
  · exact bit_eq (by omega)
theorem vand (vd : VReg) (va : VReg) (vb : BitVec 6) (mk : MReg) (vf : Bool) : Statement (.vand vd va vb mk vf) := by
  have := vd.isLt; have := va.isLt; have := vb.isLt; have := mk.isLt; have := vf.toNat_lt
  refine of_word (op := 0x18) rfl rfl (by omega) (by omega) ?_
  simp only [decodeClassOp, decodeVector]
  rw [ifFields, if_pos (by simp only [beq_iff_eq]; omega)]
  refine congrArg Except.ok (congr (congr (congr (congr (congrArg Instr.vand ?_) ?_) ?_) ?_) ?_)
  · exact bits_eq (by omega)
  · exact bits_eq (by omega)
  · exact bits_eq (by omega)
  · exact bits_eq (by omega)
  · exact bit_eq (by omega)
theorem vor (vd : VReg) (va : VReg) (vb : BitVec 6) (mk : MReg) (vf : Bool) : Statement (.vor vd va vb mk vf) := by
  have := vd.isLt; have := va.isLt; have := vb.isLt; have := mk.isLt; have := vf.toNat_lt
  refine of_word (op := 0x19) rfl rfl (by omega) (by omega) ?_
  simp only [decodeClassOp, decodeVector]
  rw [ifFields, if_pos (by simp only [beq_iff_eq]; omega)]
  refine congrArg Except.ok (congr (congr (congr (congr (congrArg Instr.vor ?_) ?_) ?_) ?_) ?_)
  · exact bits_eq (by omega)
  · exact bits_eq (by omega)
  · exact bits_eq (by omega)
  · exact bits_eq (by omega)
  · exact bit_eq (by omega)
theorem vxor (vd : VReg) (va : VReg) (vb : BitVec 6) (mk : MReg) (vf : Bool) : Statement (.vxor vd va vb mk vf) := by
  have := vd.isLt; have := va.isLt; have := vb.isLt; have := mk.isLt; have := vf.toNat_lt
  refine of_word (op := 0x1A) rfl rfl (by omega) (by omega) ?_
  simp only [decodeClassOp, decodeVector]
  rw [ifFields, if_pos (by simp only [beq_iff_eq]; omega)]
  refine congrArg Except.ok (congr (congr (congr (congr (congrArg Instr.vxor ?_) ?_) ?_) ?_) ?_)
  · exact bits_eq (by omega)
  · exact bits_eq (by omega)
  · exact bits_eq (by omega)
  · exact bits_eq (by omega)
  · exact bit_eq (by omega)
theorem vnot (vd : VReg) (va : VReg) (mk : MReg) : Statement (.vnot vd va mk) := by
  have := vd.isLt; have := va.isLt; have := mk.isLt
  refine of_word (op := 0x1B) rfl rfl (by omega) (by omega) ?_
  simp only [decodeClassOp, decodeVector]
  rw [ifFields, if_pos (by simp only [Bool.and_eq_true, beq_iff_eq]; omega)]
  refine congrArg Except.ok (congr (congr (congrArg Instr.vnot ?_) ?_) ?_)
  · exact bits_eq (by omega)
  · exact bits_eq (by omega)
  · exact bits_eq (by omega)
theorem vshl (vd : VReg) (va : VReg) (vb : BitVec 6) (mk : MReg) (vf : Bool) : Statement (.vshl vd va vb mk vf) := by
  have := vd.isLt; have := va.isLt; have := vb.isLt; have := mk.isLt; have := vf.toNat_lt
  refine of_word (op := 0x1C) rfl rfl (by omega) (by omega) ?_
  simp only [decodeClassOp, decodeVector]
  rw [ifFields, if_pos (by simp only [beq_iff_eq]; omega)]
  refine congrArg Except.ok (congr (congr (congr (congr (congrArg Instr.vshl ?_) ?_) ?_) ?_) ?_)
  · exact bits_eq (by omega)
  · exact bits_eq (by omega)
  · exact bits_eq (by omega)
  · exact bits_eq (by omega)
  · exact bit_eq (by omega)
theorem vshr (vd : VReg) (va : VReg) (vb : BitVec 6) (mk : MReg) (vf : Bool) : Statement (.vshr vd va vb mk vf) := by
  have := vd.isLt; have := va.isLt; have := vb.isLt; have := mk.isLt; have := vf.toNat_lt
  refine of_word (op := 0x1D) rfl rfl (by omega) (by omega) ?_
  simp only [decodeClassOp, decodeVector]
  rw [ifFields, if_pos (by simp only [beq_iff_eq]; omega)]
  refine congrArg Except.ok (congr (congr (congr (congr (congrArg Instr.vshr ?_) ?_) ?_) ?_) ?_)
  · exact bits_eq (by omega)
  · exact bits_eq (by omega)
  · exact bits_eq (by omega)
  · exact bits_eq (by omega)
  · exact bit_eq (by omega)
theorem vsar (vd : VReg) (va : VReg) (vb : BitVec 6) (mk : MReg) (vf : Bool) : Statement (.vsar vd va vb mk vf) := by
  have := vd.isLt; have := va.isLt; have := vb.isLt; have := mk.isLt; have := vf.toNat_lt
  refine of_word (op := 0x1E) rfl rfl (by omega) (by omega) ?_
  simp only [decodeClassOp, decodeVector]
  rw [ifFields, if_pos (by simp only [beq_iff_eq]; omega)]
  refine congrArg Except.ok (congr (congr (congr (congr (congrArg Instr.vsar ?_) ?_) ?_) ?_) ?_)
  · exact bits_eq (by omega)
  · exact bits_eq (by omega)
  · exact bits_eq (by omega)
  · exact bits_eq (by omega)
  · exact bit_eq (by omega)
theorem vcvt (vd : VReg) (va : VReg) (dt : BitVec 4) (mk : MReg) : Statement (.vcvt vd va dt mk) := by
  have := vd.isLt; have := va.isLt; have := dt.isLt; have := mk.isLt
  refine of_word (op := 0x20) rfl rfl (by omega) (by omega) ?_
  simp only [decodeClassOp, decodeVector]
  rw [ifFields, if_pos (by simp only [Bool.and_eq_true, beq_iff_eq]; omega)]
  refine congrArg Except.ok (congr (congr (congr (congrArg Instr.vcvt ?_) ?_) ?_) ?_)
  · exact bits_eq (by omega)
  · exact bits_eq (by omega)
  · exact bits_eq (by omega)
  · exact bits_eq (by omega)
theorem vpadd (vd : VReg) (va : VReg) (vb : BitVec 6) (mk : MReg) (vf : Bool) : Statement (.vpadd vd va vb mk vf) := by
  have := vd.isLt; have := va.isLt; have := vb.isLt; have := mk.isLt; have := vf.toNat_lt
  refine of_word (op := 0x21) rfl rfl (by omega) (by omega) ?_
  simp only [decodeClassOp, decodeVector]
  rw [ifFields, if_pos (by simp only [beq_iff_eq]; omega)]
  refine congrArg Except.ok (congr (congr (congr (congr (congrArg Instr.vpadd ?_) ?_) ?_) ?_) ?_)
  · exact bits_eq (by omega)
  · exact bits_eq (by omega)
  · exact bits_eq (by omega)
  · exact bits_eq (by omega)
  · exact bit_eq (by omega)
theorem vperm (vd : VReg) (va : VReg) (vb : VReg) (mk : MReg) : Statement (.vperm vd va vb mk) := by
  have := vd.isLt; have := va.isLt; have := vb.isLt; have := mk.isLt
  refine of_word (op := 0x28) rfl rfl (by omega) (by omega) ?_
  simp only [decodeClassOp, decodeVector]
  rw [ifFields, if_pos (by simp only [beq_iff_eq]; omega)]
  refine congrArg Except.ok (congr (congr (congr (congrArg Instr.vperm ?_) ?_) ?_) ?_)
  · exact bits_eq (by omega)
  · exact bits_eq (by omega)
  · exact bits_eq (by omega)
  · exact bits_eq (by omega)
theorem vtrn (vd : VReg) (va : VReg) (mk : MReg) : Statement (.vtrn vd va mk) := by
  have := vd.isLt; have := va.isLt; have := mk.isLt
  refine of_word (op := 0x29) rfl rfl (by omega) (by omega) ?_
  simp only [decodeClassOp, decodeVector]
  rw [ifFields, if_pos (by simp only [Bool.and_eq_true, beq_iff_eq]; omega)]
  refine congrArg Except.ok (congr (congr (congrArg Instr.vtrn ?_) ?_) ?_)
  · exact bits_eq (by omega)
  · exact bits_eq (by omega)
  · exact bits_eq (by omega)
theorem vred (vd : VReg) (va : VReg) (op : BitVec 3) (axis : BitVec 2) (mk : MReg) : Statement (.vred vd va op axis mk) := by
  have := vd.isLt; have := va.isLt; have := op.isLt; have := axis.isLt; have := mk.isLt
  refine of_word (op := 0x30) rfl rfl (by omega) (by omega) ?_
  simp only [decodeClassOp, decodeVector]
  rw [ifFields, if_pos (by simp only [Bool.and_eq_true, beq_iff_eq]; omega)]
  refine congrArg Except.ok (congr (congr (congr (congr (congrArg Instr.vred ?_) ?_) ?_) ?_) ?_)
  · exact bits_eq (by omega)
  · exact bits_eq (by omega)
  · exact bits_eq (by omega)
  · exact bits_eq (by omega)
  · exact bits_eq (by omega)
theorem vscan (vd : VReg) (va : VReg) (ex : Bool) (axis : BitVec 2) (mk : MReg) : Statement (.vscan vd va ex axis mk) := by
  have := vd.isLt; have := va.isLt; have := ex.toNat_lt; have := axis.isLt; have := mk.isLt
  refine of_word (op := 0x31) rfl rfl (by omega) (by omega) ?_
  simp only [decodeClassOp, decodeVector]
  rw [ifFields, if_pos (by simp only [Bool.and_eq_true, beq_iff_eq]; omega)]
  refine congrArg Except.ok (congr (congr (congr (congr (congrArg Instr.vscan ?_) ?_) ?_) ?_) ?_)
  · exact bits_eq (by omega)
  · exact bits_eq (by omega)
  · exact bit_eq (by omega)
  · exact bits_eq (by omega)
  · exact bits_eq (by omega)
theorem vsegred (vd : VReg) (va : VReg) (mk : MReg) : Statement (.vsegred vd va mk) := by
  have := vd.isLt; have := va.isLt; have := mk.isLt
  refine of_word (op := 0x32) rfl rfl (by omega) (by omega) ?_
  simp only [decodeClassOp, decodeVector]
  rw [ifFields, if_pos (by simp only [Bool.and_eq_true, beq_iff_eq]; omega)]
  refine congrArg Except.ok (congr (congr (congrArg Instr.vsegred ?_) ?_) ?_)
  · exact bits_eq (by omega)
  · exact bits_eq (by omega)
  · exact bits_eq (by omega)
theorem vcompact (vd : VReg) (va : VReg) (mk : MReg) : Statement (.vcompact vd va mk) := by
  have := vd.isLt; have := va.isLt; have := mk.isLt
  refine of_word (op := 0x33) rfl rfl (by omega) (by omega) ?_
  simp only [decodeClassOp, decodeVector]
  rw [ifFields, if_pos (by simp only [Bool.and_eq_true, beq_iff_eq]; omega)]
  refine congrArg Except.ok (congr (congr (congrArg Instr.vcompact ?_) ?_) ?_)
  · exact bits_eq (by omega)
  · exact bits_eq (by omega)
  · exact bits_eq (by omega)
theorem vbcast (vd : VReg) (va : VReg) (mk : MReg) : Statement (.vbcast vd va mk) := by
  have := vd.isLt; have := va.isLt; have := mk.isLt
  refine of_word (op := 0x38) rfl rfl (by omega) (by omega) ?_
  simp only [decodeClassOp, decodeVector]
  rw [if_pos (by simp only [beq_iff_eq]; omega)]
  rw [ifFields, if_pos (by simp only [Bool.and_eq_true, beq_iff_eq]; omega)]
  refine congrArg Except.ok (congr (congr (congrArg Instr.vbcast ?_) ?_) ?_)
  · exact bits_eq (by omega)
  · exact bits_eq (by omega)
  · exact bits_eq (by omega)
theorem vbcastScalar (vd : VReg) (b : SCode) (mk : MReg) : Statement (.vbcastScalar vd b mk) := by
  have := vd.isLt; have := b.isLt; have := mk.isLt
  refine of_word (op := 0x38) rfl rfl (by omega) (by omega) ?_
  simp only [decodeClassOp, decodeVector]
  rw [if_neg (by simp only [beq_iff_eq]; omega)]
  rw [ifFields, if_pos (by simp only [Bool.and_eq_true, beq_iff_eq]; omega)]
  refine congrArg Except.ok (congr (congr (congrArg Instr.vbcastScalar ?_) ?_) ?_)
  · exact bits_eq (by omega)
  · exact bits_eq (by omega)
  · exact bits_eq (by omega)
theorem vmov (vd : VReg) (va : VReg) (mk : MReg) : Statement (.vmov vd va mk) := by
  have := vd.isLt; have := va.isLt; have := mk.isLt
  refine of_word (op := 0x39) rfl rfl (by omega) (by omega) ?_
  simp only [decodeClassOp, decodeVector]
  rw [ifFields, if_pos (by simp only [Bool.and_eq_true, beq_iff_eq]; omega)]
  refine congrArg Except.ok (congr (congr (congrArg Instr.vmov ?_) ?_) ?_)
  · exact bits_eq (by omega)
  · exact bits_eq (by omega)
  · exact bits_eq (by omega)
theorem vins (vd : VReg) (a : SCode) (b : SCode) : Statement (.vins vd a b) := by
  have := vd.isLt; have := a.isLt; have := b.isLt
  refine of_word (op := 0x3A) rfl rfl (by omega) (by omega) ?_
  simp only [decodeClassOp, decodeVector]
  rw [ifFields, if_pos (by simp only [beq_iff_eq]; omega)]
  refine congrArg Except.ok (congr (congr (congrArg Instr.vins ?_) ?_) ?_)
  · exact bits_eq (by omega)
  · exact bits_eq (by omega)
  · exact bits_eq (by omega)
theorem vext (d : SCode) (va : VReg) (b : SCode) : Statement (.vext d va b) := by
  have := d.isLt; have := va.isLt; have := b.isLt
  refine of_word (op := 0x3B) rfl rfl (by omega) (by omega) ?_
  simp only [decodeClassOp, decodeVector]
  rw [ifFields, if_pos (by simp only [beq_iff_eq]; omega)]
  refine congrArg Except.ok (congr (congr (congrArg Instr.vext ?_) ?_) ?_)
  · exact bits_eq (by omega)
  · exact bits_eq (by omega)
  · exact bits_eq (by omega)
theorem viota (vd : VReg) (kind : BitVec 2) (mk : MReg) : Statement (.viota vd kind mk) := by
  have := vd.isLt; have := kind.isLt; have := mk.isLt
  refine of_word (op := 0x3C) rfl rfl (by omega) (by omega) ?_
  simp only [decodeClassOp, decodeVector]
  rw [if_pos (by simp only [beq_iff_eq]; omega)]
  rw [ifFields, if_pos (by simp only [Bool.and_eq_true, beq_iff_eq]; omega)]
  refine congrArg Except.ok (congr (congr (congrArg Instr.viota ?_) ?_) ?_)
  · exact bits_eq (by omega)
  · exact bits_eq (by omega)
  · exact bits_eq (by omega)
theorem viotaBase (vd : VReg) (kind : BitVec 2) (b : SCode) (mk : MReg) : Statement (.viotaBase vd kind b mk) := by
  have := vd.isLt; have := kind.isLt; have := b.isLt; have := mk.isLt
  refine of_word (op := 0x3C) rfl rfl (by omega) (by omega) ?_
  simp only [decodeClassOp, decodeVector]
  rw [if_neg (by simp only [beq_iff_eq]; omega)]
  rw [ifFields, if_pos (by simp only [Bool.and_eq_true, beq_iff_eq]; omega)]
  refine congrArg Except.ok (congr (congr (congr (congrArg Instr.viotaBase ?_) ?_) ?_) ?_)
  · exact bits_eq (by omega)
  · exact bits_eq (by omega)
  · exact bits_eq (by omega)
  · exact bits_eq (by omega)
theorem nzgen (vd : VReg) (val : Bool) (h : BitVec 4) (b : SCode) (mk : MReg) : Statement (.nzgen vd val h b mk) := by
  have := vd.isLt; have := val.toNat_lt; have := h.isLt; have := b.isLt; have := mk.isLt
  refine of_word (op := 0x40) rfl rfl (by omega) (by omega) ?_
  simp only [decodeClassOp, decodeVector]
  rw [ifFields, if_pos (by simp only [Bool.and_eq_true, beq_iff_eq]; omega)]
  refine congrArg Except.ok (congr (congr (congr (congr (congrArg Instr.nzgen ?_) ?_) ?_) ?_) ?_)
  · exact bits_eq (by omega)
  · exact bit_eq (by omega)
  · exact bits_eq (by omega)
  · exact bits_eq (by omega)
  · exact bits_eq (by omega)
theorem rngd (vd : VReg) (va : VReg) (val : Bool) (h : BitVec 4) (mk : MReg) : Statement (.rngd vd va val h mk) := by
  have := vd.isLt; have := va.isLt; have := val.toNat_lt; have := h.isLt; have := mk.isLt
  refine of_word (op := 0x41) rfl rfl (by omega) (by omega) ?_
  simp only [decodeClassOp, decodeVector]
  rw [ifFields, if_pos (by simp only [Bool.and_eq_true, beq_iff_eq]; omega)]
  refine congrArg Except.ok (congr (congr (congr (congr (congrArg Instr.rngd ?_) ?_) ?_) ?_) ?_)
  · exact bits_eq (by omega)
  · exact bits_eq (by omega)
  · exact bit_eq (by omega)
  · exact bits_eq (by omega)
  · exact bits_eq (by omega)
theorem vreplay (vd : VReg) (va : VReg) (mk : MReg) : Statement (.vreplay vd va mk) := by
  have := vd.isLt; have := va.isLt; have := mk.isLt
  refine of_word (op := 0x42) rfl rfl (by omega) (by omega) ?_
  simp only [decodeClassOp, decodeVector]
  rw [ifFields, if_pos (by simp only [Bool.and_eq_true, beq_iff_eq]; omega)]
  refine congrArg Except.ok (congr (congr (congrArg Instr.vreplay ?_) ?_) ?_)
  · exact bits_eq (by omega)
  · exact bits_eq (by omega)
  · exact bits_eq (by omega)
theorem accrd (vd : VReg) (a : SCode) (la : Bool) (mk : MReg) : Statement (.accrd vd a la mk) := by
  have := vd.isLt; have := a.isLt; have := la.toNat_lt; have := mk.isLt
  refine of_word (op := 0x48) rfl rfl (by omega) (by omega) ?_
  simp only [decodeClassOp, decodeVector]
  rw [ifFields, if_pos (by simp only [Bool.and_eq_true, beq_iff_eq]; omega)]
  refine congrArg Except.ok (congr (congr (congr (congrArg Instr.accrd ?_) ?_) ?_) ?_)
  · exact bits_eq (by omega)
  · exact bits_eq (by omega)
  · exact bit_eq (by omega)
  · exact bits_eq (by omega)
theorem accwr (vs : VReg) (a : SCode) (mode : BitVec 2) (mk : MReg) : Statement (.accwr vs a mode mk) := by
  have := vs.isLt; have := a.isLt; have := mode.isLt; have := mk.isLt
  refine of_word (op := 0x49) rfl rfl (by omega) (by omega) ?_
  simp only [decodeClassOp, decodeVector]
  rw [ifFields, if_pos (by simp only [Bool.and_eq_true, beq_iff_eq]; omega)]
  refine congrArg Except.ok (congr (congr (congr (congrArg Instr.accwr ?_) ?_) ?_) ?_)
  · exact bits_eq (by omega)
  · exact bits_eq (by omega)
  · exact bits_eq (by omega)
  · exact bits_eq (by omega)
theorem mlog (md : MReg) (ma : MReg) (mb : MReg) (tt : BitVec 4) : Statement (.mlog md ma mb tt) := by
  have := md.isLt; have := ma.isLt; have := mb.isLt; have := tt.isLt
  refine of_word (op := 0x50) rfl rfl (by omega) (by omega) ?_
  simp only [decodeClassOp, decodeVector]
  rw [ifFields, if_pos (by simp only [Bool.and_eq_true, beq_iff_eq]; omega)]
  refine congrArg Except.ok (congr (congr (congr (congrArg Instr.mlog ?_) ?_) ?_) ?_)
  · exact bits_eq (by omega)
  · exact bits_eq (by omega)
  · exact bits_eq (by omega)
  · exact bits_eq (by omega)
theorem mcnt (d : SCode) (ma : MReg) (kind : BitVec 2) : Statement (.mcnt d ma kind) := by
  have := d.isLt; have := ma.isLt; have := kind.isLt
  refine of_word (op := 0x51) rfl rfl (by omega) (by omega) ?_
  simp only [decodeClassOp, decodeVector]
  rw [ifFields, if_pos (by simp only [Bool.and_eq_true, beq_iff_eq]; omega)]
  refine congrArg Except.ok (congr (congr (congrArg Instr.mcnt ?_) ?_) ?_)
  · exact bits_eq (by omega)
  · exact bits_eq (by omega)
  · exact bits_eq (by omega)
theorem mxset (reg : BitVec 12) (a : SCode) : Statement (.mxset reg a) := by
  have := reg.isLt; have := a.isLt
  refine of_word (op := 0x01) rfl rfl (by omega) (by omega) ?_
  simp only [decodeClassOp, decodeEngine]
  rw [ifFields, if_pos (by simp only [beq_iff_eq]; omega)]
  refine congrArg Except.ok (congr (congrArg Instr.mxset ?_) ?_)
  · exact bits_eq (by omega)
  · exact bits_eq (by omega)
theorem mxw (a : SCode) (b : SCode) : Statement (.mxw a b) := by
  have := a.isLt; have := b.isLt
  refine of_word (op := 0x02) rfl rfl (by omega) (by omega) ?_
  simp only [decodeClassOp, decodeEngine]
  rw [if_pos (by simp only [beq_iff_eq]; omega)]
  rw [ifFields, if_pos (by simp only [beq_iff_eq]; omega)]
  refine congrArg Except.ok (congr (congrArg Instr.mxw ?_) ?_)
  · exact bits_eq (by omega)
  · exact bits_eq (by omega)
theorem mxwTile (v : VReg) : Statement (.mxwTile v) := by
  have := v.isLt
  refine of_word (op := 0x02) rfl rfl (by omega) (by omega) ?_
  simp only [decodeClassOp, decodeEngine]
  rw [if_neg (by simp only [beq_iff_eq]; omega)]
  rw [ifFields, if_pos (by simp only [Bool.and_eq_true, beq_iff_eq]; omega)]
  refine congrArg Except.ok (congrArg Instr.mxwTile ?_)
  · exact bits_eq (by omega)
theorem mxa (a : SCode) (b : SCode) : Statement (.mxa a b) := by
  have := a.isLt; have := b.isLt
  refine of_word (op := 0x03) rfl rfl (by omega) (by omega) ?_
  simp only [decodeClassOp, decodeEngine]
  rw [if_pos (by simp only [beq_iff_eq]; omega)]
  rw [ifFields, if_pos (by simp only [beq_iff_eq]; omega)]
  refine congrArg Except.ok (congr (congrArg Instr.mxa ?_) ?_)
  · exact bits_eq (by omega)
  · exact bits_eq (by omega)
theorem mxaTile (v : VReg) : Statement (.mxaTile v) := by
  have := v.isLt
  refine of_word (op := 0x03) rfl rfl (by omega) (by omega) ?_
  simp only [decodeClassOp, decodeEngine]
  rw [if_neg (by simp only [beq_iff_eq]; omega)]
  rw [ifFields, if_pos (by simp only [Bool.and_eq_true, beq_iff_eq]; omega)]
  refine congrArg Except.ok (congrArg Instr.mxaTile ?_)
  · exact bits_eq (by omega)
theorem mxcb (a : SCode) : Statement (.mxcb a) := by
  have := a.isLt
  refine of_word (op := 0x04) rfl rfl (by omega) (by omega) ?_
  simp only [decodeClassOp, decodeEngine]
  rw [ifFields, if_pos (by simp only [Bool.and_eq_true, beq_iff_eq]; omega)]
  refine congrArg Except.ok (congrArg Instr.mxcb ?_)
  · exact bits_eq (by omega)
theorem mxce (a : SCode) (b : SCode) : Statement (.mxce a b) := by
  have := a.isLt; have := b.isLt
  refine of_word (op := 0x05) rfl rfl (by omega) (by omega) ?_
  simp only [decodeClassOp, decodeEngine]
  rw [if_pos (by simp only [beq_iff_eq]; omega)]
  rw [ifFields, if_pos (by simp only [beq_iff_eq]; omega)]
  refine congrArg Except.ok (congr (congrArg Instr.mxce ?_) ?_)
  · exact bits_eq (by omega)
  · exact bits_eq (by omega)
theorem mxceTile (v : VReg) : Statement (.mxceTile v) := by
  have := v.isLt
  refine of_word (op := 0x05) rfl rfl (by omega) (by omega) ?_
  simp only [decodeClassOp, decodeEngine]
  rw [if_neg (by simp only [beq_iff_eq]; omega)]
  rw [ifFields, if_pos (by simp only [Bool.and_eq_true, beq_iff_eq]; omega)]
  refine congrArg Except.ok (congrArg Instr.mxceTile ?_)
  · exact bits_eq (by omega)
theorem mxpd (a : SCode) (b : SCode) : Statement (.mxpd a b) := by
  have := a.isLt; have := b.isLt
  refine of_word (op := 0x06) rfl rfl (by omega) (by omega) ?_
  simp only [decodeClassOp, decodeEngine]
  rw [if_pos (by simp only [beq_iff_eq]; omega)]
  rw [ifFields, if_pos (by simp only [beq_iff_eq]; omega)]
  refine congrArg Except.ok (congr (congrArg Instr.mxpd ?_) ?_)
  · exact bits_eq (by omega)
  · exact bits_eq (by omega)
theorem mxdn (e : BitVec 5) (a : SCode) : Statement (.mxdn e a) := by
  have := e.isLt; have := a.isLt
  refine of_word (op := 0x07) rfl rfl (by omega) (by omega) ?_
  simp only [decodeClassOp, decodeEngine]
  rw [ifFields, if_pos (by simp only [Bool.and_eq_true, beq_iff_eq]; omega)]
  refine congrArg Except.ok (congr (congrArg Instr.mxdn ?_) ?_)
  · exact bits_eq (by omega)
  · exact bits_eq (by omega)
theorem mxcv (c : BitVec 3) (a : SCode) : Statement (.mxcv c a) := by
  have := c.isLt; have := a.isLt
  refine of_word (op := 0x08) rfl rfl (by omega) (by omega) ?_
  simp only [decodeClassOp, decodeEngine]
  rw [ifFields, if_pos (by simp only [Bool.and_eq_true, beq_iff_eq]; omega)]
  refine congrArg Except.ok (congr (congrArg Instr.mxcv ?_) ?_)
  · exact bits_eq (by omega)
  · exact bits_eq (by omega)
theorem mxtap (a : SCode) : Statement (.mxtap a) := by
  have := a.isLt
  refine of_word (op := 0x09) rfl rfl (by omega) (by omega) ?_
  simp only [decodeClassOp, decodeEngine]
  rw [ifFields, if_pos (by simp only [Bool.and_eq_true, beq_iff_eq]; omega)]
  refine congrArg Except.ok (congrArg Instr.mxtap ?_)
  · exact bits_eq (by omega)
theorem mxsp (a : SCode) : Statement (.mxsp a) := by
  have := a.isLt
  refine of_word (op := 0x0A) rfl rfl (by omega) (by omega) ?_
  simp only [decodeClassOp, decodeEngine]
  rw [ifFields, if_pos (by simp only [Bool.and_eq_true, beq_iff_eq]; omega)]
  refine congrArg Except.ok (congrArg Instr.mxsp ?_)
  · exact bits_eq (by omega)
theorem cpset (reg : BitVec 12) (a : SCode) : Statement (.cpset reg a) := by
  have := reg.isLt; have := a.isLt
  refine of_word (op := 0x10) rfl rfl (by omega) (by omega) ?_
  simp only [decodeClassOp, decodeEngine]
  rw [ifFields, if_pos (by simp only [beq_iff_eq]; omega)]
  refine congrArg Except.ok (congr (congrArg Instr.cpset ?_) ?_)
  · exact bits_eq (by omega)
  · exact bits_eq (by omega)
theorem cpgo (tok : Bool) (a : SCode) (b : SCode) : Statement (.cpgo tok a b) := by
  have := tok.toNat_lt; have := a.isLt; have := b.isLt
  refine of_word (op := 0x11) rfl rfl (by omega) (by omega) ?_
  simp only [decodeClassOp, decodeEngine]
  rw [ifFields, if_pos (by simp only [beq_iff_eq]; omega)]
  refine congrArg Except.ok (congr (congr (congrArg Instr.cpgo ?_) ?_) ?_)
  · exact bit_eq (by omega)
  · exact bits_eq (by omega)
  · exact bits_eq (by omega)
theorem trpush (m : BitVec 3) (kind : BitVec 2) (a : SCode) (b : SCode) : Statement (.trpush m kind a b) := by
  have := m.isLt; have := kind.isLt; have := a.isLt; have := b.isLt
  refine of_word (op := 0x18) rfl rfl (by omega) (by omega) ?_
  simp only [decodeClassOp, decodeEngine]
  rw [ifFields, if_pos (by simp only [beq_iff_eq]; omega)]
  refine congrArg Except.ok (congr (congr (congr (congrArg Instr.trpush ?_) ?_) ?_) ?_)
  · exact bits_eq (by omega)
  · exact bits_eq (by omega)
  · exact bits_eq (by omega)
  · exact bits_eq (by omega)
theorem trpop (tok : Bool) (rb : Bool) (a : SCode) (b : SCode) : Statement (.trpop tok rb a b) := by
  have := tok.toNat_lt; have := rb.toNat_lt; have := a.isLt; have := b.isLt
  refine of_word (op := 0x19) rfl rfl (by omega) (by omega) ?_
  simp only [decodeClassOp, decodeEngine]
  rw [ifFields, if_pos (by simp only [beq_iff_eq]; omega)]
  refine congrArg Except.ok (congr (congr (congr (congrArg Instr.trpop ?_) ?_) ?_) ?_)
  · exact bit_eq (by omega)
  · exact bit_eq (by omega)
  · exact bits_eq (by omega)
  · exact bits_eq (by omega)
theorem gthr (tok : Bool) (a : SCode) (b : SCode) : Statement (.gthr tok a b) := by
  have := tok.toNat_lt; have := a.isLt; have := b.isLt
  refine of_word (op := 0x20) rfl rfl (by omega) (by omega) ?_
  simp only [decodeClassOp, decodeEngine]
  rw [ifFields, if_pos (by simp only [beq_iff_eq]; omega)]
  refine congrArg Except.ok (congr (congr (congrArg Instr.gthr ?_) ?_) ?_)
  · exact bit_eq (by omega)
  · exact bits_eq (by omega)
  · exact bits_eq (by omega)
theorem sctr (tok : Bool) (a : SCode) (b : SCode) : Statement (.sctr tok a b) := by
  have := tok.toNat_lt; have := a.isLt; have := b.isLt
  refine of_word (op := 0x21) rfl rfl (by omega) (by omega) ?_
  simp only [decodeClassOp, decodeEngine]
  rw [ifFields, if_pos (by simp only [beq_iff_eq]; omega)]
  refine congrArg Except.ok (congr (congr (congrArg Instr.sctr ?_) ?_) ?_)
  · exact bit_eq (by omega)
  · exact bits_eq (by omega)
  · exact bits_eq (by omega)
theorem qppost (qp : BitVec 8) (a : SCode) (b : SCode) : Statement (.qppost qp a b) := by
  have := qp.isLt; have := a.isLt; have := b.isLt
  refine of_word (op := 0x28) rfl rfl (by omega) (by omega) ?_
  simp only [decodeClassOp, decodeEngine]
  rw [ifFields, if_pos (by simp only [beq_iff_eq]; omega)]
  refine congrArg Except.ok (congr (congr (congrArg Instr.qppost ?_) ?_) ?_)
  · exact bits_eq (by omega)
  · exact bits_eq (by omega)
  · exact bits_eq (by omega)
theorem scput (grp : BitVec 12) (a : SCode) : Statement (.scput grp a) := by
  have := grp.isLt; have := a.isLt
  refine of_word (op := 0x29) rfl rfl (by omega) (by omega) ?_
  simp only [decodeClassOp, decodeEngine]
  rw [ifFields, if_pos (by simp only [beq_iff_eq]; omega)]
  refine congrArg Except.ok (congr (congrArg Instr.scput ?_) ?_)
  · exact bits_eq (by omega)
  · exact bits_eq (by omega)
theorem scred (grp : BitVec 12) (a : SCode) : Statement (.scred grp a) := by
  have := grp.isLt; have := a.isLt
  refine of_word (op := 0x2A) rfl rfl (by omega) (by omega) ?_
  simp only [decodeClassOp, decodeEngine]
  rw [ifFields, if_pos (by simp only [beq_iff_eq]; omega)]
  refine congrArg Except.ok (congr (congrArg Instr.scred ?_) ?_)
  · exact bits_eq (by omega)
  · exact bits_eq (by omega)
theorem gnode (a : SCode) (b : SCode) : Statement (.gnode a b) := by
  have := a.isLt; have := b.isLt
  refine of_word (op := 0x30) rfl rfl (by omega) (by omega) ?_
  simp only [decodeClassOp, decodeEngine]
  rw [ifFields, if_pos (by simp only [beq_iff_eq]; omega)]
  refine congrArg Except.ok (congr (congrArg Instr.gnode ?_) ?_)
  · exact bits_eq (by omega)
  · exact bits_eq (by omega)
theorem gsig (a : SCode) : Statement (.gsig a) := by
  have := a.isLt
  refine of_word (op := 0x31) rfl rfl (by omega) (by omega) ?_
  simp only [decodeClassOp, decodeEngine]
  rw [ifFields, if_pos (by simp only [Bool.and_eq_true, beq_iff_eq]; omega)]
  refine congrArg Except.ok (congrArg Instr.gsig ?_)
  · exact bits_eq (by omega)
theorem expanderLoss (expander : Nat) : Statement (.expanderLoss expander) := of_step rfl
theorem ownerReply (core : CoreId) : Statement (.ownerReply core) := of_step rfl
theorem debugResume (core : CoreId) (ctx : CtxId) : Statement (.debugResume core ctx) := of_step rfl
theorem debugStep (core : CoreId) : Statement (.debugStep core) := of_step rfl
theorem debugAccess (core : CoreId) (target : DebugTarget) (value : Option Word) : Statement (.debugAccess core target value) := of_step rfl
theorem boot : Statement .boot := of_step rfl
theorem beatMasterLoss : Statement .beatMasterLoss := of_step rfl
theorem throtClear : Statement .throtClear := of_step rfl
theorem commandFinish : Statement .commandFinish := of_step rfl
theorem nop : Statement .nop := of_step rfl
theorem gang : Statement .gang := of_step rfl
theorem gangRelease : Statement .gangRelease := of_step rfl
theorem tasks : Statement .tasks := of_step rfl
theorem ordered : Statement .ordered := of_step rfl
theorem copy : Statement .copy := of_step rfl
theorem graph : Statement .graph := of_step rfl
theorem ctrset : Statement .ctrset := of_step rfl
theorem ctrwait : Statement .ctrwait := of_step rfl
theorem ctrwaitTimeout : Statement .ctrwaitTimeout := of_step rfl
theorem indirect : Statement .indirect := of_step rfl
theorem pageopFetch : Statement .pageopFetch := of_step rfl
theorem pageopEvict : Statement .pageopEvict := of_step rfl
theorem pageopMigrate : Statement .pageopMigrate := of_step rfl
theorem qppostCmd : Statement .qppostCmd := of_step rfl
theorem mark : Statement .mark := of_step rfl
theorem cuesheet : Statement .cuesheet := of_step rfl
theorem setModuleId : Statement .setModuleId := of_step rfl
theorem portbMode : Statement .portbMode := of_step rfl
theorem swtWrite : Statement .swtWrite := of_step rfl
theorem aperture : Statement .aperture := of_step rfl
theorem domainJoin : Statement .domainJoin := of_step rfl
theorem linkRetrain : Statement .linkRetrain := of_step rfl
theorem groupSet : Statement .groupSet := of_step rfl
theorem qpSet : Statement .qpSet := of_step rfl
theorem coreHook : Statement .coreHook := of_step rfl
theorem ringSet : Statement .ringSet := of_step rfl
theorem raiseMode : Statement .raiseMode := of_step rfl
theorem loadKey : Statement .loadKey := of_step rfl
theorem dropKey : Statement .dropKey := of_step rfl
theorem openWindow : Statement .openWindow := of_step rfl
theorem closeWindow : Statement .closeWindow := of_step rfl
theorem getEkey : Statement .getEkey := of_step rfl
theorem policyWrite : Statement .policyWrite := of_step rfl
theorem debugUnlock : Statement .debugUnlock := of_step rfl
theorem debugEnd : Statement .debugEnd := of_step rfl
theorem attest : Statement .attest := of_step rfl
theorem gate : Statement .gate := of_step rfl
theorem suspend : Statement .suspend := of_step rfl
theorem resume : Statement .resume := of_step rfl
theorem taskCommit : Statement .taskCommit := of_step rfl
theorem ret : Statement .ret := of_word (op := 0x06) rfl rfl (by omega) (by omega) rfl
theorem lbrk : Statement .lbrk := of_word (op := 0x0A) rfl rfl (by omega) (by omega) rfl
theorem ckpt : Statement .ckpt := of_word (op := 0x18) rfl rfl (by omega) (by omega) rfl
theorem yield : Statement .yield := of_word (op := 0x19) rfl rfl (by omega) (by omega) rfl
theorem exit : Statement .exit := of_word (op := 0x22) rfl rfl (by omega) (by omega) rfl
theorem mxpdOff : Statement .mxpdOff := of_word (op := 0x06) rfl rfl (by omega) (by omega) rfl
theorem powerOff : Statement .powerOff := of_step rfl

end Sys2Proof.Laws.RoundTrip
end

