-- ==== Sys2Proof/Tests/Slice0.lean ====
section
/-! SUPPORT. Tests: words of the spec decode to what they stand for, ill-formed terms are refused, single steps give the values the spec
gives, and the hypotheses of the statements are met by concrete states. -/

namespace Sys2Proof.Tests

set_option Elab.async false

open Sys2Proof Sys2Proof.Machine

/-! ### Decoding (13 R331 to R343 and the entries of 14 to 17) -/

/-- The bundle of 13 R336: header, ADD s4, s2, q1 in A0 and LD.d s5, [a2] in L. -/
theorem test_decode_bundle :
    (decodeBundle (bytes32 0x9D03028A ++ bytes32 0x01102E40 ++ bytes32 0x0114B000)).toOption.map
        (fun b => (b.hdr, b.slots.map fun q => (q.1, q.2.1, q.2.2.toOption))) =
      some (⟨0x9D, 0, false, 3, 2, true, 0x0A⟩, [(.a0, 0x01102E40, some (.add 4 2 57)), (.l, 0x0114B000, some (.ld 5 2 3 0))]) := by
  decide

/-- 13 R332: the header of a STOP bundle with the slots that PRES 0110000 names. -/
theorem test_decode_header : decodeHeader 0x9D0000B0 = ⟨0x9D, 0, false, 0, 0, true, 0x30⟩ ∧ (decodeHeader 0x9D0000B0).ok = true ∧
    (decodeHeader 0x9C0000B0).ok = false ∧ (decodeHeader 0x9D1000B0).ok = false := by
  decide

/-- Words that the entries of 14 R354 to R375 give as examples. -/
theorem test_decode_control_examples :
    decodeClass .control 0x010FFFF0 = .ok (.br (-16)) ∧ decodeClass .control 0x0240000C = .ok (.brp 2 false 12) ∧
    decodeClass .control 0x0400C000 = .ok (.calli 12) ∧ decodeClass .control 0x0900A003 = .ok (.loopi 10 3) ∧
    decodeClass .control 0x0A000000 = .ok .lbrk ∧ decodeClass .control 0x10240040 = .ok (.mtc 9 1) ∧
    decodeClass .control 0x111401C0 = .ok (.mfc 5 7) ∧ decodeClass .control 0x14000004 = .ok (.phase 4) ∧
    decodeClass .control 0x20515580 = .ok (.spawn 20 21 22 false) ∧ decodeClass .control 0x215D4000 = .ok (.join 23 20) ∧
    decodeClass .control 0x22000000 = .ok .exit ∧ decodeClass .control 0x23614640 = .ok (.tkill 24 20 25) ∧
    decodeClass .control 0x29000011 = .ok (.sysc 17) ∧ decodeClass .control 0x30000001 = .ok (.eret true) ∧
    decodeClass .control 0x31002000 = .ok (.ctxsw 2 false) ∧ decodeClass .control 0x32000000 = .ok (.halt false) := by
  decide

/-- Words written from the opcode and the field places of the entries of 14 R354 to R375. -/
theorem test_decode_control_0 :
    decodeClass .control 0x010A5A5A = .ok (.br 0xA5A5A) ∧ decodeClass .control 0x02BA5A5A = .ok (.brp 5 true 0xA5A5A) ∧
    decodeClass .control 0x030A5A5A = .ok (.call 0xA5A5A) ∧ decodeClass .control 0x04015000 = .ok (.calli 21) ∧
    decodeClass .control 0x05015000 = .ok (.jmpi 21) ∧ decodeClass .control 0x06000000 = .ok .ret ∧
    decodeClass .control 0x08015A53 = .ok (.loop 21 0xA53) ∧ decodeClass .control 0x095A3A53 = .ok (.loopi 0x5A3 0xA53) ∧
    decodeClass .control 0x0A000000 = .ok .lbrk ∧ decodeClass .control 0x105694C0 = .ok (.mtc 21 0xA53) ∧
    decodeClass .control 0x115694C0 = .ok (.mfc 21 0xA53) ∧ decodeClass .control 0x14000007 = .ok (.phase 7) ∧
    decodeClass .control 0x18000000 = .ok .ckpt ∧ decodeClass .control 0x19000000 = .ok .yield ∧
    decodeClass .control 0x2056ACC1 = .ok (.spawn 21 42 51 true) ∧ decodeClass .control 0x2156A000 = .ok (.join 21 42) := by
  decide

/-- Words written from the opcode and the field places of the entries of 14 R354 to R375. -/
theorem test_decode_control_1 :
    decodeClass .control 0x22000000 = .ok .exit ∧ decodeClass .control 0x2356ACC0 = .ok (.tkill 21 42 51) ∧
    decodeClass .control 0x2802A5A5 = .ok (.trap 0x2A5A5) ∧ decodeClass .control 0x2902A5A5 = .ok (.sysc 0x2A5A5) ∧
    decodeClass .control 0x2A02A5A5 = .ok (.brk 0x2A5A5) ∧ decodeClass .control 0x30000001 = .ok (.eret true) ∧
    decodeClass .control 0x31015001 = .ok (.ctxsw 21 true) ∧ decodeClass .control 0x32000001 = .ok (.halt true) := by
  decide

/-- Words that the entries of 14 R376 to R385 give as examples. -/
theorem test_decode_scalar_examples :
    decodeClass .scalar 0x011020C0 = .ok (.add 4 2 3) ∧ decodeClass .scalar 0x31483064 = .ok (.pcmpi 2 2 3 100) ∧
    decodeClass .scalar 0x320C1088 = .ok (.plog 3 1 2 8) ∧ decodeClass .scalar 0x3A082040 = .ok (.aaddi 2 2 64) ∧
    decodeClass .scalar 0x431C8241 = .ok (.ffma 7 8 9 true) := by
  decide

/-- Words written from the opcode and the field places of the entries of 14 R376 to R385. -/
theorem test_decode_scalar_0 :
    decodeClass .scalar 0x0156ACC0 = .ok (.add 21 42 51) ∧ decodeClass .scalar 0x0256ACC0 = .ok (.sub 21 42 51) ∧
    decodeClass .scalar 0x0356ACC0 = .ok (.mul 21 42 51) ∧ decodeClass .scalar 0x0456ACC0 = .ok (.mulh 21 42 51) ∧
    decodeClass .scalar 0x0556ACC0 = .ok (.mulhu 21 42 51) ∧ decodeClass .scalar 0x0656ACC0 = .ok (.div 21 42 51) ∧
    decodeClass .scalar 0x0756ACC0 = .ok (.divu 21 42 51) ∧ decodeClass .scalar 0x0856ACC0 = .ok (.rem 21 42 51) ∧
    decodeClass .scalar 0x0956ACC0 = .ok (.remu 21 42 51) ∧ decodeClass .scalar 0x0A56ACC0 = .ok (.and 21 42 51) ∧
    decodeClass .scalar 0x0B56ACC0 = .ok (.or 21 42 51) ∧ decodeClass .scalar 0x0C56ACC0 = .ok (.xor 21 42 51) ∧
    decodeClass .scalar 0x0D56ACC0 = .ok (.andn 21 42 51) ∧ decodeClass .scalar 0x0E56ACC0 = .ok (.shl 21 42 51) ∧
    decodeClass .scalar 0x0F56ACC0 = .ok (.shr 21 42 51) ∧ decodeClass .scalar 0x1056ACC0 = .ok (.sar 21 42 51) := by
  decide

/-- Words written from the opcode and the field places of the entries of 14 R376 to R385. -/
theorem test_decode_scalar_1 :
    decodeClass .scalar 0x1156ACC0 = .ok (.rol 21 42 51) ∧ decodeClass .scalar 0x1256ACC0 = .ok (.min 21 42 51) ∧
    decodeClass .scalar 0x1356ACC0 = .ok (.max 21 42 51) ∧ decodeClass .scalar 0x1456ACC0 = .ok (.minu 21 42 51) ∧
    decodeClass .scalar 0x1556ACC0 = .ok (.maxu 21 42 51) ∧ decodeClass .scalar 0x1656A000 = .ok (.clz 21 42) ∧
    decodeClass .scalar 0x1756A000 = .ok (.popc 21 42) ∧ decodeClass .scalar 0x1856ACC5 = .ok (.sel 21 42 51 5) ∧
    decodeClass .scalar 0x2056AA53 = .ok (.addi 21 42 0xA53) ∧ decodeClass .scalar 0x2156AA53 = .ok (.andi 21 42 0xA53) ∧
    decodeClass .scalar 0x2256AA53 = .ok (.ori 21 42 0xA53) ∧ decodeClass .scalar 0x2356AA53 = .ok (.xori 21 42 0xA53) ∧
    decodeClass .scalar 0x2456A033 = .ok (.shli 21 42 51) ∧ decodeClass .scalar 0x2556A033 = .ok (.shri 21 42 51) ∧
    decodeClass .scalar 0x2656A033 = .ok (.sari 21 42 51) ∧ decodeClass .scalar 0x2756A033 = .ok (.roli 21 42 51) := by
  decide

/-- Words written from the opcode and the field places of the entries of 14 R376 to R385. -/
theorem test_decode_scalar_2 :
    decodeClass .scalar 0x2856A5A5 = .ok (.movi 21 0x2A5A5) ∧ decodeClass .scalar 0x29569ABC = .ok (.insh 21 2 0x9ABC) ∧
    decodeClass .scalar 0x30155A82 = .ok (.pcmp 5 21 42 2) ∧ decodeClass .scalar 0x31555A53 = .ok (.pcmpi 2 5 21 0xA53) ∧
    decodeClass .scalar 0x3214218A = .ok (.plog 5 2 6 10) ∧ decodeClass .scalar 0x38155000 = .ok (.amov 5 21) ∧
    decodeClass .scalar 0x3914A540 = .ok (.aadd 5 10 21) ∧ decodeClass .scalar 0x3A14AA53 = .ok (.aaddi 5 10 0xA53) ∧
    decodeClass .scalar 0x3B545000 = .ok (.aget 21 5) ∧ decodeClass .scalar 0x3C540002 = .ok (.lidx 21 2) ∧
    decodeClass .scalar 0x4056ACC1 = .ok (.fadd 21 42 51 true) ∧ decodeClass .scalar 0x4156ACC1 = .ok (.fsub 21 42 51 true) ∧
    decodeClass .scalar 0x4256ACC1 = .ok (.fmul 21 42 51 true) ∧ decodeClass .scalar 0x4356ACC1 = .ok (.ffma 21 42 51 true) ∧
    decodeClass .scalar 0x4456ACC1 = .ok (.fmin 21 42 51 true) ∧ decodeClass .scalar 0x4556ACC1 = .ok (.fmax 21 42 51 true) := by
  decide

/-- Words written from the opcode and the field places of the entries of 14 R376 to R385. -/
theorem test_decode_scalar_3 :
    decodeClass .scalar 0x4656A283 = .ok (.fcvt 21 42 10 3) ∧ decodeClass .scalar 0x47155A8B = .ok (.fcmp 5 21 42 5 true) := by
  decide

/-- Words that the entries of 15 give as examples. -/
theorem test_decode_memory_examples :
    decodeClass .memory 0x0218DFFD = .ok (.lds 6 3 1 (-3)) ∧ decodeClass .memory 0x0328B000 = .ok (.st 10 2 3 0) ∧
    decodeClass .memory 0x05102011 = .ok (.ldc 4 2 2 1) ∧ decodeClass .memory 0x06002052 = .ok (.stf 2 1 2 2) ∧
    decodeClass .memory 0x07102000 = .ok (.ldct 4 2 0 0) ∧ decodeClass .memory 0x0A00204A = .ok (.femk 2 1 1 2) ∧
    decodeClass .memory 0x10048900 = .ok (.vld 1 2 9 0 0) ∧ decodeClass .memory 0x11050921 = .ok (.vst 1 4 9 2 1) ∧
    decodeClass .memory 0x180020D2 = .ok (.cadd 0 2 3 2 2) ∧ decodeClass .memory 0x191020D1 = .ok (.cwait 4 2 3 2 1) ∧
    decodeClass .memory 0x1A102021 = .ok (.cread 4 2 4 1) ∧ decodeClass .memory 0x20107008 = .ok (.rbacq 4 7 1) ∧
    decodeClass .memory 0x21007008 = .ok (.rbrel 7 1) ∧ decodeClass .memory 0x28000012 = .ok (.fence 2 2) ∧
    decodeClass .memory 0x29003010 = .ok (.publ 3 2) ∧ decodeClass .memory 0x2A0810C0 = .ok (.bind 2 1 3 0) ∧
    decodeClass .memory 0x2B0010C0 = .ok (.unbind 1 3) ∧ decodeClass .memory 0x30003140 = .ok (.pgreq 3 5) ∧
    decodeClass .memory 0x3200B008 = .ok (.cdisc 2 8) ∧ decodeClass .memory 0x38001080 = .ok (.tlbi 1 2) := by
  decide

/-- Words written from the opcode and the field places of the entries of 15. -/
theorem test_decode_memory_0 :
    decodeClass .memory 0x01556A53 = .ok (.ld 21 5 2 0xA53) ∧ decodeClass .memory 0x02556A53 = .ok (.lds 21 5 2 0xA53) ∧
    decodeClass .memory 0x03556A53 = .ok (.st 21 5 2 0xA53) ∧ decodeClass .memory 0x0B556A53 = .ok (.ldlu 21 5 2 0xA53) ∧
    decodeClass .memory 0x04545029 = .ok (.ldw 21 5 5 1) ∧ decodeClass .memory 0x05545029 = .ok (.ldc 21 5 5 1) ∧
    decodeClass .memory 0x0600556A = .ok (.stf 5 21 5 2) ∧ decodeClass .memory 0x07545029 = .ok (.ldct 21 5 5 1) ∧
    decodeClass .memory 0x0800556A = .ok (.stft 5 21 5 2) ∧ decodeClass .memory 0x09545029 = .ok (.feq 21 5 5 1) ∧
    decodeClass .memory 0x0A00556A = .ok (.femk 5 21 5 2) ∧ decodeClass .memory 0x10555552 = .ok (.vld 21 5 21 5 2) ∧
    decodeClass .memory 0x11555552 = .ok (.vst 21 5 21 5 2) ∧ decodeClass .memory 0x1856ACEB = .ok (.cadd 21 42 51 5 3) ∧
    decodeClass .memory 0x1956ACE9 = .ok (.cwait 21 42 51 5 1) ∧ decodeClass .memory 0x1A56A029 = .ok (.cread 21 42 5 1) := by
  decide

/-- Words written from the opcode and the field places of the entries of 15. -/
theorem test_decode_memory_1 :
    decodeClass .memory 0x20155028 = .ok (.rbacq 5 21 5) ∧ decodeClass .memory 0x21015028 = .ok (.rbrel 21 5) ∧
    decodeClass .memory 0x2800002B = .ok (.fence 5 3) ∧ decodeClass .memory 0x29005028 = .ok (.publ 5 5) ∧
    decodeClass .memory 0x2A545A90 = .ok (.bind 21 5 42 2) ∧ decodeClass .memory 0x2B005540 = .ok (.unbind 5 21) ∧
    decodeClass .memory 0x30005540 = .ok (.pgreq 5 21) ∧ decodeClass .memory 0x31017A53 = .ok (.cflush 5 0xA53) ∧
    decodeClass .memory 0x32017A53 = .ok (.cdisc 5 0xA53) ∧ decodeClass .memory 0x33017A53 = .ok (.cpref 5 0xA53) ∧
    decodeClass .memory 0x34005550 = .ok (.accad 5 21 2) ∧ decodeClass .memory 0x38005540 = .ok (.tlbi 5 21) := by
  decide

/-- Words that the entries of 16 give as examples. -/
theorem test_decode_vector_examples :
    decodeClass .vector 0x04042201 = .ok (.vfma 1 2 8 0 true) ∧ decodeClass .vector 0x0B0C3241 = .ok (.vclamp 3 3 9 0 true) ∧
    decodeClass .vector 0x10105140 = .ok (.vsf 4 5 5 0) ∧ decodeClass .vector 0x1108108C = .ok (.vcmp 2 1 2 3 false) ∧
    decodeClass .vector 0x1218108C = .ok (.vsel 6 1 2 3 false) ∧ decodeClass .vector 0x1C041081 = .ok (.vshl 1 1 2 0 true) ∧
    decodeClass .vector 0x201C8080 = .ok (.vcvt 7 8 2 0) ∧ decodeClass .vector 0x210420C0 = .ok (.vpadd 1 2 3 0 false) ∧
    decodeClass .vector 0x28105180 = .ok (.vperm 4 5 6 0) ∧ decodeClass .vector 0x29081000 = .ok (.vtrn 2 1 0) ∧
    decodeClass .vector 0x3024A040 = .ok (.vred 9 10 0 1 0) ∧ decodeClass .vector 0x31209040 = .ok (.vscan 8 9 false 1 0) ∧
    decodeClass .vector 0x33187008 = .ok (.vcompact 6 7 2) ∧ decodeClass .vector 0x38100241 = .ok (.vbcastScalar 4 9 0) ∧
    decodeClass .vector 0x3A083101 = .ok (.vins 2 3 4) ∧ decodeClass .vector 0x3B1821C1 = .ok (.vext 6 2 7) ∧
    decodeClass .vector 0x3C142000 = .ok (.viota 5 2 0) ∧ decodeClass .vector 0x40152281 = .ok (.nzgen 5 true 2 10 0) ∧
    decodeClass .vector 0x4128B0C0 = .ok (.rngd 10 11 false 3 0) ∧ decodeClass .vector 0x42515014 = .ok (.vreplay 20 21 5) ∧
    decodeClass .vector 0x480CC000 = .ok (.accrd 3 12 false 0) ∧ decodeClass .vector 0x4910C080 = .ok (.accwr 4 12 2 0) ∧
    decodeClass .vector 0x500C10A0 = .ok (.mlog 3 1 2 8) ∧ decodeClass .vector 0x51143000 = .ok (.mcnt 5 3 0) := by
  decide

/-- Words written from the opcode and the field places of the entries of 16. -/
theorem test_decode_vector_0 :
    decodeClass .vector 0x0156ACD5 = .ok (.vadd 21 42 51 5 true) ∧ decodeClass .vector 0x0256ACD5 = .ok (.vsub 21 42 51 5 true) ∧
    decodeClass .vector 0x0356ACD5 = .ok (.vmul 21 42 51 5 true) ∧ decodeClass .vector 0x0456ACD5 = .ok (.vfma 21 42 51 5 true) ∧
    decodeClass .vector 0x0556ACD5 = .ok (.vfms 21 42 51 5 true) ∧ decodeClass .vector 0x0656ACD5 = .ok (.vfnma 21 42 51 5 true) ∧
    decodeClass .vector 0x0756ACD5 = .ok (.vmin 21 42 51 5 true) ∧ decodeClass .vector 0x0856ACD5 = .ok (.vmax 21 42 51 5 true) ∧
    decodeClass .vector 0x0956A014 = .ok (.vabs 21 42 5) ∧ decodeClass .vector 0x0A56A014 = .ok (.vneg 21 42 5) ∧
    decodeClass .vector 0x0B56ACD5 = .ok (.vclamp 21 42 51 5 true) ∧ decodeClass .vector 0x1056A094 = .ok (.vsf 21 42 2 5) ∧
    decodeClass .vector 0x11155CD5 = .ok (.vcmp 5 21 51 5 true) ∧ decodeClass .vector 0x1256ACD5 = .ok (.vsel 21 42 51 5 true) ∧
    decodeClass .vector 0x1856ACD5 = .ok (.vand 21 42 51 5 true) ∧ decodeClass .vector 0x1956ACD5 = .ok (.vor 21 42 51 5 true) := by
  decide

/-- Words written from the opcode and the field places of the entries of 16. -/
theorem test_decode_vector_1 :
    decodeClass .vector 0x1A56ACD5 = .ok (.vxor 21 42 51 5 true) ∧ decodeClass .vector 0x1B56A014 = .ok (.vnot 21 42 5) ∧
    decodeClass .vector 0x1C56ACD5 = .ok (.vshl 21 42 51 5 true) ∧ decodeClass .vector 0x1D56ACD5 = .ok (.vshr 21 42 51 5 true) ∧
    decodeClass .vector 0x1E56ACD5 = .ok (.vsar 21 42 51 5 true) ∧ decodeClass .vector 0x2056A294 = .ok (.vcvt 21 42 10 5) ∧
    decodeClass .vector 0x2156ACD5 = .ok (.vpadd 21 42 51 5 true) ∧ decodeClass .vector 0x2856ACD4 = .ok (.vperm 21 42 51 5) ∧
    decodeClass .vector 0x2956A014 = .ok (.vtrn 21 42 5) ∧ decodeClass .vector 0x3056A294 = .ok (.vred 21 42 2 2 5) ∧
    decodeClass .vector 0x3156A194 = .ok (.vscan 21 42 true 2 5) ∧ decodeClass .vector 0x3256A014 = .ok (.vsegred 21 42 5) ∧
    decodeClass .vector 0x3356A014 = .ok (.vcompact 21 42 5) ∧ decodeClass .vector 0x3856A014 = .ok (.vbcast 21 42 5) ∧
    decodeClass .vector 0x38540555 = .ok (.vbcastScalar 21 21 5) ∧ decodeClass .vector 0x3956A014 = .ok (.vmov 21 42 5) := by
  decide

/-- Words written from the opcode and the field places of the entries of 16. -/
theorem test_decode_vector_2 :
    decodeClass .vector 0x3A555A81 = .ok (.vins 21 21 42) ∧ decodeClass .vector 0x3B555A81 = .ok (.vext 21 21 42) ∧
    decodeClass .vector 0x3C542014 = .ok (.viota 21 2 5) ∧ decodeClass .vector 0x3C542555 = .ok (.viotaBase 21 2 21 5) ∧
    decodeClass .vector 0x4055A555 = .ok (.nzgen 21 true 10 21 5) ∧ decodeClass .vector 0x4156A694 = .ok (.rngd 21 42 true 10 5) ∧
    decodeClass .vector 0x4256A014 = .ok (.vreplay 21 42 5) ∧ decodeClass .vector 0x48555054 = .ok (.accrd 21 21 true 5) ∧
    decodeClass .vector 0x49555094 = .ok (.accwr 21 21 2 5) ∧ decodeClass .vector 0x501421A8 = .ok (.mlog 5 2 6 10) ∧
    decodeClass .vector 0x51545080 = .ok (.mcnt 21 5 2) := by
  decide

/-- Words that the entries of 17 give as examples. -/
theorem test_decode_engine_examples :
    decodeClass .engine 0x01001100 = .ok (.mxset 1 4) ∧ decodeClass .engine 0x02000515 = .ok (.mxw 20 21) ∧
    decodeClass .engine 0x02011000 = .ok (.mxwTile 8) ∧ decodeClass .engine 0x03005000 = .ok (.mxaTile 2) ∧
    decodeClass .engine 0x04000180 = .ok (.mxcb 6) ∧ decodeClass .engine 0x05007000 = .ok (.mxceTile 3) ∧
    decodeClass .engine 0x0600028B = .ok (.mxpd 10 11) ∧ decodeClass .engine 0x070051C0 = .ok (.mxdn 5 7) ∧
    decodeClass .engine 0x08001240 = .ok (.mxcv 1 9) ∧ decodeClass .engine 0x09000300 = .ok (.mxtap 12) ∧
    decodeClass .engine 0x0A000340 = .ok (.mxsp 13) ∧ decodeClass .engine 0x100330C0 = .ok (.cpset 0x33 3) ∧
    decodeClass .engine 0x18000187 = .ok (.trpush 0 0 6 7) ∧ decodeClass .engine 0x19002209 = .ok (.trpop true false 8 9) ∧
    decodeClass .engine 0x28007411 = .ok (.qppost 7 16 17) ∧ decodeClass .engine 0x29021480 = .ok (.scput 0x21 18) ∧
    decodeClass .engine 0x2A0224C0 = .ok (.scred 0x22 19) ∧ decodeClass .engine 0x30000515 = .ok (.gnode 20 21) ∧
    decodeClass .engine 0x31000580 = .ok (.gsig 22) := by
  decide

/-- Words written from the opcode and the field places of the entries of 17. -/
theorem test_decode_engine_0 :
    decodeClass .engine 0x01007540 = .ok (.mxset 7 21) ∧ decodeClass .engine 0x0200056A = .ok (.mxw 21 42) ∧
    decodeClass .engine 0x0202B000 = .ok (.mxwTile 21) ∧ decodeClass .engine 0x0300056A = .ok (.mxa 21 42) ∧
    decodeClass .engine 0x0302B000 = .ok (.mxaTile 21) ∧ decodeClass .engine 0x04000540 = .ok (.mxcb 21) ∧
    decodeClass .engine 0x0500056A = .ok (.mxce 21 42) ∧ decodeClass .engine 0x0502B000 = .ok (.mxceTile 21) ∧
    decodeClass .engine 0x0600056A = .ok (.mxpd 21 42) ∧ decodeClass .engine 0x06001000 = .ok .mxpdOff ∧
    decodeClass .engine 0x07015540 = .ok (.mxdn 21 21) ∧ decodeClass .engine 0x08002540 = .ok (.mxcv 2 21) ∧
    decodeClass .engine 0x09000540 = .ok (.mxtap 21) ∧ decodeClass .engine 0x0A000540 = .ok (.mxsp 21) ∧
    decodeClass .engine 0x10025540 = .ok (.cpset 37 21) ∧ decodeClass .engine 0x1100156A = .ok (.cpgo true 21 42) := by
  decide

/-- Words written from the opcode and the field places of the entries of 17. -/
theorem test_decode_engine_1 :
    decodeClass .engine 0x1800A56A = .ok (.trpush 2 2 21 42) ∧ decodeClass .engine 0x1900256A = .ok (.trpop true false 21 42) ∧
    decodeClass .engine 0x2000156A = .ok (.gthr true 21 42) ∧ decodeClass .engine 0x2100156A = .ok (.sctr true 21 42) ∧
    decodeClass .engine 0x280A556A = .ok (.qppost 0xA5 21 42) ∧ decodeClass .engine 0x29A53540 = .ok (.scput 0xA53 21) ∧
    decodeClass .engine 0x2AA53540 = .ok (.scred 0xA53 21) ∧ decodeClass .engine 0x3000056A = .ok (.gnode 21 42) ∧
    decodeClass .engine 0x31000540 = .ok (.gsig 21) := by
  decide

/-! ### Well-formedness (13 R329, R338, R347): a refused term for each check -/

theorem test_ill_formed :
    ∀ i ∈ ([.loop 1 0, .loopi 5 0, .mtc 1 0x10, .mtc 1 0, .mtc 1 8, .mtc 1 0xB40, .mfc 60 1, .mfc 1 0x13, .phase 1, .phase 9, .spawn 60 1 2 false,
      .join 61 1, .tkill 62 1 2, .add 60 1 2, .sub 63 1 2, .mul 60 1 2, .mulh 60 1 2, .mulhu 60 1 2, .div 60 1 2, .divu 60 1 2, .rem 60 1 2,
      .remu 60 1 2, .and 60 1 2, .or 60 1 2, .xor 60 1 2, .andn 60 1 2, .shl 60 1 2, .shr 60 1 2, .sar 60 1 2, .rol 60 1 2, .min 60 1 2,
      .max 60 1 2, .minu 60 1 2, .maxu 60 1 2, .clz 60 1, .popc 60 1, .sel 60 1 2 1, .addi 60 1 2, .andi 60 1 2, .ori 60 1 2, .xori 60 1 2,
      .shli 60 1 2, .shri 60 1 2, .sari 60 1 2, .roli 60 1 2, .movi 60 1, .insh 56 0 1, .aget 60 1, .lidx 60 0, .fadd 60 1 2 true,
      .fsub 60 1 2 true, .fmul 60 1 2 true, .ffma 56 1 2 true, .fmin 60 1 2 true, .fmax 60 1 2 true, .fcvt 60 1 0 1, .fcvt 1 1 6 1,
      .fcvt 1 1 1 6, .fcmp 1 1 2 6 true] : List Instr), i.wf = false := by
  decide

theorem test_ill_formed_memory_vector_engine :
    ∀ i ∈ ([.ld 60 1 3 0, .lds 60 1 3 0, .ldlu 60 1 3 0, .ldw 60 1 2 0, .ldw 1 1 6 0, .ldw 1 1 2 2, .ldc 1 1 7 0, .ldct 1 1 2 3, .feq 1 1 2 4,
      .stf 1 1 6 0, .stf 1 1 2 1, .stft 1 1 2 3, .femk 1 1 7 0, .femk 1 1 2 1, .cadd 60 1 2 2 0, .cadd 1 1 2 6 0, .cadd 1 1 2 2 4, .cwait 1 1 2 2 2,
      .cread 1 1 2 2, .cread 1 1 6 1, .rbacq 1 1 6, .rbrel 1 7, .fence 1 0, .fence 2 4, .fence 6 1, .publ 1 6, .bind 1 1 1 3, .accad 1 1 3,
      .vcmp 6 1 2 1 false, .vred 1 2 3 0 0, .vred 1 2 0 3 0, .vscan 1 2 false 3 0, .vext 60 1 1, .viota 1 3 0, .viotaBase 1 3 1 0, .vreplay 4 4 0,
      .accwr 1 1 3 0, .mcnt 60 1 0, .mcnt 1 1 3, .mxset 0 1, .mxset 8 1, .cpset 6 1, .cpset 0x16 1, .cpset 0x34 1, .trpush 0 3 1 2,
      .trpush 1 0 1 2] : List Instr), i.wf = false := by
  decide

/-- 13 R338: what the decoder refuses stays refused: an unassigned opcode, a reserved field that is not 0, and a field value no entry has. -/
theorem test_decode_refuses :
    (decodeClass .control 0x07000000).toOption = none ∧ (decodeClass .control 0x06000001).toOption = none ∧ (decodeClass .scalar 0x01F02000).toOption = none ∧
    (decodeClass .memory 0x28000008).toOption = none ∧ (decodeClass .vector 0x3C003000).toOption = none ∧ (decodeClass .engine 0x01008000).toOption = none := by
  decide

/-! ### Witnesses: concrete states that meet the hypotheses of the statements -/

/-- Context 0 of core 1 right after a checkpoint, with a bundle that fetches at address 0. -/
def calmState : State := takeCheckpoint (State.reset.withFetchWord 32 0x011020C0) 1 0

/-- What `Calm` asks, as a test. -/
def calmB (k : Core) (x : Nat) : Bool :=
  decide (k.run = some x ∧ (coreCtx k x).killed = false ∧ (coreCtx k x).grp = [] ∧ (coreCtx k x).spec = none ∧ (coreCtx k x).kept = none ∧
    ((coreCtx k x).replay = [] ∧ (coreCtx k x).replayTo = 0) ∧ k.rerun = none ∧ k.pend = [] ∧ k.arrivals = [] ∧ k.engs = [] ∧ k.coop = none) &&
  (match k.shadow with | some h => h.id == x && h.count == 0 | none => false) && decide (k.drain = none ∧ k.v0Free ≤ k.ic ∧ k.v1Free ≤ k.ic)

theorem calm_of {k : Core} {x : Nat} (h : calmB k x = true) : Calm k x := by
  unfold calmB at h
  simp only [Bool.and_eq_true, decide_eq_true_eq] at h
  obtain ⟨⟨⟨h1, h2, h3, h4, h5, h6, h7, h8, h9, h10, h11⟩, hs⟩, h12, h13⟩ := h
  refine ⟨h1, h2, h3, h4, h5, h6, h7, h8, h9, h10, h11, ?_, h12, h13⟩
  split at hs
  · next h e =>
    simp only [Bool.and_eq_true, beq_iff_eq] at hs
    exact ⟨h, e, hs⟩
  · cases hs

/-- What `Ready` asks, as a test. -/
def readyB (s : State) (x : Nat) (i : Instr) : Bool :=
  calmB (coreOf s s.turn) x && i.wf && i.homeSlot.isSome && (!needsPriv i || (ctxOf s s.turn x).priv) &&
  !emptyQueue (coreOf s s.turn) x (soloAt s x i) && !pushFull s s.turn x (soloAt s x i) && (ownerTrap (coreOf s s.turn) s.turn x i).isNone &&
  !(s.mod.exchanges.any fun e => e.ofBundle s.turn x)

theorem ready_of {s : State} {x : Nat} {i : Instr} (h : readyB s x i = true) : Ready s x i := by
  unfold readyB at h
  simp only [Bool.and_eq_true, Bool.or_eq_true, Bool.not_eq_true', Option.isNone_iff_eq_none] at h
  obtain ⟨⟨⟨⟨⟨⟨⟨h1, h2⟩, h3⟩, h4⟩, h5⟩, h6⟩, h7⟩, h8⟩ := h
  exact ⟨calm_of h1, h2, h3, fun hn => by simpa [hn] using h4, h5, h6, h7, h8⟩

theorem all_ready {s : State} {x : Nat} {l : List Instr} (h : l.all (readyB s x) = true) : ∀ i ∈ l, Ready s x i :=
  fun i hi => ready_of (List.all_eq_true.mp h i hi)

/-- The scalar instructions on registers and immediates. -/
theorem witness_IntegerResultsOfRegisters : ∀ i ∈ ([.add 4 2 3, .sub 55 1 1, .mul 1 2 3, .mulh 1 2 3, .mulhu 1 2 3, .and 0 2 3, .or 1 2 3, .xor 1 2 3,
    .andn 1 2 3, .shl 1 2 3, .shr 1 2 3, .sar 1 2 3, .rol 1 2 3, .min 1 2 3, .max 1 2 3, .minu 1 2 3, .maxu 1 2 3, .clz 1 2, .popc 1 2, .sel 1 2 3 7] : List Instr),
    Ready calmState 0 i := all_ready (by decide +kernel)
theorem witness_DivisionResultsAndFlag : ∀ i ∈ ([.div 1 2 3, .divu 1 2 3, .rem 1 2 3, .remu 56 2 3] : List Instr), Ready calmState 0 i :=
  all_ready (by decide +kernel)

theorem witness_IntegerResultsOfImmediates : ∀ i ∈ ([.addi 1 2 0x800, .andi 1 2 1, .ori 1 2 1, .xori 1 2 1, .shli 1 2 63, .shri 1 2 63, .sari 1 2 63,
    .roli 1 2 63, .movi 1 0x20000, .insh 1 3 0xFFFF] : List Instr), Ready calmState 0 i := all_ready (by decide +kernel)

/-- The same context in privileged mode. -/
def privState : State := modCtx calmState 1 0 fun t => { t with priv := true }

theorem witness_PredicateAddressAndControlResults :
    (∀ i ∈ ([.pcmp 1 2 3 0, .pcmpi 7 7 2 0x800, .plog 1 2 3 8, .amov 15 2, .aadd 1 2 3, .aaddi 1 2 0xFFF, .aget 1 15, .lidx 1 5, .mtc 1 1, .mtc 1 2,
      .mtc 1 3, .mtc 1 4, .mfc 1 1, .mfc 1 0x12] : List Instr), Ready calmState 0 i) ∧
    ∀ i ∈ ([.mtc 1 0x800, .mtc 1 0xB3F, .mfc 1 0x801] : List Instr), Ready privState 0 i :=
  ⟨all_ready (by decide +kernel), all_ready (by decide +kernel)⟩

theorem witness_ScalarFloatingResults : (∀ i ∈ ([.fadd 1 2 3 true, .fsub 1 2 3 false, .fmul 1 2 3 true, .ffma 55 2 3 true, .fmin 1 2 3 true,
    .fmax 1 2 3 true, .fcmp 1 2 3 5 true, .fcvt 1 2 13 0] : List Instr), Ready calmState 0 i) ∧ (13 : BitVec 4).toNat < 14 ∧ (0 : BitVec 4).toNat < 14 :=
  ⟨all_ready (by decide +kernel), by decide⟩

/-- Context 0 with p1 true, s1 = 2 and lk = 4: neither names a bundle. -/
def regState : State := modCtx calmState 1 0 fun t => setSReg (setSReg (setPReg t 1 true) 1 2) 55 4

theorem witness_TransfersOfControl :
    (∀ i ∈ ([.br 0, .brp 0 false 0, .brp 0 true 0, .call 0, .calli 0, .jmpi 0, .ret] : List Instr), Ready calmState 0 i) ∧
    targetOk (coreOf calmState 1) 0 false 0 = true ∧ operand calmState 0 0 = 0 ∧ sReg (ctxOf calmState 1 0) 55 = 0 ∧
    (predOf calmState 0 0 != false) = true ∧ (predOf calmState 0 0 != true) = false ∧
    (∀ i ∈ ([.br 1, .brp 1 false 1, .call 1, .calli 1, .jmpi 1, .ret] : List Instr), Ready regState 0 i) ∧
    targetOk (coreOf regState 1) 0 false 4 = false ∧ targetOk (coreOf regState 1) 0 false (operand regState 0 1) = false ∧
    sReg (ctxOf regState 1 0) 55 = 4 ∧ (predOf regState 0 1 != false) = true :=
  ⟨all_ready (by decide +kernel), by decide +kernel, by decide +kernel, by decide +kernel, by decide +kernel, by decide +kernel, all_ready (by decide +kernel),
    by decide +kernel, by decide +kernel, by decide +kernel, by decide +kernel⟩

/-- Context 0 with its j lowest loops active, each over the bundle at 0, and s1 = 7. -/
def loopState (j : Nat) : State := modCtx calmState 1 0 fun t =>
  setSReg { t with lsCnt := (List.range j).map fun h => (h, 3), lsBody := (List.range j).map fun h => (h, 0x8000000000040000) } 1 7

theorem witness_LoopsBeginAndEnd :
    (∀ i ∈ ([.loop 1 1, .loopi 7 1, .loop 0 1, .loopi 0 1, .lbrk] : List Instr), Ready (loopState 0) 0 i) ∧
    (∀ i ∈ ([.loop 1 1, .loopi 7 0xFFF, .loop 0 1, .loopi 0 1, .lbrk] : List Instr), Ready (loopState 5) 0 i) ∧
    fld (operand (loopState 0) 0 1) 31 0 ≠ 0 ∧ fld (operand (loopState 0) 0 0) 31 0 = 0 ∧
    loopActive (ctxOf (loopState 0) 1 0) 0 = false ∧ loopActive (ctxOf (loopState 5) 1 0) 5 = false ∧
    (∀ h < 5, loopActive (ctxOf (loopState 5) 1 0) h = true) ∧ innermost (ctxOf (loopState 0) 1 0) = none ∧
    innermost (ctxOf (loopState 5) 1 0) = some 4 :=
  ⟨all_ready (by decide +kernel), all_ready (by decide +kernel), by decide +kernel, by decide +kernel, by decide +kernel, by decide +kernel,
    by decide +kernel, by decide +kernel, by decide +kernel⟩

theorem witness_PhaseCheckpointAndYield :
    (∀ i ∈ ([.phase 6, .phase 2, .phase 8, .ckpt, .yield] : List Instr), Ready calmState 0 i) ∧ (coreOf calmState 1).spadUnits = 6 ∧
    runAbove (coreOf calmState 1) 0 2 = none :=
  ⟨all_ready (by decide +kernel), by decide +kernel, by decide +kernel⟩

/-- Context 0 created join 5 of its die, with so many children ended of 2: s1 names it, s2 names none, s3 = 6 and s4 = 4097. -/
def joinState (count : Nat) : State :=
  modCtx (modDie calmState 0 fun d => { d with joins := [(5, { creator := some (1, 0), target := 2, count := BitVec.ofNat 64 count })] }) 1 0
    fun t => setSReg (setSReg (setSReg (setSReg t 1 (joinId calmState 0 5)) 2 0x12345) 3 6) 4 4097

theorem witness_ChildTasksAndExit :
    (∀ i ∈ ([.spawn 1 3 2 true, .spawn 1 2 4 false, .join 5 2, .join 5 1, .tkill 5 2 1, .tkill 5 1 1, .exit] : List Instr), Ready (joinState 2) 0 i) ∧
    fld (operand (joinState 2) 0 3) 5 0 ≠ 0 ∧ 4096 < (operand (joinState 2) 0 4).toNat ∧
    ownJoin (joinState 2) (soloEnv (joinState 2) 0 (.join 5 2)) (operand (joinState 2) 0 2) = none ∧
    (spawnRun (joinState 2) (soloEnv (joinState 2) 0 (.spawn 1 3 2 true)) 0 6 0x12345 true).2.toNat ≠ waitErr ∧
    ownJoin (joinState 2) (soloEnv (joinState 2) 0 (.join 5 1)) (operand (joinState 2) 0 1) =
      some (5, { creator := some (1, 0), target := 2, count := 2 }) ∧ (2 : Word).toNat ≤ (2 : Word).toNat :=
  ⟨all_ready (by decide +kernel), by decide +kernel, by decide +kernel, by decide +kernel, by decide +kernel, by decide +kernel, by decide⟩

theorem witness_ProgramTrapsAndReturns :
    (∀ i ∈ ([.trap 1, .sysc 0x3FFFF, .brk 0, .eret true, .eret false, .ctxsw 2 true, .halt true] : List Instr), Ready privState 0 i) ∧
    targetOk (coreOf privState 1) 0 false (BitVec.ofNat 64 (fld (ctxOf privState 1 0).epc 17 0)) = true ∧
    targetOk (coreOf privState 1) 0 false (BitVec.ofNat 64 (nextAddr (coreOf privState 1) (fld (ctxOf privState 1 0).epc 17 0))) = false :=
  ⟨all_ready (by decide +kernel), by decide +kernel, by decide +kernel⟩

/-- Address space 0 of die 0 has a table at physical address 0: page 0x10000 is UC at frame 0x10000, page 0x20000 is not resident, page 0x30000
is WB at frame 0x30000, and page 0x40000 is DEV. a1 to a4 name the pages, a5 the scratchpad of core 1, a6 is odd, and a10 lies in system space. -/
def mapState : State :=
  modCtx (modDie calmState 0 fun d => { d with
    mem := memWrite (memWrite [] 0 (leBytes 8 0x1 ++ leBytes 8 0x1047F ++ leBytes 8 0x204FF ++ leBytes 8 0x3007F ++ leBytes 8 0x4067F)) d.asrBase [1] }) 1 0
    fun t => setAReg (setAReg (setAReg (setAReg (setAReg (setAReg (setAReg t 1 0x10000) 2 0x20000) 3 0x30000) 4 0x40000) 5 0xFD00000000080000) 6 0x10001) 10
      0xFF00000000000000

theorem witness_ScalarLoads :
    (∀ i ∈ ([.ld 4 1 3 0, .lds 4 1 0 0, .ldlu 4 3 3 0, .ld 4 2 3 0, .ld 4 6 3 0, .lds 4 6 1 0, .ldlu 4 6 2 0] : List Instr), Ready mapState 0 i) ∧
    (addrOf mapState 0 1).toNat % 8 = 0 ∧ (coreRead mapState 1 0 0x10000 8 0 false).2 = .bytes (List.replicate 8 0) ∧
    (coreRead mapState 1 0 0x10000 1 0 false).2 = .bytes [0] ∧ (coreRead mapState 1 0 0x30000 8 3 false).2 = .bytes (List.replicate 8 0) ∧
    (coreRead mapState 1 0 0x20000 8 0 false).2 = .nonres ∧ (addrOf mapState 0 6).toNat % 2 ≠ 0 :=
  ⟨all_ready (by decide +kernel), by decide +kernel, by decide +kernel, by decide +kernel, by decide +kernel, by decide +kernel, by decide +kernel⟩

theorem witness_ScalarStores :
    (∀ i ∈ ([.st 4 1 3 0, .st 4 2 0 0, .st 4 6 3 0] : List Instr), Ready mapState 0 i) ∧
    (coreWrite mapState 1 0 0x10000 (leBytes 8 7) 0 false).2 = .bytes [] ∧ (coreWrite mapState 1 0 0x20000 [7] 0 false).2 = .nonres ∧
    (addrOf mapState 0 6).toNat % 8 ≠ 0 :=
  ⟨all_ready (by decide +kernel), by decide +kernel, by decide +kernel, by decide +kernel⟩

/-- What a cache instruction meets at an address: a page that may be read and written, a page without effect, one that permits less, or something else. -/
def lineKind (s : State) (va : Nat) : Nat :=
  match lineLoc s 1 0 va with
  | .page _ _ _ rd wr => if rd && wr then 1 else 0
  | .quiet => 2
  | _ => 3

/-- The page at 0x30000 is WB, resident and permits no access. -/
def unreadState : State := modDie mapState 0 fun d => { d with mem := memWrite d.mem 0x18 (leBytes 8 0x30073) }

theorem witness_CacheLineInstructions :
    (∀ i ∈ ([.cflush 3 0, .cdisc 3 0, .cpref 3 0, .cflush 1 0, .cdisc 1 0, .cpref 1 0, .cflush 10 0, .cdisc 10 0, .cpref 10 0] : List Instr),
      Ready mapState 0 i) ∧
    (addrOf mapState 0 10).toNat / 2 ^ 56 = 0xFF ∧ (addrOf mapState 0 3).toNat / 2 ^ 56 ≠ 0xFF ∧ (addrOf mapState 0 1).toNat / 2 ^ 56 ≠ 0xFF ∧
    lineKind mapState 0x30000 = 1 ∧ lineKind mapState 0x10000 = 2 ∧ lineKind unreadState 0x30000 = 0 := by
  refine ⟨all_ready ?_, ?_, ?_, ?_, ?_, ?_, ?_⟩ <;> decide +kernel

/-- The shape is 2 by 3 and the type FP32; a7 is a scratchpad address that is no multiple of 4. -/
def tileState : State := modCtx mapState 1 0 fun t => setSReg (setAReg { t with shp := 0x201 } 7 0xFD00000000080002) 1 64

theorem witness_TileLoadsAndStores :
    (∀ i ∈ ([.vld 63 5 1 0 0, .vld 1 5 1 5 3, .vst 1 5 1 0 0, .vld 1 7 1 0 0, .vst 1 7 1 0 0] : List Instr), Ready tileState 0 i) ∧
    tileTrap (ctxOf tileState 1 0) 0xFD00000000080000 64 0 0 = none ∧
    (((List.range (shpRows (ctxOf tileState 1 0))).foldl (loadRow (ctxOf tileState 1 0) 1 0 0xFD00000000080000 64 0 0 0) { s := tileState, mask := 0 }).fails).isEmpty = true ∧
    (((storeUnits tileState (ctxOf tileState 1 0) 0xFD00000000080000 64 0 0).foldl (storeRow (ctxOf tileState 1 0) 1 0 (tileOf tileState 1) 0xFD00000000080000 64 0 0 0)
      { s := tileState, mask := 0 }).fails).isEmpty = true ∧
    (tileTrap (ctxOf tileState 1 0) 0xFD00000000080002 64 0 0).map (·.1) = some 8 :=
  ⟨all_ready (by decide +kernel), by decide +kernel, by decide +kernel, by decide +kernel, by decide +kernel⟩

/-- The word at a1 is full. -/
def fullState : State := modDie mapState 0 fun d => setFull d 0x10000 true

theorem witness_FullEmptyAccesses :
    (∀ i ∈ ([.ldw 4 1 2 1, .ldc 4 1 2 1, .ldct 4 1 2 1, .stft 1 4 2 2, .feq 4 1 2 1, .femk 1 4 2 2] : List Instr), Ready fullState 0 i) ∧
    (∀ i ∈ ([.ldct 4 1 2 1, .stf 1 4 2 2, .stft 1 4 0 0] : List Instr), Ready mapState 0 i) ∧ (addrOf mapState 0 1).toNat % 8 = 0 ∧
    (feLoc fullState (soloEnv fullState 0 (.ldw 4 1 2 1)) 0x10000 false).2 = .word 0 0x10000 false ∧
    (feLoc fullState (soloEnv fullState 0 (.ldc 4 1 2 1)) 0x10000 true).2 = .word 0 0x10000 false ∧
    (feLoc mapState (soloEnv mapState 0 (.stf 1 4 2 2)) 0x10000 true).2 = .word 0 0x10000 false ∧
    fullBit (dieOf (feLoc fullState (soloEnv fullState 0 (.ldc 4 1 2 1)) 0x10000 true).1 0) 0x10000 = true ∧
    fullBit (dieOf (feLoc mapState (soloEnv mapState 0 (.stf 1 4 2 2)) 0x10000 true).1 0) 0x10000 = false ∧
    ¬(false && badCheck fullState 0 0x10000 8) = true :=
  ⟨all_ready (by decide +kernel), all_ready (by decide +kernel), by decide +kernel, by decide +kernel, by decide +kernel, by decide +kernel,
    by decide +kernel, by decide +kernel, by decide +kernel⟩

/-- Die 0 has ring 7 of two buffers, which counters 8 and 9 serve; s1 is counter 8, s2 = 7 and s3 = 2^44 - 1. -/
def ringState : State :=
  modCtx (modDie mapState 0 fun d => { d with mem := memWrite d.mem (ringAddr d 7) (leBytes 8 0x10000 ++ leBytes 4 64 ++ leBytes 4 2 ++ leBytes 4 8 ++ leBytes 4 9) }) 1 0
    fun t => setSReg (setSReg (setSReg t 1 8) 2 7) 3 (BitVec.ofNat 64 ctrMax)

theorem witness_CountersAndRings :
    (∀ i ∈ ([.cadd 4 1 3 5 3, .cadd 4 1 2 0 0, .cwait 4 1 0 2 1, .cread 4 1 2 0, .rbacq 4 2 1, .rbrel 2 1] : List Instr), Ready ringState 0 i) ∧
    ctrId (operand ringState 0 1) = 8 ∧ routed ringState (ctrDie 8) = true ∧ localDie ringState (ctrDie 8) = some 0 ∧
    (ctxOf ringState 1 0).spec = none ∧ (ctrVal ringState 0 (ctrIdx 8)).toNat + (operand ringState 0 3).toNat ≤ ctrMax ∧
    (operand ringState 0 0).toNat ≤ (ctrVal ringState 0 (ctrIdx 8)).toNat ∧ fld (operand ringState 0 2) 9 0 = 7 ∧
    (let r := ringOf ringState 0 7
     let took := takeTicket ringState (soloEnv ringState 0 (.rbacq 4 2 1)) 7 r
     let s1 := modCtx took.1 1 0 fun t => { t with ticket := some (7, took.2) }
     ringOk ringState r = true ∧ took.2.toNat + 1 ≤ (ctrById s1 r.rel.toNat).toNat + r.n ∧ localDie s1 (ctrDie r.rel.toNat) = some 0) :=
  ⟨all_ready (by decide +kernel), by decide +kernel, by decide +kernel, by decide +kernel, by decide +kernel, by decide +kernel, by decide +kernel,
    by decide +kernel, by decide +kernel⟩

/-- A region of one curtain of two pages at 0x10000 with its back at 0x40000; a7 is its base, a8 the page after it, a9 an accumulator
address of core 1 and a10 the whole of page 0x80000; s1 = 512, s2 = 256, s3 the back, s4 = 8. -/
def bindState : State :=
  modCtx (modDie mapState 0 fun d => { d with curtains := [⟨0, 1, 2, 4, false⟩] }) 1 0 fun t =>
    setSReg (setSReg (setSReg (setSReg (setAReg (setAReg (setAReg t 7 0x10000) 8 0x80000) 9 0xFD00000010200000) 1 512) 2 256) 3 0x70000) 4 8

theorem witness_FencesBindingsAndInvalidation :
    (∀ i ∈ ([.fence 0 0, .fence 2 1, .fence 5 2, .publ 7 2, .bind 4 8 2 0, .bind 4 8 2 1, .bind 3 8 2 2, .unbind 7 1, .unbind 8 2, .pgreq 2 4,
      .pgreq 1 4, .accad 9 1 0, .accad 9 1 1, .accad 9 1 2] : List Instr), Ready bindState 0 i) ∧
    Ready (modCtx bindState 1 0 fun t => { t with priv := true }) 0 (.tlbi 1 4) ∧
    localDie bindState (0x10000 / 2 ^ 56) = some 0 ∧ curtainOf bindState 0 0 0x10000 = some ⟨0, 1, 2, 4, false⟩ ∧
    BitVec.toNat (0x80000 : Word) % 256 = 0 ∧ (0x80000 + 256 * 256 - 1) / 2 ^ 56 = 0x80000 / 2 ^ 56 ∧ (operand bindState 0 4).toNat % 8 = 0 ∧
    (dieOf bindState 0).curtains.any (overCurtain 0 8 1) = false ∧
    bindsOver (bindBlocks (dieOf bindState 0).binds 0 0x800 256 (some (.ctr 8))) 0 = false ∧
    bindsOver (bindBlocks (dieOf bindState 0).binds 0 0x800 256 (some (.word 8))) 0 = false ∧
    curtainOk bindState 0 0 0x80000 256 0x70000 = true ∧ bindsOver (bindBlocks (dieOf bindState 0).binds 0 0x800 256 (some (.curtain 0x70000))) 0 = false ∧
    (0x10000 + 256 * 512 - 1) / 2 ^ 56 = 0x10000 / 2 ^ 56 ∧
    (∀ q ∈ (dieOf bindState 0).curtains, 0x100 ≤ 256 * q.base ∧ 256 * (q.base + q.len) ≤ 0x100 + 512) ∧
    routed bindState (ctrDie (ctrId 8)) = true ∧ routed bindState (0x20000 / 2 ^ 56) = true ∧ pgCase bindState 0 0 0x20000 = .later ∧
    pgCase bindState 0 0 0x30000 = .now false ∧ accTarget (clusterOfCore 1) 0xFD00000010200000 = some (1, 0) ∧ isFirmwareCore bindState 1 = false ∧
    (coreOf bindState 1).retired = false := by
  refine ⟨all_ready ?_, ready_of ?_, ?_, ?_, ?_, ?_, ?_, ?_, ?_, ?_, ?_, ?_, ?_, ?_, ?_, ?_, ?_, ?_, ?_, ?_, ?_⟩ <;> decide +kernel

/-- Context 0 with a shape of 2 rows and 3 columns and a type, and s1 = 6. -/
def vecState (ty : Word) : State := modCtx calmState 1 0 fun t => setSReg { t with shp := 0x201, fmt := ty } 1 6

/-- A vector instruction is ready in a state, with a shape and a type its entry accepts. -/
def Fits (s : State) (i : Instr) : Prop :=
  Ready s 0 i ∧ vShapeBad (ctxOf s s.turn 0) i = false ∧ vFmtBad (ctxOf s s.turn 0) i = false

theorem all_fit {s : State} {l : List Instr}
    (h : (l.all fun i => readyB s 0 i && !vShapeBad (ctxOf s s.turn 0) i && !vFmtBad (ctxOf s s.turn 0) i) = true) : ∀ i ∈ l, Fits s i := by
  intro i hi
  have := List.all_eq_true.mp h i hi
  simp only [Bool.and_eq_true, Bool.not_eq_true'] at this
  exact ⟨ready_of this.1.1, this.1.2, this.2⟩

/-- The instructions of VectorArithmetic, in FP32 (0), INT8 (7), INT64 (10) and UINT32 (13). -/
def arithInstrs : List Instr := [.vadd 1 2 3 0 false, .vsub 63 1 1 7 true, .vmul 1 2 3 0 true, .vfma 1 2 3 1 false, .vfms 1 2 3 0 false, .vfnma 1 2 3 0 true]

theorem witness_VectorArithmetic : (∀ i ∈ arithInstrs, Fits (vecState 0) i) ∧ (∀ i ∈ arithInstrs, Fits (vecState 7) i) ∧
    (∀ i ∈ arithInstrs, Fits (vecState 10) i) ∧ (∀ i ∈ arithInstrs, Fits (vecState 13) i) :=
  ⟨all_fit (by decide +kernel), all_fit (by decide +kernel), all_fit (by decide +kernel), all_fit (by decide +kernel)⟩

theorem witness_VectorPicksAndBits :
    (∀ i ∈ ([.vmin 1 2 3 0 false, .vmax 1 2 3 0 true, .vclamp 1 2 3 1 false, .vabs 1 2 0, .vneg 1 2 0, .vand 1 2 3 0 false, .vor 1 2 3 0 true,
      .vxor 1 2 3 7 false, .vnot 1 2 0, .vsel 1 2 3 7 false] : List Instr), Fits (vecState 0) i) ∧
    (∀ i ∈ ([.vmin 1 2 3 0 false, .vmax 1 2 3 0 true, .vclamp 1 2 3 1 false, .vabs 1 2 0, .vneg 1 2 0, .vand 1 2 3 0 false, .vor 1 2 3 0 true,
      .vxor 1 2 3 7 false, .vnot 1 2 0, .vsel 1 2 3 7 false, .vshl 1 2 3 0 true, .vshr 1 2 3 0 false, .vsar 1 2 3 0 true] : List Instr),
      Fits (vecState 9) i) := ⟨all_fit (by decide +kernel), all_fit (by decide +kernel)⟩

theorem witness_VectorFunctionsComparesAndConversions :
    (∀ i ∈ ([.vsf 1 2 0 0, .vsf 1 2 7 1, .vcmp 0 1 2 3 false, .vcmp 5 1 2 7 true, .vcvt 1 2 2 0, .vcvt 1 2 7 3, .vcvt 1 2 6 0] : List Instr),
      Fits (vecState 0) i) ∧ (∀ i ∈ ([.vcmp 2 1 2 3 false] : List Instr), Fits (vecState 11) i) ∧
    (∀ i ∈ ([.vpadd 1 2 3 0 false, .vpadd 1 2 3 1 true] : List Instr), Fits (vecState 4) i) ∧ isBfpTy 2 = false ∧ isBfpTy 7 = false ∧ isBfpTy 6 = true :=
  ⟨all_fit (by decide +kernel), all_fit (by decide +kernel), all_fit (by decide +kernel), by decide, by decide, by decide⟩

theorem witness_VectorMoves :
    (∀ i ∈ ([.vperm 1 2 3 0, .vtrn 1 2 0, .vcompact 1 2 3, .vbcast 1 2 0, .vbcastScalar 1 2 0, .vmov 1 2 0, .vmov 1 2 3, .vins 1 0 2, .vins 1 1 2,
      .vext 1 2 3, .viota 1 0 0, .viota 1 1 0, .viota 1 2 0, .viotaBase 1 2 3 0] : List Instr), Fits (vecState 0) i) ∧
    (∀ i ∈ ([.vmov 1 2 0] : List Instr), Fits (vecState 6) i) ∧ isBfpTy (fmtVT (ctxOf (vecState 0) 1 0)) = false ∧
    isBfpTy (fmtVT (ctxOf (vecState 6) 1 0)) = true ∧ (operand (vecState 0) 0 0).toNat < shpN (ctxOf (vecState 0) 1 0) ∧
    shpN (ctxOf (vecState 0) 1 0) ≤ (operand (vecState 0) 0 1).toNat :=
  ⟨all_fit (by decide +kernel), all_fit (by decide +kernel), by decide +kernel, by decide +kernel, by decide +kernel, by decide +kernel⟩

/-- The groups a sum works on, in a state. -/
def sumGroups (s : State) (axis : Nat) : List (List Nat) :=
  (axisGroups (ctxOf s 1 0) axis).map fun g => g.filter (maskOn (ctxOf s 1 0) 0)

theorem witness_VectorSumsNoiseAndReplay :
    (∀ i ∈ ([.vred 1 2 0 0 0, .vred 1 2 1 1 0, .vred 1 2 2 2 0, .vscan 1 2 true 0 0, .vscan 1 2 false 1 0, .vsegred 1 2 3, .nzgen 1 true 2 3 0,
      .rngd 1 2 true 3 0, .vreplay 1 2 0] : List Instr), Fits (vecState 0) i) ∧
    (∀ i ∈ ([.vred 1 2 0 2 0, .vscan 1 2 true 2 0, .vsegred 1 2 0] : List Instr), Fits (vecState 1) i) ∧
    (∀ i ∈ ([.nzgen 1 false 15 3 0, .rngd 1 2 false 0 0] : List Instr), Fits (vecState 8) i) ∧
    tooMany 1 (sumGroups (vecState 1) 2) = false ∧ tooMany 1 (sumGroups (vecState 1) 0) = false ∧ tooMany 1 (segments (ctxOf (vecState 1) 1 0) 0) = false ∧
    replayBad (tileOf (vecState 0) 2) = false :=
  ⟨all_fit (by decide +kernel), all_fit (by decide +kernel), all_fit (by decide +kernel), by decide +kernel, by decide +kernel, by decide +kernel,
    by decide +kernel⟩

theorem witness_AccumulatorMovesAndMasks :
    (∀ i ∈ ([.accrd 1 0 false 0, .accrd 1 0 true 0, .accwr 1 0 0 0, .accwr 1 0 1 0, .accwr 1 0 2 3] : List Instr),
      Fits (vecState 0) i ∧ accAligned (accLaMode i) (fld (operand (vecState 0) 0 0) 20 0) = true ∧
      accPast (accLaMode i) (fld (operand (vecState 0) 0 0) 20 0) 4 (shpN (ctxOf (vecState 0) 1 0)) = false) ∧
    ∀ i ∈ ([.mlog 1 2 3 8, .mcnt 1 2 0, .mcnt 1 2 1, .mcnt 56 2 2] : List Instr), Ready (vecState 0) 0 i :=
  ⟨fun i hi => ⟨all_fit (l := [.accrd 1 0 false 0, .accrd 1 0 true 0, .accwr 1 0 0 0, .accwr 1 0 1 0, .accwr 1 0 2 3]) (by decide +kernel) i hi,
    (show ∀ i ∈ ([.accrd 1 0 false 0, .accrd 1 0 true 0, .accwr 1 0 0 0, .accwr 1 0 1 0, .accwr 1 0 2 3] : List Instr),
      accAligned (accLaMode i) (fld (operand (vecState 0) 0 0) 20 0) = true ∧
      accPast (accLaMode i) (fld (operand (vecState 0) 0 0) 20 0) 4 (shpN (ctxOf (vecState 0) 1 0)) = false by decide +kernel) i hi⟩,
    all_ready (by decide +kernel)⟩

/-- Context 0 with BF16 operands (FMT.AT = FMT.BT = 2), a 1 by 1 by 1 product, weights for it and s1 the scratchpad of its core; s2 = 4097. -/
def mxState : State :=
  modCore (modCtx calmState 1 0 fun t => setSReg (setSReg { t with fmt := 0x220, shp := 0 } 1 0xFD00000000080000) 2 4097) 1
    fun k => { k with wActive := { rows := [[.zero]] } }

/-- The same with 2:4 sparse weights of depth 4. -/
def sparseState : State := modCtx mxState 1 0 fun t => { t with fmt := 0x400220, mx := { t.mx with k := 0xF0003, spm := 0xFD00000000080000 } }

/-- The same with an open chain. -/
def chainState : State := modCtx mxState 1 0 fun t => { t with mx := { t.mx with acc := setFld t.mx.acc 31 31 1 } }

/-- The operand that s1 names, with no pitch. -/
abbrev spadOp : MxOperand := .spad 0xFD00000000080000 0

theorem witness_MatrixRegisterCommands :
    (∀ i ∈ ([.mxset 1 2, .mxset 7 2, .mxpd 1 2, .mxpdOff, .mxdn 31 2, .mxcv 7 1, .mxtap 1, .mxsp 1] : List Instr), Ready mxState 0 i) ∧
    mxOpen (ctxOf mxState 1 0) = false ∧ fld (operand mxState 0 2) 39 32 ≤ 63 ∧ (mxOpen (ctxOf mxState 1 0) && mxDen (ctxOf mxState 1 0)) = false ∧
    (coreOf mxState 1).mxwFree ≤ (coreOf mxState 1).ic ∧ (coreOf mxState 1).mxcvFree ≤ (coreOf mxState 1).ic ∧ (operand mxState 0 1).toNat % 8 = 0 ∧
    operandProt mxState 1 spadOp 1 520 = none ∧ (operandRows mxState 1 spadOp 1 520).2 = false ∧ (operand mxState 0 1).toNat % 32 = 0 := by
  refine ⟨all_ready ?_, ?_, ?_, ?_, ?_, ?_, ?_, ?_, ?_, ?_⟩ <;> decide +kernel

theorem witness_MatrixCommands :
    (∀ i ∈ ([.mxw 1 0, .mxwTile 63, .mxa 1 0, .mxaTile 0, .mxcb 2] : List Instr), Ready mxState 0 i) ∧ Ready sparseState 0 (.mxw 1 0) ∧
    (∀ i ∈ ([.mxce 1 0, .mxceTile 5] : List Instr), Ready chainState 0 i) ∧
    (let k := coreOf mxState 1
     let t := ctxOf mxState 1 0
     k.mxwFree ≤ k.ic ∧ k.mxcvFree ≤ k.ic ∧ k.otherFree ≤ k.ic ∧ k.streamFree ≤ k.ic ∧ (kLimit t).isSome = true ∧ kOver t = false ∧ srcOk t = true ∧
     mxaShape t = false ∧ t.mx.clus.getLsbD 24 = false ∧ (weightsFor mxState k.wActive (mxK t) (mxN t)).2 = false ∧ mxSparse t = false ∧
     mxDen t = false ∧ mxPage t + chainPages t ≤ 512 ∧ rowBytes (mxSrc t) (mxN t) = 2 ∧ rowBytes (fmtAT t) (mxK t) = 2 ∧ mxM t = 1) ∧
    (∀ o ∈ [spadOp, .tile 63], operandShape o 1 2 = false ∧ operandProt mxState 1 o 1 2 = none ∧ (operandRows mxState 1 o 1 2).2 = false) ∧
    (let t := ctxOf sparseState 1 0
     mxSparse t = true ∧ mxK t % 4 = 0 ∧ operandProt sparseState 1 (.spad t.mx.spm 0) 1 (8 * mxK t) = none ∧
     (operandRows sparseState 1 (.spad t.mx.spm 0) 1 (8 * mxK t)).2 = false ∧ (kLimit t).isSome = true ∧ kOver t = false ∧ srcOk t = true) ∧
    (let t := ctxOf chainState 1 0
     mxOpen t = true ∧ (kLimit t).isSome = true ∧ kOver t = false ∧ mxN t * (tyWidth (otType (fld t.fmt 19 18)) / 8) ≤ 8) := by
  refine ⟨all_ready ?_, ready_of ?_, all_ready ?_, ?_, ?_, ?_, ?_⟩ <;> decide +kernel

/-- The transpose engine of core 1 holds a tile that was pushed 48 cycles ago. -/
def trState : State := modCore mxState 1 fun k => { k with ic := 48, trq := [⟨0, 0, 2, List.replicate 32 (List.replicate 64 0), 0⟩] }

theorem witness_EngineCommands :
    (∀ i ∈ ([.cpset 0 1, .cpset 0x33 1, .cpgo true 1 2, .gthr false 1 2, .sctr true 1 2, .trpush 0 0 1 0, .trpush 6 2 1 0] : List Instr), Ready mxState 0 i) ∧
    Ready trState 0 (.trpop true false 1 0) ∧ engineLoad (coreOf mxState 1) < 16 ∧ rotBad (operand mxState 0 0) = false ∧ ¬((0 : BitVec 2) = 2 ∧ (0 : BitVec 3) = 7) ∧
    trDepth (coreOf mxState 1).trq + trPlaces 2 ≤ 8 ∧
    (let s := mxState
     let t := ctxOf s 1 0
     let A := operand s 0 1
     let B := operand s 0 2
     let s1 := maybeSerial (publishAll s 1) 1 0 true
     (acceptCopy s1 1 t.asid (.ctx 1 0) 0x11 t.serial.toNat true A B (copyExt t) (copySstr t) (copyDstr t) (fld (cpReg t 0x30) 6 0)
       (fld (cpReg t 0x33) 1 0) (cpReg t 0x31) (cpReg t 0x32)).2.1.status < waitPage ∧
     (∀ w ∈ [false, true], (acceptGather s1 1 t.asid w A B (fld (cpReg t 0x33) 1 0) (cpReg t 0x31) (cpReg t 0x32)).2.2.1 < waitPage) ∧
     (trRead (publishAll s 1) (clusterOfCore 1) t.asid A.toNat 0 (trRowBytes 0 2)).2.2 < waitPage) ∧
    trpopStatus trState (clusterOfCore 1) 0 ⟨0, 0, 2, List.replicate 32 (List.replicate 64 0), 0⟩ false 0 [(0xFD00000000080000, 64)] < waitPage ∧
    ∃ tile rest, (coreOf trState 1).trq = tile :: rest ∧ tile.at_ + 48 ≤ (coreOf trState 1).ic := by
  refine ⟨all_ready ?_, ready_of ?_, ?_, ?_, ?_, ?_, ?_, ?_, ⟨_, [], rfl, ?_⟩⟩ <;> decide +kernel

/-- A graph of address space 0 with two nodes, whose root is at 0x10000, hangs on command 1; node 1 waits for one signal. Group 33 is a log
group, group 34 a reduce group, and queue pair 7 is set up. s1 = 0x10000, s2 = 1, s3 is node 1. -/
def collState : State :=
  modCtx (modDie mapState 0 fun d => { d with
    groups := [(33, { log := true, n := 2, rank := 0, listen := 0, quorum := 1, uwin := 1, members := [0, 1], leaders := [0], dl := 1, ring := 0x10000,
                      asid := 0, log2n := 4, first := 0, lraddr := 0, nextStep := 0 }),
               (34, { log := false, n := 2, rank := 0, listen := 1, quorum := 0, uwin := 0, members := [0, 1], leaders := [], dl := 0, ring := 0x10000,
                      asid := 0, log2n := 0, first := 0, lraddr := 0, nextStep := 0 })],
    qps := [(7, { grp := 33, ring := 0x10000, asid := 0 })],
    cmds := [(1, { strm := 0, depth := 0, cls := 0, type := 5, state := 2, slotIx := 0, pos := 0, tag := 0, tAcc := 0, slot := List.replicate 256 0,
                   work := .graph 0x10000 2 [0] 0 false })],
    mem := memWrite d.mem 0x10042 [1] }) 1 0
    fun t => setSReg (setSReg (setSReg t 1 0x10000) 2 1) 3 0x10040

theorem witness_CollectiveAndGraphCommands :
    (∀ i ∈ ([.qppost 8 1 2, .qppost 7 1 2, .scput 33 1, .scred 34 1, .gnode 1 2, .gsig 3] : List Instr), Ready collState 0 i) ∧ qpOf collState 0 8 = none ∧
    (qpOf collState 0 7).map (·.entries.length) = some 0 ∧ (operand collState 0 2).toNat = 1 ∧ (operand collState 0 1).toNat % 64 = 0 ∧
    (engRead collState (clusterOfCore 1) 0 0x10000 64).2.toOption = some (List.replicate 64 0) ∧ (collOf collState 0 33).isSome = true ∧
    (scputRecord collState (soloEnv collState 0 (.scput 33 1)) 0x10000).2.toOption = some (List.replicate 32 0) ∧
    (collOf collState 0 34).map (·.log) = some false ∧
    ((graphsOf collState 0 0).find? fun g => g.root == 0x10000).map (·.count) = some 2 ∧
    (engRead collState (clusterOfCore 1) 0 (nodeVa 0x10000 2) 64).2.toOption.map (fun bs => (postedRaws 1 bs).all appendOk) = some true ∧
    ((graphsOf collState 0 0).find? fun g => (nodeAt g 0x10040).isSome).bind (fun g => (nodeAt g 0x10040).bind fun i =>
      (g.node i).2.map fun r => (i, fieldOf r 0 1, fieldOf r 2 2)) = some (1, 0, 1) ∧
    (postEntries collState 0 7 0 (.ctx 1 0) (postedRaws 1 (List.replicate 64 0))).isSome = true ∧
    ((graphsOf collState 0 0).find? fun g => g.root == 0x10000).map (fun g => (GraphRun.launchFrom 1 g.count { g with count := g.count + 1 }).waits) = some false ∧
    ((graphsOf collState 0 0).find? fun g => (nodeAt g 0x10040).isSome).bind (fun g => (nodeAt g 0x10040).map fun i =>
      ((g.node i).1.signal i).waits) = some false := by
  refine ⟨all_ready ?_, ?_, ?_, ?_, ?_, ?_, ?_, ?_, ?_, ?_, ?_, ?_, ?_, ?_, ?_⟩ <;> decide +kernel

/-- Module 0 of a domain with module 1; link 0 is up, keeps one flit, and one more waits for it. -/
def netState : State := { State.reset with mod := { State.reset.mod with
  modId := 0x80, reach := [1], links := [(0, { state := 2, next := 7, expect := 4, replay := [⟨6, ⟨0, 4, 1, 1, []⟩, 0⟩] })],
  txq := [⟨0, 4, 3, 1, []⟩, ⟨0, 5, 1, 2, [1]⟩] } }

theorem witness_ServiceOrderOfChannels : nextFlit netState 0 0x0A = some ⟨0, 5, 1, 2, [1]⟩ ∧ nextFlit netState 0 0x08 = some ⟨0, 4, 3, 1, []⟩ := by
  decide +kernel

/-- A good short flit with SEQ 4. -/
def goodFlit : List Byte := sealFlit (flitHead 1 3 0 4 4 6) (List.replicate 48 0)

theorem witness_FlitsAreSentAndReceived :
    (linkOf netState 0).state = 2 ∧ (linkOf netState 0).replay.length < 256 ∧ nextFlit netState 0 0xFF = some ⟨0, 5, 1, 2, [1]⟩ ∧
    ((goodFlit.length = 256 ∨ goodFlit.length = 64) ∧ fieldOf goodFlit 8 8 = crc64 (goodFlit.take 8 ++ goodFlit.drop 16)) ∧
    fieldOf goodFlit 4 2 % 4096 = (linkOf netState 0).expect ∧ 1 ≤ fieldOf goodFlit 0 1 ∧ fieldOf goodFlit 0 1 ≤ 3 ∧ fieldOf goodFlit 1 1 % 16 ≤ 4 ∧
    ¬(((goodFlit.set 20 1).length = 256 ∨ (goodFlit.set 20 1).length = 64) ∧
      fieldOf (goodFlit.set 20 1) 8 8 = crc64 ((goodFlit.set 20 1).take 8 ++ (goodFlit.set 20 1).drop 16)) ∧
    (∃ z ∈ (linkOf netState 0).replay, z.seq = 6) ∧ ∀ z ∈ (linkOf netState 0).replay.dropWhile (fun z => z.seq != 6), z.resends < 8 := by
  decide +kernel

/-- The same with a flit that was sent again 8 times, and link 5 up or not; link 2 trains to port 9. -/
def failState (other : Nat) : State := { netState with mod := { netState.mod with
  links := [(0, { state := 2, replay := [⟨6, ⟨0, 4, 1, 1, []⟩, 8⟩] }), (5, { state := other })], training := some ⟨0, 1, [(2, some 9)], false⟩ } }

theorem witness_LinksFailAndTrain :
    (linkOf (failState 2) 0).state = 2 ∧ (∃ z ∈ (linkOf (failState 2) 0).replay, 8 ≤ z.resends) ∧ (linkOf (failState 2) 0).replay ≠ [] ∧
    (linkOf (failState 2) 5).state = 2 ∧ (∀ m < 12, m ≠ 0 → ¬((linkOf (failState 0) m).state = 1 ∨ (linkOf (failState 0) m).state = 2)) ∧
    (failState 0).mod.training = some ⟨0, 1, [(2, some 9)], false⟩ ∧ [(2, some 9)].find? (fun p => p.1 == 2) = some ((2 : Nat), some (9 : Nat)) := by
  decide +kernel

theorem witness_BeatsAdvanceByOne : { netState.mod with master := 1 }.master ≠ moduleNo { netState with mod := { netState.mod with master := 1 } } := by
  decide

theorem witness_PowerSteps :
    State.reset.mod.power ≤ 1 ∧ State.reset.mod.cap < 2801 ∧ 105 ≤ 105 ∧ { State.reset.mod with power := 1 }.power = 1 ∧ 2800 ≤ State.reset.mod.cap ∧
    104 < 105 ∧ 115 ≤ 115 := by decide

theorem witness_BootAndReturnFromS3 :
    State.reset.mod.booted = false ∧ State.reset.mod.sec.bootf = false ∧ { State.reset.mod with power := 3 }.power = 3 := by decide

/-- The host sees address space 0 from address 0 on; port A is a CXL Type-2 device and port B is in peer mode; page 0x20000 migrates. -/
def hostState : State :=
  let s := modDie mapState 0 fun d => { d with mem := memWrite d.mem 0x10 (leBytes 8 0x2057F) }
  { s with mod := { s.mod with portb := 1, cxlA := true } }

/-- The same with the page not there, or with a read of the host that waits. -/
def hostAway : State := { hostState with dies := mapState.dies }
def hostQueue : State := { hostState with mail := [⟨.hostRead .bar2 0x20000 8, {}⟩] }

theorem witness_HostAccesses :
    hostState.mod.cxlA = true ∧ mapState.mod.cxlA = false ∧ fld hostState.mod.portb 1 0 = 1 ∧ fld mapState.mod.portb 1 0 ≠ 1 ∧
    mailHas hostState (.hostRead .bar2 0x1003C 8) = false ∧ mailHas hostState (.hostWrite .hdm 0x10000 [1]) = false ∧
    mailHas hostState (.peerRequest 0x10000 8 none) = false ∧ mailHas hostQueue (.hostWrite .bar2 0x10000 [1]) = true ∧
    (hostPlaces hostState false 0x1003C 8).2 =
      .goes [(0x1003C, .home 0 0x1003C 2 false false false, 4), (0x10040, .home 0 0x10040 2 false false false, 4)] ∧
    (hostPlaces hostState false 0x20000 8).2 = .waits ∧ (hostPlaces hostState true 0x20000 1).2 = .waits ∧
    (hostPlaces hostAway false 0x50000 8).2 = .fails ∧ (hostPlaces hostAway true 0x50000 1).2 = .fails ∧
    (hostPlaces hostState true 0x10000 1).2 = .goes [(0x10000, .home 0 0x10000 2 false false false, 1)] ∧
    bar0Answers hostState 0x408 = true ∧ 0x408 % 8 = 0 ∧ bar0Answers { hostState with mod := { hostState.mod with power := 5 } } 0x408 = false ∧
    [(1 : Byte), 2, 3, 4, 5, 6, 7, 8].length = 8 := by
  decide +kernel

/-- A load of core 1 through window 0 of the peer that is not answered. -/
def peerArrival : Arrival := { ctx := 0, dst := some 4, val := .outside 8 false 0xFF00000000000040 [] }

/-- Core 1 awaits it. -/
def peerState : State := modCore (modDie mapState 0 fun d => { d with swtLo := [(0, 0x131)] }) 1 fun k => { k with arrivals := [peerArrival] }

theorem witness_HostRegisters :
    bar0Answers mapState 0x408 = true ∧ bar0Answers mapState 0x300 = true ∧ bar0Answers mapState 0x008 = true ∧ 0x008 < 0x1000 ∧ 0xFF8 < 0x1000 ∧
    bar0Answers { mapState with mod := { mapState.mod with power := 5 } } 0x300 = false ∧
    (coreOf peerState 1).arrivals.findIdx? (peerLoad peerState 1) = some 0 ∧ (coreOf peerState 1).arrivals[0]? = some peerArrival ∧ 3 < 4 := by
  decide +kernel

/-- Stream 3 of die 0 has its ring at 0x10000 with 16 slots; the first is published: a NOP. Command 9 of it is accepted. -/
def strmState (cfg : Word) : State := modDie mapState 0 fun d => { d with
  streams := [(3, { base := 0x10000, cfg := cfg })], mem := memWrite (memWrite d.mem 0x100FC [1]) 0x100FF [0xA5], pbSeq := 9,
  cmds := [(9, { strm := 3, depth := 0, cls := 0, type := 1, state := 1, slotIx := 0, pos := 0, tag := 0, tAcc := 0, slot := List.replicate 256 0 })] }

theorem witness_StreamRegisters :
    (streamOf (strmState 0x304) 0 3).en = true ∧ (streamOf (strmState 0x104) 0 3).en = false ∧ (0x104 : Word).getLsbD 9 = false ∧
    (0x304 : Word).getLsbD 9 = true ∧ fld (0x203 : Word) 4 0 < 4 ∧ 16 < fld (0x211 : Word) 4 0 ∧ 4 ≤ fld (0x204 : Word) 4 0 ∧ fld (0x210 : Word) 4 0 ≤ 16 ∧
    (fwRead (strmState 0x104) 0 0 0x10000 1).2.toOption = some [0] ∧
    (match (fwRead (strmState 0x104) 0 0 0x60000 1).2 with | .error e => decide (¬waitPage ≤ e) | .ok _ => false) = true ∧
    (match (fwRead hostState 0 0 0x20000 1).2 with | .error e => decide (waitPage ≤ e) | .ok _ => false) = true ∧
    (strmState 0x304).mod.power < 3 ∧ 3 ≤ { (strmState 0).mod with power := 5 }.power ∧ (9 : Nat) < 2 ^ 64 ∧
    (cmdOf (strmState 0x304) 0 9).map (fun c => (c.strm, c.state)) = some (3, 1) ∧
    (streamOf (modStream (strmState 0x304) 0 3 fun t => { t with halt := true }) 0 3).halt = true ∧ (streamOf (strmState 0x304) 0 3).db = true ∧
    (strmState 0x304).mod.power ≠ 3 ∧ { (strmState 0).mod with power := 3 }.power = 3 ∧ fwRuns (strmState 0x304) = true ∧
    (dieOf (strmState 0x204) 0).streams = [(3, { base := 0x10000, cfg := 0x204 })] ∧ (streamOf (strmState 0x204) 0 3).halt = false ∧
    (streamOf (strmState 0x204) 0 3).db = false ∧ (readyCmd (strmState 0x304) 0 3).isSome = true ∧ effPrio (streamOf (strmState 0x304) 0 3) < 3 ∧
    (let s := modDie (modStream (strmState 0x304) 0 3 fun t => { t with since := some 1 }) 0 fun d => { d with beat := 65537 }
     (readyCmd s 0 3).isSome = true ∧ (streamOf s 0 3).since = some 1 ∧ 65536 ≤ ((dieOf s 0).beat - 1).toNat ∧ effPrio (streamOf s 0 3) < 3) := by
  decide +kernel

theorem witness_HighestPriorityIsServed : chooseStream (strmState 0x304) 0 = some (3, 9) := by decide +kernel

/-- Bytes placed in a slot. -/
def putAt (l : List Byte) (p : Nat × List Byte) : List Byte := l.take p.1 ++ p.2 ++ l.drop (p.1 + p.2.length)

/-- A command of stream 3 in the prompt book. -/
def cmdWith (type : Nat) (fs : List (Nat × List Byte)) (work : CmdWork) : Cmd :=
  { strm := 3, depth := 0, cls := 0, type := type, state := 2, slotIx := 0, pos := 0, tag := 0, tAcc := 0,
    slot := fs.foldl putAt (List.replicate 256 0), work := work }

theorem inHand_of {s : State} {c : Cmd} (h : cmdOf s s.focus.die s.focus.cid = some c ∧ c.state = 2) : InHand s c := h

/-- Command 9 of die 0 is in hand. -/
def inHand (s : State) (c : Cmd) : State := { modDie s 0 fun d => { d with cmds := [(9, c)] } with focus := ⟨0, 9⟩ }

theorem inHand_is (s : State) {c : Cmd} (h : c.state = 2) : InHand (inHand s c) c := by
  have hd : dieOf (inHand s c) 0 = { dieOf s 0 with cmds := [(9, c)] } := by
    show dieOf (modDie s 0 fun d => { d with cmds := [(9, c)] }) 0 = _
    simp
  exact ⟨by show cmdOf (inHand s c) 0 9 = some c; simp [cmdOf, hd], h⟩

theorem putAt_length {l : List Byte} {p : Nat × List Byte} (h : p.1 + p.2.length ≤ l.length) : (putAt l p).length = l.length := by
  simp only [putAt, List.length_append, List.length_take, List.length_drop]
  omega

theorem putAt_getD {l : List Byte} {p : Nat × List Byte} (h : p.1 + p.2.length ≤ l.length) (j : Nat) (hj : j < p.1 ∨ p.1 + p.2.length ≤ j) :
    (putAt l p).getD j 0 = l.getD j 0 := by
  simp only [putAt, List.getD_eq_getElem?_getD, List.append_assoc]
  congr 1
  rcases hj with hj | hj
  · rw [List.getElem?_append_left (by simp; omega), List.getElem?_take, if_pos hj]
  · rw [List.getElem?_append_right (by simp; omega), List.getElem?_append_right (by simp; omega), List.getElem?_drop]
    congr 1
    simp
    omega

theorem zeroBut_blank (n : Nat) (named : List (Nat × Nat)) (lo hi : Nat) : zeroBut (List.replicate n 0) named lo hi = true := by
  simp only [zeroBut, List.all_eq_true, Bool.or_eq_true, beq_iff_eq, List.getD_eq_getElem?_getD, List.getElem?_replicate]
  intro i _
  left
  split <;> rfl

/-- Bytes placed in the named ranges of a slot, or outside the range looked at, leave the others zero. -/
theorem zeroBut_putAt {named : List (Nat × Nat)} {lo hi : Nat} (fs : List (Nat × List Byte)) :
    ∀ l : List Byte, zeroBut l named lo hi = true →
      (∀ p ∈ fs, p.1 + p.2.length ≤ l.length ∧ ((∃ r ∈ named, r.1 ≤ p.1 ∧ p.1 + p.2.length ≤ r.2) ∨ p.1 + p.2.length ≤ lo ∨ hi ≤ p.1)) →
      zeroBut (fs.foldl putAt l) named lo hi = true := by
  induction fs with
  | nil => exact fun l h _ => h
  | cons p fs ih =>
    intro l h hf
    obtain ⟨hl, hp⟩ := hf p (by simp)
    refine ih _ ?_ fun q hq => by rw [putAt_length hl]; exact hf q (by simp [hq])
    simp only [zeroBut, List.all_eq_true, List.mem_range, Bool.or_eq_true, beq_iff_eq, List.any_eq_true, Bool.and_eq_true, decide_eq_true_eq] at h ⊢
    intro i hi'
    by_cases hj : lo + i < p.1 ∨ p.1 + p.2.length ≤ lo + i
    · rw [putAt_getD hl _ hj]
      exact h i hi'
    · rcases hp with ⟨r, hr, h1, h2⟩ | h1 | h1
      · exact .inr ⟨r, hr, by omega, by omega⟩
      · omega
      · omega

/-- What the completion actions of command c leave. -/
def endsOf (s : State) (c : Cmd) : State :=
  completionActions (releaseLaunch (beginAsking (inHand s c) (.step .commandFinish 0 9)) 0 c) 0 9 c

theorem witness_SlotsEnterAndCommandsFinish :
    (let s := strmState 0x204
     let t := streamOf s 0 3
     fwRuns s = true ∧ t.en = true ∧ t.halt = false ∧ (t.db = true → t.rung = true) ∧
     (match (nextSlot s 0 t).2 with | .slot raw bad => decide (trailer raw = 0xA5000001 ∧ bad = 0) | _ => false) = true ∧
     pbFull (nextSlot s 0 t).1 0 = false ∧ (0 : Nat) ≠ waitErr ∧ chooseStream s 0 = some (3, 9)) ∧ chooseStream mapState 0 = none ∧
    InHand (inHand mapState (cmdWith 1 [] .none)) (cmdWith 1 [] .none) ∧ (cmdWith 1 [] .none).node = none ∧
    (endsOf mapState (cmdWith 1 [] .none)).mod.want = .nothing ∧
    InHand (inHand mapState { cmdWith 1 [] .none with node := some (7, 1) }) { cmdWith 1 [] .none with node := some (7, 1) } ∧
    (let c := cmdWith 1 [(16, leBytes 8 0x20000)] .none
     InHand (inHand hostState c) c ∧ (endsOf hostState c).mod.want = .page) ∧
    fieldOf (cmdWith 1 [] .none).slot 8 4 < 2 ^ 31 ∧ fieldOf (cmdWith 1 [] .none).slot 16 8 = 0 ∧ fieldOf (cmdWith 1 [] .none).slot 24 2 < 2 ^ 15 :=
  ⟨by decide +kernel, by decide +kernel, inHand_is _ rfl, by decide +kernel, by decide +kernel, inHand_is _ rfl, ⟨inHand_is _ rfl, by decide +kernel⟩,
    by decide +kernel, by decide +kernel, by decide +kernel⟩

/-- A cue sheet of one range and one phase. -/
def cueSheet : List Byte := leBytes 4 0x43554553 ++ leBytes 2 1 ++ leBytes 2 1 ++ leBytes 2 1 ++ List.replicate 54 0 ++ leBytes 8 0x10000 ++
  leBytes 8 1 ++ List.replicate 64 0

/-- Address space 0 with a cue sheet at 0x11000 and queue pair 7; MOD_ID is valid. -/
def simpleState : State :=
  let s := modDie mapState 0 fun d => { d with mem := memWrite d.mem 0x11000 cueSheet, qps := [(7, { grp := 33, ring := 0x10000, asid := 0 })], beat := 100 }
  { s with mod := { s.mod with modId := 0x80 } }

theorem witness_SimpleCommands :
    (let c := cmdWith 3 [(32, leBytes 8 5), (40, leBytes 8 9)] .none
     InHand (inHand simpleState c) c ∧ (∀ f ∈ (streamOf (inHand simpleState c) 0 c.strm).frames, f.cid ≠ 9) ∧ routed simpleState (ctrDie 5) = true ∧
     localDie simpleState (ctrDie 5) = some 0 ∧ (ctrVal simpleState 0 (ctrIdx 5)).toNat < fieldOf c.slot 40 8) ∧
    (let c := cmdWith 7 [(32, leBytes 8 5)] .none
     InHand (inHand simpleState c) c ∧ fieldOf c.slot 40 8 ≤ (ctrVal simpleState 0 (ctrIdx 5)).toNat ∧ fieldOf c.slot 40 4 = 0) ∧
    (let c := cmdWith 7 [(32, leBytes 8 5), (40, leBytes 8 9), (48, leBytes 8 1600)] .none
     InHand (inHand simpleState c) c ∧ c.type = 7 ∧ fieldOf c.slot 48 8 ≠ 0 ∧
     fieldOf c.slot 48 8 ≤ 16 * ((dieOf (inHand simpleState c) 0).beat - c.tBeg).toNat) ∧
    (let c := cmdWith 11 [(32, leBytes 8 0x11000), (40, leBytes 4 144)] .none
     InHand (inHand simpleState c) c ∧ fieldOf c.slot 40 4 ≠ 0 ∧
     (fwRead (inHand simpleState c) 0 0 (fieldOf c.slot 32 8) 144).2.toOption.map (fun bs => (cueOk bs 0, cueOk bs 1)) = some (true, false)) ∧
    (let c := cmdWith 13 [(32, leBytes 4 7), (36, leBytes 4 1), (40, leBytes 8 0x10000)] .none
     InHand (inHand simpleState c) c ∧ (qpOf (inHand simpleState c) 0 (fieldOf c.slot 32 4)).map (·.entries.length) = some 0 ∧
     (fwRead (inHand simpleState c) 0 0 (fieldOf c.slot 40 8) 64).2.toOption.isSome = true) := by
  refine ⟨⟨inHand_is _ rfl, ?_⟩, ⟨inHand_is _ rfl, ?_⟩, ⟨inHand_is _ rfl, ?_⟩, ⟨inHand_is _ rfl, ?_⟩, ⟨inHand_is _ rfl, ?_⟩⟩ <;> decide +kernel

/-- A PAGEOP in hand over n pages from 0x10000 times p on, whose first `done` pages are handled; the flag tells that a page's operation is under way. -/
def pageCmd (p n done_ : Nat) (moving : Bool) : Cmd := cmdWith 10 [(40, leBytes 8 (0x10000 * p)), (48, leBytes 8 (0x10000 * n))] (.pages done_ moving)

/-- What a PAGEOP's next page is met with: 0 a failure, 1 passed over, 2 begun, 3 a wait. -/
def pageKind (f : State → Nat → Nat → Nat → Leaf → PageStep) (s : State) (p : Nat) : Nat :=
  match (pageStep f s 0 (0x10000 * p)).2 with
  | .fail _ => 0
  | .skip => 1
  | .start _ _ _ => 2
  | .wait => 3

/-- The first table pointer of address space 0 migrates. -/
def ptrState : State := modDie mapState 0 fun d => { d with mem := memWrite d.mem 0 (leBytes 8 0x101) }

theorem witness_SimpleCommands_pages :
    InHand (inHand simpleState (pageCmd 2 1 0 false)) (pageCmd 2 1 0 false) ∧ InHand (inHand simpleState (pageCmd 2 1 0 true)) (pageCmd 2 1 0 true) ∧
    fieldOf (pageCmd 2 1 0 false).slot 48 8 / 65536 ≤ 0 + 1 ∧ 0 + 1 < fieldOf (pageCmd 1 2 0 false).slot 48 8 / 65536 ∧
    pageKind fetchStepOf simpleState 2 = 2 ∧ pageKind fetchStepOf simpleState 1 = 1 ∧ pageKind fetchStepOf simpleState 5 = 0 ∧
    pageKind fetchStepOf ptrState 2 = 3 ∧ pageKind (evictStepOf (pageCmd 3 1 0 false) 0) simpleState 3 = 2 ∧ pageKind (evictStepOf (pageCmd 2 1 0 false) 0) simpleState 2 = 1 ∧
    pageKind (migrateStepOf (pageCmd 3 1 0 false)) simpleState 3 = 2 ∧ localDie simpleState (0x20000 / 2 ^ 56) = some 0 ∧
    moveOf simpleState 0 0 0x20000 = none ∧
    (match pageStep fetchStepOf simpleState 0 0x20000 with
     | (s, .start o l k) => decide ((moveOf (startMove s o 0 0x20000 l k) o 0 0x20000).map Move.kind = some k) &&
         ((moveOf (startMove s o 0 0x20000 l k) o 0 0x20000).map fun m => (endMove (startMove s o 0 0x20000 l k) o m).2).isSome
     | _ => false) = true := by
  refine ⟨inHand_is _ rfl, inHand_is _ rfl, ?_, ?_, ?_, ?_, ?_, ?_, ?_, ?_, ?_, ?_, ?_, ?_⟩ <;> decide +kernel

/-- A task table of one entry at 0x10000. -/
def tableState : State := modDie mapState 0 fun d => { d with mem := memWrite d.mem 0x10000 (leBytes 8 0x10100 ++ leBytes 8 4) }

/-- Core 2 runs task 5 of the ORDERED command in hand, which has ended with a cause, 0 for none. -/
def orderedState (z : Nat) : State := modCore (inHand mapState (cmdWith 3 [] (.ordered [5] 0))) 2 fun k =>
  { k with ctxs := [(0, { status := .loaded, launch := .ordered 0 9 5, spec := some { ended := some z } })] }

theorem witness_LaunchCommands_loads :
    (let c := cmdWith 1 [(32, leBytes 8 0x10000), (40, leBytes 4 32768), (48, leBytes 8 4), (100, [7]), (252, [1])] .none
     InHand (inHand mapState c) c ∧ c.work = .none ∧ maskedCores c.slot 0 = [2] ∧ (coreOf mapState 2).retired = false ∧ inPool mapState 2 = true ∧
     hookBad mapState c.slot 0 = false ∧ fieldOf c.slot 100 1 + imageWindows (fieldOf c.slot 40 4) ≤ 8 ∧ gangBlocked mapState c.slot 0 = false) ∧
    (let c := cmdWith 1 [(32, leBytes 8 0x10000), (40, leBytes 4 4), (48, leBytes 8 4), (252, [1])] .none
     (codeRead (fetchRange 0 0 (pagesOf [(0x10000, 4)]) (inHand mapState c)) 0 0 0x10000 4).2.toOption = some (List.replicate 4 0) ∧
     (presetsOf (inHand mapState c) 0 0 c.slot).2.toOption = some []) ∧
    (let c := cmdWith 2 [(32, leBytes 8 0x10000), (40, leBytes 4 1), (44, leBytes 8 4)] .none
     let s := inHand tableState c
     InHand s c ∧ cachesBusy s c.slot 0 false = false ∧ (lowestFreeJoin s 0).isSome = true ∧ slotMask c.slot 0 0 = 4 ∧
     (beginTable s 0 0 c true false).2.toOption.map (·.length) = some 1 ∧
     (beginTable hostAway 0 0 (cmdWith 2 [(32, leBytes 8 0x60000), (40, leBytes 4 1)] .none) false false).2.toOption.isNone = true ∧
     (fwRead s 0 0 0x10000 64).2.toOption.isSome = true) := by
  refine ⟨⟨inHand_is _ rfl, ?_⟩, ?_, ⟨inHand_is _ rfl, ?_⟩⟩ <;> decide +kernel

theorem witness_LaunchCommands_goes_on :
    (let c := cmdWith 1 [(252, [1])] (.gang [2] 0 (some 0))
     InHand (inHand mapState c) c ∧ 0 ≤ (dieOf (inHand mapState c) 0).beat.toNat) ∧
    (∀ z ∈ [0, 0x0A], cmdOf (orderedState z) 0 9 = some (cmdWith 3 [] (.ordered [5] 0)) ∧ (orderedState z).focus = ⟨0, 9⟩ ∧ [5][0]? = some 5 ∧
      (orderedCtxs (orderedState z) 0 9).find? (fun p => p.2.2 == 5) = some (2, 0, 5) ∧
      (ctxOf (orderedState z) 2 0).spec = some { ended := some z }) ∧
    (let c := cmdWith 4 [] .none
     InHand (inHand mapState c) c ∧ fieldOf c.slot 48 8 = 0 ∧ fieldOf c.slot 56 4 = 0) ∧
    (let c := cmdWith 4 [(32, leBytes 8 0x10000), (40, leBytes 8 0x30000), (48, leBytes 8 64), (56, leBytes 4 1), (60, [3])] .none
     InHand (inHand mapState c) c ∧ fieldOf c.slot 48 8 ≠ 0 ∧ fieldOf c.slot 56 4 ≠ 0 ∧ copyRows c.slot false = [(0x10000, 64)] ∧
     copyRows c.slot true = [(0x30000, 64)] ∧ inWindow 0x10000 64 = false ∧ inWindow 0x30000 64 = false ∧ fieldOf c.slot 60 1 = 3 ∧
     pagesStatus (fetchRange 0 0 (pagesOf [(0x30000, 64), (0x10000, 64)]) (inHand mapState c)) 0 0 [(0x30000, 64)] [(0x10000, 64)] = 0) ∧
    ((graphOf collState 0 1).map (·.launched) = some [0]) := by
  refine ⟨⟨inHand_is _ rfl, ?_⟩, ?_, ⟨inHand_is _ rfl, ?_⟩, ⟨inHand_is _ rfl, ?_⟩, ?_⟩ <;> decide +kernel

/-- Die 0 holds at 0x10000 the descriptor of log group 40 of one member, at 0x10040 that of reduce group 41, at 0x10300 a port list of link 11,
and at 0x10400 a ring descriptor. -/
def callState : State :=
  let desc := leBytes 2 40 ++ [1, 1, 0, 1, 1, 1] ++ leBytes 8 0x10100 ++ leBytes 4 0 ++ leBytes 4 1 ++ leBytes 8 0x30000 ++ leBytes 8 10 ++ leBytes 8 0x10200
  let desc2 := leBytes 2 41 ++ [0, 1, 0, 1, 0, 0] ++ leBytes 8 0x10100 ++ leBytes 8 0 ++ leBytes 8 0x30000
  let ports := leBytes 8 1 ++ leBytes 4 0x90B
  let ring := leBytes 8 0x10000 ++ leBytes 4 64 ++ leBytes 4 64 ++ leBytes 4 8 ++ leBytes 4 9
  let s := modDie mapState 0 fun d =>
    { d with mem := memWrite (memWrite (memWrite (memWrite d.mem 0x10000 desc) 0x10040 desc2) 0x10300 ports) 0x10400 ring }
  { s with mod := { s.mod with modId := 0x80 } }

/-- A FWCALL command in hand names only what it may name. -/
def Only (c : Cmd) (l : List (Nat × Nat)) : Prop := InHand (inHand callState c) c ∧ zeroBut c.slot l 40 252 = true

theorem only_of {type : Nat} {fs : List (Nat × List Byte)} {l : List (Nat × Nat)}
    (h : ∀ p ∈ fs, p.1 + p.2.length ≤ 256 ∧ ((∃ r ∈ l, r.1 ≤ p.1 ∧ p.1 + p.2.length ≤ r.2) ∨ p.1 + p.2.length ≤ 40 ∨ 252 ≤ p.1)) :
    Only (cmdWith type fs .none) l :=
  ⟨inHand_is _ rfl, zeroBut_putAt fs _ (zeroBut_blank ..) fun p hp => by rw [List.length_replicate]; exact h p hp⟩

theorem witness_FirmwareCalls_fields :
    (let c := cmdWith 9 [(40, [62])] .none
     Only c [(40, 41)] ∧ fieldOf c.slot 40 1 ≤ 62) ∧
    (let c := cmdWith 9 [(40, [2, 2])] .none
     Only c [(40, 42)] ∧ fieldOf c.slot 40 1 ≤ 2 ∧ fieldOf c.slot 41 1 ≤ 2) ∧
    (let c := cmdWith 9 [(40, [3, 63]), (48, leBytes 8 0x31), (56, leBytes 8 0x1000)] .none
     Only c [(40, 42), (48, 64)] ∧ fieldOf c.slot 40 1 ≤ 3 ∧ fieldOf c.slot 41 1 ≤ 63) ∧
    Only (cmdWith 9 [(40, leBytes 8 0x10000), (48, leBytes 2 1)] .none) [(40, 50)] ∧
    (let c := cmdWith 9 [(40, [11])] .none
     Only c [(40, 41)] ∧ fieldOf c.slot 40 1 ≤ 11 ∧ callState.mod.training = none) ∧
    (let c := cmdWith 9 [(40, leBytes 4 0x10300)] .none
     Only c [(40, 44)] ∧ callState.mod.modId.getLsbD 7 = true ∧
     (fwRead (inHand callState c) 0 0 0x10300 8).2.toOption.map (fieldOf · 0 4) = some 1 ∧
     (fwRead (inHand callState c) 0 0 0x10300 12).2.toOption.map (portListOk · 1) = some true) := by
  refine ⟨⟨only_of ?_, ?_⟩, ⟨only_of ?_, ?_⟩, ⟨only_of ?_, ?_⟩, only_of ?_, ⟨only_of ?_, ?_⟩, ⟨only_of ?_, ?_⟩⟩ <;> decide +kernel

/-- What a descriptor at an address gives a GROUP_SET: its bytes are read, its fields and members pass, and its area is there. -/
def setsGroup (va : Nat) : Bool :=
  let s := inHand callState (cmdWith 9 [(40, leBytes 8 va)] .none)
  match (fwRead s 0 0 va 64).2 with
  | .ok bs =>
    let g := descGroup bs 0
    match (fwRead s 0 0 (fieldOf bs 8 8) g.n).2 with
    | .ok ms =>
      let h := { g with members := ms.map (·.toNat) }
      groupOk s 0 bs g none && (collOf s 0 (fieldOf bs 0 2 % 4096)).isNone && membersOk s 0 h h.members &&
        (!g.log || (fwRead s 0 0 g.lraddr.toNat 4).2.toOption.isSome) &&
        dramFail (fetchRange 0 0 (pagesOf [(g.ring.toNat, groupArea g)]) s) 0 0 g.ring.toNat (groupArea g) == 0
    | .error _ => false
  | .error _ => false

theorem witness_FirmwareCalls_objects :
    Only (cmdWith 9 [(40, leBytes 8 0x10000)] .none) [(40, 48)] ∧ setsGroup 0x10000 = true ∧ setsGroup 0x10040 = true ∧
    (let c := cmdWith 9 [(40, leBytes 2 255), (42, leBytes 2 4095), (48, leBytes 8 0x30200)] .none
     Only c [(40, 44), (48, 56)] ∧ fieldOf c.slot 40 2 ≤ 255 ∧ fieldOf c.slot 42 2 ≤ 4095 ∧ fieldOf c.slot 48 8 % 512 = 0 ∧
     dramFail (fetchRange 0 0 (pagesOf [(0x30200, 512)]) (inHand callState c)) 0 0 0x30200 512 = 0 ∧ qpOf callState 0 255 = none) ∧
    (let c := cmdWith 9 [(40, [3, 63])] .none
     Only c [(40, 42), (44, 58), (64, 72)] ∧ hookOk (inHand callState c) c.slot = true ∧ fieldOf c.slot 56 2 = 0) ∧
    (let c := cmdWith 9 [(40, [0, 2]), (48, leBytes 8 0x10500), (56, leBytes 2 4), (64, leBytes 8 0x10000)] .none
     Only c [(40, 42), (44, 58), (64, 72)] ∧ hookOk (inHand callState c) c.slot = true ∧ fieldOf c.slot 56 2 ≠ 0 ∧
     (codeRead (fetchRange 0 0 (pagesOf [(0x10500, 4)]) (inHand callState c)) 0 0 0x10500 4).2.toOption = some (List.replicate 4 0)) ∧
    (let c := cmdWith 9 [(40, [3]), (42, leBytes 2 1023), (48, leBytes 8 0x10400)] .none
     Only c [(40, 41), (42, 44), (48, 56)] ∧ fieldOf c.slot 40 1 ≤ 3 ∧ fieldOf c.slot 42 2 ≤ 1023 ∧
     (fwRead (inHand callState c) 0 0 0x10400 32).2.toOption.map (fun bs =>
       (fieldOf bs 13 3, fieldOf bs 24 8, decide (fieldOf bs 16 4 < 2 ^ 20), decide (fieldOf bs 20 4 < 2 ^ 20), ringOk callState (ringDescOf bs))) =
       some (0, 0, true, true, true)) := by
  refine ⟨only_of ?_, ?_, ?_, ⟨only_of ?_, ?_⟩, ⟨only_of ?_, ?_⟩, ⟨only_of ?_, ?_⟩, ⟨only_of ?_, ?_⟩⟩ <;> decide +kernel

/-- The module is in Sealed mode, with tenant 1's key and a window of it. -/
def sealedState : State :=
  { callState with mod := { callState.mod with sec := { mode := 2, keys := [(1, ⟨0, []⟩)], windows := [⟨1, 0x4000, 0x1000⟩] } } }

/-- Command c of the Sealed module is in hand, and names only what it may name. -/
def SealedOnly (c : Cmd) (l : List (Nat × Nat)) : Prop := InHand (inHand sealedState c) c ∧ zeroBut c.slot l 40 252 = true

theorem sealedOnly_of {type : Nat} {fs : List (Nat × List Byte)} {l : List (Nat × Nat)}
    (h : ∀ p ∈ fs, p.1 + p.2.length ≤ 256 ∧ ((∃ r ∈ l, r.1 ≤ p.1 ∧ p.1 + p.2.length ≤ r.2) ∨ p.1 + p.2.length ≤ 40 ∨ 252 ≤ p.1)) :
    SealedOnly (cmdWith type fs .none) l :=
  ⟨inHand_is _ rfl, zeroBut_putAt fs _ (zeroBut_blank ..) fun p hp => by rw [List.length_replicate]; exact h p hp⟩

theorem witness_SecurityCalls_keys :
    (let c := cmdWith 9 [(41, [1])] .none
     Only c [(40, 42)] ∧ fieldOf c.slot 41 1 = callState.mod.sec.mode + 1) ∧
    (let c := cmdWith 9 [(40, [2, 16]), (42, leBytes 2 7), (48, leBytes 8 0x10000), (56, leBytes 8 0x10000)] .none
     SealedOnly c [(40, 44), (48, 64)] ∧ boundElsewhere (inHand sealedState c) 7 16 = false ∧ 1 ≤ fieldOf c.slot 41 1 ∧ fieldOf c.slot 41 1 ≤ 16 ∧
     (fwRead (inHand sealedState c) 0 0 0x10000 1632).2.toOption.isSome = true ∧ (fwRead (inHand sealedState c) 0 0 0x10000 64).2.toOption.isSome = true) ∧
    (let c := cmdWith 9 [(40, [3, 1])] .none
     SealedOnly c [(40, 42)] ∧ sealedState.mod.sec.mode = 2) ∧
    (let c := cmdWith 9 [(40, [4, 1]), (48, leBytes 8 0x3000), (56, leBytes 8 0x1000), (64, leBytes 8 0x10000)] .none
     SealedOnly c [(40, 42), (48, 72)] ∧ windowOk sealedState 1 0x3000 0x1000 = true) ∧
    (let c := cmdWith 9 [(40, [12, 1]), (48, leBytes 8 0x4000), (64, leBytes 8 0x10000)] .none
     SealedOnly c [(40, 42), (48, 56), (64, 72)] ∧ ∃ w ∈ sealedState.mod.sec.windows, w.tenant = 1 ∧ w.off = 0x4000) := by
  refine ⟨⟨only_of ?_, ?_⟩, ⟨sealedOnly_of ?_, ?_⟩, ⟨sealedOnly_of ?_, ?_⟩, ⟨sealedOnly_of ?_, ?_⟩, ⟨sealedOnly_of ?_, ?_⟩⟩ <;> decide +kernel

/-- The longest read of a security call: a signature behind the bytes it signs. -/
theorem witness_SecurityCalls_signature :
    (fwRead (inHand sealedState (cmdWith 9 [] .none)) 0 0 0x10000 (128 + 29792)).2.toOption.isSome = true := by decide +kernel

theorem witness_SecurityCalls_others :
    Only (cmdWith 9 [(40, [5]), (48, leBytes 8 0x10000)] .none) [(40, 41), (48, 56)] ∧
    (fwWrite (inHand callState (cmdWith 9 [] .none)) 0 0 0x10000 (List.replicate 64 1)).2.toOption.isSome = true ∧
    (let c := cmdWith 9 [(40, [7, 1])] .none
     Only c [(40, 42), (48, 56)] ∧ callState.mod.sec.events.length < 4095 ∧ tokenNeed callState.mod.sec.mode 1 = .free ∧ fieldOf c.slot 48 8 = 0) ∧
    (let c := cmdWith 9 [(40, [7, 2]), (48, leBytes 8 0x10000)] .none
     SealedOnly c [(40, 42), (48, 56)] ∧ sealedState.mod.sec.events.length < 4095 ∧ tokenNeed sealedState.mod.sec.mode 2 ≠ .free) ∧
    Only (cmdWith 9 [(40, [8])] .none) [(40, 41)] ∧
    Only (cmdWith 9 [(40, [9]), (48, leBytes 8 0x10000), (64, List.replicate 32 7)] .none) [(40, 41), (48, 56), (64, 96)] ∧
    (let c := cmdWith 9 [(40, [10, 3]), (48, leBytes 2 14)] .none
     Only c [(40, 42), (48, 50)] ∧ fieldOf c.slot 41 1 ≤ 3 ∧ fieldOf c.slot 48 2 ≤ 15 ∧
     ∀ k < 4, (14 : Nat).testBit k = true → clusterBusy (inHand callState c) (4 * 3 + k) = false) ∧
    (let z := requestAll (modMod (endSession { callState with cores := [] } 0) fun m => { m with susp := true })
     quiet z = true) ∧
    quiet (requestAll (modMod (endSession callState 0) fun m => { m with susp := true })) = false := by
  refine ⟨only_of ?_, ?_, ⟨only_of ?_, ?_⟩, ⟨sealedOnly_of ?_, ?_⟩, only_of ?_, only_of ?_, ⟨only_of ?_, ?_⟩, ?_, ?_⟩ <;> decide +kernel

/-- Core 1 fetches a SYSC at address 0. -/
def syscState : State := placeFetch State.reset (bytes32 (encodeHeader (soloHeader .c)) ++ bytes32 0x29000011)

/-- Context 0 of core 1 holds its bundle for a reason. -/
def heldState (h : Hold) : State := modCtx calmState 1 0 fun t => { t with held := some h }

/-- A debugger at level D2 has halted core 1. -/
def debugState : State :=
  let s := modCore mapState 1 fun k => { k with dbgHalt := true }
  { s with mod := { s.mod with sec := { debug := 2, mode := 1 } } }

/-- A bundle is fetched. -/
def fetches (s : State) : Bool := (fetched s 1 0).toOption.isSome

/-- An access of context 0 outside the module that is not answered. -/
def outsideArrival : Arrival := { ctx := 0, dst := some 4, val := .outside 8 false 0xFF00000000000040 [] }

/-- Core 1 awaits it. -/
def awaiting (s : State) : State := modCore s 1 fun k => { k with arrivals := [outsideArrival] }

/-- Context 0 holds the LDW at address 0 on the empty word at a1, after so many failed retries. -/
def ldwState (fails : Nat) : State :=
  modCtx (placeFetch mapState (bytes32 (encodeHeader (soloHeader .l)) ++ bytes32 ((encodeNat (.ldw 4 1 2 1)).getD 0))) 1 0 fun t =>
    { t with held := some (.fe 1 0x10000 0 fails) }

/-- The state after one retry in which nothing kills the context. -/
def retried (s : State) : State := issueFetched (modCtx s 1 0 fun u => { u with killed := false }) 1 0

theorem witness_CoresIssueAndRetry :
    (coreOf calmState 1).run = some 0 ∧ issueStops (coreOf calmState 1) = false ∧ leaving (ctxOf calmState 1 0) = none ∧
    (coreOf calmState 1).dbgReq = false ∧ (ctxOf calmState 1 0).inAmigen = false ∧ sleeps (ctxOf calmState 1 0) = false ∧
    backFull (ctxOf calmState 1 0) = false ∧ fetches calmState = true ∧
    (let s := modCtx calmState 1 0 fun t => { t with pc := 4 }
     fetches s = false ∧ (coreOf s 1).run = some 0 ∧ (coreOf s 1).rerun = none ∧ sleeps (ctxOf s 1 0) = false ∧ leaving (ctxOf s 1 0) = none) ∧
    issueStops (coreOf (modCore calmState 1 fun k => { k with retired := true }) 1) = true ∧
    leaving (ctxOf (heldState (.leave .exit)) 1 0) = some .exit ∧ unsettled (heldState (.leave .exit)) 1 0 = false ∧
    leaving (ctxOf (awaiting (heldState (.leave .yield))) 1 0) = some .yield ∧ unsettled (awaiting (heldState (.leave .yield))) 1 0 = true ∧
    (match fetched syscState 1 0 with
     | .ok b => (bundleTrap syscState 1 0 (issueOf (coreOf syscState 1) 0 b)).map (fun z => (z.cause, z.info))
     | .error _ => none) = some (0x13, 0x11) ∧ (coreOf syscState 1).run = some 0 := by
  decide +kernel

theorem witness_CoresIssueAndRetry_held :
    (ctxOf (ldwState 7) 1 0).held = some (.fe 1 0x10000 0 7) ∧ (coreOf (ldwState 7) 1).run = some 0 ∧ issueStops (coreOf (ldwState 7) 1) = false ∧
    feHeld (retried (ldwState 7)) 1 0 = true ∧ budgetUsed (ctxOf (ldwState 7) 1 0) = false ∧ feHeld (retried (ldwState 63)) 1 0 = true ∧
    budgetUsed (ctxOf (ldwState 63) 1 0) = true ∧
    (let s := modDie (ldwState 63) 0 fun d => setFull d 0x10000 true
     feHeld (retried s) 1 0 = false ∧ (ctxOf s 1 0).killed = false ∧ budgetUsed (ctxOf s 1 0) = true) ∧
    (ctxOf (heldState (.ctr 8 0)) 1 0).held = some (.ctr 8 0) ∧ localDie (heldState (.ctr 8 0)) (ctrDie 8) = some 0 ∧
    (0 : Word).toNat ≤ (ctrVal (heldState (.ctr 8 0)) 0 (ctrIdx 8)).toNat ∧ fetches (heldState (.ctr 8 0)) = true ∧
    debugState.mod.sec.debug = 2 ∧ debugState.mod.sec.events.length < 4095 ∧ debugState.mod.sec.mode ≠ 2 ∧ (coreOf debugState 1).dbgHalt = true ∧
    leaving (ctxOf debugState 1 0) = none ∧ (ctxOf debugState 1 0).inAmigen = false ∧ fetches debugState = true := by
  decide +kernel

/-- A pre-emption of core 1's context is asked for, at a legal landing, after all of its slice. -/
def sliceState : State := modCore (modCtx calmState 1 0 fun t => { t with atLand := true }) 1 fun k => { k with preempt := true, tslice := 100, sliceUsed := 100 }

/-- Core 1 rehearses. -/
def rehearseState : State := modCore calmState 1 fun k => { k with rerun := some ⟨[], none, 1, none⟩ }

/-- Core 1 reruns its interval up to the trap of the bundle behind two others. -/
def rerunState : State := modCore calmState 1 fun k => { k with rerun := some ⟨[], some (2, { cause := 9 }), 1, none⟩ }

theorem witness_IntervalsAndSwitches :
    (coreOf sliceState 1).run = some 0 ∧ issueStops (coreOf sliceState 1) = false ∧ unsettled sliceState 1 0 = false ∧
    leaving (ctxOf sliceState 1 0) = none ∧ rehearsing (coreOf sliceState 1) = false ∧
    (coreOf sliceState 1).tslice ≠ 0 ∧ (coreOf sliceState 1).tslice.toNat ≤ (coreOf sliceState 1).sliceUsed ∧ (coreOf sliceState 1).preempt = true ∧
    (ctxOf sliceState 1 0).atLand = true ∧ (ctxOf sliceState 1 0).priv = false ∧ firstRows sliceState 1 0 = false ∧
    (coreOf (awaiting sliceState) 1).run = some 0 ∧ unsettled (awaiting sliceState) 1 0 = true ∧
    (coreOf rerunState 1).run = some 0 ∧ unsettled rerunState 1 0 = false ∧ stopsBefore (coreOf rerunState 1) 3 = true ∧
    stopsBefore (coreOf rerunState 1) 1 = false ∧ stopsBefore (coreOf sliceState 1) 3 = false ∧
    (coreOf (modCore sliceState 1 fun k => { k with shadow := none }) 1).shadow = none ∧
    ((coreOf sliceState 1).shadow.map (·.uncopied) = some false) ∧ (coreOf sliceState 1).rerun = none ∧ (coreOf sliceState 1).retired = false ∧
    ((coreOf (modCore sliceState 1 fun k => { k with shadow := k.shadow.map fun h => { h with uncopied := true } }) 1).shadow.map (·.uncopied) = some true) ∧
    (coreOf rehearseState 1).run = some 0 ∧ (coreOf rehearseState 1).retired = false ∧ rehearsing (coreOf rehearseState 1) = true ∧
    unsettled rehearseState 1 0 = false ∧ issueStops (coreOf rehearseState 1) = false ∧ stopsBefore (coreOf rehearseState 1) 3 = false := by
  decide +kernel

/-- A command of each cluster engine, a weight fetch under way and a page request. -/
def busyState : State :=
  let e := fun (w : EngWork) => ({ owner := .ctx 1 0, asid := 0, op := 0x11, serial := 0, tok := true, cnt := 0, flag := 0, work := w, status := 1, held := [] } : EngCmd)
  modDie (modCore mapState 1 fun k => { k with
    engs := [e (.trpop ⟨0, 0, 2, [], 0⟩ false 0 0 0 0 0), e (.copy 0 0 [] [] [] 1 3), e (.gather false 0 0 1 4 2 0 0 0 none)],
    pend := [⟨80, 0, .weights {}⟩, ⟨80, 0, .token 0 2 0⟩] }) 0 fun d => { d with pgreqs := [⟨0, 0x20000, 8, 1, 0, none⟩] }

/-- The copy engine's command would read the page that migrates. -/
def copyWaits : State := modCore hostState 1 fun k => { k with engs :=
  [{ owner := .ctx 1 0, asid := 0, op := 0x11, serial := 0, tok := false, cnt := 0, flag := 0, work := .copy 0x20000 0x30000 [1] [0] [0] 8 3, status := 0,
     held := [] }] }

/-- A held load of core 1 at an address. -/
def heldLoad (s : State) (va : Nat) : State := modCore s 1 fun k => { k with arrivals := [{ ctx := 0, dst := some 4, val := .held (.load va 8 0 false) }] }

/-- A cooperative MXA of core 1 waits for core 2, or has started. -/
def coopJob : MxJob := { m := 1, k := 1, n := 1, mode := 0, den := false, page := 0, w := 0, crow := 0, rmode := 0, srs := 1, fmt := 0, tap := 0, serial := 0, coop := true }
def coopWaits (mask : BitVec 16) : State := modCore calmState 1 fun k => { k with coop := some (0, mask, 5, coopJob) }
def coopRuns : State := modCore calmState 1 fun k => { k with pend := [⟨60, 0, .mxa coopJob⟩] }

theorem witness_WakesStartsAndCompletions :
    (coreOf busyState 1).retired = false ∧ (dieOf busyState 0).pgreqs[0]? = some ⟨0, 0x20000, 8, 1, 0, none⟩ ∧ (performHeld busyState 1).isNone = true ∧
    (performHeld (heldLoad mapState 0x10000) 1).isSome = true ∧ (performHeld (heldLoad hostState 0x20000) 1).isNone = true ∧
    (∀ n ∈ [1, 2, 3], (takeEng (fun e => engNo e == n) (coreOf busyState 1).engs).map (fun p => (engNo p.1, engWaits busyState 1 p.1)) = some (n, false)) ∧
    (takeEng (fun e => engNo e == 1) (coreOf copyWaits 1).engs).map (fun p => engWaits copyWaits 1 p.1) = some true ∧
    ((coreOf (landDue busyState 1) 1).pend.find? fun p => coopLand p.land).isNone = true ∧
    ((coreOf (landDue coopRuns 1) 1).pend.find? fun p => coopLand p.land).map (·.due) = some 60 ∧
    lateGroup (coopWaits 6) 0 = some (6, 5) ∧ lateGroup calmState 0 = none ∧ groupReady (coopWaits 6) 0 6 5 = false ∧ groupReady (coopWaits 2) 0 2 5 = true := by
  decide +kernel

theorem witness_DebugSteps :
    debugState.mod.sec.debug = 2 ∧ 1 ≤ debugState.mod.sec.debug ∧ debugState.mod.sec.events.length < 4095 ∧ debugState.mod.sec.mode ≠ 2 ∧
    (coreOf debugState 1).dbgHalt = true ∧ (coreOf debugState 2).dbgHalt = false ∧ (coreOf debugState 2).run = none ∧
    (let s := modCore debugState 1 fun k => { k with dbgHalt := false }
     (coreOf s 1).dbgHalt = false ∧ (coreOf s 1).run = some 0 ∧
     (issueStops (coreOf s 1) || unsettled s 1 0 || (leaving (ctxOf s 1 0)).isSome || firstRows s 1 0) = false ∧ unsettled (awaiting s) 1 0 = true) ∧
    (ctxOf debugState 1 0).status ≠ .halted ∧
    (ctxOf (modCore (modCtx debugState 1 0 fun t => { t with status := .halted }) 1 fun k => { k with dbgHalt := false }) 1 0).status = .halted ∧
    (mxOfId 1 0).isSome = true ∧ (engRead debugState (clusterOfCore 1) 0 0x10000 8).2.toOption = some (List.replicate 8 0) ∧
    (engWrite debugState (clusterOfCore 1) 0 0x10000 (leBytes 8 7) none).2.toOption.isSome = true := by
  decide +kernel

/-- Queue pair 7 of die 0 has entries in a state. -/
def qpState (e : WorkEntry) : State := modDie mapState 0 fun d => { d with qps := [(7, { grp := 33, ring := 0x10000, asid := 0, entries := [e] })] }

/-- An entry to a die. -/
def entryTo (peer : Nat) : WorkEntry := { serial := 0, raw := List.replicate 64 (BitVec.ofNat 8 peer), asid := 0, poster := .ctx 1 0, late := false }

/-- A WRITE of 8 bytes at 0x20000 to this die by group 34, and a state in which that page migrates. -/
def waitEntry : WorkEntry :=
  let raw := [(0, [1]), (2, [34]), (7, [3]), (8, leBytes 8 0x20000), (16, leBytes 8 0x10000), (32, leBytes 8 8)].foldl putAt (List.replicate 64 0)
  { entryTo 0 with raw := raw }

def waitState : State :=
  modDie collState 0 fun d => { d with
    qps := [(7, { grp := 34, ring := 0x10000, asid := 0, entries := [waitEntry] })], mem := memWrite d.mem 0x10 (leBytes 8 0x2057F) }

/-- A chunk of n bytes. -/
def chunkOf (n : Nat) : Chunk :=
  { grp := 33, gen := 0, home := 4, qp := 7, serial := 0, asid := 0, op := 1, wire := 0, land := 0, mode := 0, dcore := 0, addr := 0x10000, haddr := 0, rctr := 0,
    data := List.replicate n 0, full := [] }

/-- Chunks wait in the staging area or the spill area of die 0. -/
def chunkState (st sp : List Chunk) : State := modDie mapState 0 fun d => { d with staging := st, spill := sp }

theorem witness_WorkEntriesRun :
    (qpOf (qpState (entryTo 0)) 0 7).bind nextEntry = some (entryTo 0) ∧ (armed (qpState (entryTo 0)) 0 (entryTo 0)).2 = true ∧
    startEntry (qpState (entryTo 0)) 0 7 (entryTo 0) ≠ qpState (entryTo 0) ∧
    (let s := waitState
     (qpOf s 0 7).bind nextEntry = some waitEntry ∧ (armed s 0 waitEntry).2 = true ∧ (startEntry (stepState s (.workEntryStart 0 7)) 0 7 waitEntry).mod.want ≠ .nothing) ∧
    mailHas (chunkState [] []) (.chunkArrive 0 (chunkOf 0)) = false ∧
    mailHas { chunkState [] [] with mail := [⟨.chunkArrive 0 (chunkOf 1), {}⟩] } (.chunkArrive 0 (chunkOf 0)) = true ∧
    (landing { chunkState [] [] with freeCtr := 1 } 0 (chunkOf 0) false).2 = false ∧
    (dieOf (chunkState [] []) 0).staging = [] ∧ (dieOf (chunkState [] []) 0).spill = [] ∧ (dieOf (chunkState [chunkOf 0] []) 0).staging = [chunkOf 0] ∧
    (dieOf (chunkState [] [chunkOf 0]) 0).spill = [chunkOf 0] ∧ (dieOf (chunkState [] [chunkOf 0]) 0).staging = [] ∧
    (let e := { entryTo 0 with started := true, code := some 3 }
     (qpOf (qpState e) 0 7).bind (fun p => p.entries.find? fun e => e.code.isSome) = some e ∧ e.code = some 3) ∧
    (let e := { entryTo 4 with started := true }
     (qpOf (qpState e) 0 7).bind (fun p => p.entries.find? fun e => e.code.isSome) = none ∧
     (qpOf (qpState e) 0 7).bind (fun p => p.entries.find? fun z => awaitsAnswer (qpState e) z 8) = some e) ∧ 8 ≤ 8 := by
  decide +kernel

/-- Log group 33 of one rank on die 0, which holds what its next step needs, and its lead; reduce group 34 of one rank. -/
def logGroup : Group :=
  { log := true, n := 1, rank := 0, listen := 1, quorum := 1, uwin := 1, members := [0], leaders := [0], dl := 1, ring := 0x10000,
    asid := 0, log2n := 10, first := 0, lraddr := 0x10000, nextStep := 0, contribs := [⟨0, 0, List.replicate 32 0⟩], emitted := [⟨0, 0xFFFF, List.replicate 32 0⟩] }

/-- The lead of the group at its open step, which has closed step 0 as SEQ 1. -/
def leadWith (quorum : Nat) (late : Bool) : Lead :=
  { grp := { logGroup with quorum := quorum }, open_ := 0, closeBeat := 0, late := late, contribs := [⟨0, 0, List.replicate 32 0⟩], closes := [(0, 1)] }

/-- A reduce group of n ranks. -/
def reduceGroup (n : Nat) (terms : List (Nat × Word)) : Group :=
  { log := false, n := n, rank := 0, listen := 1, quorum := 0, uwin := 0, members := [0], leaders := [], dl := 0, ring := 0x10000,
    asid := 0, log2n := 0, first := 0, lraddr := 0, nextStep := 0, terms := terms }

/-- Die 0 holds groups and leads. -/
def groupState (g : Group) (ls : List (Nat × Lead)) : State := modDie mapState 0 fun d => { d with groups := [(33, g)], leads := ls, beat := 1 }

theorem witness_LogGroupsGoOn :
    collOf (groupState logGroup []) 0 33 = some logGroup ∧ logGroup.log = true ∧ leadOf (groupState logGroup []) 0 33 = none ∧
    leadOf (groupState logGroup [(33, leadWith 1 false)]) 0 33 = some (leadWith 1 false) ∧
    (leadOf (endpointTake (groupState logGroup [(33, leadWith 1 false)]) 0 33 0 (List.replicate 32 0) logGroup) 0 33).isSome = true ∧
    (leadWith 1 false).closeBeat + (leadWith 1 false).grp.dl ≤ (dieOf (groupState logGroup []) 0).beat.toNat ∧
    (allIn (leadWith 1 false) || (leadWith 1 false).late) = true ∧ windowOpen (leadWith 1 true) = true ∧
    0 ∉ tabGet [] (leadWith 2 false).acks 0 ∧ 0 ∉ (leadWith 2 false).sealed ∧ (tabGet [] (leadWith 2 false).acks 0).length + 1 < (leadWith 2 false).grp.quorum ∧
    (leadWith 1 false).grp.quorum ≤ (tabGet [] (leadWith 1 false).acks 0).length + 1 ∧ (stepRecords logGroup).isSome = true ∧
    (coreOf (groupState logGroup []) (listenCore 0 logGroup)).q4.length < 64 ∧ logGroup.sealed < (1 : Word).toNat ∧
    ((leadWith 2 false).closes.find? fun e => e.2 == (1 : Word).toNat).map (·.1) = some 0 ∧
    takesOver (groupState logGroup []) 0 33 logGroup = true ∧ takesOver (groupState { logGroup with leaders := [1] } []) 0 33 { logGroup with leaders := [1] } = false ∧
    (bestOf (survivors (stepState (groupState logGroup []) (.leaderTakeover 0 33)) 0 33 logGroup).2).isSome = true := by
  decide +kernel

theorem witness_ReduceGroupsGoOn :
    collOf (groupState (reduceGroup 1 []) []) 0 33 = some (reduceGroup 1 []) ∧ (reduceGroup 1 []).log = false ∧ (groupState (reduceGroup 1 []) []).mail = [] ∧
    (coreOf (groupState (reduceGroup 1 []) []) (listenCore 0 (reduceGroup 1 []))).q4.length < 64 ∧
    readyTerms { reduceGroup 2 [] with terms := [(0, 5)] } = none ∧ readyTerms { reduceGroup 1 [] with terms := [(0, 5)] } = some [5] ∧
    (coreOf (groupState (reduceGroup 1 []) []) (listenCore 0 (reduceGroup 1 []))).q5.length < 64 ∧ 0 < (reduceGroup 1 []).n ∧ (reduceGroup 1 []).terms = [] ∧
    (let g := reduceGroup 2 [(0, 5)]
     let s := groupState g []
     g.owed + pendingOps s 0 33 g = 1 ∧ g.owed + pendingOps s 0 33 g ≠ 0 ∧ (coreOf s (listenCore 0 g)).q5.length + 1 ≤ 64) ∧
    (let g := reduceGroup 2 []
     g.owed + pendingOps (groupState g []) 0 33 g = 0) ∧ (1 : BitVec 4) ≠ (reduceGroup 1 []).gen := by
  decide +kernel

/-! ### Witnesses of the statements about encoding, steps and frames -/

theorem witness_DecodeOfEncode : (Instr.add 4 2 3).wf = true ∧ (Instr.add 4 2 3).slotClass = some .scalar ∧
    (decodeClass .scalar 0x011020C0).toOption = some (.add 4 2 3) := by decide

theorem witness_HeadersDecode : (0x9D03028A < 2 ^ 32) ∧ ((0x9C : Byte) ≠ 0x9D) ∧ (0x10 : Byte).toNat / 16 ≠ 0 := by decide

/-- A step that ends in a next state. -/
def goesB (o : Host.Outcome State Fault Refusal) : Bool := match o with | .next _ => true | _ => false

theorem goes_of {o : Host.Outcome State Fault Refusal} (h : goesB o = true) : ∃ t, o = .next t := by
  cases o with
  | next t => exact ⟨t, rfl⟩
  | fault _ => cases h
  | refused _ => cases h

/-- The state that `withFetchWord` leaves: core 1 fetches the word of ADD s4, s2, s3, read as the first class that has it. -/
def fetchState : State := placeFetch State.reset (bytes32 (encodeHeader (soloHeader .a0)) ++ bytes32 0x011020C0)

theorem witness_StepRunsTheDecodedInstruction :
    (fetchState.mod.booted = true ∧ fetchState.mod.power < 3 ∧ fetchState.agenda = [] ∧ fetchState.clock % 8 = 0 ∧ fetchState.turn = 1 ∧
     fetchState.mod.susp = false ∧ (coreOf fetchState 1).run = some 0 ∧ issueStops (coreOf fetchState 1) = false ∧ (coreOf fetchState 1).dbgReq = false ∧
     (coreOf fetchState 1).engs = [] ∧ backFull (ctxOf fetchState 1 0) = false ∧
     (coreOf fetchState 1).arrivals = [] ∧ (coreOf fetchState 1).pend = [] ∧ (coreOf fetchState 1).coop = none ∧ (coreOf fetchState 1).preempt = false ∧
     (ctxOf fetchState 1 0).held = none ∧ (ctxOf fetchState 1 0).inAmigen = false ∧ (Instr.add 4 2 3).wf = true ∧ (Instr.add 4 2 3).homeSlot = some .a0 ∧
     encodeNat (.add 4 2 3) = some 0x011020C0 ∧
     (decodeBundle (imemAt (coreOf fetchState 1) 0 false 0)).toOption.map (fun b => (b.hdr, b.slots.map fun w => (w.1, w.2.1, w.2.2.toOption))) =
       some (soloHeader .a0, [(.a0, 0x011020C0, some (.add 4 2 3))])) ∧
    ∃ t, exec (.add 4 2 3) { fetchState with focus := {} } = .next t := ⟨by decide +kernel, goes_of (by decide +kernel)⟩

theorem witness_TrapsAreTaken :
    Calm (coreOf calmState calmState.turn) 0 ∧ (ctxOf calmState calmState.turn 0).priv = false ∧ (2 : Nat) ≠ 0x11 ∧
    ∀ i ∈ ([.mtc 1 0x800, .eret true, .ctxsw 1 false, .halt true, .tlbi 1 2] : List Instr), i.wf = true ∧ needsPriv i = true ∧
      emptyQueue (coreOf calmState calmState.turn) 0 (soloAt calmState 0 i) = false ∧ pushFull calmState calmState.turn 0 (soloAt calmState 0 i) = false :=
  ⟨calm_of (by decide +kernel), by decide +kernel, by decide, by decide +kernel⟩

theorem witness_ResultsLandAfterTheirLatency : Ready calmState 0 (.mul 4 2 3) ∧ (1 : Nat) < 3 ∧ innermost (ctxOf calmState 1 0) = none ∧
    [Land.scalar 4 7] = [.scalar 4 7] ∧ (coreOf calmState 1).rerun = none :=
  ⟨ready_of (by decide +kernel), by decide, by decide +kernel, rfl, by decide +kernel⟩

/-- q4 of core 1 holds an entry. -/
def headState : State := modCore calmState 1 fun k => { k with q4 := [7] }

/-- The frame's instructions: a register, a neighbour's queue, a predicate and an address register as destination, and one that reads q4. -/
def frameInstrs : List Instr := [.add 4 2 3, .movi 56 5, .fadd 59 1 2 true, .pcmp 1 2 3 0, .aadd 1 2 3]

theorem witness_RegisterInstructionsFrame :
    (∀ i ∈ frameInstrs, Ready calmState 0 i) ∧
    (∀ i ∈ frameInstrs, ((scalarDest i).isSome = true ∨ (predDest i).isSome = true ∨ (addrDest i).isSome = true) ∧
      goesB (exec i calmState) = true ∧ acquires calmState 0 i = false) ∧
    (Ready headState 0 (.add 4 60 3) ∧ goesB (exec (.add 4 60 3) headState) = true ∧ acquires headState 0 (.add 4 60 3) = true) ∧
    innermost (ctxOf calmState calmState.turn 0) = none ∧ roundsOnce (.add 4 2 3) = false :=
  ⟨all_ready (by decide +kernel), by decide +kernel, ⟨ready_of (by decide +kernel), by decide +kernel, by decide +kernel⟩, by decide +kernel, by decide⟩

/-- The first-level cache of core 1 holds the line at 0x30000. -/
def lineState : State := modCore mapState 1 fun k => { k with l1 := [⟨0, 0xC00, 0, 0, 0, 0⟩] }

theorem witness_StoreFrame :
    Ready mapState 0 (.st 4 1 3 0) ∧ Ready lineState 0 (.st 4 3 3 0) ∧ (addrOf mapState 0 1).toNat % 8 = 0 ∧
    (resolve mapState (clusterOfCore 1) 0 0x10000 8 ⟨false, true, false, true⟩).2.toOption = some (.home 0 0x10000 2 false false false) ∧
    (resolve lineState (clusterOfCore 1) 0 0x30000 8 ⟨false, true, false, true⟩).2.toOption = some (.home 0 0x30000 0 false false false) ∧
    (l1Find (coreOf (resolve lineState (clusterOfCore 1) 0 0x30000 8 ⟨false, true, false, true⟩).1 (l1Core lineState 1)).l1 0 0xC00).isSome = true ∧
    goesB (exec (.st 4 1 3 0) mapState) = true ∧ goesB (exec (.st 4 3 3 0) lineState) = true ∧ acquires mapState 0 (.st 4 1 3 0) = false ∧
    (∀ d cid j, (ctxOf mapState 1 0).launch ≠ .ordered d cid j) ∧ innermost (ctxOf mapState mapState.turn 0) = none := by
  have hl : (ctxOf mapState 1 0).launch = .child := by decide +kernel
  refine ⟨ready_of ?_, ready_of ?_, ?_, ?_, ?_, ?_, ?_, ?_, ?_, fun d cid j => ?_, ?_⟩
  all_goals first | decide +kernel | simp [hl]

theorem witness_MemoryReadsBack : (8 ≤ 9 ∧ 9 < 8 + [(1 : Byte), 2].length) ∧ (7 < 8 ∨ 8 + [(1 : Byte), 2].length ≤ 7) ∧ Memory.wf [(8, 1)] ∧ (0 : Nat) ≠ 1 ∧
    (0 + 8 ≤ 8 ∨ 8 + [(1 : Byte), 2].length ≤ 0) := by decide

/-- A module in S5. -/
def offState : State := { State.reset with mod := { State.reset.mod with power := 5 } }

theorem witness_PoweredOffRests : (offState.mod.power = 5 ∧ ∀ d ∈ offState.agenda, d.step ≠ .boot) ∧ ∃ t, step offState = .next t :=
  ⟨by decide +kernel, goes_of (by decide +kernel)⟩

/-! ### Witnesses of what waits, and of what other modules' dies answer -/

/-- Module 0 of a domain with module 1. -/
def inDomain (s : State) : State := { s with mod := { s.mod with modId := 0x80, reach := [1] } }

/-- An exchange that someone has with die 4, which is the first of module 1, and its answer once there is one. -/
def withAsked (s : State) (k : Asker) (op : RemoteOp) (va : Nat) (r : Option RemoteReply) : State :=
  { s with mod := { s.mod with exchanges := [{ asker := k, gdie := 4, req := { op := op, va := va, tag := 1 }, reply := r.map fun r => (r, none) }] } }

theorem witness_HostAccesses_S3 :
    { mapState with mod := { mapState.mod with power := 3 } }.mod.power = 3 ∧
    (hostPlaces (stepState hostState (.hostRead .bar2 0x20000 8)) false 0x20000 8).2 = .waits := by decide +kernel

/-- A slot of a stream of die 0 holds a TASKS command whose table is at the page that migrates. -/
def slotState' : State :=
  modDie hostState 0 fun d => { d with
    streams := [(3, { base := 0x10000, cfg := 0x204 })],
    mem := memWrite (memWrite (memWrite (memWrite d.mem 0x100FC [2]) 0x100FF [0xA5]) 0x10020 (leBytes 8 0x20000)) 0x10028 (leBytes 4 1 ++ leBytes 8 2) }

theorem witness_SlotsEnterAndCommandsFinish_waits :
    (let s := stepState slotState' (.slotAccept 0 3)
     let t := streamOf slotState' 0 3
     match nextSlot s 0 t with
     | (z, .slot raw bad) => decide (pbFull z 0 = false ∧ bad ≠ waitErr ∧ (enterSlot z 0 3 t raw bad).mod.want ≠ .nothing)
     | _ => false) = true := by decide +kernel

theorem witness_SimpleCommands_away :
    let c := { cmdWith 7 [(32, leBytes 8 0x4005), (40, leBytes 8 9)] .none with type := 7 }
    let s := fun r => withAsked (inDomain (inHand simpleState c)) (.cmd 0 9) (.ctrGet 9 0) 0x4005 r
    InHand (inHand (inDomain simpleState) c) c ∧ routed (s none) (ctrDie 0x4005) = true ∧ localDie (s none) (ctrDie 0x4005) = none ∧
    (ask (cmdState (s none)) 0 4 0 0x4005 (.ctrGet 9 0)).2 = none ∧ (ask (cmdState (s (some { tag := 1 }))) 0 4 0 0x4005 (.ctrGet 9 0)).2.isSome = true ∧
    (s none).mod.exchanges.all (fun x => x.asker != .cmd 0 9 || x.reply.isNone) = true := by
  refine ⟨inHand_is _ rfl, ?_, ?_, ?_, ?_, ?_⟩ <;> decide +kernel

theorem witness_LaunchCommands_fails :
    (let c := cmdWith 3 [(32, leBytes 8 0x10000), (40, leBytes 4 1), (44, leBytes 8 4)] .none
     (beginTable (cmdState (inHand tableState c)) 0 0 c false true).2.toOption.map (·.length) = some 1) ∧
    (let c := cmdWith 3 [(32, leBytes 8 0x60000), (40, leBytes 4 1)] .none
     (match (beginTable (cmdState (inHand hostAway c)) 0 0 c false true).2 with | .error e => decide (e ≠ 3 ∧ e ≠ 7) | .ok _ => false) = true) ∧
    (let c := cmdWith 3 [(32, leBytes 8 0x10000), (40, leBytes 4 1)] .none
     (match (beginTable (cmdState (inHand mapState c)) 0 0 c false true).2 with | .error e => decide (e = 3 ∨ e = 7) | .ok _ => false) = true) ∧
    (let c := cmdWith 1 [(252, [1])] (.gang [2] 0 (some 0))
     (0, 9, c) ∈ dueGangs (cmdState (inHand mapState c)) ∧ (dieOf mapState (dieOfCore 2)).beat.toNat < 5) ∧
    ({ cmdWith 4 [] .none with refusal := 3 } : Cmd).refusal ≠ 0 ∧ (cmdWith 4 [] .none).refusal = 0 := by decide +kernel

/-- Context 0 of core 1 holds its LDW on a word of die 4; the attempt is under way, or its response has come. -/
def awayLdw (r : Option RemoteReply) : State :=
  withAsked (inDomain (modCtx calmState 1 0 fun t => { t with held := some (.fe 1 (BitVec.ofNat 64 (2 ^ 58)) 0 0) })) (.bundle 1 0 3) (.fe 1 0 0 0 none) (2 ^ 58) r

/-- A failed attempt's response. -/
def failed (park : Nat) : RemoteReply := { tag := 1, p6 := false, park := park }

theorem witness_CoresIssueAndRetry_away :
    (ctxOf (awayLdw none) 1 0).held = some (.fe 1 (BitVec.ofNat 64 (2 ^ 58)) 0 0) ∧ heldAbroad (awayLdw none) (ctxOf (awayLdw none) 1 0) = some 4 ∧
    issueStops (coreOf (awayLdw none) 1) = false ∧ asksNow (awayLdw none) 1 0 = true ∧
    (∀ p ∈ [0, 1, 2], asksNow (awayLdw (some (failed p))) 1 0 = false ∧ attemptFailed (awayLdw (some (failed p))) 1 0 = some (failed p) ∧
      unanswered (awayLdw (some (failed p))) 1 0 = false) ∧
    0 < fld (ctxOf (awayLdw none) 1 0).feb 15 0 ∧ (ctxOf (awayLdw none) 1 0).killed = false ∧
    (let s := modCtx (awayLdw (some (failed 0))) 1 0 fun t => { t with feb := 0x10000 }
     fld (ctxOf s 1 0).feb 15 0 ≤ 0 ∧ rehearsing (coreOf s 1) = false ∧ (ctxOf s 1 0).feb.getLsbD 16 = true) ∧
    answeredNow (awayLdw (some { tag := 1 })) 1 0 = true ∧ replyReady (awayLdw (some { tag := 1 })) 1 0 = false ∧
    replyReady (withAsked (inDomain calmState) (.bundle 1 0 3) (.publ 0) (2 ^ 58) (some { tag := 1 })) 1 0 = true ∧
    (ctxOf (modCtx calmState 1 0 fun t => { t with killed := true }) 1 0).killed = true := by decide +kernel

theorem witness_IntervalsAndSwitches_idle :
    (let k := coreOf State.reset 5
     k.run = none ∧ issueStops k = false ∧ k.dbgReq = false) ∧
    (retireCore (stepState rehearseState (.rehearsalCompare 1 false)) 1).mod.want = .nothing := by decide +kernel

/-- A copy of a core that arrived at a step. -/
def copyAt (c n : Nat) : EngCmd :=
  { owner := .ctx c 0, asid := 0, op := 0x11, serial := 0, tok := false, cnt := 0, flag := 0, work := .copy 0x10000 0x30000 [1] [0] [0] 8 3, status := 0, held := [],
    since := n }

/-- The copy of core 1 arrived at step 5, that of core 2 at step 3. -/
def twoCopies : State := modCore (modCore mapState 1 fun k => { k with engs := [copyAt 1 5] }) 2 fun k => { k with engs := [copyAt 2 3] }

theorem witness_WakesStartsAndCompletions_tries :
    (∀ e ∈ (coreOf copyWaits 1).engs, (engTry (modCore copyWaits 1 fun k => { k with engs := [] }) 1 e).2 = true ∧ earlierCopy copyWaits 1 e.since = none) ∧
    (∀ e ∈ (coreOf twoCopies 1).engs, (engTry (modCore twoCopies 1 fun k => { k with engs := [] }) 1 e).2 = false ∧
      earlierCopy twoCopies 1 e.since = some 2 ∧ (serveEarlier 1 e.since 1 twoCopies).2 = false) ∧
    (coreOf coopRuns 1).pend.any (·.waits) = false ∧
    (coreOf (modCore calmState 1 fun k => { k with pend := [⟨60, 0, .mxa { coopJob with waits := true }⟩] }) 1).pend.any (·.waits) = true := by
  decide +kernel

theorem witness_DebugSteps_places :
    (engLoc debugState (clusterOfCore 1) 0 0x10000 8 false).2.toOption = some (.home 0 0x10000 2 false false false) ∧
    (engLoc debugState (clusterOfCore 1) 0 0x10000 8 true).2.toOption = some (.home 0 0x10000 2 false false false) ∧
    ((coreOf trState 1).trq[0]?).isSome = true := by decide +kernel

theorem witness_WorkEntriesRun_waits :
    (let s := stepState (qpState (entryTo 0)) (.workEntryStart 0 7)
     let t := startEntry s 0 7 (entryTo 0)
     t.mod.want = .nothing ∧ ((qpOf t 0 7).bind nextEntry).map (·.serial) ≠ some 0) ∧
    (landing (modDie hostState 0 fun d => { d with groups := [(33, logGroup)] }) 0 { chunkOf 8 with addr := 0x20000 } false).2 = true := by decide +kernel

/-- A log group of dies 0 and 1 whose step 0 die 0 lacks: it knows its CLOSE. -/
def lackGroup (next : Nat) : Group := { logGroup with members := [0, 1], nextStep := next, emitted := [⟨next, 0xFFFF, List.replicate 32 0⟩], contribs := [] }

theorem witness_LogGroupsGoOn_fetch :
    takesOver (groupState logGroup []) 0 33 logGroup = true ∧ stepRecords { lackGroup 0 with n := 2 } = none ∧
    ((lackGroup 0).emitted.any fun c => c.rank == 0xFFFF) = true ∧
    (fetchFrom (groupState { lackGroup 0 with n := 2 } []) 0 33 { lackGroup 0 with n := 2 } [0, 1]).2 = none ∧
    (resumeFrom (groupState { lackGroup 0 with n := 2 } []) 0 33 { lackGroup 0 with n := 2 } [0, 1]).2.isNone = true := by decide +kernel
/-! ### Single steps, with values from the spec's tables and examples, or worked by hand from its rules -/

/-- The state after an instruction on core 1, its results landed. -/
def after (i : Instr) (s : State) : State := match exec i s with | .next t => settle t 1 | _ => State.reset

/-- A scalar register of context 0 after an instruction. -/
def sAfter (i : Instr) (s : State) (n : Nat) : Word := sReg (ctxOf (after i s) 1 0) n

/-- Context 0 with s8 and s9. -/
def two (a b : Word) : State := modCtx calmState 1 0 fun t => setSReg (setSReg t 8 a) 9 b

/-- By hand: 2^64 - 1 + 2 wraps, 1 - 2 is all ones, and s0 stays zero. -/
theorem test_add_sub_wrap : sAfter (.add 4 8 9) (two (-1) 2) 4 = 1 ∧ sAfter (.sub 4 8 9) (two 1 2) 4 = -1 ∧ sAfter (.add 0 8 9) (two 1 2) 0 = 0 := by
  decide +kernel

/-- By hand: the high halves of (-1) * 2, signed and unsigned. -/
theorem test_mul_high : sAfter (.mulh 4 8 9) (two (-1) 2) 4 = -1 ∧ sAfter (.mulhu 4 8 9) (two (-1) 2) 4 = 1 ∧ sAfter (.mul 8 8 9) (two 3 5) 8 = 15 := by
  decide +kernel

/-- 11 R295: -7 / 2 rounds toward zero; a divisor 0 gives 0 and the dividend, with DZ. -/
theorem test_division : sAfter (.div 4 8 9) (two (-7) 2) 4 = -3 ∧ sAfter (.rem 4 8 9) (two (-7) 2) 4 = -1 ∧ sAfter (.divu 4 8 9) (two 7 0) 4 = 0 ∧
    sAfter (.remu 4 8 9) (two 7 0) 4 = 7 ∧ (ctxOf (after (.div 4 8 9) (two 7 0)) 1 0).stat = BitVec.ofNat 64 flagDZ := by decide +kernel

/-- By hand: shifts by SRC(b) mod 64; CLZ of 0 and of 1; POPC; ANDN clears the bits of b. -/
theorem test_shifts_and_counts : sAfter (.shl 4 8 9) (two 1 65) 4 = 2 ∧ sAfter (.sar 4 8 9) (two (-8) 1) 4 = -4 ∧ sAfter (.rol 4 8 9) (two (-0x8000000000000000) 1) 4 = 1 ∧
    sAfter (.clz 4 0) calmState 4 = 64 ∧ sAfter (.clz 4 8) (two 1 0) 4 = 63 ∧ sAfter (.popc 4 8) (two (-1) 0) 4 = 64 ∧ sAfter (.andn 4 8 9) (two 6 3) 4 = 4 := by
  decide +kernel

/-- The example of 14 R379: MOVI s4, 0x79B9 and INSH s4, 1, 0x9E37 build 0x9E3779B9. -/
theorem test_movi_insh : sAfter (.movi 4 0x79B9) calmState 4 = 0x79B9 ∧ sAfter (.insh 8 1 0x9E37) (two 0x79B9 0) 8 = 0x9E3779B9 ∧
    sAfter (.addi 4 8 0xFFF) (two 5 0) 4 = 4 := by decide +kernel

/-- The table of 14 R385: FADD's tie to even with NX. -/
theorem test_fadd_tie : sAfter (.fadd 7 8 9 false) (two 0x3F800000 0x33800000) 7 = 0x3F800000 ∧
    (ctxOf (after (.fadd 7 8 9 false) (two 0x3F800000 0x33800000)) 1 0).stat = BitVec.ofNat 64 flagNX := by decide +kernel

/-- The table of 14 R385: FCVT to BF16, and of 200.0 to I8 with NV and AMX. -/
theorem test_fcvt : sAfter (.fcvt 7 8 2 0) (two 0x3EFD4000 0) 7 = 0x3EFD ∧ sAfter (.fcvt 7 8 7 0) (two 0x43480000 0) 7 = 0x7F ∧
    (ctxOf (after (.fcvt 7 8 7 0) (two 0x43480000 0)) 1 0).stat = BitVec.ofNat 64 flagNV ∧
    (ctxOf (after (.fcvt 7 8 7 0) (two 0x43480000 0)) 1 0).amx = 0x4069000000000000 := by decide +kernel

/-- The table of 14 R385: a compare with a NaN is false and raises no flag. -/
theorem test_fcmp_nan : pReg (ctxOf (after (.fcmp 2 8 9 2 false) (two 0x7FC00000 0x3F800000)) 1 0) 2 = false ∧
    (ctxOf (after (.fcmp 2 8 9 2 false) (two 0x7FC00000 0x3F800000)) 1 0).stat = 0 ∧
    pReg (ctxOf (after (.fcmp 2 8 9 4 false) (two 0x7FC00000 0x3F800000)) 1 0) 2 = true := by decide +kernel

/-- The table of 11 R284: 1013 * 2^-11 in each type, to nearest even and toward zero. -/
theorem test_roundings : [0, 2, 3, 4, 5].map (fun ty => (roundTy ty rne 0 (.fin false 1013 (-11))).val) = [0x3EFD4000, 0x3EFD, 0x37EA, 0x30, 0x38] ∧
    [0, 2, 3, 4, 5].map (fun ty => (roundTy ty { rne with mode := 1 } 0 (.fin false 1013 (-11))).val) = [0x3EFD4000, 0x3EFD, 0x37EA, 0x2F, 0x37] := by
  decide +kernel

/-- The key stage of 06 R134's example, and the digits of 19 R483 (log 26 tells of the element (0, 0)). -/
theorem test_digits : noiseKey 7 3 = (0xE9E3A7A2, 0x8DCA289F, 0xD6F833CA, 0x5D399590) ∧ noiseDigit 7 3 0 1 = -87 ∧ noiseDigit 7 3 1 0 = -171 ∧
    noiseDigit 7 3 1 1 = -66 := by decide +kernel

/-- 19 R483: 0.125 under the digit -171 with e = 12 is 341 * 2^-12 in the + pass, and 85 * 2^-10 as a BF16 operand. -/
theorem test_perturb : perturb (.fin false 1 (-3)) (-171) 12 false = decodeFp 0 0x3DAA8000 ∧ (roundTy 2 rne 0 (perturb (.fin false 1 (-3)) (-171) 12 false)).val = 0x3DAA ∧
    (roundTy 2 rne 0 (perturb (.fin false 1 (-3)) (-171) 12 true)).val = 0x3E2B := by decide +kernel

/-- By hand from 14 R363 and R364: signed and unsigned compares of -1 and 1; PLOG's truth table indexed by 2 a + b. -/
theorem test_predicates : pReg (ctxOf (after (.pcmp 1 8 9 2) (two (-1) 1)) 1 0) 1 = true ∧ pReg (ctxOf (after (.pcmp 1 8 9 4) (two (-1) 1)) 1 0) 1 = false ∧
    pReg (ctxOf (after (.plog 3 0 1 4) regState) 1 0) 3 = false ∧ pReg (ctxOf (after (.plog 3 0 1 8) regState) 1 0) 3 = true ∧
    pReg (ctxOf (after (.pcmp 0 8 9 1) (two 1 1)) 1 0) 0 = true := by decide +kernel

/-- 14 R355 to R357: BR to its own address takes 4 issue cycles and stays at 0; CALL leaves the next address in lk. -/
theorem test_branches : (ctxOf (after (.br 0) calmState) 1 0).pc = 0 ∧ (coreOf (after (.br 0) calmState) 1).ic = 4 ∧ sAfter (.call 0) calmState 55 = 8 ∧
    (ctxOf (after (.brp 0 true 0) calmState) 1 0).pc = 8 := by decide +kernel

/-- 10 R270, R272: SYSC in user mode saves its address, cause and immediate, and goes to TVEC. -/
theorem test_sysc : let t := ctxOf (after (.sysc 17) (modCtx calmState 1 0 fun t => { t with tvec := 0x3F800 })) 1 0
    t.epc = 0 ∧ fld t.ecause 7 0 = 0x13 ∧ t.einfo = 17 ∧ t.priv = true ∧ t.pc = 0x3F800 := by decide +kernel

/-- 15 R390, 00 R4: ST.h writes two bytes, low byte first, and a load sign-extends. -/
theorem test_store_load : (let s := after (.st 8 1 1 1) (modCtx mapState 1 0 fun t => setSReg t 8 0xABCDEF12)
    physRead s 0 0x10000 6 = [0, 0, 0x12, 0xEF, 0, 0]) ∧
    sAfter (.lds 4 1 1 0) (modDie mapState 0 fun d => { d with mem := memWrite d.mem 0x10000 [0, 0x80] }) 4 = 0xFFFFFFFFFFFF8000 := by decide +kernel

/-- 08 R207, R208: STF fills an empty word, LDC empties a full one. -/
theorem test_full_empty : fullBit (dieOf (after (.stf 1 8 0 0) (modCtx mapState 1 0 fun t => setSReg t 8 7)) 0) 0x10000 = true ∧
    (let s := after (.ldc 4 1 0 0) (modDie fullState 0 fun d => { d with mem := memWrite d.mem 0x10000 [9] })
     fullBit (dieOf s 0) 0x10000 = false ∧ sReg (ctxOf s 1 0) 4 = 9) := by decide +kernel

/-- 15 R396: CADD gives the value before its addition. -/
theorem test_cadd : ctrVal (after (.cadd 4 1 2 0 0) (modCtx ringState 1 0 fun t => setSReg t 2 5)) 0 8 = 5 ∧
    sAfter (.cadd 4 1 2 0 0) (modDie (modCtx ringState 1 0 fun t => setSReg t 2 5) 0 fun d => { d with ctr := [(8, 3)] }) 4 = 3 := by decide +kernel

/-- 15 R390: an address that is no multiple of the size traps with ALIGN. -/
theorem test_align : fld (ctxOf (after (.ld 4 6 3 0) mapState) 1 0).ecause 7 0 = 8 ∧ (ctxOf (after (.ld 4 6 3 0) mapState) 1 0).einfo = 0x10001 := by
  decide +kernel

/-- 11 R285, R286: code 2 rounds down, so 1 - 1 is -0 under it and +0 under code 3. -/
theorem test_fsub_down : sAfter (.fsub 4 8 9 false) (modCtx (two 0x3F800000 0x3F800000) 1 0 fun t => { t with rmode := 2 }) 4 = 0x80000000 ∧
    sAfter (.fsub 4 8 9 false) (modCtx (two 0x3F800000 0x3F800000) 1 0 fun t => { t with rmode := 3 }) 4 = 0 := by decide +kernel

/-- 15 R405: an FP32 add to the core's own store rounds to even and raises no flag: 2^-24 + 1 is 1. -/
theorem test_accad_no_flag :
    let s := after (.accad 3 8 0) (modCore (modCtx (two 0x3F800000 0) 1 0 fun t => setAReg t 3 0xFD00000010200000) 1 fun k => setAccPage k 0 0x33800000)
    accBytes (coreOf s 1) 0 4 = 0x3F800000 ∧ (ctxOf s 1 0).stat = 0 ∧ pReg (ctxOf s 1 0) 7 = true := by decide +kernel

/-- FIPS 202 (log 24): the first bytes of SHAKE256 of the empty message. -/
theorem test_shake256 : shake256 [] 4 = [0x46, 0xB9, 0xDD, 0x2B] := by decide +kernel

/-- The usual check of CRC-32C: of the digits 1 to 9 in ASCII. -/
theorem test_crc32c : crc32c [0x31, 0x32, 0x33, 0x34, 0x35, 0x36, 0x37, 0x38, 0x39] = 0xE3069283 := by decide +kernel


end Sys2Proof.Tests
end

section
/-! Division (11 R295): what an instruction whose effect is a division gives, and the statement about the four of them. -/

namespace Sys2Proof.Machine

/-- Beside a division's result DZ lands for a divisor 0, and nothing else. -/
theorem flagLand_divFlag (y : Word) : flagLand (divFlag y) = if y = 0 then [.flags (BitVec.ofNat 64 flagDZ)] else [] := by
  by_cases h : y = 0
  · rw [divFlag, if_pos h, if_pos h]; rfl
  · rw [divFlag, if_neg h, if_neg h]; rfl

/-- The model divides the numbers of two words; for a divisor other than 0 that is the words' own division. -/
theorem divU_eq_udiv (x y : Word) : divU x y = if y = 0 then 0 else x / y := by
  rw [divU, BitVec.udiv_def]

/-- The same of the remainder. -/
theorem remU_eq_umod (x y : Word) : remU x y = if y = 0 then x else x % y := by
  rw [remU, BitVec.umod_def]

/-- An instruction whose effect is the division `f` writes `f` of its operands after 18 issue cycles, with DZ for a divisor 0. -/
theorem Results.of_aluDiv {i : Instr} {f : Word → Word → Word} {d a b : SCode} (s : State) (x : Nat) (hx : Issues i)
    (he : slotEffect i = aluDiv f d a b) :
    Results s x i 18 (dstLand d (f (operand s x a) (operand s x b)) ++
      if operand s x b = 0 then [.flags (BitVec.ofNat 64 flagDZ)] else []) := by
  apply Results.of hx
  rw [he, ← flagLand_divFlag]
  simp only [aluDiv, result, soloEnv_src]

/-- Settles O2: each of the four is `Results.of_aluDiv` at its own operation, and the model's unsigned operations are those of the words. -/
theorem divisionResultsAndFlag : Obligations.DivisionResultsAndFlag := by
  intro s x d a b A B dz
  refine ⟨?div, ?divu, ?rem, ?remu⟩
  case div => exact Results.of_aluDiv (f := divS) s x (fun _ => rfl) rfl
  case divu =>
    have h := Results.of_aluDiv (i := .divu d a b) (f := divU) s x (fun _ => rfl) rfl
    rwa [divU_eq_udiv] at h
  case rem => exact Results.of_aluDiv (f := remS) s x (fun _ => rfl) rfl
  case remu =>
    have h := Results.of_aluDiv (i := .remu d a b) (f := remU) s x (fun _ => rfl) rfl
    rwa [remU_eq_umod] at h

end Sys2Proof.Machine
end

section
/-! Predicates, address registers and control registers (14 R363, R364, R380 to R382): what each effect gives, and the statement about them. -/

namespace Sys2Proof.Machine

/-- The compares' table (14 R380): the condition each of the eight codes stands for. -/
theorem scond_iff (c : BitVec 3) (u v : Word) : scond c u v = true ↔
    c = 0 ∧ u = v ∨ c = 1 ∧ u ≠ v ∨ c = 2 ∧ u.toInt < v.toInt ∨ c = 3 ∧ v.toInt ≤ u.toInt ∨ c = 4 ∧ u.toNat < v.toNat ∨
    c = 5 ∧ v.toNat ≤ u.toNat ∨ c = 6 ∧ u &&& v ≠ 0 ∨ c = 7 ∧ u &&& v = 0 := by
  have codes : c = 0 ∨ c = 1 ∨ c = 2 ∨ c = 3 ∨ c = 4 ∨ c = 5 ∨ c = 6 ∨ c = 7 := by bv_omega
  rcases codes with rfl | rfl | rfl | rfl | rfl | rfl | rfl | rfl
  · simp [scond]
  · simp [scond]
  · simp [scond, BitVec.slt_iff_toInt_lt]
  · simp [scond, BitVec.slt_eq_decide]
  · simp [scond, BitVec.ult_iff_toNat_lt]
  · simp [scond, BitVec.ult_eq_decide]
  · simp [scond]
  · simp [scond]

/-- An instruction that reads no register reads no queue's head. -/
theorem heads_soloAt {i : Instr} (s : State) (x : Nat) (h : regsRead i = []) : (soloAt s x i).heads = [] := by
  have hp : (soloAt s x i).pops = [] := by simp [Issue.pops, soloAt, soloIssue, soloHeader]
  have hr : (soloAt s x i).instrs.flatMap regsRead = [] := by
    cases hw : i.wf
    case false => simp [Issue.instrs, soloAt, soloIssue, SlotWork.instr?, hw]
    case true => simp [Issue.instrs, soloAt, soloIssue, SlotWork.instr?, hw, h]
  simp [Issue.heads, hp, hr]

/-- So it acquires nothing. -/
theorem acquired_of_reads_nil {i : Instr} (s : State) (x : Nat) (h : regsRead i = []) : acquired s x i = s := by
  apply acquireHeads_none
  · rw [heads_soloAt s x h]; rfl
  · rw [heads_soloAt s x h]; rfl

/-- MFC reads no register, so it finds the control registers as they stand. -/
theorem readCr_slotState_mfc (s : State) (x n : Nat) (d : SCode) (cr : BitVec 12) :
    readCr (slotState s x (.mfc d cr)) s.turn x n = readCr s s.turn x n := by
  rw [slotState, acquired_of_reads_nil s x rfl]; rfl

/-- An instruction whose effect writes a predicate register. -/
theorem Results.of_resultP {i : Instr} {s : State} {x : Nat} {pd : PReg} {b c : Bool} (hx : Issues i)
    (he : slotEffect i (soloEnv s x i) (slotState s x i) = resultP (slotState s x i) 1 pd b) (hb : b = c) :
    Results s x i 1 [.pred pd.toNat c] := hb ▸ Results.of hx he

/-- An instruction whose effect writes an address register. -/
theorem Results.of_resultA {i : Instr} {s : State} {x : Nat} {ad : AReg} {v w : Word} (hx : Issues i)
    (he : slotEffect i (soloEnv s x i) (slotState s x i) = resultA (slotState s x i) ad v) (hv : v = w) :
    Results s x i 1 [.addr ad.toNat w] := hv ▸ Results.of hx he

/-- An instruction whose effect writes a scalar register and raises no flag. -/
theorem Writes.of_result {i : Instr} {s : State} {x lat : Nat} {d : SCode} {v w : Word} (hx : Issues i)
    (he : slotEffect i (soloEnv s x i) (slotState s x i) = result (slotState s x i) lat d v 0) (hv : v = w) :
    Writes s x i lat d w := hv ▸ Writes.of hx he

/-- Settles O4: each instruction's effect is one result of the operands it reads; the compares' results are those of `scond_iff`. -/
theorem predicateAddressAndControlResults : Obligations.PredicateAddressAndControlResults := by
  intro s x d a b pd pa pb ad aa cond depth imm tt A B holds
  refine ⟨⟨scond cond A B, ?pcmp, scond_iff cond A B⟩, ⟨scond cond A (imm.signExtend 64), ?pcmpi, scond_iff cond A _⟩, ?plog,
    ?amov, ?aadd, ?aaddi, ?aget, ?lidx, ?mtc, ?mfc⟩
  case pcmp => exact .of_resultP (fun _ => rfl) rfl (by rw [soloEnv_src, soloEnv_src])
  case pcmpi => exact .of_resultP (fun _ => rfl) rfl (by rw [soloEnv_src]; rfl)
  case plog => exact .of_resultP (fun _ => rfl) rfl (by rw [soloEnv_preg, soloEnv_preg]; rfl)
  case amov => exact .of_resultA (fun _ => rfl) rfl (soloEnv_src ..)
  case aadd => exact .of_resultA (fun _ => rfl) rfl (by rw [soloEnv_areg, soloEnv_src])
  case aaddi => exact .of_resultA (fun _ => rfl) rfl (by rw [soloEnv_areg]; rfl)
  case aget => exact .of_result (fun _ => rfl) rfl (soloEnv_areg ..)
  case lidx => exact .of_result (fun _ => rfl) rfl (by rw [soloEnv_t])
  case mtc =>
    apply Results.of (fun _ => rfl)
    change effMtc a imm _ _ = _
    rw [effMtc, soloEnv_src]; rfl
  case mfc => exact .of_result (fun _ => rfl) rfl (readCr_slotState_mfc ..)

end Sys2Proof.Machine
end

section
/-! Transfers of control and loops (14 R355 to R362): what an effect that is a transfer gives, and the statements about the instructions that
transfer and about the loop stack. -/

namespace Sys2Proof.Machine

/-! ### Transfers (14 R355 to R357) -/

section
variable {s : State} {x : Nat} {i : Instr} {y z : Word} {ls : List Land}

/-- An instruction whose effect is a transfer to a target that is known otherwise. -/
theorem Transfers.of_transfer (hx : Issues i)
    (he : slotEffect i (soloEnv s x i) (slotState s x i) = transfer (soloEnv s x i) (slotState s x i) z ls) (hz : z = y) :
    Transfers s x i y ls := hz ▸ Transfers.of hx he

/-- A transfer whose target fails its tests traps with BAD_TARGET. -/
theorem TakesTrap.of_transfer (hx : Issues i)
    (he : slotEffect i (soloEnv s x i) (slotState s x i) = transfer (soloEnv s x i) (slotState s x i) z ls) (hz : z = y)
    (ht : targetOk (coreOf s s.turn) x (ctxOf s s.turn x).priv y = false) : TakesTrap s x i 5 y := by
  subst hz
  apply TakesTrap.of hx
  rw [he]
  unfold transfer
  refine if_neg ?_
  simpa using ht

end

/-- Where its predicate agrees, BRP is a transfer. -/
theorem effBrp_taken {e : Env} {s : State} {p : PReg} {n : Bool} (disp : BitVec 20) (h : (e.preg s p != n) = true) :
    effBrp p n disp e s = transfer e s (dispTarget e disp) [] := if_pos h

/-- Where it does not, BRP has no effect. -/
theorem effBrp_passed {e : Env} {s : State} {p : PReg} {n : Bool} (disp : BitVec 20) (h : (e.preg s p != n) = false) :
    effBrp p n disp e s = nothing s := if_neg (by rw [h]; decide)

/-- Settles O6: each effect is a transfer to its target, and `Transfers.of_transfer` and `TakesTrap.of_transfer` tell what becomes of a transfer. The
register of CALLI, JMPI and RET is read at issue, so before the link lands (14 R357). -/
theorem transfersOfControl : Obligations.TransfersOfControl := by
  intro s x a p n disp t y link bad
  refine ⟨?br, ?brp, ?brpPassed, ?call, ?calli, ?jmpi, ?ret, ?badBr, ?badBrp, ?badCall, ?badCalli, ?badJmpi, ?badRet⟩
  case br => exact .of (fun _ => rfl) rfl
  case brp => exact fun h => .of (fun _ => rfl) (effBrp_taken disp (by rwa [soloEnv_preg]))
  case brpPassed => exact fun h => .of (fun _ => rfl) (effBrp_passed disp (by rwa [soloEnv_preg]))
  case call => exact .of (fun _ => rfl) rfl
  case calli => exact .of_transfer (fun _ => rfl) rfl (soloEnv_src ..)
  case jmpi => exact .of_transfer (fun _ => rfl) rfl (soloEnv_src ..)
  case ret => exact .of_transfer (fun _ => rfl) rfl (by rw [soloEnv_t])
  case badBr => exact .of_transfer (fun _ => rfl) rfl rfl
  case badBrp => exact fun h => .of_transfer (fun _ => rfl) (effBrp_taken disp (by rwa [soloEnv_preg])) rfl
  case badCall => exact .of_transfer (fun _ => rfl) rfl rfl
  case badCalli => exact .of_transfer (fun _ => rfl) rfl (soloEnv_src ..)
  case badJmpi => exact .of_transfer (fun _ => rfl) rfl (soloEnv_src ..)
  case badRet => exact .of_transfer (fun _ => rfl) rfl (by rw [soloEnv_t])

/-! ### The loop stack (14 R358 to R362) -/

/-- The next bundle is as it was: an acquire changes no instruction memory. -/
@[simp] theorem nextAddr_acquired (s : State) (x : Nat) (i : Instr) (pc : Nat) :
    nextAddr (coreOf (acquired s x i) s.turn) pc = nextAddr (coreOf s s.turn) pc := by
  obtain ⟨l, h⟩ := acquired_core s x i s.turn
  rw [h]; rfl

/-- So is every later one. -/
@[simp] theorem walkBundles_acquired (s : State) (x : Nat) (i : Instr) (n pc : Nat) :
    walkBundles (coreOf (acquired s x i) s.turn) n pc = walkBundles (coreOf s s.turn) n pc := by
  induction n generalizing pc with
  | zero => rfl
  | succ n ih => rw [walkBundles, walkBundles, nextAddr_acquired, ih]

/-- The entry that a loop's beginning takes is the lowest inactive one. -/
theorem find_inactive {t : Ctx} {j : Nat} (hj : j < 6) (hoff : loopActive t j = false) (hon : ∀ h < j, loopActive t h = true) :
    ([0, 1, 2, 3, 4, 5].find? fun h => !loopActive t h) = some j := by
  change ((List.range 6).find? fun h => !loopActive t h) = some j
  rw [List.find?_range_eq_some]
  exact ⟨by simp [hoff], List.mem_range.mpr hj, fun h hh => by simp [hon h hh]⟩

/-- A loop with a count begins in the lowest inactive entry. -/
theorem beginLoop_enters {s : State} {e : Env} {count j : Nat} (len : Nat) (hc : count ≠ 0) (hj : j < 6) (hoff : loopActive (e.t s) j = false)
    (hon : ∀ h < j, loopActive (e.t s) h = true) : beginLoop count len e s = .ok s ((loopLands e j count len).map (1, ·)) [] .loop := by
  rw [beginLoop, if_neg hc, find_inactive hj hoff hon]

/-- A loop with the count 0 transfers behind its body. -/
theorem beginLoop_zero (s : State) (e : Env) (len : Nat) :
    beginLoop 0 len e s = transfer e s (BitVec.ofNat 64 (walkBundles (coreOf s e.core) len e.next)) [] := if_pos rfl

section
variable {s : State} {x count : Nat} {i : Instr} {len : BitVec 12}

/-- An instruction that begins a loop with a count fills the lowest inactive entry. -/
theorem Yields.of_beginLoop {j : Nat} (hx : Issues i)
    (he : slotEffect i (soloEnv s x i) (slotState s x i) = beginLoop count len.toNat (soloEnv s x i) (slotState s x i))
    (hc : count ≠ 0) (hj : j < 6) (hoff : loopActive (ctxOf s s.turn x) j = false) (hon : ∀ h < j, loopActive (ctxOf s s.turn x) h = true) :
    Yields s x i (slotState s x i) ((loopLands (soloEnv s x i) j count len.toNat).map (1, ·)) [] .loop := by
  apply Yields.of hx
  rw [he]
  exact beginLoop_enters _ hc hj (by rwa [soloEnv_t]) (by rwa [soloEnv_t])

/-- An instruction that begins a loop with the count 0 transfers behind the body. -/
theorem Transfers.of_beginLoop (hx : Issues i)
    (he : slotEffect i (soloEnv s x i) (slotState s x i) = beginLoop count len.toNat (soloEnv s x i) (slotState s x i)) (hc : count = 0) :
    Transfers s x i (BitVec.ofNat 64 (walkBundles (coreOf s s.turn) len.toNat (nextPc s x))) [] := by
  apply Transfers.of hx
  rw [he, hc, beginLoop_zero, soloEnv_core, soloEnv_next, coreOf_slotState, walkBundles_acquired]

end

/-- The effect of LOOP begins a loop of the low half of its operand. -/
theorem slotEffect_loop (s : State) (x : Nat) (a : SCode) (len : BitVec 12) :
    slotEffect (.loop a len) (soloEnv s x (.loop a len)) (slotState s x (.loop a len)) =
      beginLoop (fld (operand s x a) 31 0) len.toNat (soloEnv s x (.loop a len)) (slotState s x (.loop a len)) := by
  rw [← soloEnv_src s x (.loop a len) a]; rfl

/-- Without an active loop LBRK has no effect. -/
theorem slotEffect_lbrk_none {s : State} {x : Nat} (h : innermost (ctxOf s s.turn x) = none) :
    slotEffect .lbrk (soloEnv s x .lbrk) (slotState s x .lbrk) = nothing (slotState s x .lbrk) := by
  change effLbrk _ _ = _
  simp only [effLbrk, soloEnv_t, h]

/-- LBRK clears V of the innermost loop and transfers behind its last body bundle. -/
theorem slotEffect_lbrk_some {s : State} {x j : Nat} (h : innermost (ctxOf s s.turn x) = some j) :
    slotEffect .lbrk (soloEnv s x .lbrk) (slotState s x .lbrk) =
      transfer (soloEnv s x .lbrk) (slotState s x .lbrk)
        (BitVec.ofNat 64 (nextAddr (coreOf s s.turn) (loopLast (coreOf s s.turn) (ctxOf s s.turn x) j)))
        [.control (0x21 + 2 * j) (setFld (tabGet 0 (ctxOf s s.turn x).lsBody j) 63 63 0)] := by
  change effLbrk _ _ = _
  simp only [effLbrk, soloEnv_t, h, loopLast, soloEnv_core, coreOf_slotState, walkBundles_acquired, nextAddr_acquired]

/-- Settles O7: LOOP and LOOPI are one beginning of a loop at two counts; LBRK goes by the innermost active loop. -/
theorem loopsBeginAndEnd : Obligations.LoopsBeginAndEnd := by
  intro s x j a cnt len k t enter
  refine ⟨⟨?loop, ?loopSkips⟩, ⟨?loopi, ?loopiSkips⟩, ?lbrkNone, ?lbrk⟩
  case loop => exact .of_beginLoop (fun _ => rfl) (slotEffect_loop s x a len)
  case loopSkips => exact .of_beginLoop (fun _ => rfl) (slotEffect_loop s x a len)
  case loopi => exact .of_beginLoop (fun _ => rfl) rfl
  case loopiSkips => exact .of_beginLoop (fun _ => rfl) rfl
  case lbrkNone => exact fun h => .of (fun _ => rfl) (slotEffect_lbrk_none h)
  case lbrk => exact fun h => .of (fun _ => rfl) (slotEffect_lbrk_some h)

end Sys2Proof.Machine
end


section
/-! Vector moves (16 R423, R424, R428 to R431), moves to and from the accumulator store (16 R435, R436) and masks (16 R438, R439): what an effect
that is checked, or that lands elements, gives, and the statements about these instructions. -/

namespace Sys2Proof.Machine

/-! ### Elements that an effect reads -/

section
variable (s : State) (x : Nat) (i : Instr)

/-- An element of a tile is as it was: an acquire changes no tile. -/
@[simp] theorem vElem_soloEnv (v : VReg) (w j : Nat) :
    vElem (soloEnv s x i) (slotState s x i) v w j = elemOf (tileOf s v) w j := by
  simp [vElem, tileOf]

/-- So is an element of an operand vb. -/
@[simp] theorem vbVal_soloEnv (vb : BitVec 6) (vf : Bool) (w j : Nat) :
    vbVal (soloEnv s x i) (slotState s x i) vb vf w j = elemB s x vb vf w j := by
  simp [vbVal, elemB, tileOf]

/-- The bytes of the accumulator store are as they were. -/
@[simp] theorem accSpan_acquired (off w : Nat) :
    accSpan (coreOf (acquired s x i) s.turn) off w = accSpan (coreOf s s.turn) off w := by
  obtain ⟨l, h⟩ := acquired_core s x i s.turn
  rw [h]; rfl

/-- So are its long accumulators. -/
@[simp] theorem slotLa_acquired (n : Nat) : slotLa (coreOf (acquired s x i) s.turn) n = slotLa (coreOf s s.turn) n := by
  obtain ⟨l, h⟩ := acquired_core s x i s.turn
  rw [h]; rfl

end

/-! ### Effects behind the checks (16 R409, R410, R435) -/

/-- Results none of which raises a flag raise none together. -/
theorem foldl_flags_zero (ws : List (Nat × Nat)) :
    (ws.map fun p => (p.1, (⟨p.2, 0⟩ : Res1 Nat))).foldl (fun f p => f ||| p.2.flags) 0 = 0 := by
  induction ws with
  | nil => rfl
  | cons p ws ih => simpa using ih

/-- Elements that raise no flag and are not rounded land in their tile alone. -/
theorem vLandElems_flagless (e : Env) (s : State) (i : Instr) (vd : VReg) (ws : List (Nat × Nat)) :
    vLandElems e s i vd false (ws.map fun p => (p.1, ⟨p.2, 0⟩)) =
      done s (vLat (e.t s) i) (tileLand vd (tyWidth (fmtVT (e.t s))) ws) := by
  simp only [vLandElems, foldl_flags_zero, List.map_map]
  simp [srsStep, flagLand, Function.comp_def]

section
variable {s : State} {x : Nat} {i : Instr}

/-- A shape and a type that the entry accepts pass the checks. -/
theorem vChecked_soloEnv (hok : vShapeBad (ctxOf s s.turn x) i = false ∧ vFmtBad (ctxOf s s.turn x) i = false) (r : Res) :
    vChecked (soloEnv s x i) (slotState s x i) i r = r := by
  simp [vChecked, hok.1, hok.2]

/-- So does, for ACCRD and ACCWR, a range that lies aligned in the store. -/
theorem accChecked_soloEnv {off w : Nat}
    (hok : vShapeBad (ctxOf s s.turn x) i = false ∧ vFmtBad (ctxOf s s.turn x) i = false ∧ accAligned (accLaMode i) off = true ∧
      accPast (accLaMode i) off w (shpN (ctxOf s s.turn x)) = false) (r : Res) :
    accChecked (soloEnv s x i) (slotState s x i) i off w r = r := by
  obtain ⟨hshape, hfmt, haligned, hpast⟩ := hok
  simp [accChecked, hpast, haligned, vChecked_soloEnv ⟨hshape, hfmt⟩]

/-- An instruction that passes its checks and lands elements without a flag writes them to its tile. -/
theorem Results.of_vLandElems {vd : VReg} {ws : List (Nat × Nat)} (hx : Issues i)
    (he : slotEffect i (soloEnv s x i) (slotState s x i) =
      vLandElems (soloEnv s x i) (slotState s x i) i vd false (ws.map fun p => (p.1, ⟨p.2, 0⟩))) :
    Results s x i (vLat (ctxOf s s.turn x) i) (tileLand vd (tyWidth (fmtVT (ctxOf s s.turn x))) ws) := by
  apply Results.of hx
  rw [he, vLandElems_flagless, soloEnv_t]

end

/-- An instruction whose effect is that of `vEach`, in whatever state it issues, and that rounds nothing. -/
theorem VecEach.of_unrounded {s : State} {x : Nat} {i : Instr} {vd : VReg} {mk : MReg} {f : Env → State → Nat → Nat → Res1 Nat}
    {g : Nat → Res1 Nat} (eff : Eff) (hx : Issues i) (he : slotEffect i = eff) (hv : ∀ e s, eff e s = vEach i vd mk (fun _ => false) f e s)
    (hg : ∀ j, f (soloEnv s x i) (slotState s x i) (fmtVT (ctxOf s s.turn x)) j = g j) : VecEach s x i vd mk false g :=
  .of hx ((congrFun₂ he _ _).trans (hv _ _)) rfl hg

/-! ### Permutes, moves and coordinates (16 R423, R424, R428 to R431) -/

/-- Block floating point takes the branch of VMOV that copies storage lines. -/
theorem effVmov_bfp {e : Env} {s : State} {vd va : VReg} {mk : MReg} (h : isBfpTy (fmtVT (e.t s)) = true) :
    effVmov vd va mk e s = vChecked e s (.vmov vd va mk) (done s (vLat (e.t s) (.vmov vd va mk))
      [.tile vd.toNat (vReg (coreOf s e.core) va.toNat) (BitVec.ofNat 262144 (2 ^ (8 * tileBytes (e.t s) (fmtVT (e.t s), fmtAM (e.t s))) - 1))]) :=
  if_pos h

/-- Every other type takes the branch that moves element by element. -/
theorem effVmov_elements {e : Env} {s : State} {vd va : VReg} {mk : MReg} (h : isBfpTy (fmtVT (e.t s)) = false) :
    effVmov vd va mk e s =
      vEach (.vmov vd va mk) vd mk (fun _ => false) (fun e s ty j => ⟨vElem e s va (tyWidth ty) j, 0⟩) e s :=
  if_neg (by rw [h]; decide)

/-- The coordinate of an element by the two-bit kind of VIOTA (16 R431). -/
theorem iotaOf_toNat (t : Ctx) (kind : BitVec 2) (j : Nat) :
    iotaOf t kind.toNat j = if kind = 0 then j else if kind = 1 then j / shpCols t else j % shpCols t := by
  have hzero : kind.toNat = 0 ↔ kind = 0 := by bv_omega
  have hone : kind.toNat = 1 ↔ kind = 1 := by bv_omega
  simp only [iotaOf, hzero, hone]

/-- An instruction whose effect is that of `vIota` converts each element's coordinate, with a base, to VT. -/
theorem VecEach.of_vIota {s : State} {x : Nat} {i : Instr} {vd : VReg} {kind : BitVec 2} {mk : MReg} {base : Int} (hx : Issues i)
    (he : slotEffect i (soloEnv s x i) (slotState s x i) = vIota i vd kind base mk (soloEnv s x i) (slotState s x i)) :
    VecEach s x i vd mk (isFloatTy (fmtVT (ctxOf s s.turn x))) fun j =>
      roundTy (fmtVT (ctxOf s s.turn x)) (rndOf (ctxOf s s.turn x)) j (Val.ofInt (base + (if kind = 0 then j
        else if kind = 1 then j / shpCols (ctxOf s s.turn x) else j % shpCols (ctxOf s s.turn x) : Nat))) :=
  .of hx he rfl fun j => by simp only [soloEnv_t, iotaOf_toNat]

/-- Settles O21: VPERM, VTRN, VBCAST and VMOV move one element to each enabled one (`VecEach.of_unrounded`), VIOTA converts its coordinate
(`VecEach.of_vIota`); VCOMPACT and VINS land elements of their own choice without a flag (`Results.of_vLandElems`); VEXT writes a scalar register. -/
theorem vectorMoves : Obligations.VectorMoves := by
  intro s x vd va vb d a b mk kind t ty w A ok n i k packed iota
  refine ⟨?vperm, ?vtrn, ?vcompact, ?vbcast, ?vbcastScalar, ?vmov, ?vmovBfp, ?vins, ?vinsPast, ?vext, ?viota, ?viotaBase⟩
  case vperm => exact .of_unrounded (effVperm vd va vb mk) (fun _ => rfl) rfl (fun _ _ => rfl) fun j => by simp only [vElem_soloEnv, soloEnv_t]; rfl
  case vtrn => exact .of_unrounded (effVtrn vd va mk) (fun _ => rfl) rfl (fun _ _ => rfl) fun j => by simp only [vElem_soloEnv, soloEnv_t]; rfl
  case vcompact =>
    intro hok
    apply Results.of_vLandElems (fun _ => rfl)
    change effVcompact vd va mk _ _ = _
    simp only [effVcompact, vChecked_soloEnv hok, soloEnv_t, List.map_map]
    have hA : vElem (soloEnv s x (.vcompact vd va mk)) (slotState s x (.vcompact vd va mk)) va w = A := funext fun j => vElem_soloEnv ..
    rw [hA]; rfl
  case vbcast => exact .of_unrounded (effVbcast vd va mk) (fun _ => rfl) rfl (fun _ _ => rfl) fun j => by simp only [vElem_soloEnv, soloEnv_t]; rfl
  case vbcastScalar => exact .of_unrounded (effVbcastScalar vd b mk) (fun _ => rfl) rfl (fun _ _ => rfl) fun j => by simp only [vbVal_soloEnv]; rfl
  case vmov => exact fun h => .of (fun _ => rfl) (effVmov_elements (by rwa [soloEnv_t])) rfl fun j => by simp only [vElem_soloEnv]; rfl
  case vmovBfp =>
    intro h hok
    apply Results.of (fun _ => rfl)
    change effVmov vd va mk _ _ = _
    rw [effVmov_bfp (by rwa [soloEnv_t]), vChecked_soloEnv hok]
    simp only [soloEnv_t, soloEnv_core, coreOf_slotState, vReg_acquired]; rfl
  case vins =>
    intro hok hi
    refine Results.of_vLandElems (ws := [(i, k % 2 ^ w)]) (fun _ => rfl) ?_
    change effVins vd a b _ _ = _
    simp only [effVins, vChecked_soloEnv hok, soloEnv_t, soloEnv_src]
    exact if_pos hi
  case vinsPast =>
    intro hok hi
    apply Results.of (fun _ => rfl)
    change effVins vd a b _ _ = _
    simp only [effVins, vChecked_soloEnv hok, soloEnv_t, soloEnv_src]
    exact if_neg (Nat.not_lt.mpr hi)
  case vext =>
    intro hok
    apply Writes.of (fun _ => rfl)
    change effVext d va b _ _ = _
    simp only [effVext, vChecked_soloEnv hok, soloEnv_t, soloEnv_src, vElem_soloEnv]; rfl
  case viota => exact .of_vIota (fun _ => rfl) rfl
  case viotaBase => exact .of_vIota (fun _ => rfl) (by rw [← soloEnv_src s x (.viotaBase vd kind b mk) b]; rfl)

/-! ### Masks (16 R438, R439) -/

/-- The mask MLOG makes of two masks by its table: for each pair of bits that the table takes, the places where the pair stands. -/
def mlogMask (tt : BitVec 4) (a b : Mask) : Mask :=
  let pick := fun (n : Nat) (m : Mask) => if bitOf tt n then m else 0#8192
  pick 0 (~~~a &&& ~~~b) ||| pick 1 (~~~a &&& b) ||| pick 2 (a &&& ~~~b) ||| pick 3 (a &&& b)

/-- The effect of MLOG lands that mask. -/
theorem effMlog_eq (md ma mb : MReg) (tt : BitVec 4) (e : Env) (s : State) :
    effMlog md ma mb tt e s = done s (vLat (e.t s) (.mlog md ma mb tt))
      [.mask md.toNat (mlogMask tt (mReg (e.t s) ma.toNat) (mReg (e.t s) mb.toNat))] := rfl

/-- A bit of a mask that is taken or left. -/
theorem getLsbD_ite_zero (c : Bool) (m : Mask) (j : Nat) : (if c then m else 0#8192).getLsbD j = (c && m.getLsbD j) := by
  cases c
  · exact BitVec.getLsbD_zero
  · rfl

/-- Bit j of MLOG's mask is the table's bit for bits j of the two masks: of the four pairs only the one that stands there counts. -/
theorem getLsbD_mlogMask (tt : BitVec 4) (a b : Mask) {j : Nat} (hj : j < 8192) :
    (mlogMask tt a b).getLsbD j = tt.getLsbD (2 * (a.getLsbD j).toNat + (b.getLsbD j).toNat) := by
  simp only [mlogMask, BitVec.getLsbD_or, getLsbD_ite_zero, BitVec.getLsbD_and, BitVec.getLsbD_not, hj, decide_true, Bool.true_and]
  cases a.getLsbD j <;> cases b.getLsbD j <;> simp [bitOf]

/-! ### Moves to and from the accumulator store (16 R435, R436) -/

/-- Settles O23: ACCRD and ACCWR pass their checks (`accChecked_soloEnv`) and find the store as it stood; a bit of MLOG's mask is by
`getLsbD_mlogMask` the table's; MCNT writes a scalar register. -/
theorem accumulatorMovesAndMasks : Obligations.AccumulatorMovesAndMasks := by
  intro s x v d a la mode kind mk md ma mb tt t k ty off w ok rd wr one rs set
  refine ⟨?accrd, ?accwr, ⟨mlogMask tt (mReg t ma.toNat) (mReg t mb.toNat), ?mlog, fun j hj => getLsbD_mlogMask tt _ _ hj⟩, ?mcnt⟩
  case accrd =>
    intro hok
    apply Yields.of (fun _ => rfl)
    change effAccrd v a la mk _ _ = _
    simp only [effAccrd, soloEnv_src, soloEnv_t, soloEnv_core, coreOf_slotState, accSpan_acquired, slotLa_acquired]
    rw [accChecked_soloEnv hok, vLandElems, soloEnv_t]; rfl
  case accwr =>
    intro hok
    apply Results.of (fun _ => rfl)
    change effAccwr v a mode mk _ _ = _
    simp only [effAccwr, soloEnv_src, soloEnv_t, vElem_soloEnv]
    rw [accChecked_soloEnv hok]
    by_cases hmode : mode = 1
    · subst hmode; rfl
    · simp only [if_neg hmode]; rfl
  case mlog =>
    apply Results.of (fun _ => rfl)
    change effMlog md ma mb tt _ _ = _
    rw [effMlog_eq, soloEnv_t]
  case mcnt =>
    apply Writes.of (fun _ => rfl)
    change effMcnt d ma kind _ _ = _
    simp only [effMcnt, soloEnv_t]; rfl

end Sys2Proof.Machine
end

section
/-! Decoding and encoding (13 R336 to R343): the round trip of every slot instruction, the class of what a decoder gives, and the words and
headers of the spec. -/

namespace Sys2Proof

/-! ### What a decoder gives belongs to its class -/

/-- Where a decoder accepts a word, it gives an instruction of the class. -/
def OfClass (c : SlotClass) (r : Except Reject Instr) : Prop := ∀ i, r = .ok i → i.slotClass = some c

theorem OfClass.unassigned {c : SlotClass} : OfClass c (.error .unassigned) := fun _ h => nomatch h

theorem OfClass.ifFields {c : SlotClass} {b : Bool} {i : Instr} (h : i.slotClass = some c) : OfClass c (ifFields b i) := by
  intro j hj
  cases b
  · cases hj
  · cases hj; exact h

theorem OfClass.ite {c : SlotClass} {p : Prop} [Decidable p] {r q : Except Reject Instr} (hr : OfClass c r) (hq : OfClass c q) :
    OfClass c (if p then r else q) := by
  split
  · exact hr
  · exact hq

theorem decodeControl_class (op w : Nat) : OfClass .control (decodeControl op w) := by
  unfold decodeControl
  split
  case h_25 => exact .unassigned
  all_goals exact .ifFields rfl

theorem decodeScalar_class (op w : Nat) : OfClass .scalar (decodeScalar op w) := by
  unfold decodeScalar
  split
  case h_51 => exact .unassigned
  all_goals exact .ifFields rfl

theorem decodeMemory_class (op w : Nat) : OfClass .memory (decodeMemory op w) := by
  unfold decodeMemory
  split
  case h_29 => exact .unassigned
  all_goals exact .ifFields rfl

theorem decodeVector_class (op w : Nat) : OfClass .vector (decodeVector op w) := by
  unfold decodeVector
  split
  case h_30 | h_34 => exact .ite (.ifFields rfl) (.ifFields rfl)
  case h_42 => exact .unassigned
  all_goals exact .ifFields rfl

theorem decodeEngine_class (op w : Nat) : OfClass .engine (decodeEngine op w) := by
  unfold decodeEngine
  split
  case h_2 | h_3 | h_5 | h_6 => exact .ite (.ifFields rfl) (.ifFields rfl)
  case h_22 => exact .unassigned
  all_goals exact .ifFields rfl

theorem decodeClassOp_class (c : SlotClass) (op w : Nat) : OfClass c (decodeClassOp c op w) := by
  cases c with
  | control => exact decodeControl_class op w
  | scalar => exact decodeScalar_class op w
  | memory => exact decodeMemory_class op w
  | vector => exact decodeVector_class op w
  | engine => exact decodeEngine_class op w

/-- What the decoder of a class accepts passes the tests of its fields and belongs to the class. -/
theorem decodeClass_ok {c : SlotClass} {w : Nat} {i : Instr} (h : decodeClass c w = .ok i) : i.wf = true ∧ i.slotClass = some c := by
  unfold decodeClass at h
  split at h
  next j hj =>
    split at h
    next hwf =>
      cases h
      exact ⟨hwf, decodeClassOp_class c _ w _ hj⟩
    next => cases h
  next => cases h

end Sys2Proof

namespace Sys2Proof.Laws.RoundTrip

/-! ### The round trip, constructor by constructor -/

/-- Every slot instruction has its word by its constructor's own lemma; every other constructor is a step of the module, which has none. -/
theorem statement (i : Instr) : Statement i := by
  cases i with
  | br => exact br _
  | brp => exact brp _ _ _
  | call => exact call _
  | calli => exact calli _
  | jmpi => exact jmpi _
  | loop => exact loop _ _
  | loopi => exact loopi _ _
  | mtc => exact mtc _ _
  | mfc => exact mfc _ _
  | phase => exact phase _
  | spawn => exact spawn _ _ _ _
  | join => exact join _ _
  | tkill => exact tkill _ _ _
  | trap => exact trap _
  | sysc => exact sysc _
  | brk => exact brk _
  | eret => exact eret _
  | ctxsw => exact ctxsw _ _
  | halt => exact halt _
  | add => exact add _ _ _
  | sub => exact sub _ _ _
  | mul => exact mul _ _ _
  | mulh => exact mulh _ _ _
  | mulhu => exact mulhu _ _ _
  | div => exact div _ _ _
  | divu => exact divu _ _ _
  | rem => exact rem _ _ _
  | remu => exact remu _ _ _
  | and => exact and _ _ _
  | or => exact or _ _ _
  | xor => exact xor _ _ _
  | andn => exact andn _ _ _
  | shl => exact shl _ _ _
  | shr => exact shr _ _ _
  | sar => exact sar _ _ _
  | rol => exact rol _ _ _
  | min => exact min _ _ _
  | max => exact max _ _ _
  | minu => exact minu _ _ _
  | maxu => exact maxu _ _ _
  | clz => exact clz _ _
  | popc => exact popc _ _
  | sel => exact sel _ _ _ _
  | addi => exact addi _ _ _
  | andi => exact andi _ _ _
  | ori => exact ori _ _ _
  | xori => exact xori _ _ _
  | shli => exact shli _ _ _
  | shri => exact shri _ _ _
  | sari => exact sari _ _ _
  | roli => exact roli _ _ _
  | movi => exact movi _ _
  | insh => exact insh _ _ _
  | pcmp => exact pcmp _ _ _ _
  | pcmpi => exact pcmpi _ _ _ _
  | plog => exact plog _ _ _ _
  | amov => exact amov _ _
  | aadd => exact aadd _ _ _
  | aaddi => exact aaddi _ _ _
  | aget => exact aget _ _
  | lidx => exact lidx _ _
  | fadd => exact fadd _ _ _ _
  | fsub => exact fsub _ _ _ _
  | fmul => exact fmul _ _ _ _
  | ffma => exact ffma _ _ _ _
  | fmin => exact fmin _ _ _ _
  | fmax => exact fmax _ _ _ _
  | fcvt => exact fcvt _ _ _ _
  | fcmp => exact fcmp _ _ _ _ _
  | ld => exact ld _ _ _ _
  | lds => exact lds _ _ _ _
  | st => exact st _ _ _ _
  | ldlu => exact ldlu _ _ _ _
  | ldw => exact ldw _ _ _ _
  | ldc => exact ldc _ _ _ _
  | stf => exact stf _ _ _ _
  | ldct => exact ldct _ _ _ _
  | stft => exact stft _ _ _ _
  | feq => exact feq _ _ _ _
  | femk => exact femk _ _ _ _
  | vld => exact vld _ _ _ _ _
  | vst => exact vst _ _ _ _ _
  | cadd => exact cadd _ _ _ _ _
  | cwait => exact cwait _ _ _ _ _
  | cread => exact cread _ _ _ _
  | rbacq => exact rbacq _ _ _
  | rbrel => exact rbrel _ _
  | fence => exact fence _ _
  | publ => exact publ _ _
  | bind => exact bind _ _ _ _
  | unbind => exact unbind _ _
  | pgreq => exact pgreq _ _
  | cflush => exact cflush _ _
  | cdisc => exact cdisc _ _
  | cpref => exact cpref _ _
  | accad => exact accad _ _ _
  | tlbi => exact tlbi _ _
  | vadd => exact vadd _ _ _ _ _
  | vsub => exact vsub _ _ _ _ _
  | vmul => exact vmul _ _ _ _ _
  | vfma => exact vfma _ _ _ _ _
  | vfms => exact vfms _ _ _ _ _
  | vfnma => exact vfnma _ _ _ _ _
  | vmin => exact vmin _ _ _ _ _
  | vmax => exact vmax _ _ _ _ _
  | vabs => exact vabs _ _ _
  | vneg => exact vneg _ _ _
  | vclamp => exact vclamp _ _ _ _ _
  | vsf => exact vsf _ _ _ _
  | vcmp => exact vcmp _ _ _ _ _
  | vsel => exact vsel _ _ _ _ _
  | vand => exact vand _ _ _ _ _
  | vor => exact vor _ _ _ _ _
  | vxor => exact vxor _ _ _ _ _
  | vnot => exact vnot _ _ _
  | vshl => exact vshl _ _ _ _ _
  | vshr => exact vshr _ _ _ _ _
  | vsar => exact vsar _ _ _ _ _
  | vcvt => exact vcvt _ _ _ _
  | vpadd => exact vpadd _ _ _ _ _
  | vperm => exact vperm _ _ _ _
  | vtrn => exact vtrn _ _ _
  | vred => exact vred _ _ _ _ _
  | vscan => exact vscan _ _ _ _ _
  | vsegred => exact vsegred _ _ _
  | vcompact => exact vcompact _ _ _
  | vbcast => exact vbcast _ _ _
  | vbcastScalar => exact vbcastScalar _ _ _
  | vmov => exact vmov _ _ _
  | vins => exact vins _ _ _
  | vext => exact vext _ _ _
  | viota => exact viota _ _ _
  | viotaBase => exact viotaBase _ _ _ _
  | nzgen => exact nzgen _ _ _ _ _
  | rngd => exact rngd _ _ _ _ _
  | vreplay => exact vreplay _ _ _
  | accrd => exact accrd _ _ _ _
  | accwr => exact accwr _ _ _ _
  | mlog => exact mlog _ _ _ _
  | mcnt => exact mcnt _ _ _
  | mxset => exact mxset _ _
  | mxw => exact mxw _ _
  | mxwTile => exact mxwTile _
  | mxa => exact mxa _ _
  | mxaTile => exact mxaTile _
  | mxcb => exact mxcb _
  | mxce => exact mxce _ _
  | mxceTile => exact mxceTile _
  | mxpd => exact mxpd _ _
  | mxdn => exact mxdn _ _
  | mxcv => exact mxcv _ _
  | mxtap => exact mxtap _
  | mxsp => exact mxsp _
  | cpset => exact cpset _ _
  | cpgo => exact cpgo _ _ _
  | trpush => exact trpush _ _ _ _
  | trpop => exact trpop _ _ _ _
  | gthr => exact gthr _ _ _
  | sctr => exact sctr _ _ _
  | qppost => exact qppost _ _ _
  | scput => exact scput _ _
  | scred => exact scred _ _
  | gnode => exact gnode _ _
  | gsig => exact gsig _
  | ret => exact ret
  | lbrk => exact lbrk
  | ckpt => exact ckpt
  | yield => exact yield
  | exit => exact exit
  | mxpdOff => exact mxpdOff
  | _ => exact of_step rfl

end Sys2Proof.Laws.RoundTrip

namespace Sys2Proof

/-- Settles O51: the round trip of each constructor (`Laws.RoundTrip.statement`), and the tests behind `decodeClass`. -/
theorem decodeOfEncode : Obligations.DecodeOfEncode :=
  ⟨fun i c hwf hc => Laws.RoundTrip.statement i hwf c hc, fun _ _ _ h => decodeClass_ok h⟩

/-! ### Headers (13 R332, R334) -/

/-- The word of a header is the sum of its fields, each below the next one's weight. -/
theorem encodeHeader_lt (h : Header) : encodeHeader h < 2 ^ 32 := by
  have := h.sig.isLt; have := h.zero.isLt; have := h.gneg.toNat_lt; have := h.guard.isLt
  have := h.pop.isLt; have := h.stop.toNat_lt; have := h.pres.isLt
  unfold encodeHeader
  omega

theorem decodeHeader_encodeHeader (h : Header) : decodeHeader (encodeHeader h) = h := by
  obtain ⟨sig, zero, gneg, guard, pop, stop, pres⟩ := h
  have := sig.isLt; have := zero.isLt; have := gneg.toNat_lt; have := guard.isLt
  have := pop.isLt; have := stop.toNat_lt; have := pres.isLt
  simp only [decodeHeader, encodeHeader, Header.mk.injEq]
  exact ⟨Laws.RoundTrip.bits_eq (by omega), Laws.RoundTrip.bits_eq (by omega), Laws.RoundTrip.bit_eq (by omega),
    Laws.RoundTrip.bits_eq (by omega), Laws.RoundTrip.bits_eq (by omega), Laws.RoundTrip.bit_eq (by omega), Laws.RoundTrip.bits_eq (by omega)⟩

/-- A bit of a word as a number. -/
theorem toNat_bit (n : Nat) : (n % 2 == 1).toNat = n % 2 := by
  rcases Nat.mod_two_eq_zero_or_one n with h | h <;> rw [h] <;> rfl

theorem encodeHeader_decodeHeader {w : Nat} (hw : w < 2 ^ 32) : encodeHeader (decodeHeader w) = w := by
  simp only [encodeHeader, decodeHeader, BitVec.toNat_ofNat, toNat_bit]
  omega

/-- The tests on a header's word are those on its highest 12 bits. -/
theorem decodeHeader_ok_iff (w : Nat) : (decodeHeader w).ok = true ↔ w / 2 ^ 24 % 2 ^ 8 = 0x9D ∧ w / 2 ^ 20 % 16 = 0 := by
  simp only [Header.ok, decodeHeader, Bool.and_eq_true, beq_iff_eq, ← BitVec.toNat_inj, BitVec.toNat_ofNat, BitVec.ofNat_eq_ofNat,
    Nat.reducePow, Nat.reduceMod]

/-- The highest bits of a word are those of its last two bytes. -/
theorem word32_high (b0 b1 b2 b3 : Byte) : word32 b0 b1 b2 b3 / 2 ^ 24 % 2 ^ 8 = b3.toNat ∧ word32 b0 b1 b2 b3 / 2 ^ 20 % 16 = b2.toNat / 16 := by
  have := b0.isLt; have := b1.isLt; have := b2.isLt; have := b3.isLt
  unfold word32
  omega

/-- Bytes whose first word fails a test of a header are rejected as such. -/
theorem decodeBundle_of_bad {bs : List Byte} {w : Nat} {ws : List Nat} (hw : wordsOf bs = w :: ws) (hbad : (decodeHeader w).ok = false) :
    decodeBundle bs = .error .header := by
  simp only [decodeBundle, hw, hbad, Bool.false_eq_true, if_false]

/-- A bundle that begins with another byte than SIG's, or with bits in the zero field, is rejected. -/
theorem decodeBundle_header {b0 b1 b2 b3 : Byte} (bs : List Byte) (h : b3 ≠ 0x9D ∨ b2.toNat / 16 ≠ 0) :
    decodeBundle (b0 :: b1 :: b2 :: b3 :: bs) = .error .header := by
  refine decodeBundle_of_bad (wordsOf.eq_1 b0 b1 b2 b3 bs) ?_
  rw [Bool.eq_false_iff, ne_eq, decodeHeader_ok_iff, (word32_high ..).1, (word32_high ..).2]
  rintro ⟨hsig, hzero⟩
  exact h.elim (fun hn => hn (BitVec.eq_of_toNat_eq hsig)) (fun hn => hn hzero)

/-- Settles O52: the two round trips, the tests as conditions on the word's highest bits, and a first word that fails them. -/
theorem headersDecode : Obligations.HeadersDecode := by
  refine ⟨fun h => ⟨decodeHeader_encodeHeader h, encodeHeader_lt h⟩, fun w hw => ⟨encodeHeader_decodeHeader hw, ?_⟩,
    fun _ _ _ _ bs h => decodeBundle_header bs h⟩
  rw [decodeHeader_ok_iff, Nat.mod_eq_of_lt (by omega : w / 2 ^ 24 < 2 ^ 8)]

/-- Settles O50: the decoders compute on the seven words. -/
theorem wordsDecode : Obligations.WordsDecode := by
  refine ⟨?brp, ?loopi, ?add, ?st, ?vfma, ?mxw, ?header⟩
  all_goals decide

end Sys2Proof
end

section
/-! Integer operations (14 R377 to R379, 11 R294) and scalar floating point (14 R383 to R385): what each kind of effect gives, and the statements
about them. -/

namespace Sys2Proof.Machine

/-! ### Results of registers (14 R377) -/

/-- An instruction whose effect is an operation on two registers writes its result. -/
theorem Writes.of_aluRR {i : Instr} (f : Word → Word → Word) {lat : Nat} {d a b : SCode} {s : State} {x : Nat} (hx : Issues i)
    (he : slotEffect i = aluRR f lat d a b) : Writes s x i lat d (f (operand s x a) (operand s x b)) := by
  apply Writes.of hx
  rw [he]
  simp only [aluRR, soloEnv_src]

/-- An instruction whose effect is an operation on one register writes its result after one issue cycle. -/
theorem Writes.of_aluR {i : Instr} (f : Word → Word) {d a : SCode} {s : State} {x : Nat} (hx : Issues i)
    (he : slotEffect i = aluR f d a) : Writes s x i 1 d (f (operand s x a)) := by
  apply Writes.of hx
  rw [he]
  simp only [aluR, soloEnv_src]

/-- A signed order picks by the integers that the words are. -/
theorem pick_sle (u v x y : Word) : pick (u.sle v) x y = if u.toInt ≤ v.toInt then x else y := by
  simp only [pick, BitVec.sle_eq_decide, decide_eq_true_eq]

/-- An unsigned order picks by the numbers that the words are. -/
theorem pick_ule (u v x y : Word) : pick (u.ule v) x y = if u.toNat ≤ v.toNat then x else y := by
  simp only [pick, BitVec.ule_eq_decide, decide_eq_true_eq]

/-- The count of one bits is that of the places where a bit stands. -/
theorem popBits_eq_countP (n v : Nat) : popBits n v = (List.range n).countP v.testBit := by
  induction n generalizing v with
  | zero => rfl
  | succ n ih =>
    have hrest : (v.testBit ∘ Nat.succ) = (v / 2).testBit := funext fun k => Nat.testBit_succ v k
    have hlow : v % 2 = if v.testBit 0 = true then 1 else 0 := by
      rw [Nat.testBit_zero]
      rcases Nat.mod_two_eq_zero_or_one v with h | h <;> simp [h]
    rw [popBits, ih, List.range_succ_eq_map, List.countP_cons, List.countP_map, hrest, hlow, Nat.add_comm]

/-- The model counts the leading zeros of a word as the entry says. -/
theorem ofNat_clz64 (x : Word) : BitVec.ofNat 64 (clz64 x) = if x = 0 then 64 else BitVec.ofNat 64 (63 - Nat.log2 x.toNat) := by
  unfold clz64
  split <;> rfl

/-- Settles O1: each operation is `Writes.of_aluRR` or `Writes.of_aluR` at its own function; the picks, CLZ and POPC by the lemmas above. -/
theorem integerResultsOfRegisters : Obligations.IntegerResultsOfRegisters := by
  intro s x d a b p A B
  refine ⟨?add, ?sub, ?mul, ?mulh, ?mulhu, ?and, ?or, ?xor, ?andn, ?shl, ?shr, ?sar, ?rol, ?min, ?max, ?minu, ?maxu, ?clz, ?popc, ?sel⟩
  case add => exact .of_aluRR (· + ·) (fun _ => rfl) rfl
  case sub => exact .of_aluRR (· - ·) (fun _ => rfl) rfl
  case mul => exact .of_aluRR (· * ·) (fun _ => rfl) rfl
  case mulh => exact .of_aluRR mulhS (fun _ => rfl) rfl
  case mulhu => exact .of_aluRR mulhU (fun _ => rfl) rfl
  case and => exact .of_aluRR (· &&& ·) (fun _ => rfl) rfl
  case or => exact .of_aluRR (· ||| ·) (fun _ => rfl) rfl
  case xor => exact .of_aluRR (· ^^^ ·) (fun _ => rfl) rfl
  case andn => exact .of_aluRR (fun x y => x &&& ~~~y) (fun _ => rfl) rfl
  case shl => exact .of_aluRR (fun x y => x <<< shCount y) (fun _ => rfl) rfl
  case shr => exact .of_aluRR (fun x y => x >>> shCount y) (fun _ => rfl) rfl
  case sar => exact .of_aluRR (fun x y => x.sshiftRight (shCount y)) (fun _ => rfl) rfl
  case rol => exact .of_aluRR (fun x y => x.rotateLeft (shCount y)) (fun _ => rfl) rfl
  case min => rw [← pick_sle]; exact .of_aluRR (fun x y => pick (x.sle y) x y) (fun _ => rfl) rfl
  case max => rw [← pick_sle]; exact .of_aluRR (fun x y => pick (y.sle x) x y) (fun _ => rfl) rfl
  case minu => rw [← pick_ule]; exact .of_aluRR (fun x y => pick (x.ule y) x y) (fun _ => rfl) rfl
  case maxu => rw [← pick_ule]; exact .of_aluRR (fun x y => pick (y.ule x) x y) (fun _ => rfl) rfl
  case clz => rw [← ofNat_clz64]; exact .of_aluR (fun x => BitVec.ofNat 64 (clz64 x)) (fun _ => rfl) rfl
  case popc =>
    have hbits : A.getLsbD = A.toNat.testBit := rfl
    rw [hbits, ← popBits_eq_countP]
    exact .of_aluR (fun x => BitVec.ofNat 64 (popBits 64 x.toNat)) (fun _ => rfl) rfl
  case sel =>
    apply Writes.of (fun _ => rfl)
    change effSel d a b p _ _ = _
    simp only [effSel, soloEnv_src, soloEnv_preg]
    rfl

/-! ### Results of immediates (14 R378, R379) -/

/-- A number is its bits above a field, the field, and the bits below it. -/
theorem replaceField_eq (v lo m x : Nat) :
    v - v / 2 ^ lo % 2 ^ m * 2 ^ lo + x % 2 ^ m * 2 ^ lo = 2 ^ lo * (2 ^ m * (v / 2 ^ lo / 2 ^ m) + x % 2 ^ m) + v % 2 ^ lo := by
  have hsplit := Nat.div_add_mod v (2 ^ lo)
  have hfield := Nat.div_add_mod (v / 2 ^ lo) (2 ^ m)
  rw [Nat.mul_add]
  generalize v / 2 ^ lo / 2 ^ m = top at *
  generalize v / 2 ^ lo % 2 ^ m = mid at *
  rw [← hfield, Nat.mul_add] at hsplit
  rw [Nat.mul_comm mid, Nat.mul_comm (x % 2 ^ m)]
  omega

/-- A field that is set holds its number, and every other bit is as it was. -/
theorem getLsbD_setFld {w : Nat} (v : BitVec w) {hi lo : Nat} (x : Nat) (h : lo ≤ hi) {n : Nat} (hn : n < w) :
    (setFld v hi lo x).getLsbD n = if lo ≤ n ∧ n ≤ hi then x.testBit (n - lo) else v.getLsbD n := by
  have hlow : v.toNat % 2 ^ lo < 2 ^ lo := Nat.mod_lt _ (Nat.two_pow_pos lo)
  have hmid : x % 2 ^ (hi + 1 - lo) < 2 ^ (hi + 1 - lo) := Nat.mod_lt _ (Nat.two_pow_pos _)
  rw [setFld, bitsOf, replaceField_eq, BitVec.getLsbD_ofNat, Nat.testBit_two_pow_mul_add _ hlow, Nat.testBit_two_pow_mul_add _ hmid]
  simp only [hn, decide_true, Bool.true_and, Nat.testBit_mod_two_pow, Nat.testBit_div_two_pow, BitVec.getLsbD]
  by_cases hlt : n < lo
  · simp [hlt, Nat.not_le.mpr hlt]
  · by_cases hle : n ≤ hi
    · simp [hlt, hle, Nat.not_lt.mp hlt, show n - lo < hi + 1 - lo by omega]
    · simp [hlt, hle, show ¬n - lo < hi + 1 - lo by omega, show n - lo - (hi + 1 - lo) + (hi + 1 - lo) + lo = n by omega]

/-- Settles O3: each operation is `Writes.of_aluR` at its own function; MOVI reads nothing; INSH sets a field (`getLsbD_setFld`). -/
theorem integerResultsOfImmediates : Obligations.IntegerResultsOfImmediates := by
  intro s x d a imm sh i18 k i16 A D
  refine ⟨?addi, ?andi, ?ori, ?xori, ?shli, ?shri, ?sari, ?roli, ?movi, setFld D (16 * k.toNat + 15) (16 * k.toNat) i16.toNat, ?insh, ?bits⟩
  case movi => exact .of (fun _ => rfl) rfl
  case insh => exact .of_result (fun _ => rfl) rfl (by rw [soloEnv_src])
  case bits =>
    intro n hn
    rw [getLsbD_setFld D _ (Nat.le_add_right _ _) hn]
    simp only [BitVec.getLsbD, Nat.lt_succ_iff.symm, Nat.succ_eq_add_one]
  case addi => exact .of_aluR (· + sext imm) (fun _ => rfl) rfl
  case andi => exact .of_aluR (· &&& sext imm) (fun _ => rfl) rfl
  case ori => exact .of_aluR (· ||| sext imm) (fun _ => rfl) rfl
  case xori => exact .of_aluR (· ^^^ sext imm) (fun _ => rfl) rfl
  case shli => exact .of_aluR (· <<< sh.toNat) (fun _ => rfl) rfl
  case shri => exact .of_aluR (· >>> sh.toNat) (fun _ => rfl) rfl
  case sari => exact .of_aluR (·.sshiftRight sh.toNat) (fun _ => rfl) rfl
  case roli => exact .of_aluR (·.rotateLeft sh.toNat) (fun _ => rfl) rfl

/-! ### Scalar floating point (14 R383 to R385) -/

/-- The width of a type that a selector names. -/
theorem tyWidth_fpTy (t : Bool) : tyWidth (fpTy t) = if t then 64 else 32 := by
  cases t <;> rfl

/-- An operand as a value of the type that a selector names. -/
theorem fpSrc_eq (t : Bool) (w : Word) :
    fpSrc t w = decodeFp (if t then 1 else 0) (w.toNat % 2 ^ (if t then 64 else 32)) := by
  rw [fpSrc, tyWidth_fpTy]; rfl

/-- An instruction whose effect rounds once lands its result and its flags after 4 issue cycles and advances SRS. -/
theorem Yields.of_fpOp {i : Instr} {s : State} {x : Nat} (f : Bool → Val × Nat) {d : SCode} {t : Bool} (hx : Issues i)
    (he : slotEffect i (soloEnv s x i) (slotState s x i) = fpOp f d t (soloEnv s x i) (slotState s x i)) :
    let v := f ((rndOf (ctxOf s s.turn x)).mode == 2)
    let r := roundFp (if t then 1 else 0) (rndOf (ctxOf s s.turn x)) 0 v.1
    Yields s x i (srsStep (slotState s x i) s.turn x true) ((dstLand d (BitVec.ofNat 64 r.val) ++ flagLand (r.flags ||| v.2)).map (4, ·)) [] .next := by
  apply Yields.of hx
  rw [he]
  simp only [fpOp, soloEnv_t]
  rfl

/-- An instruction whose effect picks one of two values writes it, rounding nothing. -/
theorem Writes.of_fpPick {i : Instr} {s : State} {x : Nat} (f : Val → Val → Val) {d a b : SCode} {t : Bool} (hx : Issues i)
    (he : slotEffect i = fpPick f d a b t) :
    Writes s x i 4 d (BitVec.ofNat 64 (roundFp (if t then 1 else 0) rne 0 (f (fpSrc t (operand s x a)) (fpSrc t (operand s x b)))).val) := by
  apply Writes.of hx
  rw [he]
  simp only [fpPick, soloEnv_src]
  rfl

/-- Settles O5: sums and products are `Yields.of_fpOp`, picks `Writes.of_fpPick`; FCMP writes a predicate, FCVT its conversion. -/
theorem scalarFloatingResults : Obligations.ScalarFloatingResults := by
  intro s x d a b pd cond t64 dt st t ty w A B D rdn rounded exact r
  have hA : fpSrc t64 (operand s x a) = A := fpSrc_eq ..
  have hB : fpSrc t64 (operand s x b) = B := fpSrc_eq ..
  have hD : fpSrc t64 (operand s x d) = D := fpSrc_eq ..
  refine ⟨?fadd, ?fsub, ?fmul, ?ffma, ?fmin, ?fmax, ?fcmp, ?fcvt⟩
  case fadd =>
    refine .of_fpOp (fun m => addVal m A B) (fun _ => rfl) ?_
    change effFadd d a b t64 _ _ = _
    simp only [effFadd, soloEnv_src, hA, hB]
  case fsub =>
    refine .of_fpOp (fun m => addVal m A B.neg) (fun _ => rfl) ?_
    change effFsub d a b t64 _ _ = _
    simp only [effFsub, soloEnv_src, hA, hB]
  case fmul =>
    refine .of_fpOp (fun _ => mulVal A B) (fun _ => rfl) ?_
    change effFmul d a b t64 _ _ = _
    simp only [effFmul, soloEnv_src, hA, hB]
  case ffma =>
    refine .of_fpOp (fun m => fmaVal m A B D) (fun _ => rfl) ?_
    change effFfma d a b t64 _ _ = _
    simp only [effFfma, soloEnv_src, hA, hB, hD]
  case fmin => rw [← hA, ← hB]; exact .of_fpPick minVal (fun _ => rfl) rfl
  case fmax => rw [← hA, ← hB]; exact .of_fpPick maxVal (fun _ => rfl) rfl
  case fcmp =>
    apply Results.of (fun _ => rfl)
    change effFcmp pd a b cond t64 _ _ = _
    simp only [effFcmp, soloEnv_src, hA, hB]
    rfl
  case fcvt =>
    intro hdt hst
    apply Yields.of (fun _ => rfl)
    change effFcvt d a dt st _ _ = _
    have hok : ¬(14 ≤ st.toNat ∨ 14 ≤ dt.toNat) := by omega
    simp only [effFcvt, soloEnv_src, soloEnv_t, soloEnv_core, soloEnv_ctx, if_neg hok]
    rfl

end Sys2Proof.Machine
end

section
/-! Vector arithmetic, picks, bit operations, functions, compares, conversions (16 R416 to R422), sums, noise and replay (16 R425 to R427, R432 to
R434): what each kind of effect gives, and the statements about them. -/

namespace Sys2Proof.Machine

/-! ### Arithmetic, picks and bits (16 R416, R419, R420) -/

/-- RMODE at the issue of one instruction. -/
@[simp] theorem isRdn_soloEnv (s : State) (x : Nat) (i : Instr) :
    isRdn (soloEnv s x i) (slotState s x i) = ((rndOf (ctxOf s s.turn x)).mode == 2) := by
  simp only [isRdn, soloEnv_t]

/-- A rounded element at the issue of one instruction. -/
theorem roundElem_soloEnv (s : State) (x : Nat) (i : Instr) (ty j : Nat) (v : Val × Nat) :
    roundElem (soloEnv s x i) (slotState s x i) ty j v =
      ⟨(roundFp ty (rndOf (ctxOf s s.turn x)) j v.1).val, (roundFp ty (rndOf (ctxOf s s.turn x)) j v.1).flags ||| v.2⟩ := by
  simp only [roundElem, soloEnv_t]

section
variable {s : State} {x : Nat} {i : Instr} {vd va : VReg} {vb : BitVec 6} {mk : MReg} {vf : Bool}

/-- An instruction whose effect is arithmetic: floating elements rounded once, integers wrapped. -/
theorem VecEach.of_vArith (ff : Bool → Val → Val → Val → Val × Nat) (fi : Int → Int → Int → Int) (hx : Issues i)
    (he : slotEffect i (soloEnv s x i) (slotState s x i) = vArith i vd va vb mk vf ff fi (soloEnv s x i) (slotState s x i)) :
    let t := ctxOf s s.turn x
    let ty := fmtVT t
    let w := tyWidth ty
    let A := elemOf (tileOf s va) w
    let B := elemB s x vb vf w
    let D := elemOf (tileOf s vd) w
    VecEach s x i vd mk (isFloatTy ty) fun j =>
      if isFloatTy ty then
        let v := ff ((rndOf t).mode == 2) (decodeFp ty (A j)) (decodeFp ty (B j)) (decodeFp ty (D j))
        let r := roundFp ty (rndOf t) j v.1
        ⟨r.val, r.flags ||| v.2⟩
      else ⟨ofSigned w (fi (intOf ty (A j)) (intOf ty (B j)) (intOf ty (D j))), 0⟩ :=
  .of hx he rfl fun j => by simp only [vElem_soloEnv, vbVal_soloEnv, isRdn_soloEnv, roundElem_soloEnv, wrapElem]

/-- An instruction whose effect picks or changes a sign: nothing is rounded and no flag rises. -/
theorem VecEach.of_vPick (ff : Val → Val → Val) (fi : Int → Int → Int) (hx : Issues i)
    (he : slotEffect i (soloEnv s x i) (slotState s x i) = vPick i vd va vb mk vf ff fi (soloEnv s x i) (slotState s x i)) :
    let ty := fmtVT (ctxOf s s.turn x)
    let w := tyWidth ty
    let A := elemOf (tileOf s va) w
    let B := elemB s x vb vf w
    VecEach s x i vd mk false fun j =>
      ⟨if isFloatTy ty then (roundFp ty rne 0 (ff (decodeFp ty (A j)) (decodeFp ty (B j)))).val
        else ofSigned w (fi (intOf ty (A j)) (intOf ty (B j))), 0⟩ :=
  .of hx he rfl fun j => by
    simp only [vElem_soloEnv, vbVal_soloEnv, exactBits, wrapElem]
    split <;> rfl

/-- An instruction whose effect works on the bits of its elements. -/
theorem VecEach.of_vBits (f : Nat → Nat → Nat → Nat) (hx : Issues i)
    (he : slotEffect i (soloEnv s x i) (slotState s x i) = vBits i vd va vb mk vf f (soloEnv s x i) (slotState s x i)) :
    let w := tyWidth (fmtVT (ctxOf s s.turn x))
    VecEach s x i vd mk false fun j => ⟨f w (elemOf (tileOf s va) w j) (elemB s x vb vf w j) % 2 ^ w, 0⟩ :=
  .of hx he rfl fun j => by simp only [vElem_soloEnv, vbVal_soloEnv]

end

/-- Settles O18: each of the six is `VecEach.of_vArith` at its floating and its integer form. -/
theorem vectorArithmetic : Obligations.VectorArithmetic := by
  intro s x vd va vb mk vf t ty w A B D fl rdn arith
  refine ⟨?vadd, ?vsub, ?vmul, ?vfma, ?vfms, ?vfnma⟩
  case vadd => exact .of_vArith (fun m a b _ => addVal m a b) (fun a b _ => a + b) (fun _ => rfl) rfl
  case vsub => exact .of_vArith (fun m a b _ => addVal m a b.neg) (fun a b _ => a - b) (fun _ => rfl) rfl
  case vmul => exact .of_vArith (fun _ a b _ => mulVal a b) (fun a b _ => a * b) (fun _ => rfl) rfl
  case vfma => exact .of_vArith (fun m a b d => fmaVal m a b d) (fun a b d => a * b + d) (fun _ => rfl) rfl
  case vfms => exact .of_vArith (fun m a b d => fmaVal m a b d.neg) (fun a b d => a * b - d) (fun _ => rfl) rfl
  case vfnma => exact .of_vArith (fun m a b d => fmaVal m a.neg b d) (fun a b d => d - a * b) (fun _ => rfl) rfl

/-- Settles O19: picks and signs are `VecEach.of_vPick`, bit operations and shifts `VecEach.of_vBits`; VSEL writes every element. -/
theorem vectorPicksAndBits : Obligations.VectorPicksAndBits := by
  intro s x vd va vb mk vf t ty w A B fl exact' two one bits
  refine ⟨?vmin, ?vmax, ?vclamp, ?vabs, ?vneg, ?vand, ?vor, ?vxor, ?vnot, ?vshl, ?vshr, ?vsar, ?vsel⟩
  case vmin => exact .of_vPick minVal min (fun _ => rfl) rfl
  case vmax => exact .of_vPick maxVal max (fun _ => rfl) rfl
  case vclamp => exact .of_vPick clampVal clampElem (fun _ => rfl) rfl
  case vabs => exact .of_vPick (vb := 0) (vf := true) (fun a _ => a.abs) (fun a _ => a.natAbs) (fun _ => rfl) rfl
  case vneg => exact .of_vPick (vb := 0) (vf := true) (fun a _ => a.neg) (fun a _ => -a) (fun _ => rfl) rfl
  case vand => exact .of_vBits (fun _ a b => a &&& b) (fun _ => rfl) rfl
  case vor => exact .of_vBits (fun _ a b => a ||| b) (fun _ => rfl) rfl
  case vxor => exact .of_vBits (fun _ a b => a ^^^ b) (fun _ => rfl) rfl
  case vnot => exact .of_vBits (vb := 0) (vf := true) (fun w a _ => 2 ^ w - 1 - a) (fun _ => rfl) rfl
  case vshl => exact .of_vBits (fun w a b => a * 2 ^ (b % w)) (fun _ => rfl) rfl
  case vshr => exact .of_vBits (fun w a b => a / 2 ^ (b % w)) (fun _ => rfl) rfl
  case vsar => exact .of_vBits (fun w a b => ofSigned w (toSigned w a / (2 ^ (b % w) : Nat))) (fun _ => rfl) rfl
  case vsel =>
    exact .of_unrounded (effVsel vd va vb mk vf) (fun _ => rfl) rfl (fun _ _ => rfl) fun j => by
      simp only [vElem_soloEnv, vbVal_soloEnv, soloEnv_t]; rfl

/-! ### Functions, compares and conversions (16 R417, R418, R421, R422) -/

/-- The number whose bits below n are those of a test. -/
theorem testBit_foldl_bits (bit : Nat → Bool) (n j : Nat) :
    ((List.range n).foldl (fun a j => if bit j then a ||| 2 ^ j else a) 0).testBit j = (decide (j < n) && bit j) := by
  induction n with
  | zero => simp
  | succ n ih =>
    rw [List.range_succ, List.foldl_append, List.foldl_cons, List.foldl_nil]
    by_cases hn : j = n
    · subst hn
      cases hb : bit j <;> simp [ih, hb]
    · have hlt : decide (j < n + 1) = decide (j < n) := by simp only [decide_eq_decide]; omega
      rw [hlt]
      split
      · simp [ih, Ne.symm hn]
      · exact ih

/-- VCMP's mask: the bits of a test below a count. -/
theorem getLsbD_ofNat_bits (bit : Nat → Bool) (n : Nat) {j : Nat} (hj : j < 8192) :
    (BitVec.ofNat 8192 ((List.range n).foldl (fun a j => if bit j then a ||| 2 ^ j else a) 0)).getLsbD j = (decide (j < n) && bit j) := by
  rw [BitVec.getLsbD_ofNat, testBit_foldl_bits]
  simp [hj]

/-- Settles O20: VSF and VCVT pass their checks and land their elements; a bit of VCMP's mask is by `getLsbD_ofNat_bits` the test of its element;
VPADD is one rounded sum for each element. -/
theorem vectorFunctionsComparesAndConversions : Obligations.VectorFunctionsComparesAndConversions := by
  intro s x vd va vb cond mk md vf fn dt t ty w A B ok sf src dst same el cvt amx
  refine ⟨?vsf, ?vcmp, ?vcvt, ?vcvtBlocks, ?vpadd⟩
  case vsf =>
    intro hok rs
    apply Yields.of (fun _ => rfl)
    change effVsf vd va fn mk _ _ = _
    simp only [effVsf, vChecked_soloEnv hok, soloEnv_t, vLandElems, roundElem_soloEnv, vElem_soloEnv]
    rfl
  case vcmp =>
    intro hok
    refine ⟨_, Results.of (fun _ => rfl) ?_, fun j hj => getLsbD_ofNat_bits _ _ hj⟩
    change effVcmp cond va vb md vf _ _ = _
    simp only [effVcmp, vChecked_soloEnv hok, soloEnv_t, vElem_soloEnv, vbVal_soloEnv]
    rfl
  case vcvt =>
    intro hok hb rs
    apply Yields.of (fun _ => rfl)
    change effVcvt vd va dt mk _ _ = _
    simp only [effVcvt, soloEnv_t, soloEnv_core, coreOf_slotState, vReg_acquired]
    exact (vChecked_soloEnv hok _).trans (if_neg (ne_true_of_eq_false hb))
  case vcvtBlocks =>
    intro hok hb o
    apply Yields.of (fun _ => rfl)
    change effVcvt vd va dt mk _ _ = _
    simp only [effVcvt, soloEnv_t, soloEnv_core, coreOf_slotState, vReg_acquired]
    exact (vChecked_soloEnv hok _).trans (if_pos hb)
  case vpadd =>
    have heff : slotEffect (.vpadd vd va vb mk vf) = effVpadd vd va vb mk vf := rfl
    refine .of (fun _ => rfl) ((congrFun₂ heff _ _).trans rfl) rfl fun j => ?_
    simp only [vElem_soloEnv, vbVal_soloEnv, isRdn_soloEnv, roundElem_soloEnv, soloEnv_src]
    cases vf <;> rfl

/-! ### Sums, noise and replay (16 R425 to R427, R432 to R434) -/

/-- Sums of FP64 that are not too long pass the checks of an accepted shape and type. -/
theorem sumChecked_soloEnv {s : State} {x : Nat} {i : Instr} {gs : List (List Nat)}
    (hok : vShapeBad (ctxOf s s.turn x) i = false ∧ vFmtBad (ctxOf s s.turn x) i = false)
    (hfew : tooMany (fmtVT (ctxOf s s.turn x)) gs = false) (r : Res) : sumChecked (soloEnv s x i) (slotState s x i) i gs r = r := by
  rw [sumChecked, soloEnv_t, hfew, vChecked_soloEnv hok]
  rfl

/-- No group has too many terms. -/
theorem tooMany_nil (ty : Nat) : tooMany ty [] = false := by
  simp [tooMany]

/-- The function that reads an element. -/
theorem vElem_soloEnv_fun (s : State) (x : Nat) (i : Instr) (v : VReg) (w : Nat) :
    vElem (soloEnv s x i) (slotState s x i) v w = elemOf (tileOf s v) w := funext fun j => vElem_soloEnv s x i v w j

/-- What a scan makes of the outputs along one group. -/
theorem map_scanGroup {α : Type} (ex : Bool) (g : List Nat) (f : Nat × List Nat → α) :
    (scanGroup ex g).map f = (List.range g.length).map fun k => f (g.getD k 0, g.take (if ex then k else k + 1)) := List.map_map

/-- Settles O22: the sums pass their checks (`sumChecked_soloEnv`) and land their results; a scan's window is that of its terms; the digits and the
replay are one value for each element. -/
theorem vectorSumsNoiseAndReplay : Obligations.VectorSumsNoiseAndReplay := by
  intro s x vd va b op axis mk ex val h t ty w A ok on groups writes red scan seg win runs segs hd noise
  refine ⟨?vred, ?vscan, ?vsegred, ?nzgen, ?rngd, ?vreplay⟩
  case vred =>
    intro hok hfew
    apply Yields.of (fun _ => rfl)
    change effVred vd va op axis mk _ _ = _
    have hfew' : tooMany ty (if op = 0 then groups else []) = false := by
      split
      case isTrue h0 => exact hfew h0
      case isFalse => exact tooMany_nil ty
    simp only [effVred, soloEnv_t, vElem_soloEnv_fun]
    rw [sumChecked_soloEnv hok hfew', vLandElems]
    simp only [soloEnv_t]
    rfl
  case vscan =>
    intro hok hfew
    apply Yields.of (fun _ => rfl)
    change effVscan vd va ex axis mk _ _ = _
    simp only [effVscan, soloEnv_t, vElem_soloEnv_fun]
    rw [sumChecked_soloEnv hok hfew, vLandElems]
    simp only [soloEnv_t, List.map_flatten, map_scanGroup]
    rfl
  case vsegred =>
    intro hok hfew
    apply Yields.of (fun _ => rfl)
    change effVsegred vd va mk _ _ = _
    simp only [effVsegred, soloEnv_t, vElem_soloEnv_fun]
    rw [sumChecked_soloEnv hok hfew, vLandElems]
    simp only [soloEnv_t]
    rfl
  case nzgen => exact .of_unrounded (effNzgen vd val h b mk) (fun _ => rfl) rfl (fun _ _ => rfl) fun j => by simp only [soloEnv_t, soloEnv_src]; rfl
  case rngd => exact .of_unrounded (effRngd vd va val h mk) (fun _ => rfl) rfl (fun _ _ => rfl) fun j => by simp only [soloEnv_t, vElem_soloEnv]; rfl
  case vreplay =>
    intro hgood hshape hfmt
    apply Yields.of (fun _ => rfl)
    change effVreplay vd va mk _ _ = _
    simp only [effVreplay, soloEnv_t, soloEnv_core, coreOf_slotState, vReg_acquired, vElem_soloEnv]
    refine (if_neg (by rw [show vReg (coreOf s s.turn) va.toNat = tileOf s va from rfl, hgood]; decide)).trans ?_
    rw [vChecked_soloEnv ⟨hshape, hfmt⟩, vLandElems]
    simp only [soloEnv_t]
    rfl

end Sys2Proof.Machine
end

section
/-! What an acquire at a queue's head leaves of the dies, and the outcomes of an issue that a statement meets beside an effect: one that holds of
ready cores alone, and a cause found away from the core. -/

namespace Sys2Proof.Machine

/-! ### What write-backs leave of a die -/

/-- A die `u` with what a store reaches as in `o`: memory with checks, releases and waiters, translations and the write-backs held. -/
def Die.putStored (u o : Die) : Die :=
  { u with mem := o.mem, waits := o.waits, badck := o.badck, ecc := o.ecc, entryBad := o.entryBad, rels := o.rels, tlb := o.tlb, tlbPtrs := o.tlbPtrs,
           heldBacks := o.heldBacks }

/-- A die `u` is as `o` was but for what a store reaches. -/
structure StoredOnly (o u : Die) : Prop where
  /-- all the rest -/
  same : u.putStored o = o

/-- Every die of `t` is as in `s` but for what a store reaches, and the clock is the same. -/
structure DiesStored (s t : State) : Prop where
  /-- die by die -/
  dies : ∀ d, StoredOnly (dieOf s d) (dieOf t d)
  /-- the clock -/
  clock : t.clock = s.clock

theorem StoredOnly.refl (o : Die) : StoredOnly o o := ⟨rfl⟩

theorem StoredOnly.trans {o u v : Die} (h : StoredOnly o u) (g : StoredOnly u v) : StoredOnly o v :=
  ⟨(congrArg (·.putStored o) g.same).trans h.same⟩

theorem DiesStored.refl (s : State) : DiesStored s s := ⟨fun _ => .refl _, rfl⟩

theorem DiesStored.trans {s t u : State} (h : DiesStored s t) (g : DiesStored t u) : DiesStored s u := ⟨fun d => (h.dies d).trans (g.dies d), g.clock.trans h.clock⟩

/-- A fold of steps that store. -/
theorem DiesStored.foldl {α : Type} {f : State → α → State} (h : ∀ s a, DiesStored s (f s a)) (l : List α) (s : State) : DiesStored s (l.foldl f s) := by
  induction l generalizing s with
  | nil => exact .refl s
  | cons a l ih => exact (h s a).trans (ih _)

/-- A die changed in what a store reaches. -/
theorem modDie_stored (s : State) (d : Nat) (f : Die → Die) (h : StoredOnly (dieOf s d) (f (dieOf s d))) : DiesStored s (modDie s d f) :=
  ⟨fun e => by
    rw [dieOf_modDie]
    split
    · next he => exact he ▸ h
    · exact .refl _, rfl⟩

theorem wakeWord_stored (s : State) (d w : Nat) : DiesStored s (wakeWord s d w) := by
  unfold wakeWord
  split
  · have h := modDie_stored s d (fun k => { k with waits := tabDel k.waits w }) ⟨rfl⟩
    exact ⟨h.dies, h.clock⟩
  · exact .refl s

theorem physWrite_stored (s : State) (d pa : Nat) (bs : List Byte) : DiesStored s (physWrite s d pa bs) := by
  refine DiesStored.trans (modDie_stored s d _ ?_) (.foldl (fun t w => wakeWord_stored t d w) _ _)
  exact ⟨rfl⟩

theorem physCarry_stored (s : State) (d pa : Nat) (bs : List Byte) (c : BitVec 16) : DiesStored s (physCarry s d pa bs c) := by
  unfold physCarry
  dsimp only
  split
  · exact (physWrite_stored ..).trans (modDie_stored _ d _ (by exact ⟨rfl⟩))
  · exact physWrite_stored ..

theorem translate_stored (s : State) (d asid va : Nat) : DiesStored s (translate s d asid va).1 := by
  unfold translate
  split
  · exact .refl s
  · split
    · exact .refl s
    · dsimp only
      generalize hs : (if List.isEmpty _ = true then s else modDie s d _) = t
      have ht : DiesStored s t := by
        rw [← hs]
        split
        · exact .refl s
        · exact modDie_stored s d _ (by exact ⟨rfl⟩)
      split
      · exact ht
      · dsimp only
        refine (ht.trans ?_).trans (modDie_stored _ d _ (by exact ⟨rfl⟩))
        split
        · exact .refl t
        · exact physWrite_stored ..

theorem markDirty_stored (s : State) (d asid va : Nat) (l : Leaf) : DiesStored s (markDirty s d asid va l) := by
  unfold markDirty
  split
  · exact .refl s
  · exact (physWrite_stored ..).trans (modDie_stored _ d _ (by exact ⟨rfl⟩))

theorem landLine_stored (s : State) (d pa : Nat) (l : Line) : DiesStored s (landLine s d pa l) := by
  unfold landLine
  split
  · exact physCarry_stored ..
  · exact .foldl (fun t r => physWrite_stored ..) _ _

theorem placeOf_stored (s : State) (d asid va : Nat) (b : Bool) : DiesStored s (placeOf s d asid va b).1 := by
  unfold placeOf
  have h := translate_stored s d asid va
  generalize translate s d asid va = p at h
  obtain ⟨s1, r⟩ := p
  cases r with
  | error f => exact h
  | ok l =>
    dsimp only
    split
    · exact h
    · have g := translate_stored s1 d asid (frameVa s1 d asid va b)
      generalize translate s1 d asid (frameVa s1 d asid va b) = q at g
      obtain ⟨s2, r2⟩ := q
      cases r2 <;> exact h.trans g

/-- What holds of both branches holds of a choice between them. -/
theorem fst_ite {α : Type} {P : State → Prop} {p : Prop} [Decidable p] {x y : State × α} (hx : P x.1) (hy : P y.1) : P (if p then x else y).1 := by
  split
  · exact hx
  · exact hy

/-- An address is resolved by translations, a mark of its leaf and the key of its frame: what each of these keeps, the resolution keeps. -/
theorem resolve_keeps {asid va : Nat} {R : State → State → Prop} (refl : ∀ s, R s s) (trans : ∀ {s t u}, R s t → R t u → R s u)
    (place : ∀ s d b, R s (placeOf s d asid va b).1) (mark : ∀ s d l, R s (markDirty s d asid va l)) (key : ∀ s d h pa, R s (underKey s d asid h pa))
    (s : State) (cl n : Nat) (nd : Need) : R s (resolve s cl asid va n nd).1 := by
  have leaf : ∀ (d : Nat) (p : State × Except AccFail Place), R s p.1 → R s (match p with
      | (s, r) => match r with
        | .error f => (s, .error f)
        | .ok p =>
          let l := p.leaf
          let at_ := fun (out : Bool) => Loc.home p.home p.pa (pteCa l.pte) (pteCe l.pte) (pteIf l.pte) out
          if p.res = 2 then (s, .error (.wait false))
          else if p.res = 1 then (s, .ok (at_ true))
          else if (nd.rd && !pteRd l.pte) || (nd.wr && !pteWr l.pte) || keyMissing s d asid then (s, .error .prot)
          else (underKey (if nd.wr then markDirty s d asid va l else s) d asid p.home p.pa, .ok (at_ false)) : State × Except AccFail Loc).1 := by
    rintro d ⟨t, r⟩ h
    cases r with
    | error f => exact h
    | ok p =>
      have hm : R t (if nd.wr then markDirty t d asid va p.leaf else t) := by
        split
        · exact mark t d p.leaf
        · exact refl t
      exact fst_ite h (fst_ite h (fst_ite h (trans h (trans hm (key ..)))))
  unfold resolve
  refine fst_ite (refl s) (fst_ite (refl s) (fst_ite (refl s) (fst_ite (refl s) ?_)))
  split
  · exact refl s
  · next d _ => exact fst_ite (refl s) (leaf d _ (place ..))

/-- A write-back stores. -/
theorem writeBack_stored (s : State) (l : Line) : DiesStored s (writeBack s l) := by
  unfold writeBack
  split
  · exact .refl s
  · dsimp only
    split
    · exact .refl s
    · next d _ =>
      have h := placeOf_stored s d l.asid (64 * l.line) false
      split
      · split
        · exact h.trans (modDie_stored _ d _ (by exact ⟨rfl⟩))
        · split
          · exact h
          · exact h.trans ((markDirty_stored ..).trans (landLine_stored ..))
      · exact h.trans (modDie_stored _ d _ (by exact ⟨rfl⟩))
      · exact h

/-- Lines that leave a first-level cache are stored. -/
theorem l1Evict_stored (s : State) (c : Nat) (p : Line → Bool) : DiesStored s (l1Evict s c p) := by
  unfold l1Evict
  simp only [List.partition_eq_filter_filter]
  have h : DiesStored s (modCore s (l1Core s c) fun k => { k with l1 := k.l1.filter fun l => !p l }) := ⟨fun _ => .refl _, rfl⟩
  exact h.trans (.foldl writeBack_stored _ _)

/-! ### What the state of a slot has of its dies and its module -/

section
variable (s : State) (x : Nat) (i : Instr) (d : Nat)

/-- The dies of a slot's state are as they were but for what a store reaches. -/
theorem slotState_stored : DiesStored s (slotState s x i) := by
  have h : DiesStored s (acquireHeads s s.turn (soloAt s x i)) := by
    unfold acquireHeads
    split
    · exact l1Evict_stored ..
    · exact .refl s
  exact ⟨h.dies, h.clock⟩

@[simp] theorem joins_slotState : (dieOf (slotState s x i) d).joins = (dieOf s d).joins :=
  (congrArg Die.joins ((slotState_stored s x i).dies d).same :)
@[simp] theorem ctr_slotState : (dieOf (slotState s x i) d).ctr = (dieOf s d).ctr :=
  (congrArg Die.ctr ((slotState_stored s x i).dies d).same :)
@[simp] theorem binds_slotState : (dieOf (slotState s x i) d).binds = (dieOf s d).binds :=
  (congrArg Die.binds ((slotState_stored s x i).dies d).same :)
@[simp] theorem curtains_slotState : (dieOf (slotState s x i) d).curtains = (dieOf s d).curtains :=
  (congrArg Die.curtains ((slotState_stored s x i).dies d).same :)
@[simp] theorem groups_slotState : (dieOf (slotState s x i) d).groups = (dieOf s d).groups :=
  (congrArg Die.groups ((slotState_stored s x i).dies d).same :)
@[simp] theorem qps_slotState : (dieOf (slotState s x i) d).qps = (dieOf s d).qps :=
  (congrArg Die.qps ((slotState_stored s x i).dies d).same :)

@[simp] theorem clock_slotState : (slotState s x i).clock = s.clock := (slotState_stored s x i).clock
@[simp] theorem turn_slotState : (slotState s x i).turn = s.turn := (acquireHeads_rest s s.turn (soloAt s x i)).2.2.2

/-- The module of a slot's state: who asks is the slot. -/
theorem slotState_mod : (slotState s x i).mod =
    { s.mod with asker := .bundle s.turn x (i.homeSlot.getD .c).num, taken := 0, want := .nothing } := by
  rw [← acquired_mod s x i]
  rfl

@[simp] theorem moduleNo_slotState : moduleNo (slotState s x i) = moduleNo s := by simp only [moduleNo, slotState_mod]
@[simp] theorem routed_slotState (g : Nat) : routed (slotState s x i) g = routed s g := by simp only [routed, moduleNo_slotState, slotState_mod]
@[simp] theorem localDie_slotState (g : Nat) : localDie (slotState s x i) g = localDie s g := by simp only [localDie, moduleNo_slotState]
@[simp] theorem isFirmwareCore_slotState (c : Nat) : isFirmwareCore (slotState s x i) c = isFirmwareCore s c := by
  simp only [isFirmwareCore, slotState_mod]
@[simp] theorem ctrVal_slotState (n : Nat) : ctrVal (slotState s x i) d n = ctrVal s d n := by simp only [ctrVal, ctr_slotState]
@[simp] theorem curtainOf_slotState (asid va : Nat) : curtainOf (slotState s x i) d asid va = curtainOf s d asid va := by
  simp only [curtainOf, curtains_slotState]
@[simp] theorem joinOf_slotState (j : Nat) : joinOf (slotState s x i) d j = joinOf s d j := by simp only [joinOf, joins_slotState]

/-- The core of a slot's state, but for its first-level lines. -/
theorem slotState_core (c : Nat) : ∃ l, coreOf (slotState s x i) c = { coreOf s c with l1 := l } := acquired_core s x i c

@[simp] theorem retired_slotState (c : Nat) : (coreOf (slotState s x i) c).retired = (coreOf s c).retired := by
  obtain ⟨l, h⟩ := slotState_core s x i c
  rw [h]

@[simp] theorem choosesSelf_slotState (a : Word) : choosesSelf (slotState s x i) s.turn x a = choosesSelf s s.turn x a := by
  obtain ⟨l, h⟩ := slotState_core s x i s.turn
  simp only [choosesSelf, h, slotState_mod]
  rfl

end

/-! ### What a ready core has of its slot's state -/

theorem Yields.of_ready {s s' : State} {x : Nat} {i : Instr} {l : List (Nat × Land)} {a : List Arrival} {c : Ctl} (hx : Issues i)
    (h : Ready s x i → slotEffect i (soloEnv s x i) (slotState s x i) = .ok s' l a c) : Yields s x i s' l a c := fun r => Yields.of hx (h r) r

/-- The context of a ready core is no speculative ordered task. -/
theorem Ready.spec {s : State} {x : Nat} {i : Instr} (r : Ready s x i) : (ctxOf s s.turn x).spec = none := r.calm.plain

/-- The effect of an instruction that only an ordered task would wait with. -/
theorem asDirect_of_not {must : Ctx → Bool} {e : Env} {s : State} (f : State → Res) (h : must (e.t s) = false) : asDirect must e s f = f s := by
  unfold asDirect
  rw [Env.t] at h
  simp only [h, Bool.not_false, if_true]

/-- A trap of a core finds no difference in what its core holds written again. -/
theorem trapRunning_setCore (s : State) (c x : Nat) (z : TrapInfo) : trapRunning (setCore s c (coreOf s c)) c x z = trapRunning s c x z := by
  have hland : ∀ t : State, landAll (setCore t c (coreOf t c)) c = landAll t c := fun t => by
    unfold landAll
    simp only [coreOf_setCore, if_true, setCore_setCore]
  have hset : ∀ t : State, settle (setCore t c (coreOf t c)) c = settle t c := fun t => by
    unfold settle
    rw [hland]
  have hdrop : dropBundle (setCore s c (coreOf s c)) c x = setCore (dropBundle s c x) c (coreOf (dropBundle s c x) c) := by
    unfold dropBundle
    cases h : s.mod.exchanges.isEmpty
    · simp only [setCore_mod, h, Bool.false_eq_true, if_false]; rfl
    · simp only [setCore_mod, h, if_true]
  unfold trapRunning
  rw [hdrop, hset]

/-- A calm core whose context has asked nothing has every answer. -/
theorem Ready.answered {s : State} {x : Nat} {i : Instr} (r : Ready s x i) : unanswered s s.turn x = false := by
  have ha : ∀ e ∈ s.mod.exchanges, e.ofBundle s.turn x = false := by simpa using r.asks
  have hb : (s.mod.exchanges.any fun e => e.ofBundle s.turn x && e.reply.isNone && e.counts) = false := by
    simp only [List.any_eq_false, Bool.and_eq_true, not_and, Bool.not_eq_true]
    intro e he h
    rw [ha e he] at h
    cases h.1
  have hw := r.calm.settled r.asks
  rw [unanswered, hb]
  rw [unsettled, Bool.or_eq_false_iff, awaiting, awaitingBut] at hw
  rw [awaitingBut]
  simp only [Bool.or_eq_false_iff] at hw ⊢
  simp [hw]

/-- The late cause that an instruction's effect is, on a ready core, when nothing of the instruction stays. -/
theorem Ready.lates {s : State} {x : Nat} {i : Instr} {cause sub level : Nat} {info : Word} (h : Ready s x i)
    (he : slotEffect i (soloEnv s x i) (slotState s x i) = .late id cause sub level info) :
    issueOne i (slotEffect i) s =
      .next (trapRunning s s.turn x { cause := cause, sub := sub, level := level, slot := (i.homeSlot.getD .c).num, late := true, info := info }) := by
  have had := h.admits
  have hrec : replayRec (coreOf s s.turn) x (soloAt s x i) = none := by
    simp [replayRec, replays, h.calm.rerun, h.calm.replay.1]
  have hres : Sys2Proof.Machine.slotRes (acquired s x i) s.turn x (soloAt s x i) none (soloWork i) = .late id cause sub level info := by
    rw [h.slotRes]
    unfold askingSlot
    dsimp only
    rw [show beginAsking (acquired s x i) (.bundle s.turn x (i.homeSlot.getD .c).num) = slotState s x i from rfl, he]
  have hreh : rehearsing (coreOf s s.turn) = false := by simp [rehearsing, h.calm.rerun]
  have hcore : (modCore s s.turn fun k => { k with rerun := none }) = setCore s s.turn (coreOf s s.turn) := by
    refine congrArg (setCore s s.turn) ?_
    rw [← h.calm.rerun]
  simp only [issueOne, h.calm.runs]
  rw [show soloIssue (coreOf s s.turn) x i (slotEffect i) = soloAt s x i from rfl]
  simp only [runBundle, had, execute, hrec, primed, show (soloAt s x i).works = [soloWork i] from rfl,
    show acquireHeads s s.turn (soloAt s x i) = acquired s x i from rfl, runSlots, hres]
  simp only [firstTrap, firstHold, holdsOf, firstLate, keptState, List.findSome?_cons, List.findSome?_nil, List.filterMap_cons, List.filterMap_nil,
    List.find?_nil, List.head?_nil, Option.map_none, Option.getD_some, id_eq, h.answered, hreh, Bool.false_eq_true, if_false, hcore, trapRunning_setCore]
  rfl

end Sys2Proof.Machine
end

section
/-! SUPPORT. What accesses of memory by dies and firmware, and the moves of pages, leave of the dies. -/

namespace Sys2Proof.Machine

/-! ### What accesses of memory and moves of pages leave of the dies -/

/-- A die `u` with what accesses of memory and moves of pages reach as in `o`. -/
def Die.putReached (u o : Die) : Die :=
  { u.putStored o with full := o.full, pageKeys := o.pageKeys, moves := o.moves, backings := o.backings, freeFrames := o.freeFrames }

/-- Every die of `t` is as in `s` but for what accesses of memory and moves of pages reach. -/
structure Reached (s t : State) : Prop where
  /-- die by die -/
  rest : ∀ d, (dieOf t d).putReached (dieOf s d) = dieOf s d

namespace Reached

variable {s t u : State}

theorem refl (s : State) : Reached s s := ⟨fun _ => rfl⟩

theorem trans (h : Reached s t) (g : Reached t u) : Reached s u :=
  ⟨fun d => (congrArg (·.putReached (dieOf s d)) (g.rest d)).trans (h.rest d)⟩

theorem of_stored (h : DiesStored s t) : Reached s t := ⟨fun d => congrArg (·.putReached (dieOf s d)) (h.dies d).same⟩

/-- The dies as a whole are the same. -/
theorem of_dies (h : t.dies = s.dies) : Reached s t := ⟨fun d => by rw [show dieOf t d = dieOf s d by simp only [dieOf, h]]; rfl⟩

/-- A die changed in what accesses and moves reach. -/
theorem of_modDie (s : State) (d : Nat) {f : Die → Die} (h : (f (dieOf s d)).putReached (dieOf s d) = dieOf s d) : Reached s (modDie s d f) :=
  ⟨fun e => by
    rw [dieOf_modDie]
    split
    · next he => exact he ▸ h
    · rfl⟩

theorem foldl {α : Type} {f : State → α → State} (h : ∀ s a, Reached s (f s a)) (l : List α) (s : State) : Reached s (l.foldl f s) := by
  induction l generalizing s with
  | nil => exact refl s
  | cons a l ih => exact (h s a).trans (ih _)

theorem thenDie {d : Nat} {f : Die → Die} (g : Reached s t) (h : ∀ k, (f k).putReached k = k) : Reached s (modDie t d f) :=
  g.trans (of_modDie t d (h _))

theorem ite {p : Prop} [Decidable p] (h : Reached s t) (g : Reached s u) : Reached s (if p then t else u) := by
  split
  · exact h
  · exact g

theorem streams (h : Reached s t) (d : Nat) : (dieOf t d).streams = (dieOf s d).streams := (congrArg Die.streams (h.rest d) :)

theorem leads (h : Reached s t) (d : Nat) : (dieOf t d).leads = (dieOf s d).leads := (congrArg Die.leads (h.rest d) :)

theorem cmdAsid_eq (h : Reached s t) (d : Nat) (c : Cmd) : cmdAsid t d c = cmdAsid s d c := by simp only [cmdAsid, streamOf, h.streams]

theorem leadOf_eq (h : Reached s t) (d id : Nat) : leadOf t d id = leadOf s d id := by simp only [leadOf, h.leads]

end Reached

section
variable (s : State) (d asid va : Nat)

theorem foundBad_reached (pa n : Nat) : Reached s (foundBad s d pa n) :=
  .foldl (fun t g => by
    split
    · exact ⟨(Reached.of_modDie t d (f := fun d => { d with entryBad := tabDel d.entryBad g }) rfl).rest⟩
    · exact .refl t) _ s

theorem underKey_reached (h pa : Nat) : Reached s (underKey s d asid h pa) := by
  unfold underKey recrypt
  exact .ite (.refl s) (.of_modDie s h (by exact rfl))

theorem freeFrame_reached (pa : Nat) : Reached s (freeFrame s d pa) := .of_modDie s d (by exact rfl)

theorem takeFrame_reached : Reached s (takeFrame s d).1 := by
  unfold takeFrame
  split
  · dsimp only
    exact .of_modDie s d (by exact rfl)
  · exact .of_dies rfl

theorem publishLeaf_reached (pa : Nat) (p : Word) : Reached s (publishLeaf s d asid va pa p) := by
  unfold publishLeaf dropTlb writePte
  exact (Reached.of_stored (physWrite_stored ..)).thenDie fun _ => rfl

theorem systemWrite_reached (target : Nat) (a : Word) (bs : List Byte) (b : Bool) : Reached s (systemWrite s target a bs b) := by
  unfold systemWrite
  split <;> exact .of_dies rfl

theorem systemRead_reached (target a n : Nat) : Reached s (systemRead s target a n).1 := by
  unfold systemRead
  split
  · split <;> exact .of_dies rfl
  · exact .refl s

theorem ask_reached (g : Nat) (op : RemoteOp) : Reached s (ask s d g asid va op).1 := by
  unfold ask
  dsimp only
  split
  · exact .of_dies rfl
  · split
    · split
      · split <;> exact .of_dies rfl
      · exact .of_dies rfl
    · exact .of_dies rfl

theorem dueStarts_reached : Reached s (dueStarts s) :=
  .foldl (fun t e => .ite (.refl t) (by
    unfold dueStart
    exact .ite (.refl t) (.of_dies rfl))) _ s

theorem retryBacks_reached : Reached s (retryBacks s d) :=
  (Reached.of_modDie s d (f := fun k => { k with heldBacks := [] }) rfl).trans (.foldl (fun t l => .of_stored (writeBack_stored t l)) _ _)

theorem fillFrame_reached (pa : Nat) (i : PageImage) : Reached s (fillFrame s d pa i) := .of_modDie s d (by exact rfl)

theorem fetchData_reached (l : Leaf) : Reached s (fetchData s d asid va l).1 := by
  unfold fetchData
  split
  · exact publishLeaf_reached ..
  · dsimp only
    refine Reached.trans ?_ (publishLeaf_reached ..)
    refine Reached.thenDie (Reached.trans (Reached.trans ?_ (takeFrame_reached ..)) (fillFrame_reached ..)) fun _ => rfl
    split
    · exact .of_dies rfl
    · exact systemRead_reached ..

theorem sendPage_reached (pa target : Nat) (a : Word) : Reached s (sendPage s d pa target a) := by
  unfold sendPage
  generalize List.range 1024 = l
  exact (foundBad_reached ..).trans (.foldl (fun _ _ => systemWrite_reached ..) l _)

theorem evictData_reached (l : Leaf) (a : Word) : Reached s (evictData s d asid va l a).1 := by
  unfold evictData
  split
  · dsimp only
    refine Reached.trans ?_ (freeFrame_reached ..)
    refine Reached.trans ?_ (publishLeaf_reached ..)
    refine Reached.thenDie ?_ fun _ => rfl
    refine Reached.trans ?_ (sendPage_reached ..)
    exact .ite (.refl s) (underKey_reached ..)
  · exact publishLeaf_reached ..

theorem migrateData_reached (l : Leaf) (goal : Nat) : Reached s (migrateData s d asid va l goal) := by
  unfold migrateData
  dsimp only
  refine Reached.trans ?_ (freeFrame_reached ..)
  refine Reached.trans ?_ (publishLeaf_reached ..)
  exact Reached.thenDie (Reached.trans (takeFrame_reached ..) (fillFrame_reached ..)) fun _ => rfl

theorem endMove_reached (m : Move) : Reached s (endMove s d m).1 := by
  unfold endMove
  dsimp only
  refine Reached.trans ?_ (dueStarts_reached _)
  refine Reached.trans ?_ (retryBacks_reached ..)
  generalize hu : modDie s d _ = u
  have h : Reached s u := hu ▸ .of_modDie s d (by exact rfl)
  refine h.trans ?_
  split
  · split
    · exact .refl _
    · split
      · exact fetchData_reached ..
      · exact evictData_reached ..
      · exact migrateData_reached ..
  · exact .refl _

theorem fetchPage_reached (l : Leaf) : Reached s (fetchPage s d asid va l).1 := by
  unfold fetchPage
  split
  · exact .refl s
  · refine Reached.trans ?_ (endMove_reached ..)
    unfold startMove
    exact (publishLeaf_reached ..).thenDie fun _ => rfl

theorem fetchTables_reached (n : Nat) : Reached s (fetchTables d asid va n s) := by
  induction n generalizing s with
  | zero => exact .refl s
  | succ n ih =>
    unfold fetchTables
    split
    · split
      · exact (Reached.of_stored (physWrite_stored ..)).trans (ih _)
      · exact .refl s
    · exact .refl s

theorem fetchOnePage_reached (p : Nat) : Reached s (fetchOnePage d asid p s) := by
  -- the definition is opened under a name and its lets are kept: the kernel would compute the walk to compare the two sides
  obtain ⟨fetch, hfetch⟩ : ∃ fetch, fetch = fetchOnePage := ⟨_, rfl⟩
  rw [← hfetch]
  delta fetchOnePage at hfetch
  rw [hfetch]
  beta_reduce
  extract_lets va
  split
  · exact .ite (ask_reached ..) (.refl s)
  · next o _ =>
    extract_lets u fva t
    have hu : Reached s u := (fetchTables_reached s o asid va 4).trans (fetchTables_reached (fetchTables o asid va 4 s) o asid (frameVa s o asid va false) 4)
    have ht : Reached u t := by
      unfold t
      split
      · exact endMove_reached ..
      · exact .refl u
    refine hu.trans (ht.trans ?_)
    split
    · exact .ite (fetchPage_reached ..) (.refl t)
    · exact .refl t

theorem resolve_reached (n : Nat) (nd : Need) : Reached s (resolve s d asid va n nd).1 :=
  resolve_keeps .refl .trans (fun t o b => .of_stored (placeOf_stored t o asid va b)) (fun t o l => .of_stored (markDirty_stored t o asid va l))
    (fun t o h pa => underKey_reached t o asid h pa) s d n nd

theorem engLoc_reached (n : Nat) (w : Bool) : Reached s (engLoc s d asid va n w).1 := by
  unfold engLoc
  have h := resolve_reached s d asid va n ⟨!w, w, w, false⟩
  generalize resolve s d asid va n ⟨!w, w, w, false⟩ = r at h
  obtain ⟨t, r⟩ := r
  dsimp only at h ⊢
  split <;> exact h

theorem engGet_reached (l : Loc) (n : Nat) : Reached s (engGet s d asid va l n).1 := by
  unfold engGet
  split
  · split
    · exact foundBad_reached ..
    · exact .refl s
  · next target _ a =>
    have h := systemRead_reached s target a.toNat n
    generalize systemRead s target a.toNat n = r at h
    obtain ⟨t, r⟩ := r
    cases r <;> exact h
  · exact .refl s
  · next g =>
    have h := ask_reached s (d / 4) asid va g (.read n)
    generalize ask s (d / 4) g asid va (.read n) = r at h
    obtain ⟨t, r⟩ := r
    cases r with
    | none => exact h
    | some r =>
      dsimp only
      split
      · exact h
      split
      · exact h
      split
      · exact h.trans (.of_dies rfl)
      · exact h

/-- A piece of a range is read behind those before it. -/
theorem engFetch_reached (n : Nat) : Reached s (engFetch s d asid va n).1 := by
  suffices H : ∀ (l : List (Nat × Nat)) (acc : State × Except Nat Fetched) (f : State × Except Nat Fetched → Nat × Nat → State × Except Nat Fetched),
      (∀ a p, Reached a.1 (f a p).1) → Reached acc.1 (l.foldl f acc).1 by
    refine H _ (s, .ok {}) _ fun a p => ?_
    obtain ⟨t, r⟩ := a
    cases r with
    | error e => exact .refl t
    | ok x =>
      dsimp only
      have h := engLoc_reached t d asid p.1 p.2 false
      generalize engLoc t d asid p.1 p.2 false = r at h
      obtain ⟨u, r⟩ := r
      cases r with
      | error e => exact h
      | ok l =>
        have g := engGet_reached u d asid p.1 l p.2
        dsimp only
        generalize engGet u d asid p.1 l p.2 = q at g
        obtain ⟨v, q⟩ := q
        cases q <;> exact h.trans g
  intro l
  induction l with
  | nil => exact fun acc _ _ => .refl acc.1
  | cons p l ih => exact fun acc f hf => (hf acc p).trans (ih _ f hf)

/-- A read of firmware reaches memory alone. -/
theorem fwRead_reached (n : Nat) : Reached s (fwRead s d asid va n).1 := by
  unfold fwRead dieRead
  refine Reached.trans (.foldl (fun t p => fetchOnePage_reached t d asid p) (pagesOf [(va, n)]) s) ?_
  change Reached (fetchRange d asid (pagesOf [(va, n)]) s) _
  dsimp only
  split
  · exact .refl _
  · exact engFetch_reached ..

theorem setFullRange_reached (die pa n : Nat) (f : Option Bool) : Reached s (setFullRange s die pa n f) := by
  unfold setFullRange
  split
  · exact .refl s
  · refine .of_modDie s die ?_
    generalize dieOf s die = k
    suffices H : ∀ (l : List Nat) (k : Die) (b : Bool), (l.foldl (fun d w => setFull d (8 * w) b) k).putReached k = k from H _ k _
    intro l
    induction l with
    | nil => exact fun k b => rfl
    | cons w l ih => exact fun k b => congrArg (·.putReached k) (ih (setFull k (8 * w) b) b)

/-- A write of an engine, whose pieces are put by what reaches memory alone. -/
theorem engPut_reached {put : State → Nat → Nat → List Byte → State} (hput : ∀ s die pa bs, Reached s (put s die pa bs)) (kind : WriteKind) (bs : List Byte) :
    Reached s (engPut kind put s d asid va bs).1 := by
  suffices H : ∀ (l : List (Nat × Nat)) (acc : State × List Byte × Except Nat Unit) (f : State × List Byte × Except Nat Unit → Nat × Nat → State × List Byte × Except Nat Unit),
      (∀ a p, Reached a.1 (f a p).1) → Reached acc.1 (l.foldl f acc).1 by
    refine H _ (s, bs, .ok ()) _ fun a p => ?_
    obtain ⟨t, now, r⟩ := a
    cases r with
    | error e => exact .refl t
    | ok x =>
      dsimp only
      have h := engLoc_reached t d asid p.1 p.2 true
      generalize engLoc t d asid p.1 p.2 true = r at h
      obtain ⟨u, r⟩ := r
      cases r with
      | error e => exact h
      | ok l => cases l with
        | home die pa _ _ _ _ => exact h.trans (hput ..)
        | accum _ _ _ => exact h
        | system target _ a => exact h.trans (systemWrite_reached ..)
        | remote g =>
          have hask := ask_reached u (d / 4) asid p.1 g (.write (now.take p.2) kind)
          dsimp only
          generalize ask u (d / 4) g asid p.1 (.write (now.take p.2) kind) = q at hask
          obtain ⟨v, q⟩ := q
          cases q <;> exact h.trans hask
  intro l
  induction l with
  | nil => exact fun acc _ _ => .refl acc.1
  | cons p l ih => exact fun acc f hf => (hf acc p).trans (ih _ f hf)

/-- A write of a die's engine reaches memory alone. -/
theorem dieWrite_reached (cl : Option Nat) (bs : List Byte) : Reached s (dieWrite s d cl asid va bs).1 := by
  have h : ∀ k, Reached s (engWrite s k asid va bs none).1 := fun k =>
    engPut_reached s k asid va (fun t die pa now => (Reached.of_stored (physWrite_stored ..)).trans (setFullRange_reached ..)) _ bs
  unfold dieWrite
  split
  · exact h _
  · exact fst_ite (P := Reached s) (.refl s) (h _)

end

end Sys2Proof.Machine
end

section
/-! Boundaries and checkpoints (14 R365 to R367), program traps and returns (14 R372 to R375), and the L slot's loads, stores, cache lines and tiles
(15 R389 to R395, R404): what each statement says of them. -/

namespace Sys2Proof.Machine

/-! ### Boundaries, checkpoints, yields (14 R365 to R367) -/

/-- A run reserved above a size is no matter of first-level lines. -/
theorem runAbove_slotState (s : State) (x u : Nat) (i : Instr) :
    runAbove (coreOf (slotState s x i) s.turn) x u = runAbove (coreOf s s.turn) x u := by
  obtain ⟨l, h⟩ := slotState_core s x i s.turn
  rw [h]
  rfl

/-- The boundary of a slot's state. -/
@[simp] theorem spadUnits_slotState (s : State) (x : Nat) (i : Instr) (c : Nat) :
    (coreOf (slotState s x i) c).spadUnits = (coreOf s c).spadUnits := by
  obtain ⟨l, h⟩ := slotState_core s x i c
  rw [h]

/-- No drain is under way at a ready core's slot. -/
theorem Ready.noDrain {s : State} {x : Nat} {i j : Instr} (r : Ready s x i) : (coreOf (slotState s x j) s.turn).drain = none := by
  obtain ⟨l, h⟩ := slotState_core s x j s.turn
  rw [h]
  exact r.calm.drain

/-- A moved boundary with the drain it starts. -/
theorem moveBoundary_core (s : State) (c u : Nat) :
    let m := coreOf (moveBoundary s c u) c
    m.spadUnits = u ∧ m.drain = some (m.ic + 256 * (max u (coreOf s c).spadUnits - min u (coreOf s c).spadUnits), (coreOf s c).spadUnits) := by
  simp only [moveBoundary, coreOf_modCore, if_true, and_self]

/-- Settles O8: PHASE's two effects on a core without a drain; CKPT and YIELD leave their state as it is. -/
theorem phaseCheckpointAndYield : Obligations.PhaseCheckpointAndYield := by
  intro s x u k
  refine ⟨fun hu => ?same, fun hu hrun => ⟨?moves, ?drains⟩, Results.of (fun _ => rfl) rfl, Yields.of (fun _ => rfl) rfl⟩
  case same =>
    refine Yields.of_ready (fun _ => rfl) fun r => ?_
    change effPhase u _ _ = _
    simp only [effPhase, soloEnv_core, r.noDrain, Option.isSome_none, Bool.false_eq_true, if_false, spadUnits_slotState]
    exact if_pos hu
  case moves =>
    refine Yields.of_ready (fun _ => rfl) fun r => ?_
    change effPhase u _ _ = _
    have hnone : (if u.toNat < k.spadUnits then runAbove k x u.toNat else none) = none := by
      split
      · next h => exact hrun h
      · rfl
    simp only [effPhase, soloEnv_core, soloEnv_ctx, r.noDrain, Option.isSome_none, Bool.false_eq_true, if_false, spadUnits_slotState, runAbove_slotState]
    rw [if_neg hu, hnone]
    rfl
  case drains =>
    have h := moveBoundary_core (slotState s x (.phase u)) s.turn u.toNat
    rw [spadUnits_slotState] at h
    exact h

/-! ### Program traps and returns (14 R372 to R375) -/

/-- Where a handler's return goes on, at the issue of one instruction. -/
@[simp] theorem resumeAddr_soloEnv (s : State) (x : Nat) (i : Instr) (nx : Bool) :
    resumeAddr (soloEnv s x i) (slotState s x i) nx =
      if nx then nextAddr (coreOf s s.turn) (fld (ctxOf s s.turn x).epc 17 0) else fld (ctxOf s s.turn x).epc 17 0 := by
  simp only [resumeAddr, soloEnv_t, soloEnv_core, coreOf_slotState, nextAddr_acquired]

/-- Settles O10: each effect is its trap or its leave, by the tests of its target and of its choice. -/
theorem programTrapsAndReturns : Obligations.ProgramTrapsAndReturns := by
  intro s x imm a nx k epc y
  have heret : slotEffect (.eret nx) = effEret nx := rfl
  have hctxsw : slotEffect (.ctxsw a nx) = effCtxsw a nx := rfl
  refine ⟨.of (fun _ => rfl) rfl, .of (fun _ => rfl) rfl, .of (fun _ => rfl) rfl, fun ht => ?eret, fun ht => ?eretBad, fun h => ?ctxsw,
    fun hs ht => ?ctxswBad, ?halt⟩
  case eret =>
    apply Yields.of (fun _ => rfl)
    rw [heret]
    simp only [effEret, resumeAddr_soloEnv, soloEnv_core, soloEnv_ctx, coreOf_slotState, targetOk_acquired]
    exact if_pos ht
  case eretBad =>
    apply TakesTrap.of (fun _ => rfl)
    rw [heret]
    simp only [effEret, resumeAddr_soloEnv, soloEnv_core, soloEnv_ctx, coreOf_slotState, targetOk_acquired]
    exact if_neg (by rw [ht]; decide)
  case ctxsw =>
    apply Yields.of (fun _ => rfl)
    rw [hctxsw]
    simp only [effCtxsw, resumeAddr_soloEnv, soloEnv_core, soloEnv_ctx, soloEnv_src, choosesSelf_slotState, coreOf_slotState, targetOk_acquired]
    refine if_neg ?_
    rw [Bool.and_eq_true, not_and, Bool.not_eq_true, Bool.not_eq_false']
    exact fun hc => h.resolve_left (by rw [hc]; decide)
  case ctxswBad =>
    apply TakesTrap.of (fun _ => rfl)
    rw [hctxsw]
    simp only [effCtxsw, resumeAddr_soloEnv, soloEnv_core, soloEnv_ctx, soloEnv_src, choosesSelf_slotState, coreOf_slotState, targetOk_acquired]
    refine if_pos ?_
    rw [hs]
    exact Bool.not_eq_true' _ ▸ ht
  case halt =>
    apply Yields.of (fun _ => rfl)
    change effHalt nx _ _ = _
    simp only [effHalt, resumeAddr_soloEnv]
    rfl

/-! ### Scalar loads and stores (15 R386, R389, R390) -/

/-- The address of a load or store at the issue of one instruction. -/
@[simp] theorem mAddr_ctxOf (s : State) (x : Nat) (ab : AReg) (n : Nat) (off : BitVec 12) :
    mAddr (ctxOf s s.turn x) ab n off = addrOf s x ab + off.signExtend 64 * BitVec.ofNat 64 (2 ^ n) := rfl

section
variable {s : State} {x : Nat} {i : Instr}

/-- A ready core's load waits for no order. -/
theorem Ready.devBehind (r : Ready s x i) (c va n : Nat) :
    Sys2Proof.Machine.devBehind (slotState s x i) c va n ((soloEnv s x i).t (slotState s x i)) = false := by
  simp only [Sys2Proof.Machine.devBehind, soloEnv_t, r.spec]

/-- A ready core's context keeps no store back. -/
theorem Ready.backFull (r : Ready s x i) : Sys2Proof.Machine.backFull ((soloEnv s x i).t (slotState s x i)) = false := by
  simp only [Sys2Proof.Machine.backFull, soloEnv_t, r.spec]

/-- What an instruction whose effect is a scalar load gives, by what its access meets. -/
theorem load_outcomes {d : SCode} {ab : AReg} {sz : BitVec 2} {off : BitVec 12} {signed : Bool} {hint : Nat} (hx : Issues i)
    (he : slotEffect i = load signed hint d ab sz off) (s' : State) (bs : List Byte) :
    let va : Word := addrOf s x ab + off.signExtend 64 * BitVec.ofNat 64 (2 ^ sz.toNat)
    let n := 2 ^ sz.toNat
    (va.toNat % n = 0 → coreRead (slotState s x i) s.turn x va.toNat n hint false = (s', .bytes bs) →
      Yields s x i s' [] [{ ctx := x, dst := some d.toNat, val := .data (extendBytes n signed (leNat bs)), p7 := some true }] .next) ∧
    (va.toNat % n = 0 → coreRead (slotState s x i) s.turn x va.toNat n hint false = (s', .nonres) →
      Yields s x i s' [] [{ ctx := x, dst := some d.toNat, p7 := some false }] .next) ∧
    (va.toNat % n ≠ 0 → TakesTrap s x i 8 va) := by
  intro va n
  have hgo : ∀ g, Ready s x i → va.toNat % n = 0 → coreRead (slotState s x i) s.turn x va.toNat n hint false = (s', g) →
      slotEffect i (soloEnv s x i) (slotState s x i) =
        loadRes (soloEnv s x i) s' d va n signed hint g fun t => (coreRead t s.turn x va.toNat n hint false).1 := by
    intro g r hal hrd
    rw [he]
    unfold load
    simp only [soloEnv_t, mAddr_ctxOf, soloEnv_core, soloEnv_ctx]
    rw [if_neg (not_not.mpr hal), asDirect_of_not _ (r.devBehind ..), hrd]
  refine ⟨fun hal hrd => .of_ready hx fun r => hgo _ r hal hrd, fun hal hrd => .of_ready hx fun r => hgo _ r hal hrd, fun hal => .of hx ?_⟩
  rw [he]
  unfold load
  simp only [soloEnv_t, mAddr_ctxOf]
  exact if_pos hal

end

/-- Settles O11: LD, LDS and LDLU are loads that differ in sign and hint. -/
theorem scalarLoads : Obligations.ScalarLoads := by
  intro s s' x d ab sz off bs va n reply plain
  exact ⟨load_outcomes (fun _ => rfl) rfl s' bs, load_outcomes (fun _ => rfl) rfl s' bs, load_outcomes (fun _ => rfl) rfl s' bs⟩

/-- Settles O12: a store on a ready core waits for no order, and its reply is by what its access meets. -/
theorem scalarStores : Obligations.ScalarStores := by
  intro s s' x b ab sz off va n go
  have heff : slotEffect (.st b ab sz off) = store b ab sz off := rfl
  have hgo : ∀ g, Ready s x (.st b ab sz off) → va.toNat % n = 0 → go = (s', g) →
      slotEffect (.st b ab sz off) (soloEnv s x (.st b ab sz off)) (slotState s x (.st b ab sz off)) =
        (match g with
        | .bytes _ => .ok s' [] [{ ctx := x, store := true, p7 := some true }] .next
        | .nonres => .ok s' [] [{ ctx := x, store := true, p7 := some false }] .next
        | .outside tag => .ok s' [] [{ ctx := x, store := true, p7 := some true, val := .outside 0 false va [], tag := tag }] .next
        | .wait => .ok s' [] [{ ctx := x, store := true, p7 := some true, val := .held (.store va.toNat (leBytes n (operand s x b).toNat)) }] .next
        | g => gotRes s' va g) := by
    intro g r hal hwr
    rw [heff]
    unfold store
    simp only [soloEnv_t, mAddr_ctxOf, soloEnv_core, soloEnv_ctx]
    rw [if_neg (not_not.mpr hal), asDirect_of_not _ r.backFull]
    simp only [soloEnv_src]
    generalize hz : coreWrite _ _ _ _ _ _ _ = z
    obtain rfl : z = (s', g) := hz.symm.trans hwr
    cases g <;> rfl
  refine ⟨fun bs hal hwr => .of_ready (fun _ => rfl) fun r => hgo _ r hal hwr, fun hal hwr => .of_ready (fun _ => rfl) fun r => hgo _ r hal hwr,
    fun hal => .of (fun _ => rfl) ?_⟩
  rw [heff]
  unfold store
  simp only [soloEnv_t, mAddr_ctxOf]
  exact if_pos hal

/-! ### Cache lines (15 R404) -/

section
variable {s : State} {x : Nat} {i : Instr} {ab : AReg} {off : BitVec 12} {disc : Bool}

/-- The address that a cache instruction names. -/
def lineVa (s : State) (x : Nat) (ab : AReg) (off : BitVec 12) : Word := addrOf s x ab + off.signExtend 64 * 8

/-- The address of a cache instruction at the issue of one instruction. -/
theorem mAddr_line (s : State) (x : Nat) (ab : AReg) (off : BitVec 12) : mAddr (ctxOf s s.turn x) ab 3 off = lineVa s x ab off := rfl

/-- A cache instruction has no effect in system space. -/
theorem lineOp_system (h : (lineVa s x ab off).toNat / 2 ^ 56 = 0xFF) :
    lineOp disc ab off (soloEnv s x i) (slotState s x i) = nothing (slotState s x i) := by
  simp only [lineOp, soloEnv_t, mAddr_line]
  exact if_pos h

/-- CFLUSH or CDISC of a page on which it has no effect. -/
theorem lineOp_quiet (h : (lineVa s x ab off).toNat / 2 ^ 56 ≠ 0xFF)
    (hl : lineLoc (slotState s x i) s.turn (ctxOf s s.turn x).asid (lineVa s x ab off).toNat = .quiet) :
    lineOp disc ab off (soloEnv s x i) (slotState s x i) = nothing (slotState s x i) := by
  simp only [lineOp, soloEnv_t, mAddr_line, soloEnv_core]
  refine (if_neg h).trans ?_
  rw [hl]

/-- CFLUSH or CDISC of a cached page: its permission decides. -/
theorem lineOp_page {die pa ca : Nat} {rd wr : Bool} (h : (lineVa s x ab off).toNat / 2 ^ 56 ≠ 0xFF)
    (hl : lineLoc (slotState s x i) s.turn (ctxOf s s.turn x).asid (lineVa s x ab off).toNat = .page die pa ca rd wr) :
    lineOp disc ab off (soloEnv s x i) (slotState s x i) =
      if (if disc then wr else rd) then
        nothing (lineDo (slotState s x i) s.turn (ctxOf s s.turn x).asid (lineVa s x ab off).toNat disc die pa)
      else .late id 0x09 0 0 (lineVa s x ab off) := by
  simp only [lineOp, soloEnv_t, mAddr_line, soloEnv_core]
  refine (if_neg h).trans ?_
  rw [hl]

/-- CPREF has no effect in system space. -/
theorem effCpref_system (h : (lineVa s x ab off).toNat / 2 ^ 56 = 0xFF) :
    effCpref ab off (soloEnv s x i) (slotState s x i) = nothing (slotState s x i) := by
  simp only [effCpref, soloEnv_t, mAddr_line]
  exact if_pos h

/-- CPREF of a cached page. -/
theorem effCpref_page {die pa ca : Nat} {rd wr : Bool} (h : (lineVa s x ab off).toNat / 2 ^ 56 ≠ 0xFF)
    (hl : lineLoc (slotState s x i) s.turn (ctxOf s s.turn x).asid (lineVa s x ab off).toNat = .page die pa ca rd wr) :
    effCpref ab off (soloEnv s x i) (slotState s x i) = nothing (cachedRead (slotState s x i) s.turn (ctxOf s s.turn x).asid
      ((lineVa s x ab off).toNat / 64 * 64) die (pa / 64 * 64) 64 ⟨ca, 0⟩).1 := by
  simp only [effCpref, soloEnv_t, mAddr_line, soloEnv_core]
  refine (if_neg h).trans ?_
  rw [hl]

/-- CPREF of any other page. -/
theorem effCpref_other (h : (lineVa s x ab off).toNat / 2 ^ 56 ≠ 0xFF)
    (hl : ∀ die pa ca rd wr,
      lineLoc (slotState s x i) s.turn (ctxOf s s.turn x).asid (lineVa s x ab off).toNat ≠ .page die pa ca rd wr) :
    effCpref ab off (soloEnv s x i) (slotState s x i) = nothing (slotState s x i) := by
  simp only [effCpref, soloEnv_t, mAddr_line, soloEnv_core]
  refine (if_neg h).trans ?_
  generalize lineLoc (slotState s x i) s.turn (ctxOf s s.turn x).asid (lineVa s x ab off).toNat = l at hl
  cases l with
  | page die pa ca rd wr => exact absurd rfl (hl die pa ca rd wr)
  | quiet => rfl
  | away g => rfl
  | bad f => rfl

end

/-- Settles O13: nothing in system space; elsewhere by what the instruction meets at the page of its line. -/
theorem cacheLineInstructions : Obligations.CacheLineInstructions := by
  intro s x ab off va asid z at_ i j k late
  have hi : Issues i := fun _ => rfl
  have hj : Issues j := fun _ => rfl
  have hk : Issues k := fun _ => rfl
  have ei : slotEffect i (soloEnv s x i) (z i) = lineOp false ab off (soloEnv s x i) (z i) := rfl
  have ej : slotEffect j (soloEnv s x j) (z j) = lineOp true ab off (soloEnv s x j) (z j) := rfl
  have ek : slotEffect k (soloEnv s x k) (z k) = effCpref ab off (soloEnv s x k) (z k) := rfl
  have hlate : ∀ q : Instr, Issues q → (q.homeSlot.getD .c).num = 3 → slotEffect q (soloEnv s x q) (z q) = .late id 0x09 0 0 va → late q s := by
    intro q hq hn he r
    rw [hq, r.lates he, hn]
  refine ⟨fun hs => ⟨.of hi (ei.trans (lineOp_system hs)), .of hj (ej.trans (lineOp_system hs)), .of hk (ek.trans (effCpref_system hs))⟩,
    fun hs => ⟨fun h pa ca rd wr hp => ?flush, fun h pa ca rd wr hp => ?discard, fun hq => ?flushQuiet, fun hq => ?discardQuiet,
      fun h pa ca rd wr hp => ?pref, fun hn => ?prefQuiet⟩⟩
  case flush =>
    have he := ei.trans (lineOp_page hs hp)
    exact ⟨fun hrd => .of hi (he.trans (if_pos hrd)), fun hrd => hlate i hi rfl (he.trans (if_neg (Bool.not_eq_true _ ▸ hrd)))⟩
  case discard =>
    have he := ej.trans (lineOp_page hs hp)
    exact ⟨fun hwr => .of hj (he.trans (if_pos hwr)), fun hwr => hlate j hj rfl (he.trans (if_neg (Bool.not_eq_true _ ▸ hwr)))⟩
  case flushQuiet => exact .of hi (ei.trans (lineOp_quiet hs hq))
  case discardQuiet => exact .of hj (ej.trans (lineOp_quiet hs hq))
  case pref => exact .of hk (ek.trans (effCpref_page hs hp))
  case prefQuiet => exact .of hk (ek.trans (effCpref_other hs hn))

/-! ### Tiles (15 R394, R395) -/

/-- A tile access none of whose elements failed. -/
theorem pickFail_nil (s : State) : pickFail s [] = none := rfl

/-- Settles O14: without a trap and without a failed element the rows answer; else the trap of the shape and alignment tests. -/
theorem tileLoadsAndStores : Obligations.TileLoadsAndStores := by
  intro s x v ab ps mk hint t base pitch m rows z ld st reply
  have hld : slotEffect (.vld v ab ps mk hint) = effVld v ab ps mk hint := rfl
  have hst : slotEffect (.vst v ab ps mk hint) = effVst v ab ps mk hint := rfl
  refine ⟨fun ht hf => .of (fun _ => rfl) ?load, fun ht hf => .of_ready (fun _ => rfl) fun r => ?store,
    fun n w ht => ⟨.of (fun _ => rfl) ?loadTrap, .of (fun _ => rfl) ?storeTrap⟩⟩
  case load =>
    rw [hld]
    simp only [effVld, soloEnv_t, soloEnv_areg, soloEnv_src, soloEnv_core, soloEnv_ctx]
    rw [show tileTrap _ _ _ _ _ = none from ht]
    dsimp only
    rw [show (loadTile _ _ _ _ _ _ _ _ _).fails = [] from hf]
    rfl
  case store =>
    rw [hst]
    simp only [effVst, soloEnv_t, soloEnv_areg, soloEnv_src, soloEnv_core, soloEnv_ctx]
    rw [show tileTrap _ _ _ _ _ = none from ht]
    dsimp only
    rw [asDirect_of_not _ r.backFull]
    simp only [coreOf_slotState, vReg_acquired]
    rw [show (storeTile _ _ _ _ (vReg (coreOf s s.turn) v.toNat) _ _ _ _ _).fails = [] from hf]
    rfl
  case loadTrap =>
    rw [hld]
    simp only [effVld, soloEnv_t, soloEnv_areg, soloEnv_src]
    rw [show tileTrap _ _ _ _ _ = some (n, w) from ht]
  case storeTrap =>
    rw [hst]
    simp only [effVst, soloEnv_t, soloEnv_areg, soloEnv_src]
    rw [show tileTrap _ _ _ _ _ = some (n, w) from ht]

end Sys2Proof.Machine
end

section
/-! Full/empty accesses (15 R391 to R393), counters and rings (15 R396 to R399), fences, curtains, bindings, page requests, accumulator atomics and
TLB invalidation (15 R400 to R407): what each statement says of them. -/

namespace Sys2Proof.Machine

/-! ### Full/empty accesses (15 R391 to R393) -/

section
variable {s s1 : State} {x h pa : Nat} {i : Instr} {d b : SCode} {aa : AReg} {sc ord : BitVec 3} {ce : Bool}

/-- The word that a full/empty access names is aligned and lies on a die of this module. -/
def FeHere (s s1 : State) (x : Nat) (i : Instr) (aa : AReg) (wr : Bool) (h pa : Nat) (ce : Bool) : Prop :=
  (addrOf s x aa).toNat % 8 = 0 ∧ feLoc (slotState s x i) (soloEnv s x i) (addrOf s x aa) wr = (s1, .word h pa ce)

/-- LDW and LDC on a full word whose check agrees. -/
theorem feLoad_full {take : Bool} (hw : FeHere s s1 x i aa take h pa ce) (hc : ¬(ce && badCheck s1 h pa 8) = true)
    (hf : fullBit (dieOf s1 h) pa = true) :
    let t := if take then putFull s1 h pa false else modCtx s1 s.turn x (noteRead · (addrOf s x aa).toNat)
    let r := feAcquire (wakeWord t h (pa / 8)) (soloEnv s x i) h pa (addrOf s x aa) sc ord
    feLoad take d aa sc ord (soloEnv s x i) (slotState s x i) =
      .ok (if take then clearReleases r.1 h (.word pa) else r.1) []
        [feArrival (soloEnv s x i) (some d) (feWord s1 (soloEnv s x i) h pa (addrOf s x aa)) none (some true) r.2] .next := by
  obtain ⟨hal, hl⟩ := hw
  intro t r
  simp only [feLoad, soloEnv_areg, soloEnv_core, soloEnv_ctx, hl]
  rw [if_neg (not_not.mpr hal), if_neg hc, hf]
  rfl

/-- LDCT on a word whose check agrees: what it does by F. -/
theorem feTryLoad_at (hw : FeHere s s1 x i aa true h pa ce) (hc : ¬(ce && badCheck s1 h pa 8) = true) :
    let r := feAcquire (wakeWord (putFull s1 h pa false) h (pa / 8)) (soloEnv s x i) h pa (addrOf s x aa) sc ord
    feTryLoad d (addrOf s x aa) sc ord (soloEnv s x i) (slotState s x i) =
      if fullBit (dieOf s1 h) pa then
        .ok (clearReleases r.1 h (.word pa)) []
          [feArrival (soloEnv s x i) (some d) (feWord s1 (soloEnv s x i) h pa (addrOf s x aa)) (some true) (some true) r.2] .next
      else .ok s1 [] [feArrival (soloEnv s x i) none 0 (some false) (some true) 0] .next := by
  obtain ⟨hal, hl⟩ := hw
  simp only [feTryLoad, hl]
  rw [if_neg (not_not.mpr hal), if_neg hc]

/-- STF on an empty word. -/
theorem effStf_empty (hw : FeHere s s1 x i aa true h pa ce) (hf : fullBit (dieOf s1 h) pa = false) :
    effStf aa b sc ord (soloEnv s x i) (slotState s x i) =
      .ok (feFill s1 (soloEnv s x i) h pa (addrOf s x aa) (operand s x b) sc ord) [] [feArrival (soloEnv s x i) none 0 none (some true) 0] .next := by
  obtain ⟨hal, hl⟩ := hw
  simp only [effStf, soloEnv_areg, soloEnv_src, hl]
  rw [if_neg (not_not.mpr hal), hf]
  rfl

/-- STFT: what it does by F. -/
theorem feTryFill_at {v : Word} (hw : FeHere s s1 x i aa true h pa ce) :
    feTryFill (addrOf s x aa) v sc ord (soloEnv s x i) (slotState s x i) =
      if fullBit (dieOf s1 h) pa then .ok s1 [] [feArrival (soloEnv s x i) none 0 (some false) (some true) 0] .next
      else .ok (feFill s1 (soloEnv s x i) h pa (addrOf s x aa) v sc ord) [] [feArrival (soloEnv s x i) none 0 (some true) (some true) 0] .next := by
  obtain ⟨hal, hl⟩ := hw
  simp only [feTryFill, hl]
  rw [if_neg (not_not.mpr hal)]

/-- FEQ. -/
theorem feQuery_at (hw : FeHere s s1 x i aa false h pa ce) :
    let r := feAcquire (modCtx s1 s.turn x (noteRead · (addrOf s x aa).toNat)) (soloEnv s x i) h pa (addrOf s x aa) sc ord
    feQuery d (addrOf s x aa) sc ord (soloEnv s x i) (slotState s x i) =
      .ok r.1 [] [feArrival (soloEnv s x i) (some d)
        (BitVec.ofNat 64 ((fullBit (dieOf s1 h) pa).toNat + 2 * (waitBit (dieOf s1 h) pa).toNat)) none (some true) r.2] .next := by
  obtain ⟨hal, hl⟩ := hw
  simp only [feQuery, soloEnv_core, soloEnv_ctx, hl]
  rw [if_neg (not_not.mpr hal)]

/-- FEMK. -/
theorem feMark_at {v : Word} (hw : FeHere s s1 x i aa true h pa ce) :
    feMark (addrOf s x aa) v sc ord (soloEnv s x i) (slotState s x i) =
      .ok (feRelease (clearReleases (wakeWord (putFull (fePublish s1 (soloEnv s x i) (addrOf s x aa) ord) h pa (bitOf v 0)) h (pa / 8)) h (.word pa))
          (soloEnv s x i) h pa sc ord) [] [feArrival (soloEnv s x i) none 0 none (some true) 0] .next := by
  obtain ⟨hal, hl⟩ := hw
  simp only [feMark, hl]
  rw [if_neg (not_not.mpr hal)]

end

/-- Settles O15: each form by the lemma that says what it does at the word's home. -/
theorem fullEmptyAccesses : Obligations.FullEmptyAccesses := by
  intro s s1 x d b aa sc ord h pa ce va v e full here clean word got taken lands stored ldw ldc ldct stf stft feq femk
  have eldct : slotEffect ldct (e ldct) (slotState s x ldct) = feTryLoad d va sc ord (e ldct) (slotState s x ldct) :=
    congrArg (fun a => feTryLoad d a sc ord (e ldct) (slotState s x ldct)) (soloEnv_areg s x ldct aa)
  have estft : slotEffect stft (e stft) (slotState s x stft) = feTryFill va v sc ord (e stft) (slotState s x stft) :=
    congrArg₂ (fun a w => feTryFill a w sc ord (e stft) (slotState s x stft)) (soloEnv_areg s x stft aa) (soloEnv_src s x stft b)
  have efeq : slotEffect feq (e feq) (slotState s x feq) = feQuery d va sc ord (e feq) (slotState s x feq) :=
    congrArg (fun a => feQuery d a sc ord (e feq) (slotState s x feq)) (soloEnv_areg s x feq aa)
  have efemk : slotEffect femk (e femk) (slotState s x femk) = feMark va v sc ord (e femk) (slotState s x femk) :=
    congrArg₂ (fun a w => feMark a w sc ord (e femk) (slotState s x femk)) (soloEnv_areg s x femk aa) (soloEnv_src s x femk b)
  have hempty : full = false → ¬full = true := fun hf => by rw [hf]; decide
  refine ⟨fun hw hc hf => .of (fun _ => rfl) ?_, fun hw hc hf => .of (fun _ => rfl) ?_, fun hw hc hf => .of (fun _ => rfl) ?_,
    fun hw hc hf => .of (fun _ => rfl) ?_, fun hw hf => .of (fun _ => rfl) ?_, fun hw hf => .of (fun _ => rfl) ?_, fun hw hf => .of (fun _ => rfl) ?_,
    fun hw => .of (fun _ => rfl) ?_, fun hw => .of (fun _ => rfl) ?_⟩
  · exact feLoad_full (take := false) hw hc hf
  · exact feLoad_full (take := true) hw hc hf
  · exact eldct.trans ((feTryLoad_at hw hc).trans (if_pos hf))
  · exact eldct.trans ((feTryLoad_at hw hc).trans (if_neg (hempty hf)))
  · exact effStf_empty hw hf
  · exact estft.trans ((feTryFill_at hw).trans (if_neg (hempty hf)))
  · exact estft.trans ((feTryFill_at hw).trans (if_pos hf))
  · exact efeq.trans (feQuery_at hw)
  · exact efemk.trans (feMark_at hw)

/-! ### Counters and rings (15 R396 to R399) -/

/-- Fields of a descriptor are in range by where its counters are. -/
@[simp] theorem ringOk_slotState (s : State) (x : Nat) (i : Instr) (r : RingDesc) : ringOk (slotState s x i) r = ringOk s r := by
  simp only [ringOk, localDie_slotState]

section
variable {s : State} {x h : Nat} {i : Instr} {d a b : SCode} {sc ord : BitVec 3}

/-- A counter id is of a die of this module. -/
def CtrHere (s : State) (h id : Nat) : Prop := routed s (ctrDie id) = true ∧ localDie s (ctrDie id) = some h

/-- CADD on a counter of this module whose sum stays in range, outside a speculative task. -/
theorem effCadd_here (hh : CtrHere s h (ctrId (operand s x a))) (hsp : (ctxOf s s.turn x).spec = none)
    (hr : (ctrVal s h (ctrIdx (ctrId (operand s x a)))).toNat + (operand s x b).toNat ≤ ctrMax) :
    let id := ctrId (operand s x a)
    let s1 := (coreAdd (slotState s x i) s.turn id (operand s x b) (relScope sc ord)).1
    let s2 := if ord.getLsbD 0 then ctrAcquire s1 (soloEnv s x i) h id sc.toNat else (s1, 0)
    effCadd d a b sc ord (soloEnv s x i) (slotState s x i) =
      .ok s2.1 [] [valueArrival (soloEnv s x i) d (ctrVal s h (ctrIdx id)) s2.2] .next := by
  obtain ⟨hrt, hl⟩ := hh
  simp only [effCadd, soloEnv_src, soloEnv_t, soloEnv_core, routed_slotState, localDie_slotState, ctrVal_slotState, hrt, hl, hsp]
  rw [if_neg (by decide), if_neg (Nat.not_lt.mpr hr)]
  rfl

/-- CWAIT and CREAD on a counter of this module whose value will do. -/
theorem ctrGet_here {ready : Word → Bool} {least : Word} {hold : Hold} (hh : CtrHere s h (ctrId (operand s x a)))
    (hr : ready (ctrVal s h (ctrIdx (ctrId (operand s x a)))) = true) :
    let id := ctrId (operand s x a)
    let s2 := if ord = 1 then ctrAcquire (slotState s x i) (soloEnv s x i) h id sc.toNat else (slotState s x i, 0)
    ctrGet ready least hold d a sc ord (soloEnv s x i) (slotState s x i) =
      .ok s2.1 [] [valueArrival (soloEnv s x i) d (ctrVal s h (ctrIdx id)) s2.2] .next := by
  obtain ⟨hrt, hl⟩ := hh
  simp only [ctrGet, soloEnv_src, routed_slotState, localDie_slotState, ctrVal_slotState, hrt, hl, hr]
  rfl

/-- The state of an RBACQ that has taken ticket n. -/
def ticketHeld (s : State) (c x ring : Nat) (n : Word) : State := modCtx s c x fun t => { t with ticket := some (ring, n) }

/-- The state of an RBACQ whose ticket has become its buffer. -/
def bufferHeld (s : State) (c x ring : Nat) (n : Word) : State :=
  modCtx (ticketHeld s c x ring n) c x fun t => { t with ticket := none, bufs := t.bufs ++ [(ring, n)] }

/-- RBACQ where a buffer is free, with counters of this module. -/
theorem effRbacq_free {ad : AReg} {g : Nat} {r : RingDesc} {took : State × Word}
    (hr : ringOf (slotState s x i) (dieOfCore s.turn) (fld (operand s x a) 9 0) = r) (hok : ringOk s r = true)
    (ht : takeTicket (slotState s x i) (soloEnv s x i) (fld (operand s x a) 9 0) r = took)
    (hroom : took.2.toNat + 1 ≤ (ctrById (ticketHeld took.1 s.turn x (fld (operand s x a) 9 0) took.2) r.rel.toNat).toNat + r.n)
    (hg : localDie (bufferHeld took.1 s.turn x (fld (operand s x a) 9 0) took.2) (ctrDie r.rel.toNat) = some g) :
    let s3 := ctrAcquire (bufferHeld took.1 s.turn x (fld (operand s x a) 9 0) took.2) (soloEnv s x i) g r.rel.toNat sc.toNat
    effRbacq ad a sc (soloEnv s x i) (slotState s x i) =
      .ok s3.1 [] [{ ctx := x, adst := some (ad.toNat, r.base + BitVec.ofNat 64 (took.2.toNat % r.n * r.stride)), flags := s3.2 }] .next := by
  simp only [effRbacq, soloEnv_src, soloEnv_core, soloEnv_ctx, ringOk_slotState, hr, hok, ht]
  rw [if_neg (by decide)]
  refine (if_neg (Nat.not_lt.mpr hroom)).trans ?_
  unfold bufferHeld ticketHeld at hg ⊢
  rw [hg]

/-- RBREL outside a speculative task. -/
theorem effRbrel_plain (hsp : (ctxOf s s.turn x).spec = none)
    (hok : ringOk s (ringOf (slotState s x i) (dieOfCore s.turn) (fld (operand s x a) 9 0)) = true) :
    effRbrel a sc (soloEnv s x i) (slotState s x i) =
      nothing (coreAdd (modCtx (slotState s x i) s.turn x (dropBuf · (fld (operand s x a) 9 0))) s.turn
        (ringOf (slotState s x i) (dieOfCore s.turn) (fld (operand s x a) 9 0)).rel.toNat 1 (some sc.toNat)).1 := by
  simp only [effRbrel, soloEnv_src, soloEnv_core, soloEnv_ctx, soloEnv_t, ringOk_slotState, hsp, hok]
  exact if_neg (by decide)

end

/-- Settles O16: each operation on a counter of this module that nothing keeps from going on. -/
theorem countersAndRings : Obligations.CountersAndRings := by
  intro s x h d a b ad sc ord id here old inc e z scope reply ring r q took
  have ecwait : slotEffect (.cwait d a b sc ord) (e (.cwait d a b sc ord)) (z (.cwait d a b sc ord)) =
      ctrGet (fun v => decide (inc.toNat ≤ v.toNat)) inc (.ctr id inc) d a sc ord (e (.cwait d a b sc ord)) (z (.cwait d a b sc ord)) := by
    change effCwait d a b sc ord _ _ = _
    simp only [effCwait, e, z, soloEnv_src]
    rfl
  refine ⟨fun hh hsp hr => .of (fun _ => rfl) (effCadd_here hh hsp hr), fun hh hr => .of (fun _ => rfl) ?_,
    fun hh => .of (fun _ => rfl) (ctrGet_here (ready := fun _ => true) (least := 0) (hold := .owner) hh rfl),
    fun hok hroom g hg => .of (fun _ => rfl) ?_, fun hok hsp => .of (fun _ => rfl) ?_⟩
  · exact ecwait.trans (ctrGet_here hh (decide_eq_true hr))
  · have heff : slotEffect (.rbacq ad a sc) = effRbacq ad a sc := rfl
    rw [heff]
    exact effRbacq_free (r := r) (took := took) rfl hok rfl hroom hg
  · have heff : slotEffect (.rbrel a sc) = effRbrel a sc := rfl
    rw [heff]
    exact effRbrel_plain hsp hok

/-! ### Fences, curtains, bindings and the rest (15 R400 to R407) -/

/-- A list of the slot's state in a ready core's core that nothing waits in. -/
theorem Ready.idle {s : State} {x : Nat} {i j : Instr} (r : Ready s x i) :
    (coreOf (slotState s x j) s.turn).arrivals = [] ∧ (coreOf (slotState s x j) s.turn).engs = [] ∧ (coreOf (slotState s x j) s.turn).coop = none := by
  obtain ⟨l, h⟩ := slotState_core s x j s.turn
  rw [h]
  exact ⟨r.calm.awaits, r.calm.engines, r.calm.coop⟩

/-- A curtain's tests are of the curtains of its die. -/
@[simp] theorem curtainOk_slotState (s : State) (x : Nat) (i : Instr) (d asid : Nat) (base len back : Word) :
    curtainOk (slotState s x i) d asid base len back = curtainOk s d asid base len back := by
  simp only [curtainOk, curtains_slotState]

section
variable {s : State} {x h : Nat} {i : Instr} {va v : Word}

/-- A region of whole blocks on a die of this module, as BIND and UNBIND take it. -/
def RegionHere (s : State) (h : Nat) (va v : Word) : Prop :=
  va.toNat % 256 = 0 ∧ v ≠ 0 ∧ v.toNat ≤ 2 ^ 32 ∧ va.toNat / 2 ^ 56 < 0xFC ∧
    (va.toNat + 256 * v.toNat - 1) / 2 ^ 56 = va.toNat / 2 ^ 56 ∧ routed s (va.toNat / 2 ^ 56) = true ∧ localDie s (va.toNat / 2 ^ 56) = some h

/-- Such a region passes the common checks. -/
theorem regionDie_here {op : RemoteOp} (hr : RegionHere s h va v) : regionDie (slotState s x i) (soloEnv s x i) va v op = .ok h := by
  obtain ⟨hal, hn, hle, hob, hone, hrt, hl⟩ := hr
  have h1 : ¬(v = 0 ∨ 2 ^ 32 < v.toNat) := by rintro (g | g); exacts [hn g, absurd hle (Nat.not_le.mpr g)]
  have h2 : ¬(va.toNat / 2 ^ 56 = 0xFD ∨ va.toNat / 2 ^ 56 = 0xFF ∨ (va.toNat + 256 * v.toNat - 1) / 2 ^ 56 ≠ va.toNat / 2 ^ 56) := by omega
  have h3 : ¬(va.toNat / 2 ^ 56 = 0xFC ∨ va.toNat / 2 ^ 56 = 0xFE) := by omega
  simp only [regionDie, routed_slotState, localDie_slotState, hrt, hl]
  rw [if_neg (not_not.mpr hal), if_neg h1, if_neg h2, if_neg h3]
  rfl

/-- BIND to a counter or a word, on a region clear of curtains, where the die has room. -/
theorem bindAt_plain {asid form : Nat} {o : Word} (hform : form ≠ 2)
    (hclear : (dieOf s h).curtains.any (overCurtain asid (va.toNat / 65536) ((va.toNat % 65536 + 256 * v.toNat + 65535) / 65536)) = false) :
    let obj := if form = 0 then BindObj.ctr (o.setWidth 20) else if form = 1 then .word o else .curtain o
    let l := bindBlocks (dieOf s h).binds asid (va.toNat / 256) v.toNat (some obj)
    bindsOver l asid = false → bindAt (slotState s x i) h asid va v o form = some (modDie (slotState s x i) h fun k => { k with binds := l }) := by
  intro obj l hroom
  simp only [bindAt, curtains_slotState, binds_slotState, curtainOk_slotState, hform, false_and, if_false, not_false_eq_true, ne_eq, true_and, hclear,
    Bool.false_eq_true]
  exact if_neg (by rw [show bindsOver _ _ = false from hroom]; decide)

/-- BIND of a curtain. -/
theorem bindAt_curtain {asid : Nat} {o : Word} (hok : curtainOk s h asid va v o = true) :
    let l := bindBlocks (dieOf s h).binds asid (va.toNat / 256) v.toNat (some (.curtain o))
    let q : Curtain := ⟨asid, va.toNat / 65536, v.toNat / 256, o.toNat / 65536, false⟩
    bindsOver l asid = false → bindAt (slotState s x i) h asid va v o 2 = some (modDie (slotState s x i) h fun k => { k with
      binds := l, curtains := if k.curtains.any (fun p => p.asid == asid && p.base == q.base) then k.curtains else k.curtains ++ [q] }) := by
  intro l q hroom
  simp only [bindAt, curtains_slotState, binds_slotState, curtainOk_slotState, hok, true_and, not_true_eq_false, and_false, if_false, ne_eq, false_and,
    show ¬((2 : Nat) = 0) by decide, show ¬((2 : Nat) = 1) by decide, Bool.not_true, Bool.false_eq_true]
  refine (if_neg (by rw [show bindsOver _ _ = false from hroom]; decide)).trans ?_
  refine congrArg (fun f => some (modDie (slotState s x i) h f)) (funext fun k => ?_)
  cases k.curtains.any fun p => p.asid == asid && p.base == q.base <;> rfl

/-- BIND of a region of this module that the owner die takes. -/
theorem effBind_here {d b : SCode} {aa : AReg} {form : BitVec 3} {t : State} (hr : RegionHere s h (addrOf s x aa) (operand s x b))
    (hal : form = 1 → (operand s x d).toNat % 8 = 0)
    (hb : bindAt (slotState s x i) h (ctxOf s s.turn x).asid (addrOf s x aa) (operand s x b) (operand s x d) form.toNat = some t) :
    effBind d aa b form (soloEnv s x i) (slotState s x i) = nothing t := by
  have h1 : ¬((addrOf s x aa).toNat % 256 = 0 ∧ form = 1 ∧ (operand s x d).toNat % 8 ≠ 0) := fun ⟨_, hf, hn⟩ => hn (hal hf)
  simp only [effBind, soloEnv_areg, soloEnv_src, soloEnv_t, regionDie_here hr, hb]
  exact if_neg h1

/-- UNBIND of a region of this module that cuts no curtain, where the die has room. -/
theorem effUnbind_here {b : SCode} {aa : AReg} (hr : RegionHere s h (addrOf s x aa) (operand s x b)) :
    let asid := (ctxOf s s.turn x).asid
    let lo := (addrOf s x aa).toNat / 256
    let n := (operand s x b).toNat
    let hit := (dieOf s h).curtains.filter fun q => q.asid == asid && decide (256 * q.base < lo + n) && decide (lo < 256 * (q.base + q.len))
    let l := bindBlocks (dieOf s h).binds asid lo n none
    (∀ q ∈ hit, lo ≤ 256 * q.base ∧ 256 * (q.base + q.len) ≤ lo + n) → bindsOver l asid = false →
    effUnbind aa b (soloEnv s x i) (slotState s x i) =
      nothing (hit.foldl (fun s q => removeCurtain s h q) (modDie (slotState s x i) h fun k => { k with binds := l })) := by
  intro asid lo n hit l hin hroom
  have hcut : ¬(hit.any fun q => !(decide (lo ≤ 256 * q.base) && decide (256 * (q.base + q.len) ≤ lo + n))) = true := by
    simp only [Bool.not_eq_true, List.any_eq_false, Bool.not_eq_false', Bool.and_eq_true, decide_eq_true_eq]
    exact hin
  have hun : unbindAt (slotState s x i) h asid (addrOf s x aa) (operand s x b) =
      some (hit.foldl (fun s q => removeCurtain s h q) (modDie (slotState s x i) h fun k => { k with binds := l })) := by
    simp only [unbindAt, curtains_slotState, binds_slotState]
    exact (if_neg hcut).trans (if_neg (by rw [show bindsOver _ _ = false from hroom]; decide))
  simp only [effUnbind, soloEnv_areg, soloEnv_src, soloEnv_t, regionDie_here hr]
  rw [show unbindAt _ _ _ _ _ = _ from hun]

/-- PGREQ with its counter on a die of the domain and its page's owner of this module. -/
theorem effPgreq_here {b : SCode} {aa : AReg} (hc : routed s (ctrDie (ctrId (operand s x b))) = true) (hob : (addrOf s x aa).toNat / 2 ^ 56 < 0xFC)
    (hrt : routed s ((addrOf s x aa).toNat / 2 ^ 56) = true) (hl : localDie s ((addrOf s x aa).toNat / 2 ^ 56) = some h) :
    effPgreq aa b (soloEnv s x i) (slotState s x i) =
      nothing (pageAt (slotState s x i) h { asid := (ctxOf s s.turn x).asid, va := addrOf s x aa, ctr := BitVec.ofNat 20 (ctrId (operand s x b)),
                                            core := s.turn, ctx := x }) := by
  have h1 : ¬(0xFC ≤ (addrOf s x aa).toNat / 2 ^ 56 ∨ (!true) = true) := fun g => g.elim (Nat.not_le.mpr hob) (by decide)
  simp only [effPgreq, soloEnv_areg, soloEnv_src, soloEnv_t, soloEnv_core, soloEnv_ctx, routed_slotState, localDie_slotState, hc, hrt, hl]
  exact (if_neg (by decide)).trans (if_neg h1)

end

/-- Settles O17: each instruction's effect under the hypotheses that exclude its failures. -/
theorem fencesBindingsAndInvalidation : Obligations.FencesBindingsAndInvalidation := by
  intro s x h d b aa sc ord mode va v asid id z req ob region
  refine ⟨?engines, fun ho => ?fence, fun q hl hq => ?publ, fun hal => ?tlbiAlign, fun hr => ?bind, fun hr => ?unbind, fun hc hob hrt hl => ?pgreq,
    fun o off ht hf hre h1 h2 => ?accad, fun hal hob hrt hl => ?tlbi⟩
  case engines =>
    refine .of_ready (fun _ => rfl) fun r => ?_
    obtain ⟨-, he, hco⟩ := r.idle (j := .fence sc 0)
    change effFence sc 0 _ _ = _
    simp only [effFence, soloEnv_core, soloEnv_ctx, engsHeld, he, hco]
    rfl
  case fence =>
    refine .of_ready (fun _ => rfl) fun r => ?_
    obtain ⟨ha, -, -⟩ := r.idle (j := .fence sc ord)
    change effFence sc ord _ _ = _
    simp only [effFence, soloEnv_core, soloEnv_ctx, storesOut, loadsOut, ha, List.any_nil, Bool.and_false, Bool.or_self]
    rw [if_neg ho]
    rfl
  case publ =>
    apply Yields.of (fun _ => rfl)
    change effPubl aa sc _ _ = _
    simp only [effPubl, soloEnv_core, soloEnv_areg, soloEnv_t, localDie_slotState, curtainOf_slotState]
    rw [show localDie _ _ = some h from hl]
    dsimp only
    rw [show curtainOf _ _ _ _ = some q from hq]
    rfl
  case tlbiAlign =>
    apply TakesTrap.of (fun _ => rfl)
    change effTlbi aa b _ _ = _
    simp only [effTlbi, soloEnv_areg]
    exact if_pos hal
  case bind =>
    intro o pages l clear q
    have heff : ∀ form, slotEffect (.bind d aa b form) = effBind d aa b form := fun _ => rfl
    refine ⟨fun hc hroom => .of (fun _ => rfl) ?_, fun ho hc hroom => .of (fun _ => rfl) ?_, fun hok hroom => .of (fun _ => rfl) ?_⟩
    · rw [heff]
      exact effBind_here hr (fun hf => absurd hf (by decide)) (bindAt_plain (form := 0) (by decide) hc hroom)
    · rw [heff]
      exact effBind_here hr (fun _ => ho) (bindAt_plain (form := 1) (by decide) hc hroom)
    · rw [heff]
      exact effBind_here hr (fun hf => absurd hf (by decide)) (bindAt_curtain hok hroom)
  case unbind =>
    intro lo hit l hin hroom
    have heff : slotEffect (.unbind aa b) = effUnbind aa b := rfl
    apply Yields.of (fun _ => rfl)
    rw [heff]
    exact effUnbind_here hr hin hroom
  case pgreq =>
    have heff : slotEffect (.pgreq aa b) = effPgreq aa b := rfl
    refine ⟨fun hcase => .of (fun _ => rfl) ?_, fun bad hcase => .of (fun _ => rfl) ?_⟩
    · rw [heff, effPgreq_here hc hob hrt hl, pageAt, show pgCase _ _ _ _ = _ from hcase]
      rfl
    · rw [heff, effPgreq_here hc hob hrt hl, pageAt, show pgCase _ _ _ _ = _ from hcase]
      rfl
  case accad =>
    intro op
    refine .of_ready (fun _ => rfl) fun r => ?_
    change effAccad aa b mode _ _ = _
    have hal : ¬((mode = 1 ∧ (va.toNat % 4096 % 48 ≠ 0 ∨ 84 * 48 < va.toNat % 4096)) ∨ (mode ≠ 1 ∧ va.toNat % 4096 % 4 ≠ 0)) := by
      rintro (⟨hm, g⟩ | ⟨hm, g⟩)
      · have := h1 hm; omega
      · have := h2 hm; omega
    have hfree : ¬((isFirmwareCore s o = true) ∨ (coreOf s o).retired = true) := by rw [hf, hre]; decide
    simp only [effAccad, soloEnv_areg, soloEnv_src, soloEnv_t, soloEnv_core, soloEnv_ctx, isFirmwareCore_slotState, retired_slotState, r.spec,
      Option.isSome_none, Bool.false_eq_true, false_and, if_false]
    rw [if_neg hal, show accTarget _ _ = some (o, off) from ht]
    exact if_neg hfree
  case tlbi =>
    apply Yields.of (fun _ => rfl)
    change effTlbi aa b _ _ = _
    simp only [effTlbi, soloEnv_areg, soloEnv_src, localDie_slotState, routed_slotState]
    rw [if_neg (not_not.mpr hal), if_neg (Nat.not_le.mpr hob), if_neg (by rw [show routed _ _ = true from hrt]; decide), show localDie _ _ = some h from hl]
    rfl

end Sys2Proof.Machine
end

section
/-! TKILL's count (14 R371) on a state whose table of cores does not rise: reading the queue q4 acquires, which writes the reading core's entry, and
a table that does not rise then holds the core twice. The children are counted in the state after that acquire. -/

namespace Sys2Proof.Machine

/-- TKILL s2, q4, s1. -/
def killOfHead : Instr := .tkill 2 60 1

/-- Core 1 right behind a checkpoint; its context 0 created join 5, of which context 1 is the one child. -/
def oneChild : State :=
  modCtx (modDie (takeCheckpoint (State.reset.withFetchWord 32 0x011020C0) 1 0) 0 fun d =>
    { d with joins := [(5, { creator := some (1, 0), target := 2 })] }) 1 1 fun t => { t with status := .ready, under := some ((0, 5), 0) }

/-- The same with the join's id at the head of q4, s1 = -1, and an idle core 5 in front of core 1 in the table of cores. -/
def unsortedCores : State :=
  let s := modCore (modCtx oneChild 1 0 fun t => setSReg t 1 (BitVec.allOnes 64)) 1 fun k => { k with q4 := [joinId oneChild 0 5] }
  { s with cores := (5, {}) :: s.cores }

/-- The context right behind its checkpoint. -/
theorem calm_unsortedCores : Calm (coreOf unsortedCores 1) 0 where
  runs := by decide +kernel
  alive := by decide +kernel
  group := by decide +kernel
  plain := by decide +kernel
  kept := by decide +kernel
  replay := by decide +kernel
  rerun := by decide +kernel
  pend := by decide +kernel
  awaits := by decide +kernel
  engines := by decide +kernel
  coop := by decide +kernel
  shadow := ⟨(coreOf unsortedCores 1).shadow.get (by decide +kernel), (Option.some_get _).symm, by decide +kernel, by decide +kernel⟩
  drain := by decide +kernel
  vector := by decide +kernel

/-- The instruction is ready there. -/
theorem ready_killOfHead : Ready unsortedCores 0 killOfHead where
  calm := calm_unsortedCores
  wf := by decide +kernel
  slot := by decide +kernel
  priv := by decide +kernel
  heads := by decide +kernel
  room := by decide +kernel
  owner := by decide +kernel
  asks := by decide +kernel

/-- The children of join 5 as the statement counts them: those of the state before the acquire. -/
def kidsBefore : List (Target × Nat) :=
  (joinChildren unsortedCores (dieOfCore unsortedCores.turn) 5).filter fun p =>
    operand unsortedCores 0 1 == BitVec.allOnes 64 || p.2 == (operand unsortedCores 0 1).toNat

/-- What the statement says TKILL leaves. -/
def killedBefore : State := killAll killFuel (kidsBefore.map (·.1)) (slotState unsortedCores 0 killOfHead)

/-- What s2 of core 1 holds after a step. -/
def gotCount (o : Host.Outcome State Fault Refusal) : Option Nat :=
  match o with
  | .next t => some (sReg (ctxOf t 1 0) 2).toNat
  | _ => none

/-- The step counts the child twice. -/
theorem exec_counts_two : gotCount (exec killOfHead unsortedCores) = some 2 := by decide +kernel

/-- The statement's next state holds the count of one. -/
theorem issued_counts_one : gotCount (.next (issued unsortedCores 0 killOfHead killedBefore
    ((dstLand 2 (BitVec.ofNat 64 kidsBefore.length)).map (1, ·)) [] .next)) = some 1 := by decide +kernel

/-- Refutes O9: where the table of cores does not rise, TKILL's word at the head of q4 makes it count a child of the join twice, for it counts behind
the acquire of its queue's head; the statement's count is of the state before. -/
theorem not_childTasksAndExit : ¬ Obligations.ChildTasksAndExit := by
  intro h
  obtain ⟨-, -, -, -, -, -, hkill, -⟩ := h unsortedCores 0 2 60 1 false
  have hstep := hkill 5 { creator := some (1, 0), target := 2 } (by decide +kernel) ready_killOfHead (by decide +kernel)
  have hcount : some 2 = some 1 := exec_counts_two.symm.trans ((congrArg gotCount hstep).trans issued_counts_one)
  exact absurd hcount (by decide)

end Sys2Proof.Machine
end

section
/-! The commands of the matrix engine (17 R450 to R459): what each statement says of them. -/

namespace Sys2Proof.Machine

/-! ### What a matrix command reads at the issue of one instruction -/

section
variable (s : State) (x : Nat) (i : Instr)

@[simp] theorem ic_slotState (c : Nat) : (coreOf (slotState s x i) c).ic = (coreOf s c).ic := by
  obtain ⟨l, h⟩ := slotState_core s x i c
  rw [h]
@[simp] theorem mxwFree_slotState (c : Nat) : (coreOf (slotState s x i) c).mxwFree = (coreOf s c).mxwFree := by
  obtain ⟨l, h⟩ := slotState_core s x i c
  rw [h]
@[simp] theorem mxcvFree_slotState (c : Nat) : (coreOf (slotState s x i) c).mxcvFree = (coreOf s c).mxcvFree := by
  obtain ⟨l, h⟩ := slotState_core s x i c
  rw [h]
@[simp] theorem otherFree_slotState (c : Nat) : (coreOf (slotState s x i) c).otherFree = (coreOf s c).otherFree := by
  obtain ⟨l, h⟩ := slotState_core s x i c
  rw [h]
@[simp] theorem streamFree_slotState (c : Nat) : (coreOf (slotState s x i) c).streamFree = (coreOf s c).streamFree := by
  obtain ⟨l, h⟩ := slotState_core s x i c
  rw [h]
@[simp] theorem wActive_slotState (c : Nat) : (coreOf (slotState s x i) c).wActive = (coreOf s c).wActive := by
  obtain ⟨l, h⟩ := slotState_core s x i c
  rw [h]
@[simp] theorem coop_slotState (c : Nat) : (coreOf (slotState s x i) c).coop = (coreOf s c).coop := by
  obtain ⟨l, h⟩ := slotState_core s x i c
  rw [h]

@[simp] theorem spadOperand_soloEnv (a b : SCode) : spadOperand (soloEnv s x i) (slotState s x i) a b = .spad (operand s x a) (operand s x b) := by
  simp only [spadOperand, soloEnv_src]

/-- A command that ends in its token, at the issue of one instruction. -/
theorem withToken_soloEnv (op lat : Nat) (ls : List Land) :
    withToken (soloEnv s x i) (slotState s x i) op lat ls =
      .ok (modCtx (slotState s x i) s.turn x fun t => { t with serial := t.serial + 1 })
        ((ls ++ [Land.token (ctxOf s s.turn x).serial.toNat op 0]).map (lat, ·)) [] .next := by
  simp only [withToken, takeSerial, soloEnv_core, soloEnv_ctx, soloEnv_t, done]

end

/-! ### Registers (17 R450, R455 to R459) -/

/-- Settles O24: none of the traps stands in the way, so each command's lands and token follow. -/
theorem matrixRegisterCommands : Obligations.MatrixRegisterCommands := by
  intro s x a b reg n c k t v d sends f spad
  refine ⟨fun ho => .of (fun _ => rfl) ?mxset, fun hd => .of (fun _ => rfl) ?mxpd, .of (fun _ => rfl) ?mxpdOff, fun ho => .of (fun _ => rfl) ?mxdn,
    fun hw hcv hal hprot hbad => .of (fun _ => rfl) ?mxcv, fun hal => .of (fun _ => rfl) ?mxtap, fun hal => .of (fun _ => rfl) ?mxsp⟩
  case mxset =>
    change effMxset reg a _ _ = _
    simp only [effMxset, soloEnv_t, soloEnv_src, withToken_soloEnv]
    rw [show mxOpen _ = false from ho]
    rfl
  case mxpd =>
    change effMxpd a b _ _ = _
    simp only [effMxpd, soloEnv_t, soloEnv_src, withToken_soloEnv]
    exact if_neg (Nat.not_lt.mpr hd)
  case mxpdOff =>
    change effMxpdOff _ _ = _
    simp only [effMxpdOff, soloEnv_t, withToken_soloEnv]
    rfl
  case mxdn =>
    change effMxdn n a _ _ = _
    simp only [effMxdn, soloEnv_t, soloEnv_src, withToken_soloEnv]
    exact if_neg (by rw [show (mxOpen _ && mxDen _) = false from ho]; decide)
  case mxcv =>
    change effMxcv c a _ _ = _
    simp only [effMxcv, soloEnv_core, soloEnv_src, withToken_soloEnv, ic_slotState, mxwFree_slotState, mxcvFree_slotState]
    rw [if_neg (not_or.mpr ⟨Nat.not_lt.mpr hw, Nat.not_lt.mpr hcv⟩), if_neg (not_not.mpr hal), show operandProt _ _ _ _ _ = none from hprot]
    exact if_neg (by rw [show (operandRows _ _ _ _ _).2 = false from hbad]; decide)
  case mxtap =>
    change effMxtap a _ _ = _
    simp only [effMxtap, soloEnv_src, withToken_soloEnv]
    exact if_neg (not_not.mpr hal)
  case mxsp =>
    change effMxsp a _ _ = _
    simp only [effMxsp, soloEnv_src, withToken_soloEnv]
    exact if_neg (not_not.mpr hal)

/-! ### Weights, streams and chains (17 R451 to R454) -/

/-- A row's shape is tested where its type is accepted. -/
theorem typedShape_true (o : MxOperand) (rows len : Nat) : typedShape true o rows len = operandShape o rows len := by cases o <;> rfl

section
variable {s : State} {x : Nat} {i : Instr} {o : MxOperand}

/-- MXW of an operand that passes its tests. -/
theorem mxwWith_goes :
    let k := coreOf s s.turn
    let t := ctxOf s s.turn x
    let z := slotState s x i
    let rows := if mxSparse t then mxK t / 2 else mxK t
    let len := rowBytes (mxSrc t) (mxN t)
    let mo := MxOperand.spad t.mx.spm 0
    k.mxwFree ≤ k.ic → k.mxcvFree ≤ k.ic → k.otherFree ≤ k.ic → (kLimit t).isSome = true ∧ kOver t = false → srcOk t = true →
    operandShape o rows len = false → operandProt z s.turn o rows len = none → (operandRows z s.turn o rows len).2 = false →
    (mxSparse t = true → mxK t % 4 = 0 ∧ operandProt z s.turn mo 1 (8 * mxK t) = none ∧ (operandRows z s.turn mo 1 (8 * mxK t)).2 = false) →
    let metab := if mxSparse t then (operandRows z s.turn mo 1 (8 * mxK t)).1.headD 0 else 0
    mxwWith o (soloEnv s x i) (slotState s x i) = withToken (soloEnv s x i) (slotState s x i) 0x02 80 [.weights (fetchWeights t metab (operandRows z s.turn o rows len).1)] := by
  intro k t z rows len mo hw hcv hof ⟨hk, hov⟩ hsrc hsh hprot hbad hsp metab
  have h1 : ¬(k.ic < k.mxwFree ∨ k.ic < k.mxcvFree ∨ k.ic < k.otherFree) := by omega
  have h2 : (kOver t || (mxSparse t && mxK t % 4 != 0) || typedShape (srcOk t) o rows len) = false := by
    rw [hsrc, typedShape_true, hsh, hov]
    cases hs : mxSparse t
    · rfl
    · simp [(hsp hs).1]
  have h3 : ((kLimit t).isNone || !srcOk t) = false := by rw [hsrc, Option.isNone_eq_false_iff.mpr hk]; rfl
  simp only [mxwWith, soloEnv_core, soloEnv_t, ic_slotState, mxwFree_slotState, mxcvFree_slotState, otherFree_slotState]
  have hprot2 : (if mxSparse (ctxOf s s.turn x) then
      operandProt (slotState s x i) s.turn (.spad (ctxOf s s.turn x).mx.spm 0) 1 (8 * mxK (ctxOf s s.turn x)) else none) = none := by
    split
    · next hs => exact (hsp hs).2.1
    · rfl
  have hmeta : ∀ m, m = (if mxSparse (ctxOf s s.turn x) then
      operandRows (slotState s x i) s.turn (.spad (ctxOf s s.turn x).mx.spm 0) 1 (8 * mxK (ctxOf s s.turn x)) else ([0], false)) →
      m.2 = false ∧ m.1.headD 0 = metab := by
    rintro m rfl
    by_cases hs : mxSparse t = true
    · rw [if_pos hs]
      exact ⟨(hsp hs).2.2, (if_pos hs).symm⟩
    · rw [if_neg hs]
      exact ⟨rfl, (if_neg hs).symm⟩
  refine (if_neg h1).trans ((if_neg (Bool.eq_false_iff.mp h2)).trans ((if_neg (Bool.eq_false_iff.mp h3)).trans ?_))
  rw [show operandProt _ _ o _ _ = none from hprot, hprot2]
  generalize hm : (if mxSparse (ctxOf s s.turn x) then
      operandRows (slotState s x i) s.turn (.spad (ctxOf s s.turn x).mx.spm 0) 1 (8 * mxK (ctxOf s s.turn x)) else ([0], false)) = m
  obtain ⟨hm2, hm1⟩ := hmeta m hm.symm
  dsimp only
  rw [show (operandRows _ _ o _ _).2 = false from hbad, hm2, hm1]
  rfl

/-- MXA of an operand that passes its tests, alone. -/
theorem mxaWith_goes (r : Ready s x i) :
    let k := coreOf s s.turn
    let t := ctxOf s s.turn x
    let z := slotState s x i
    let len := rowBytes (fmtAT t) (mxK t)
    let w := weightsFor z k.wActive (mxK t) (mxN t)
    k.streamFree ≤ k.ic → (kLimit t).isSome = true → mxaShape t = false → operandShape o (mxM t) len = false →
    operandProt z s.turn o (mxM t) len = none → (operandRows z s.turn o (mxM t) len).2 = false → w.2 = false → t.mx.clus.getLsbD 24 = false →
    mxaWith o (soloEnv s x i) (slotState s x i) =
      .ok (modCtx (srsStep z s.turn x (mxMode t == 0)) s.turn x fun t => { t with serial := t.serial + 1 })
        [(mxaLat (mxDen t) (mxM t),
          .mxa { mxJob t with rows := (operandRows z s.turn o (mxM t) len).1.map (rowVals (fmtAT t) (mxK t)), wts := w.1, since := s.clock })] [] .next := by
  intro k t z len w hf hk hsh hop hprot hbad hw hcl
  have h1 : ¬(k.ic < k.streamFree ∨ k.coop.isSome = true) := by
    rw [show k.coop = none from r.calm.coop]
    exact not_or.mpr ⟨Nat.not_lt.mpr hf, by decide⟩
  have h2 : (mxaShape t || typedShape (kLimit t).isSome o (mxM t) len) = false := by rw [hsh, hk, typedShape_true, hop]; rfl
  have h3 : (kLimit t).isNone = false := Option.isNone_eq_false_iff.mpr hk
  simp only [mxaWith, soloEnv_core, soloEnv_ctx, soloEnv_t, ic_slotState, streamFree_slotState, coop_slotState, wActive_slotState, clock_slotState]
  refine (if_neg h1).trans ((if_neg (Bool.eq_false_iff.mp h2)).trans ((if_neg (Bool.eq_false_iff.mp h3)).trans ?_))
  rw [show operandProt _ _ _ _ _ = none from hprot, show bitOf _ 24 = false from hcl]
  simp only [Bool.false_and, Bool.false_eq_true, if_false, Bool.not_false, if_true]
  rw [show (operandRows _ _ _ _ _).2 = false from hbad, show (weightsFor _ _ _ _).2 = false from hw]
  rfl

/-- MXCE of an open chain to an operand that passes its tests. -/
theorem mxceWith_goes (r : Ready s x i) :
    let k := coreOf s s.turn
    let t := ctxOf s s.turn x
    let z := slotState s x i
    let len := mxN t * (tyWidth (otType (fld t.fmt 19 18)) / 8)
    k.streamFree ≤ k.ic → mxOpen t = true → (kLimit t).isSome = true → operandShape o (mxM t) len = false →
    operandProt z s.turn o (mxM t) len = none →
    mxceWith o (soloEnv s x i) (slotState s x i) =
      .ok (modCtx (srsStep z s.turn x true) s.turn x fun t => { t with serial := t.serial + 1 })
        [(24 + mxceOcc t, .mxce { mxJob t with dst := o })] [] .next := by
  intro k t z len hf ho hk hop hprot
  have h1 : ¬(k.ic < k.streamFree ∨ k.coop.isSome = true) := by
    rw [show k.coop = none from r.calm.coop]
    exact not_or.mpr ⟨Nat.not_lt.mpr hf, by decide⟩
  have h2 : (!mxOpen t || operandShape o (mxM t) len) = false := by rw [ho, hop]; rfl
  have h3 : (kLimit t).isNone = false := Option.isNone_eq_false_iff.mpr hk
  simp only [mxceWith, soloEnv_core, soloEnv_ctx, soloEnv_t, ic_slotState, streamFree_slotState, coop_slotState]
  refine (if_neg h1).trans ((if_neg (Bool.eq_false_iff.mp h2)).trans ((if_neg (Bool.eq_false_iff.mp h3)).trans ?_))
  rw [show operandProt _ _ _ _ _ = none from hprot]
  rfl

end

/-- The next serial, in a state whose turn is known. -/
theorem nextSerial_turn (t : State) (c x : Nat) (h : t.turn = c) :
    (modCtx t t.turn x fun t => { t with serial := t.serial + 1 }) = modCtx t c x fun t => { t with serial := t.serial + 1 } := by rw [h]

/-- The turn is no matter of SRS. -/
theorem turn_srsStep (s : State) (c x : Nat) (b : Bool) : (srsStep s c x b).turn = s.turn := by
  unfold srsStep
  split <;> rfl

/-- Settles O25: each command by the lemma that says what it does with an operand that passes its tests. -/
theorem matrixCommands : Obligations.MatrixCommands := by
  intro s x a b v k t spad tile next typed weight stream close
  have hturn : ∀ i, (slotState s x i).turn = s.turn := fun i => turn_slotState s x i
  have hnext : ∀ i rounds, next (srsStep (slotState s x i) s.turn x rounds) =
      modCtx (srsStep (slotState s x i) s.turn x rounds) s.turn x fun t => { t with serial := t.serial + 1 } := fun i rounds =>
    nextSerial_turn _ _ _ ((turn_srsStep ..).trans (hturn i))
  have hweight : ∀ i o, Issues i → slotEffect i (soloEnv s x i) (slotState s x i) = mxwWith o (soloEnv s x i) (slotState s x i) → weight i o := by
    intro i o hx he hw hcv hof hty hsrc hsh hprot hbad hsp
    refine .of hx (he.trans ((mxwWith_goes hw hcv hof hty hsrc hsh hprot hbad hsp).trans ?_))
    rw [withToken_soloEnv, show next (slotState s x i) = _ from nextSerial_turn _ _ _ (hturn i)]
    rfl
  have hstream : ∀ i o, Issues i → slotEffect i (soloEnv s x i) (slotState s x i) = mxaWith o (soloEnv s x i) (slotState s x i) → stream i o := by
    intro i o hx he hf hty hsh hop hprot hbad hw hcl
    refine .of_ready hx fun r => he.trans ((mxaWith_goes r hf hty.1 hsh hop hprot hbad hw hcl).trans ?_)
    rw [hnext]
    rfl
  have hclose : ∀ i o, Issues i → slotEffect i (soloEnv s x i) (slotState s x i) = mxceWith o (soloEnv s x i) (slotState s x i) → close i o := by
    intro i o hx he hf ho hty hop hprot
    refine .of_ready hx fun r => he.trans ((mxceWith_goes r hf ho hty.1 hop hprot).trans ?_)
    rw [hnext]
  refine ⟨hweight _ _ (fun _ => rfl) ?_, hweight _ _ (fun _ => rfl) rfl, hstream _ _ (fun _ => rfl) ?_, hstream _ _ (fun _ => rfl) rfl,
    hclose _ _ (fun _ => rfl) ?_, hclose _ _ (fun _ => rfl) rfl, fun hf hb hp hk => .of_ready (fun _ => rfl) fun r => ?_⟩
  · exact congrArg (mxwWith · _ _) (spadOperand_soloEnv s x (.mxw a b) a b)
  · exact congrArg (mxaWith · _ _) (spadOperand_soloEnv s x (.mxa a b) a b)
  · exact congrArg (mxceWith · _ _) (spadOperand_soloEnv s x (.mxce a b) a b)
  · have h1 : ¬(k.ic < k.streamFree ∨ k.coop.isSome = true) := by
      rw [show k.coop = none from r.calm.coop]
      exact not_or.mpr ⟨Nat.not_lt.mpr hf, by decide⟩
    have h2 : ((mxDen t && !bmapOk t) || decide (512 < mxPage t + chainPages t)) = false := by
      rw [decide_eq_false (Nat.not_lt.mpr hp), Bool.or_false]
      cases hd : mxDen t
      · rfl
      · rw [hb hd]; rfl
    have h3 : (kLimit t).isNone = false := Option.isNone_eq_false_iff.mpr hk
    change effMxcb a _ _ = _
    simp only [effMxcb, soloEnv_core, soloEnv_t, soloEnv_src, ic_slotState, streamFree_slotState, coop_slotState, withToken_soloEnv]
    refine (if_neg h1).trans ((if_neg (Bool.eq_false_iff.mp h2)).trans ((if_neg (Bool.eq_false_iff.mp h3)).trans ?_))
    rw [show next _ = _ from nextSerial_turn _ _ _ (hturn _)]
    rfl

end Sys2Proof.Machine
end

section
/-! The commands of the cluster's engines (17 R461 to R468), of collectives and of graphs (17 R470 to R474): what each statement says of them. -/

namespace Sys2Proof.Machine

/-! ### The clock is no matter of translation -/

theorem resolve_clock (s : State) (cl asid va size : Nat) (nd : Need) : (resolve s cl asid va size nd).1.clock = s.clock := by
  have hu : ∀ (t : State) (d die pa : Nat), (underKey t d asid die pa).clock = t.clock := fun t d die pa => by
    unfold underKey recrypt
    dsimp only
    split <;> rfl
  exact resolve_keeps (R := fun s t => t.clock = s.clock) (fun _ => rfl) (fun h g => g.trans h) (fun t d b => (placeOf_stored t d asid va b).clock)
    (fun t d l => (markDirty_stored t d asid va l).clock) hu s cl size nd

theorem engLoc_clock (s : State) (cl asid va n : Nat) (wr : Bool) : (engLoc s cl asid va n wr).1.clock = s.clock := by
  have h := resolve_clock s cl asid va n ⟨!wr, wr, wr, false⟩
  unfold engLoc
  generalize resolve s cl asid va n ⟨!wr, wr, wr, false⟩ = p at h
  obtain ⟨s1, r⟩ := p
  dsimp only
  split <;> exact h

@[simp] theorem markPages_clock (s : State) (cl asid : Nat) (ps : List Nat) : (markPages s cl asid ps).clock = s.clock := by
  unfold markPages
  induction ps generalizing s with
  | nil => rfl
  | cons p ps ih =>
    rw [List.foldl_cons, ih]
    split
    · exact engLoc_clock ..
    · rfl

@[simp] theorem maybeSerial_clock (s : State) (c x : Nat) (tok : Bool) : (maybeSerial s c x tok).clock = s.clock := by
  unfold maybeSerial
  split <;> rfl

@[simp] theorem srsStep_clock (s : State) (c x : Nat) (b : Bool) : (srsStep s c x b).clock = s.clock := by
  unfold srsStep
  split <;> rfl

/-! ### What an engine's command reads at the issue of one instruction -/

section
variable {s : State} {x : Nat} {i : Instr}

@[simp] theorem engineLoad_slotState (c : Nat) : engineLoad (coreOf (slotState s x i) c) = engineLoad (coreOf s c) := by
  obtain ⟨l, h⟩ := slotState_core s x i c
  rw [h]
  rfl

@[simp] theorem trq_slotState (c : Nat) : (coreOf (slotState s x i) c).trq = (coreOf s c).trq := by
  obtain ⟨l, h⟩ := slotState_core s x i c
  rw [h]

/-- A ready core's stores are performed, so acceptance waits for pages alone. -/
theorem Ready.accepts (r : Ready s x i) {st : Nat} (h : st < waitPage) : acceptWaits (slotState s x i) (soloEnv s x i) st = false := by
  obtain ⟨ha, -, -⟩ := r.idle (j := i)
  simp only [acceptWaits, storesOut, soloEnv_core, ha, List.any_nil, Bool.false_or, decide_eq_false_iff_not, Nat.not_le]
  exact h

/-- GTHR and SCTR whose engine has room and whose pages are there. -/
theorem gatherWith_goes (r : Ready s x i) {scatter tok : Bool} {a b : SCode} :
    let t := ctxOf s s.turn x
    let g := acceptGather (maybeSerial (publishAll (slotState s x i) s.turn) s.turn x tok) s.turn t.asid scatter (operand s x a) (operand s x b)
      (fld (cpReg t 0x33) 1 0) (cpReg t 0x31) (cpReg t 0x32)
    engineLoad (coreOf s s.turn) < 16 → g.2.2.1 < waitPage →
    gatherWith scatter tok a b (soloEnv s x i) (slotState s x i) = nothing (placeEng g.1 s.turn
      { owner := .ctx s.turn x, asid := t.asid, op := if scatter then 0x21 else 0x20, serial := t.serial.toNat, tok := tok, cnt := cpReg t 0x31,
        flag := cpReg t 0x32, work := g.2.1, status := g.2.2.1,
        held := heldPages t.asid (if g.2.2.1 = 0 then g.2.2.2 else []) (cpReg t 0x32), since := s.clock } false) := by
  intro t g hl hw
  simp only [gatherWith, soloEnv_t, soloEnv_core, soloEnv_ctx, soloEnv_src, ownLinesHome, engineLoad_slotState, clock_slotState]
  refine (if_neg (Nat.not_le.mpr hl)).trans (if_neg ?_)
  rw [r.accepts hw]
  decide

/-- TRPUSH of a pitch and a type that pass their tests, with room in the queue. -/
theorem effTrpush_goes (r : Ready s x i) {m : BitVec 3} {kind : BitVec 2} {a b : SCode} {q : State × List (List Byte) × Nat}
    (hq : trRead (publishAll (slotState s x i) s.turn) (clusterOfCore s.turn) (ctxOf s s.turn x).asid (operand s x a).toNat (operand s x b)
      (trRowBytes kind.toNat (m.toNat + 2)) = q)
    (hrot : rotBad (operand s x b) = false) (hk : ¬(kind = 2 ∧ m = 7)) (hd : trDepth (coreOf s s.turn).trq + trPlaces kind.toNat ≤ 8)
    (hw : q.2.2 < waitPage) :
    effTrpush m kind a b (soloEnv s x i) (slotState s x i) =
      nothing (modCore q.1 s.turn fun k => { k with trq := k.trq ++ [⟨k.ic, kind.toNat, m.toNat + 2, q.2.1, q.2.2⟩] }) := by
  obtain ⟨u, rows, st⟩ := q
  simp only [effTrpush, soloEnv_t, soloEnv_core, soloEnv_src, ownLinesHome, trq_slotState, hq, r.accepts hw]
  rw [if_neg (Bool.eq_false_iff.mp hrot), if_neg hk, if_neg (Nat.not_lt.mpr hd)]
  rfl

end

/-- Settles O26: each command on a ready core whose engine has room and whose pages are there. -/
theorem engineCommands : Obligations.EngineCommands := by
  intro s x a b reg tok rb m kind k t A B z s0 s1 cp rd moves
  have hmoves : ∀ i scatter, Issues i →
      slotEffect i (soloEnv s x i) (slotState s x i) = gatherWith scatter tok a b (soloEnv s x i) (slotState s x i) → moves i scatter :=
    fun i scatter hx he hl hw => .of_ready hx fun r => he.trans (gatherWith_goes r hl hw)
  refine ⟨.of (fun _ => rfl) ?cpset, fun hl hw => .of_ready (fun _ => rfl) fun r => ?cpgo, hmoves _ _ (fun _ => rfl) rfl, hmoves _ _ (fun _ => rfl) rfl,
    fun hrot hk hd hw => .of_ready (fun _ => rfl) fun r => ?trpush, fun tile rest hq hat => ?trpop⟩
  case cpset =>
    change effCpset reg a _ _ = _
    simp only [effCpset, soloEnv_src]
    rfl
  case cpgo =>
    change effCpgo tok a b _ _ = _
    simp only [effCpgo, soloEnv_t, soloEnv_core, soloEnv_ctx, soloEnv_src, ownLinesHome, engineLoad_slotState]
    refine (if_neg (Nat.not_le.mpr hl)).trans (if_neg ?_)
    rw [show acceptWaits _ _ _ = false from r.accepts hw]
    decide
  case trpush =>
    have heff : slotEffect (.trpush m kind a b) = effTrpush m kind a b := rfl
    rw [heff]
    exact effTrpush_goes r rfl hrot hk hd hw
  case trpop =>
    intro rnd narrow ranges w st s2 hst
    have heff : slotEffect (.trpop tok rb a b) = effTrpop tok rb a b := rfl
    refine .of (fun _ => rfl) ?_
    rw [heff]
    simp only [effTrpop, soloEnv_t, soloEnv_core, soloEnv_ctx, soloEnv_src, trq_slotState, ic_slotState]
    rw [show (coreOf s s.turn).trq = tile :: rest from hq]
    refine (if_neg (Nat.not_lt.mpr hat)).trans ((if_neg (Nat.not_le.mpr hst)).trans ?_)
    have hclock : (if st = 0 then markPages s2 (clusterOfCore s.turn) t.asid (pagesOf ranges) else s2).clock = s.clock := by
      split
      · simp only [markPages_clock, s2, modCore_clock, maybeSerial_clock, srsStep_clock, w, z, clock_slotState]
      · simp only [s2, modCore_clock, maybeSerial_clock, srsStep_clock, w, z, clock_slotState]
    rw [show State.clock _ = s.clock from hclock]
    rfl

/-! ### Queue pairs, groups and graphs (17 R470 to R474) -/

/-- The token of a command of a queue pair or a graph: the next serial, and its entry in the token queue. -/
def withEntry (s : State) (c x engine serial op code : Nat) : State :=
  modCore (takeSerial s c x) c (pushToken · x engine serial op code)

section
variable {s : State} {x : Nat} {i : Instr}

@[simp] theorem qpOf_slotState (d q : Nat) : qpOf (slotState s x i) d q = qpOf s d q := by simp only [qpOf, qps_slotState]
@[simp] theorem collOf_slotState (d g : Nat) : collOf (slotState s x i) d g = collOf s d g := by simp only [collOf, groups_slotState]

/-- QPPOST on a queue pair that is not set up. -/
theorem effQppost_none {qp : BitVec 8} {a b : SCode} (h : qpOf s (dieOfCore s.turn) qp.toNat = none) :
    effQppost qp a b (soloEnv s x i) (slotState s x i) =
      nothing (withEntry (slotState s x i) s.turn x 4 (ctxOf s s.turn x).serial.toNat 0x28 1) := by
  simp only [effQppost, soloEnv_core, soloEnv_ctx, soloEnv_t, qpOf_slotState, h]
  rfl

/-- QPPOST of entries that are read, on a queue pair with room. -/
theorem effQppost_posts (r : Ready s x i) {qp : BitVec 8} {a b : SCode} {p : Qp} {bs : List Byte} {u t : State}
    (hp : qpOf s (dieOfCore s.turn) qp.toNat = some p) (h0 : 0 < (operand s x b).toNat) (h64 : (operand s x b).toNat ≤ 64)
    (hal : (operand s x a).toNat % 64 = 0) (hroom : p.entries.length + (operand s x b).toNat ≤ 64)
    (hrd : engRead (publishAll (slotState s x i) s.turn) (clusterOfCore s.turn) (ctxOf s s.turn x).asid (operand s x a).toNat (64 * (operand s x b).toNat) =
      (u, .ok bs))
    (hpost : postEntries u (dieOfCore s.turn) qp.toNat (ctxOf s s.turn x).asid (.ctx s.turn x) (postedRaws (operand s x b).toNat bs) = some t) :
    effQppost qp a b (soloEnv s x i) (slotState s x i) = nothing (withEntry t s.turn x 4 (ctxOf s s.turn x).serial.toNat 0x28 0) := by
  have h1 : ¬((operand s x b).toNat = 0 ∨ 64 < (operand s x b).toNat ∨ (operand s x a).toNat % 64 ≠ 0 ∨ 64 < p.entries.length + (operand s x b).toNat) := by
    omega
  have hw : acceptWaits (slotState s x i) (soloEnv s x i) 0 = false := r.accepts (by decide)
  simp only [effQppost, soloEnv_core, soloEnv_ctx, soloEnv_t, soloEnv_src, ownLinesHome, qpOf_slotState, hp, hrd, hw, hpost]
  rw [if_neg h1]
  rfl

/-- SCPUT of a record that is read. -/
theorem effScput_goes {grp : BitVec 12} {a : SCode} {g : Group} {bs : List Byte} {u : State} (hg : collOf s (dieOfCore s.turn) grp.toNat = some g)
    (hal : (operand s x a).toNat % 32 = 0)
    (hrd : scputRecord (publishAll (slotState s x i) s.turn) (soloEnv s x i) (operand s x a) = (u, .ok bs)) :
    effScput grp a (soloEnv s x i) (slotState s x i) = nothing (sendRecord u (dieOfCore s.turn) grp.toNat g bs) := by
  simp only [effScput, soloEnv_core, soloEnv_src, ownLinesHome, collOf_slotState, hg, hrd]
  exact if_neg (not_not.mpr hal)

/-- SCRED in a reduce group. -/
theorem effScred_goes {grp : BitVec 12} {a : SCode} {g : Group} (hg : collOf s (dieOfCore s.turn) grp.toNat = some g) (hl : g.log = false) :
    effScred grp a (soloEnv s x i) (slotState s x i) =
      nothing (sendAll (slotState s x i) g grp.toNat (dieOfCore s.turn) (leBytes 8 (operand s x a).toNat)
        fun z => .scredArrive z grp g.gen g.rank (operand s x a)) := by
  simp only [effScred, soloEnv_core, soloEnv_src, collOf_slotState, hg, hl]
  rfl

/-- GNODE of records that may be appended, to a running graph of this die. -/
theorem effGnode_goes (r : Ready s x i) {a b : SCode} {g : GraphRun} {bs : List Byte} {u : State}
    (hg : (graphsOf (releaseAll (slotState s x i) s.turn) (dieOfCore s.turn) (ctxOf s s.turn x).asid).find? (fun g => g.root == operand s x a) = some g)
    (h0 : 0 < (operand s x b).toNat) (hle : (operand s x b).toNat ≤ 4096)
    (hrd : engRead (releaseAll (slotState s x i) s.turn) (clusterOfCore s.turn) (ctxOf s s.turn x).asid (nodeVa (operand s x a) g.count)
      (64 * (operand s x b).toNat) = (u, .ok bs))
    (hok : (postedRaws (operand s x b).toNat bs).all appendOk = true)
    (hw : (GraphRun.launchFrom (operand s x b).toNat g.count { g with s := u, count := g.count + (operand s x b).toNat }).waits = false) :
    effGnode a b (soloEnv s x i) (slotState s x i) =
      graphToken (GraphRun.launchFrom (operand s x b).toNat g.count { g with s := u, count := g.count + (operand s x b).toNat }).keep
        (soloEnv s x i) 0x30 0 := by
  have h1 : ¬((operand s x b).toNat = 0 ∨ 4096 < (operand s x b).toNat) := by omega
  have hacc : acceptWaits (slotState s x i) (soloEnv s x i) 0 = false := r.accepts (by decide)
  simp only [effGnode, soloEnv_core, soloEnv_t, soloEnv_src, hg, hrd, hacc, hok, hw]
  rw [if_neg h1]
  rfl

/-- GSIG of a node that waits for a signal. `GraphRun.node` is made opaque, for the kernel would run it to see that it gives a pair. -/
theorem effGsig_signals {a : SCode} {e : Env} {s : State} {g g' : GraphRun} {n : Nat} {rec' : List Byte}
    (hg : (graphsOf (releaseAll s e.core) (dieOfCore e.core) (e.t s).asid).find? (fun g => (nodeAt g (e.src s a).toNat).isSome) = some g)
    (hn : nodeAt g (e.src s a).toNat = some n) (hr : g.node n = (g', some rec')) (hs : fieldOf rec' 0 1 = 0) (hd : fieldOf rec' 2 2 ≠ 0)
    (hw : (g'.signal n).waits = false) :
    effGsig a e s = graphToken (g'.signal n).keep e 0x31 0 := by
  have h1 : ¬(fieldOf rec' 0 1 ≠ 0 ∨ fieldOf rec' 2 2 = 0) := not_or.mpr ⟨not_not.mpr hs, hd⟩
  obtain ⟨node, hnode⟩ : ∃ node, node = GraphRun.node := ⟨_, rfl⟩
  unfold effGsig
  rw [← hnode] at hr ⊢
  simp only [hg, hn, Option.getD_some, hr, hw, Bool.false_eq_true, if_false, if_neg h1]

/-- The same of the bundle alone. -/
theorem effGsig_goes {a : SCode} {g : GraphRun} {n : Nat} {rec' : List Byte}
    (hg : (graphsOf (releaseAll (slotState s x i) s.turn) (dieOfCore s.turn) (ctxOf s s.turn x).asid).find?
      (fun g => (nodeAt g (operand s x a).toNat).isSome) = some g)
    (hn : nodeAt g (operand s x a).toNat = some n) (hr : (g.node n).2 = some rec') (hs : fieldOf rec' 0 1 = 0) (hd : fieldOf rec' 2 2 ≠ 0)
    (hw : ((g.node n).1.signal n).waits = false) :
    effGsig a (soloEnv s x i) (slotState s x i) = graphToken ((g.node n).1.signal n).keep (soloEnv s x i) 0x31 0 := by
  refine effGsig_signals (g := g) ?_ ?_ (Prod.ext rfl hr) hs hd hw
  · simpa only [soloEnv_core, soloEnv_t, soloEnv_src] using hg
  · simpa only [soloEnv_src] using hn

end

/-- Settles O27: each command by the lemma that says what it does where nothing stands in its way. -/
theorem collectiveAndGraphCommands : Obligations.CollectiveAndGraphCommands := by
  intro s x a b qp grp t d A n z e c token rd ser
  have eqp : slotEffect (.qppost qp a b) = effQppost qp a b := rfl
  have eput : slotEffect (.scput grp a) = effScput grp a := rfl
  have ered : slotEffect (.scred grp a) = effScred grp a := rfl
  have enode : slotEffect (.gnode a b) = effGnode a b := rfl
  have esig : slotEffect (.gsig a) = effGsig a := rfl
  refine ⟨fun hp => .of (fun _ => rfl) ?_, fun p bs s' hp h0 h64 hal hroom hrd hpost => .of_ready (fun _ => rfl) fun r => ?_,
    fun g bs s2 hg hal hrd => .of (fun _ => rfl) ?_, fun g hg hl => .of (fun _ => rfl) ?_,
    fun g bs s2 hg h0 hle hrd hok hw => .of_ready (fun _ => rfl) fun r => ?_, fun g i rec' hg hn hr hs hd hw => .of (fun _ => rfl) ?_⟩
  · rw [eqp]
    exact effQppost_none hp
  · rw [eqp]
    exact effQppost_posts r hp h0 h64 hal hroom (Prod.ext rfl hrd) hpost
  · rw [eput]
    exact effScput_goes hg hal hrd
  · rw [ered]
    exact effScred_goes hg hl
  · rw [enode]
    exact effGnode_goes r hg h0 hle hrd hok hw
  · rw [esig]
    exact effGsig_goes hg hn hr hs hd hw

end Sys2Proof.Machine
end

section
/-! PROOF. Fremir links and the beat (01 R18 to R34): the channel served next, flits sent, received and sent again, links that fail and train, and
beats. -/

namespace Sys2Proof.Machine

/-! ### The channel served next (01 R20) -/

/-- What a search through a list of channels gives: an element that passes, and no channel before its own has one. -/
theorem findSome?_channel {p : Flit → Bool} {credit : Nat → Bool} {txq : List Flit} {f : Flit} {order : List Nat}
    (h : (order.findSome? fun v => if credit v then txq.find? fun f => f.vc == v && p f else none) = some f) :
    (f ∈ txq ∧ p f = true ∧ credit f.vc = true ∧ f.vc ∈ order) ∧
      ∀ g ∈ txq, p g = true → credit g.vc = true → g.vc ∈ order → order.idxOf f.vc ≤ order.idxOf g.vc := by
  induction order with
  | nil => cases h
  | cons v rest ih =>
    rw [List.findSome?_cons] at h
    split at h
    next f' hf' =>
      cases h
      split at hf'
      next hv =>
        have hpf := List.find?_some hf'
        simp only [Bool.and_eq_true, beq_iff_eq] at hpf
        obtain ⟨hfv, hp⟩ := hpf
        refine ⟨⟨List.mem_of_find?_eq_some hf', hp, by rw [hfv]; exact hv, by rw [hfv]; exact List.mem_cons_self⟩, fun g _ _ _ _ => ?_⟩
        rw [hfv, List.idxOf_cons_self]
        exact Nat.zero_le _
      next => cases hf'
    next hnone =>
      obtain ⟨⟨hmem, hp, hc, hin⟩, hfirst⟩ := ih h
      refine ⟨⟨hmem, hp, hc, List.mem_cons_of_mem v hin⟩, fun g hg hpg hcg hgin => ?_⟩
      have hgv : v ≠ g.vc := by
        rintro rfl
        rw [if_pos hcg] at hnone
        have := List.find?_eq_none.mp hnone g hg
        simp [hpg] at this
      have hgrest : g.vc ∈ rest := (List.mem_cons.mp hgin).resolve_left fun e => hgv e.symm
      have hle := hfirst g hg hpg hcg hgrest
      rw [List.idxOf_cons_ne rest hgv]
      by_cases hfv : v = f.vc
      · rw [hfv, List.idxOf_cons_self]
        exact Nat.zero_le _
      · rw [List.idxOf_cons_ne rest hfv]
        exact Nat.succ_le_succ hle

/-- Settles O28: the search through the channels in their order stops at the first that has a flit and credit. -/
theorem serviceOrderOfChannels : Obligations.ServiceOrderOfChannels := by
  intro s n credit f h order waits
  obtain ⟨hf, hfirst⟩ := findSome?_channel (p := mayLeave s n) (credit := bitOf credit) h
  exact ⟨hf, fun g ⟨hg, hp, hc, hin⟩ => hfirst g hg hp hc hin⟩

/-! ### Flits sent, received and sent again -/

@[simp] theorem linkOf_modLink (s : State) (n m : Nat) (f : Link → Link) : linkOf (modLink s n f) m = if n = m then f (linkOf s n) else linkOf s m :=
  tabGet_tabPut ..

theorem linkOf_congr {s t : State} (h : s.mod.links = t.mod.links) (n : Nat) : linkOf s n = linkOf t n := by
  unfold linkOf
  rw [h]

theorem dieOf_congr {s t : State} (h : s.dies = t.dies) (d : Nat) : dieOf s d = dieOf t d := by
  unfold dieOf
  rw [h]

/-- A change of the module that leaves its links, and a change of a link behind it. -/
theorem modLink_modMod (s : State) (n : Nat) (f : Module → Module) (g : Link → Link) (h : (f s.mod).links = s.mod.links) :
    modLink (modMod s f) n g = { s with mod := { f s.mod with links := tabPut s.mod.links n (g (linkOf s n)) } } := by
  simp only [modLink, modMod, linkOf, h]

/-- Two changes of one link. -/
theorem modLink_modLink (s : State) (n : Nat) (f g : Link → Link) : modLink (modLink s n f) n g = modLink s n fun l => g (f l) := by
  simp only [modLink, modMod, tabGet_tabPut, if_pos, tabPut_tabPut]

/-- A flit that fails its check is counted and answered. -/
theorem receiveFlit_bad {s : State} {n : Nat} {b : List Byte} (h : ¬((b.length = 256 ∨ b.length = 64) ∧ fieldOf b 8 8 = crc64 (b.take 8 ++ b.drop 16))) :
    receiveFlit s n b = sendNack (countBad s n) n := by
  have h' : (b.length ≠ 256 ∧ b.length ≠ 64) ∨ fieldOf b 8 8 ≠ crc64 (b.take 8 ++ b.drop 16) := by tauto
  unfold receiveFlit
  exact if_pos h'

/-- A flit for a die that comes in order is acknowledged and taken. -/
theorem receiveFlit_good {s : State} {n : Nat} {b : List Byte} (h : (b.length = 256 ∨ b.length = 64) ∧ fieldOf b 8 8 = crc64 (b.take 8 ++ b.drop 16))
    (hseq : fieldOf b 4 2 % 4096 = (linkOf s n).expect) (h1 : 1 ≤ fieldOf b 0 1) (h3 : fieldOf b 0 1 ≤ 3) (hvc : fieldOf b 1 1 % 16 ≤ 4) :
    receiveFlit s n b = modMod
      (modLink s n fun l => { l with replay := ackReplay l.replay (fieldOf b 6 2 % 4096), expect := (l.expect + 1) % 4096, nacked := false })
      fun m => { m with rxq := m.rxq ++ [⟨fieldOf b 3 1, fieldOf b 2 1 % 4, fieldOf b 1 1 % 16, fieldOf b 0 1, b.drop 16⟩] } := by
  have h' : ¬((b.length ≠ 256 ∧ b.length ≠ 64) ∨ fieldOf b 8 8 ≠ crc64 (b.take 8 ++ b.drop 16)) := by tauto
  have hbad : ¬(fieldOf b 0 1 = 0 ∨ 5 < fieldOf b 0 1 ∨ 4 < fieldOf b 1 1 % 16) := by omega
  have hk4 : fieldOf b 0 1 ≠ kindControl := by unfold kindControl; omega
  have hk5 : fieldOf b 0 1 ≠ kindSync := by unfold kindSync; omega
  unfold receiveFlit
  simp only [linkOf_modLink, if_true, modLink_modLink, takeFlit, hseq, ne_eq, not_true_eq_false, if_false, if_neg hk4, if_neg hk5]
  rw [if_neg h', if_neg hbad]

/-- Settles O29: the four steps of a link that is up. -/
theorem flitsAreSentAndReceived : Obligations.FlitsAreSentAndReceived := by
  intro s link credit seq f b n l back good leaves hup
  have hup' : (linkOf s link.val).state = 2 := hup
  refine ⟨fun hroom hnext => ?send, fun hgood hseq h1 h3 hvc => ?good, fun hbad => ?bad, fun ⟨z, hz, hzs⟩ hres => ?resend⟩
  case send =>
    change execFlitSend link credit s = _
    have hgo : ¬((linkOf s link.val).state ≠ 2 ∨ replaySize ≤ (linkOf s link.val).replay.length) :=
      not_or.mpr ⟨not_not.mpr hup, Nat.not_le.mpr hroom⟩
    simp only [execFlitSend, if_neg hgo, show nextFlit s link.val credit = some f from hnext]
    rw [modLink_modMod _ _ _ _ rfl]
  case good =>
    refine congrArg Host.Outcome.next (congrArg takeAll ((if_pos hup').trans ?_))
    rw [receiveFlit_good hgood hseq h1 h3 hvc]
    rfl
  case bad =>
    refine congrArg Host.Outcome.next (congrArg takeAll ((if_pos hup').trans ?_))
    rw [receiveFlit_bad hbad]
    simp only [sendNack, countBad]
    rw [modLink_modMod _ _ _ _ rfl]
    simp only [modLink, modMod, linkOf, tabGet_tabPut, if_true, tabPut_tabPut]
    rfl
  case resend =>
    have hany : ((linkOf s link.val).replay.any fun z => z.seq == seq.toNat) = true := List.any_eq_true.mpr ⟨z, hz, beq_iff_eq.mpr hzs⟩
    have hgo : ¬((linkOf s link.val).state ≠ 2 ∨ (linkOf s link.val).next ≠ seq.toNat ∧
        (!(linkOf s link.val).replay.any fun z => z.seq == seq.toNat) = true) := by
      rw [hany]
      simp [hup']
    have hback : back.isEmpty = false := by
      rw [List.isEmpty_eq_false_iff, ne_eq, List.dropWhile_eq_nil_iff]
      intro hall
      have := hall z hz
      simp [hzs] at this
    have hfresh : (back.any fun z => decide (resendMax ≤ z.resends)) = false := by
      rw [List.any_eq_false]
      intro w hw
      have := hres w hw
      simp only [resendMax]
      exact mt of_decide_eq_true (Nat.not_le.mpr this)
    change execLinkResend link seq s = _
    unfold execLinkResend
    refine (if_neg hgo).trans ((if_neg (Bool.eq_false_iff.mp hback)).trans ((if_neg (Bool.eq_false_iff.mp hfresh)).trans ?_))
    dsimp only
    rw [modLink_modMod _ _ _ _ rfl]
    rfl

/-! ### Links that fail and train -/

/-- Firmware or the cores have gone on from a state: the module's registers, links and queues stand, and what was due is due. -/
structure ModStands (s t : State) : Prop where
  mod : t.mod = s.mod
  due : s.agenda ⊆ t.agenda

theorem ModStands.refl (s : State) : ModStands s s := ⟨rfl, List.Subset.refl _⟩

theorem ModStands.trans {s t u : State} (h : ModStands s t) (g : ModStands t u) : ModStands s u := ⟨g.mod.trans h.mod, List.Subset.trans h.due g.due⟩

theorem ModStands.deliver (s : State) (i : Instr) : ModStands s (deliver s i) := ⟨rfl, List.subset_append_left _ _⟩

/-- A loop of such steps. -/
theorem ModStands.foldl {α : Type} {f : State → α → State} (hf : ∀ s a, ModStands s (f s a)) (s : State) (l : List α) : ModStands s (l.foldl f s) :=
  List.foldlRecOn l f (ModStands.refl s) fun t ht a _ => ht.trans (hf t a)

theorem outcome_stands (s : State) (d q serial code : Nat) : ModStands s (outcome s d q serial code) := by
  have h : ModStands s (modEntry s d q serial fun e => { e with code := some (e.code.getD code) }) := by
    unfold modEntry
    split
    · exact ⟨rfl, List.Subset.refl _⟩
    · exact ModStands.refl s
  exact h.trans (ModStands.deliver _ _)

theorem downEntries_stands (s : State) (d q : Nat) : ModStands s (downEntries s d q) := by
  unfold downEntries
  split
  · exact ModStands.refl s
  · refine ModStands.foldl (fun s e => ?_) s _
    split
    · exact outcome_stands ..
    · exact ModStands.refl s

theorem noRouteLoads_stands (s : State) (c : Nat) : ModStands s (noRouteLoads s c) := by
  unfold noRouteLoads
  split
  · exact ModStands.refl s
  · exact ⟨rfl, List.subset_append_left _ _⟩

/-- A link other than a failed one that works or trains. -/
def otherServes (s : State) (n : Nat) : Prop := ∃ m, m < 12 ∧ m ≠ n ∧ ((linkOf s m).state = 1 ∨ (linkOf s m).state = 2)

theorem serves_iff (s : State) : ((List.range 12).any fun n => (linkOf s n).state == 2 || (linkOf s n).state == 1) = true ↔
    ∃ m, m < 12 ∧ ((linkOf s m).state = 1 ∨ (linkOf s m).state = 2) := by
  simp only [List.any_eq_true, List.mem_range, Bool.or_eq_true, beq_iff_eq]
  exact exists_congr fun m => and_congr_right fun _ => Or.comm

/-- A module with a link that works or trains is not isolated. -/
theorem isolate_of_serves {s : State} {m : Nat} (hm : m < 12) (h : (linkOf s m).state = 1 ∨ (linkOf s m).state = 2) : isolate s = s :=
  if_pos ((serves_iff s).mpr ⟨m, hm, h⟩)

/-- A module without one has no route left. -/
theorem isolate_of_none {s : State} (h : ¬∃ m, m < 12 ∧ ((linkOf s m).state = 1 ∨ (linkOf s m).state = 2)) :
    (isolate s).mod.reach = [] ∧ (isolate s).mod.txq = [] ∧ (isolate s).mod.links = s.mod.links ∧ (isolate s).mod.training = s.mod.training ∧
      s.agenda ⊆ (isolate s).agenda := by
  unfold isolate
  rw [if_neg (mt (serves_iff s).mp h)]
  dsimp only
  generalize hb : modMod s _ = b
  have hd := ModStands.foldl (f := fun s d => (dieOf s d).qps.foldl (fun s e => downEntries s d e.1) s)
    (fun s d => ModStands.foldl (f := fun s (e : Nat × Qp) => downEntries s d e.1) (fun s e => downEntries_stands s d e.1) s _) b (List.range 4)
  generalize hm : (List.range 4).foldl _ b = m at hd
  have hc := ModStands.foldl (f := fun s (e : Nat × Core) => noRouteLoads s e.1) (fun s e => noRouteLoads_stands s e.1) m m.cores
  have hall := hd.trans hc
  rw [hall.mod]
  subst hb
  exact ⟨rfl, rfl, rfl, rfl, hall.due⟩

/-- Isolation leaves links, a training and what is due. -/
theorem isolate_leaves (s : State) : (isolate s).mod.links = s.mod.links ∧ (isolate s).mod.training = s.mod.training ∧ s.agenda ⊆ (isolate s).agenda := by
  by_cases h : ∃ m, m < 12 ∧ ((linkOf s m).state = 1 ∨ (linkOf s m).state = 2)
  · obtain ⟨m, hm, hs⟩ := h
    rw [isolate_of_serves hm hs]
    exact ⟨rfl, rfl, List.Subset.refl _⟩
  · obtain ⟨-, -, h⟩ := isolate_of_none h
    exact h

/-- A link that leaves service, by its parts. -/
theorem leaveService_linkOf (s : State) (n k m : Nat) : linkOf (leaveService s n k) m =
    if n = m then { linkOf s n with state := k, next := 0, expect := 0, replay := [], nacked := false } else linkOf s m := by
  unfold leaveService
  rw [linkOf_modLink]
  rfl

/-- What the failure of a link leaves. -/
theorem failLink_fails (s : State) (n : Nat) :
    (linkOf (failLink s n) n).state = 3 ∧ (linkOf (failLink s n) n).replay = [] ∧
      (otherServes s n → (failLink s n).mod.txq =
        ((linkOf s n).replay.map (·.flit)).filter (fun f => f.kind != 4) ++ s.mod.txq.filter fun f => !(f.kind == 4 && f.dst == n)) ∧
      (¬otherServes s n → (failLink s n).mod.reach = [] ∧ (failLink s n).mod.txq = []) := by
  have hlink : linkOf (failLink s n) n = { linkOf s n with state := 3, next := 0, expect := 0, replay := [], nacked := false } := by
    have := leaveService_linkOf s n 3 n
    rw [if_pos rfl] at this
    rw [← this]
    unfold failLink linkOf
    rw [(isolate_leaves _).1]
  refine ⟨by rw [hlink], by rw [hlink], fun ⟨m, hm, hne, hs⟩ => ?_, fun hno => ?_⟩
  · have hs' : (linkOf (leaveService s n 3) m).state = 1 ∨ (linkOf (leaveService s n 3) m).state = 2 := by
      rw [leaveService_linkOf, if_neg (Ne.symm hne)]
      exact hs
    unfold failLink
    rw [isolate_of_serves hm hs']
    rfl
  · have hno' : ¬∃ m, m < 12 ∧ ((linkOf (leaveService s n 3) m).state = 1 ∨ (linkOf (leaveService s n 3) m).state = 2) := by
      rintro ⟨m, hm, hs⟩
      rw [leaveService_linkOf] at hs
      split at hs
      · simp at hs
      next hne => exact hno ⟨m, hm, Ne.symm hne, hs⟩
    obtain ⟨hr, ht, -⟩ := isolate_of_none hno'
    exact ⟨hr, ht⟩

/-- A link that comes up reports its port, whatever the module learns of its domain. -/
theorem linkUp_leaves (s : State) (n port : Nat) (listed : Bool) :
    (linkUp s n port listed).mod.links = (modLink s n fun l => { l with state := 2, port := port }).mod.links ∧
      (linkUp s n port listed).mod.training = s.mod.training := by
  have hbeat : ∀ (b : Word) (s : State), ((List.range 4).foldl (fun s d => modDie s d fun k => { k with beat := b }) s).mod = s.mod := fun b s => rfl
  unfold linkUp
  generalize hu : (modLink s n fun l => { l with state := 2, port := port }) = u
  have htr : u.mod.training = s.mod.training := by subst hu; rfl
  have hjoin : (joinDomain u).mod.links = u.mod.links ∧ (joinDomain u).mod.training = u.mod.training := by
    unfold joinDomain
    dsimp only
    rw [hbeat]
    split <;> exact ⟨rfl, rfl⟩
  dsimp only
  split
  · split
    · exact ⟨hjoin.1, hjoin.2.trans htr⟩
    · exact ⟨rfl, htr⟩
  · split
    · exact ⟨rfl, htr⟩
    · exact ⟨rfl, htr⟩

/-- The end of a link's training leaves the links; with the last of them the command finishes. -/
theorem endTraining_spec (s : State) (n : Nat) (t : Training) (bad : Bool) :
    (endTraining s n t bad).mod.links = s.mod.links ∧
      ((∀ p ∈ t.links, p.1 = n) → (endTraining s n t bad).mod.training = none ∧ ⟨.commandFinish, ⟨t.die, t.cid⟩⟩ ∈ (endTraining s n t bad).agenda) ∧
      (¬(∀ p ∈ t.links, p.1 = n) → (endTraining s n t bad).mod.training.map (·.links) = some (t.links.filter fun p => p.1 != n)) := by
  have hempty : ((t.links.filter fun p => p.1 != n).isEmpty = true) ↔ ∀ p ∈ t.links, p.1 = n := by
    simp [List.isEmpty_iff, List.filter_eq_nil_iff]
  unfold endTraining
  dsimp only
  split
  next h =>
    have hcmd : ∀ (u : State) (f : Cmd → Cmd), (modCmd u t.die t.cid f).mod = u.mod := by
      intro u f
      unfold modCmd
      split <;> rfl
    have herr : ∀ b : Bool, (if b then 0x0E else 0) ≠ waitErr := by decide
    unfold finishCmd
    rw [if_neg (herr _)]
    unfold due
    dsimp only
    rw [hcmd]
    exact ⟨rfl, fun _ => ⟨rfl, List.mem_append_right _ (List.mem_singleton.mpr rfl)⟩, fun hn => absurd (hempty.mp h) hn⟩
  next h => exact ⟨rfl, fun hall => absurd (hempty.mpr hall) h, fun _ => rfl⟩

/-- Settles O30: a failure is `failLink`; the end of a training is `endTraining` behind the link's own change. -/
theorem linksFailAndTrain : Obligations.LinksFailAndTrain := by
  intro s link port n l serves fails
  have hfail : ∀ i, (l.state = 2 → exec i s = .next (failLink s n)) → fails i := fun i hi hup => by
    obtain ⟨hst, hre, hq, hiso⟩ := failLink_fails s n
    exact ⟨_, hi hup, hst, hre, hq, fun hno => hiso (not_exists.mpr hno)⟩
  refine ⟨fun ⟨z, hz, h8⟩ => hfail _ fun hup => ?_, fun hne => hfail _ fun hup => ?_, fun tr want htr hfind => ⟨?_, ?_⟩⟩
  · have hany : (l.replay.any fun z => decide (resendMax ≤ z.resends)) = true := List.any_eq_true.mpr ⟨z, hz, decide_eq_true h8⟩
    exact congrArg _ (if_pos ⟨hup, hany⟩)
  · have hany : (!l.replay.isEmpty) = true := by simp [hne]
    exact congrArg _ (if_pos ⟨hup, hany⟩)
  · have hx : ∃ u, exec (.linkTrainDone link port) s = .next (endTraining u n tr (!(want.isNone || want == some port.toNat))) ∧
        (linkOf u n).port = port.toNat ∧ (linkOf u n).state = (if want = none ∨ want = some port.toNat then 2 else 0) := by
      have hgood : ((want.isNone || want == some port.toNat) = true) ↔ (want = none ∨ want = some port.toNat) := by
        simp [Option.isNone_iff_eq_none]
      change ∃ u, execLinkTrainDone link port s = _ ∧ _
      simp only [execLinkTrainDone, htr, show tr.links.find? (fun p => p.1 == link.val) = some (n, want) from hfind]
      refine ⟨_, rfl, ?_⟩
      by_cases hg : want = none ∨ want = some port.toNat
      · rw [if_pos (hgood.mpr hg), if_pos hg]
        have hl : linkOf (linkUp s n port.toNat want.isSome) n = { linkOf s n with state := 2, port := port.toNat } := by
          unfold linkOf
          rw [(linkUp_leaves ..).1]
          exact (linkOf_modLink ..).trans (if_pos rfl)
        exact ⟨congrArg Link.port hl, congrArg Link.state hl⟩
      · rw [if_neg (mt hgood.mp hg), if_neg hg]
        have hl : linkOf (modLink s n fun l => { l with state := 0, port := port.toNat }) n = { linkOf s n with state := 0, port := port.toNat } :=
          (linkOf_modLink ..).trans (if_pos rfl)
        exact ⟨congrArg Link.port hl, congrArg Link.state hl⟩
    obtain ⟨u, hu, hport, hstate⟩ := hx
    obtain ⟨hlinks, hlast, hmore⟩ := endTraining_spec u n tr (!(want.isNone || want == some port.toNat))
    have hl : linkOf (endTraining u n tr (!(want.isNone || want == some port.toNat))) n = linkOf u n := linkOf_congr hlinks n
    refine ⟨_, hu, by rw [hl]; exact hport, by rw [hl]; exact hstate, ?_⟩
    split
    next hall => exact hlast hall
    next hnot => exact hmore hnot
  · have hany : (tr.links.any fun p => p.1 == link.val) = true :=
      List.any_eq_true.mpr ⟨(n, want), List.mem_of_find?_eq_some hfind, beq_self_eq_true _⟩
    obtain ⟨hlinks, hlast, -⟩ := endTraining_spec (leaveService s n 0) n tr true
    obtain ⟨ilinks, itr, idue⟩ := isolate_leaves (endTraining (leaveService s n 0) n tr true)
    have hl : linkOf (isolate (endTraining (leaveService s n 0) n tr true)) n = linkOf (leaveService s n 0) n :=
      linkOf_congr (ilinks.trans hlinks) n
    refine ⟨isolate (endTraining (leaveService s n 0) n tr true), ?_, ?_, fun hall => ?_⟩
    · change execLinkTrainTimeout link s = _
      simp only [execLinkTrainTimeout, htr]
      exact if_pos hany
    · rw [hl, leaveService_linkOf, if_pos rfl]
    · obtain ⟨h1, h2⟩ := hlast hall
      exact ⟨itr.trans h1, idue h2⟩

/-! ### The beat -/

/-- The lowest of a list of modules is one of them. -/
theorem lowest_mem (m : Nat) (l : List Nat) : lowest m l ∈ m :: l := by
  induction l generalizing m with
  | nil => exact List.mem_cons_self
  | cons a l ih =>
    have := ih (min m a)
    change lowest (min m a) l ∈ _
    rcases List.mem_cons.mp this with h | h
    · rw [h]
      rcases min_choice m a with e | e <;> rw [e] <;> simp
    · simp [h]

/-- No module of the list has a lower id. -/
theorem lowest_le (m : Nat) (l : List Nat) : ∀ x ∈ m :: l, lowest m l ≤ x := by
  induction l generalizing m with
  | nil => simp [lowest]
  | cons a l ih =>
    have hle := ih (min m a)
    have hmin := hle (min m a) List.mem_cons_self
    intro x hx
    change lowest (min m a) l ≤ x
    rcases List.mem_cons.mp hx with rfl | hx
    · exact hmin.trans (min_le_left _ _)
    · rcases List.mem_cons.mp hx with rfl | hx
      · exact hmin.trans (min_le_right _ _)
      · exact hle x (List.mem_cons_of_mem _ hx)

/-- Settles O31: a beat changes one die, what is due and the flits to send; the loss of the master changes the module alone. -/
theorem beatsAdvanceByOne : Obligations.BeatsAdvanceByOne := by
  intro s die
  constructor
  · have hx : ∃ t, exec (.beatTick die) s = .next t ∧ t.dies = (modDie s die.val fun k => { k with beat := k.beat + 1 }).dies := by
      change ∃ t, execBeatTick die s = .next t ∧ _
      unfold execBeatTick
      dsimp only
      split
      · split <;> exact ⟨_, rfl, rfl⟩
      · split <;> exact ⟨_, rfl, rfl⟩
    obtain ⟨t, ht, hd⟩ := hx
    have hdie : ∀ e, dieOf t e = dieOf (modDie s die.val fun k => { k with beat := k.beat + 1 }) e := fun e => dieOf_congr hd e
    refine ⟨t, ht, ?_, fun e he => ?_⟩
    · rw [hdie, dieOf_modDie, if_pos rfl]
    · rw [hdie, dieOf_modDie, if_neg (Ne.symm he)]
  · intro hne l
    exact ⟨_, if_neg hne, rfl, lowest_mem _ _, lowest_le _ _, rfl⟩

end Sys2Proof.Machine
end

section
/-! PROOF. Power, boot and S5 (04 R83 to R99, 01 R35, R40), reset, and memory (08 R207). -/

namespace Sys2Proof.Machine

/-! ### Power -/

/-- A power or a temperature above its limit, in words. -/
theorem overLimit_iff (s : State) (watts degC : Nat) : overLimit s watts degC = true ↔ s.mod.cap < watts ∨ 105 ≤ degC := by
  simp [overLimit]

/-- Settles O32: each step by its guard; S5 leaves what `enterS5` keeps. -/
theorem powerSteps : Obligations.PowerSteps := by
  intro s die watts degC v off
  have hoff : off (enterS5 s s.mod.sec.resf) := ⟨rfl, rfl, rfl, rfl, rfl, rfl, rfl, rfl, rfl, rfl⟩
  refine ⟨fun hp hover => ?_, fun hp hw hd => ?_, fun hd => ⟨_, congrArg Host.Outcome.next (if_pos hd), hoff⟩, ⟨_, rfl, hoff⟩, rfl, rfl⟩
  · exact congrArg Host.Outcome.next (if_pos ⟨hp, (overLimit_iff ..).mpr hover⟩)
  · have hno : (!overLimit s watts degC) = true := by
      rw [Bool.not_eq_true', Bool.eq_false_iff, ne_eq, overLimit_iff]
      omega
    exact congrArg Host.Outcome.next (if_pos ⟨hp, hno⟩)

/-! ### Boot and the return from S3 -/

/-- Boot makes the green rooms and the rings of the dies empty and leaves the module as it was. -/
theorem clearDies_mod (s : State) : ((List.range 4).foldl (fun s d => modDie s d fun k => clearRings (clearGreen k)) s).mod = s.mod := rfl

/-- What Amigen starts with. -/
theorem startAmigen_mod (s : State) :
    (startAmigen s).mod.booted = true ∧ (startAmigen s).mod.sec.bootf = false ∧ (startAmigen s).mod.power = 0 ∧
      (startAmigen s).mod.sec.mode = fieldOf (flashRecord s) 5 1 ∧ (startAmigen s).mod.sec.debug = 0 ∧ (startAmigen s).mod.mhz = 3300 ∧
      (startAmigen s).mod.sec.measBoot = extend (extend 0 Config.image) ((flashRecord s).take 128) := by
  have hpolicy : (bootExpanders (bootPortA s)).1.mod.policy = s.mod.policy := by
    unfold bootExpanders
    split <;> rfl
  have hrecord : ∀ u : State, u.mod.policy = s.mod.policy → flashRecord u = flashRecord s := fun u hu => by
    unfold flashRecord
    rw [hu]
  unfold startAmigen
  generalize hb : bootExpanders (bootPortA s) = b at hpolicy
  obtain ⟨u, ex⟩ := b
  dsimp only
  generalize hm : modMod _ _ = m
  have hrec : flashRecord m = flashRecord s := hrecord m (by rw [← hm]; exact hpolicy)
  have hmod : m.mod.booted = true ∧ m.mod.power = 0 ∧ m.mod.mhz = 3300 := by subst hm; exact ⟨rfl, rfl, rfl⟩
  obtain ⟨h1, h2, h3⟩ := hmod
  exact ⟨h1, rfl, h2, congrArg (fieldOf · 5 1) hrec, rfl, h3, by rw [← hrec]; rfl⟩

/-- Settles O33: the boot ROM's two ways, and the two ways out of S3. -/
theorem bootAndReturnFromS3 : Obligations.BootAndReturnFromS3 := by
  intro s die good whole
  constructor
  · intro hboot hbootf
    have hidle : ¬((s.mod.booted || s.mod.sec.bootf) = true) := by rw [hboot, hbootf]; decide
    by_cases hg : good = true
    · obtain ⟨h1, h2, h3, h4, h5, h6, h7⟩ := startAmigen_mod s
      refine ⟨startAmigen s, (if_neg hidle).trans (if_pos hg), ?_, ?_, h3, fun _ => ⟨h4, h5, h6, h7⟩⟩
      · rw [h1, hg]
      · rw [h2, hg]; rfl
    · refine ⟨_, (if_neg hidle).trans (if_neg hg), ?_, ?_, rfl, fun h => absurd h hg⟩
      · rw [Bool.eq_false_iff.mpr hg]; exact hboot
      · rw [Bool.eq_false_iff.mpr hg]; rfl
  · intro hp
    have h3 : ¬(s.mod.power ≠ 3) := not_not.mpr hp
    by_cases hw : whole = true
    · refine ⟨_, (if_neg h3).trans (if_pos hw), ?_⟩
      rw [if_pos hw]
      rfl
    · refine ⟨_, (if_neg h3).trans (if_neg hw), ?_⟩
      rw [if_neg hw]
      exact ⟨rfl, rfl, rfl, rfl, rfl⟩

/-! ### S5 -/

/-- A list in which nothing passes gives nothing. -/
theorem takeFirst_none {p : Due → Bool} {l : List Due} (h : ∀ d ∈ l, p d = false) : takeFirst p l = none := by
  induction l with
  | nil => rfl
  | cons d l ih =>
    have hd := h d List.mem_cons_self
    simp only [takeFirst, hd, Bool.false_eq_true, if_false, ih fun e he => h e (List.mem_cons_of_mem d he), Option.map_none]

/-- In S5 a boot alone can happen. -/
theorem inS5_eq_false {i : Instr} (h : i ≠ .boot) : inS5 i = false := by
  unfold inS5
  split
  · exact absurd rfl h
  · rfl

/-- A module in S5 with no boot due makes no step. -/
theorem step_off {s : State} (hp : s.mod.power = 5) (hb : ∀ d ∈ s.agenda, d.step ≠ .boot) :
    step s = endStep s.clock s.turn (.next s) := by
  have hnone : takeFirst (fun d => inS5 d.step) s.agenda = none := takeFirst_none fun d hd => inS5_eq_false (hb d hd)
  have hnext : nextDue s = (s, none) := by
    unfold nextDue
    rw [if_pos hp]
    unfold takeDue
    rw [hnone]
  unfold step
  rw [hnext]

/-- Settles O60: such a step changes the clock and the turn alone. -/
theorem poweredOffRests : Obligations.PoweredOffRests := by
  unfold Obligations.PoweredOffRests
  intro off
  refine ⟨fun s t ⟨hp, hb⟩ ht => ?_, fun s ⟨hp, hb⟩ => ⟨_, step_off hp hb⟩⟩
  rw [step_off hp hb] at ht
  cases ht
  exact ⟨⟨hp, hb⟩, rfl, rfl, rfl, rfl⟩

/-! ### Reset and memory -/

/-- Settles O59: every table is empty, so that each entry is its default. -/
theorem resetState : Obligations.ResetState := by
  unfold Obligations.ResetState
  intro s
  refine ⟨rfl, rfl, rfl, rfl, rfl, rfl, rfl, rfl, rfl, rfl, fun n => rfl, fun d => ⟨rfl, fun a => ⟨rfl, rfl, rfl⟩, fun n => rfl, rfl, rfl⟩,
    fun c => ⟨rfl, rfl, rfl, rfl, rfl⟩, fun c x => ⟨rfl, rfl, rfl, rfl, rfl, rfl, rfl, rfl, rfl, rfl, rfl, rfl⟩, ?_, ?_, ?_⟩
  · intro e he
    cases he
  · intro e he
    cases he
  · decide

/-- Settles O58: by the laws of memory, through the home of a write. -/
theorem memoryReadsBack : Obligations.MemoryReadsBack := by
  intro m a q n bs s d e v
  obtain ⟨hmem, -, hother, -, -⟩ := physWrite_rest s d a bs
  refine ⟨memGet_memWrite_in m a bs q, memGet_memWrite_out m a bs q, memWrite_wf m a bs, leNat_leBytes n v, leBytes_length n v, ?_, fun hde => ?_, fun hout => ?_⟩
  · unfold physRead
    rw [hmem]
    exact memRead_memWrite_self ..
  · unfold physRead
    rw [hother e hde]
  · unfold physRead
    rw [hmem]
    exact memRead_memWrite_out _ _ _ _ _ hout

end Sys2Proof.Machine
end

section
/-! PROOF. The host and peer ports (02 R43 to R56, 22 R504); before them, how a step and a command that may ask another module's die end
(01 R20, 10 R262). -/

namespace Sys2Proof.Machine

/-! ### Steps that may wait -/

/-- A try that lacked nothing is made. -/
theorem endAsking_goes {t : State} (s : State) (k : Asker) (h : t.mod.want = .nothing) : endAsking s t k = (asked s t k, false) := by
  unfold endAsking
  rw [h]

/-- A try that lacked something waits. -/
theorem endAsking_waits {t : State} (s : State) (k : Asker) (h : t.mod.want ≠ .nothing) : (endAsking s t k).2 = true := by
  unfold endAsking
  split
  next hw => exact absurd hw h
  all_goals rfl

/-- A step that is tried ends with its try. -/
theorem askingStep_eq (s : State) (i : Instr) (f : State → State) : askingStep s i f =
    if (endAsking s (f (stepState s i)) (.step i 0 0)).2 then waitCredit (endAsking s (f (stepState s i)) (.step i 0 0)).1 i
    else (endAsking s (f (stepState s i)) (.step i 0 0)).1 := rfl

/-- A step that is tried, and what it leaves where it lacks nothing. -/
theorem StepGoes.of_asking {s t : State} {i : Instr} {f : State → State} (hexec : exec i s = .next (askingStep s i f)) (hf : f (stepState s i) = t) :
    StepGoes s i t := by
  intro hw
  subst hf
  rw [hexec, askingStep_eq, endAsking_goes _ _ hw]
  rfl

/-- A step that is tried, where it lacks something. -/
theorem StepWaits.of_asking {s t : State} {i : Instr} {f : State → State} (hexec : exec i s = .next (askingStep s i f)) (hf : f (stepState s i) = t) :
    StepWaits s i t := by
  intro hw
  subst hf
  rw [hexec, askingStep_eq, if_pos (endAsking_waits _ _ hw)]

/-! ### Accesses of memory -/

/-- The two ends of an access that may wait. -/
theorem mayWait_spec {s t : State} {i : Instr} {f : State → State} (hexec : exec i s = .next (mayWait s i f)) (hm : mailHas s i = false)
    (hf : f (stepState s i) = t) : StepGoes s i t ∧ StepWaits s i t := by
  have h : exec i s = .next (askingStep s i f) := hexec.trans (congrArg Host.Outcome.next (if_neg (Bool.eq_false_iff.mp hm)))
  exact ⟨.of_asking h hf, .of_asking h hf⟩

section
variable {s s' : State} {i : Instr} {o n : Nat} {bs : List Byte} {ls : List (Nat × Loc × Nat)}

theorem externalRead_goes (h : hostPlaces s false o n = (s', .goes ls)) : externalRead o n s =
    sendOut (hostTakes s'.mod.aptAs ls s').1 (.completion (some (hostTakes s'.mod.aptAs ls s').2.1) (hostTakes s'.mod.aptAs ls s').2.2) := by
  unfold externalRead
  rw [h]

theorem externalRead_fails (h : hostPlaces s false o n = (s', .fails)) : externalRead o n s = sendOut s' (.completion none false) := by
  unfold externalRead
  rw [h]

theorem externalRead_waits (h : hostPlaces s false o n = (s', .waits)) : externalRead o n s = lacks s' .page := by
  unfold externalRead
  rw [h]

theorem externalWrite_goes (h : hostPlaces s true o bs.length = (s', .goes ls)) :
    externalWrite o bs s = hostFills ls (hostPuts s'.mod.aptAs ls bs s') := by
  unfold externalWrite
  rw [h]

theorem externalWrite_fails (h : hostPlaces s true o bs.length = (s', .fails)) :
    externalWrite o bs s = { s' with mod := { s'.mod with dropw := s'.mod.dropw + 1 } } := by
  unfold externalWrite
  rw [h]
  rfl

theorem externalWrite_waits (h : hostPlaces s true o bs.length = (s', .waits)) : externalWrite o bs s = lacks s' .page := by
  unfold externalWrite
  rw [h]

end

/-! ### One word of BAR0 -/

/-- A read of one aligned word is one of its register. -/
theorem bar0Load_word {s : State} {off : Nat} (ha : bar0Answers s off = true) (h8 : off % 8 = 0) :
    bar0Load s off 8 = sendOut (bar0Read s off).1 (.completion (some (leBytes 8 (bar0Read s off).2.toNat)) false) := by
  have hoff : off / 8 * 8 = off := Nat.div_mul_cancel (Nat.dvd_of_mod_eq_zero h8)
  have hlen : (leBytes 8 (bar0Read s off).2.toNat ++ []).take 8 = leBytes 8 (bar0Read s off).2.toNat := by
    rw [List.append_nil]
    exact List.take_of_length_le (leBytes_length 8 _).le
  unfold bar0Load
  rw [ha, h8, hoff]
  exact congrArg (fun b => sendOut (bar0Read s off).1 (.completion (some b) false)) hlen

/-- The bytes of a whole word, each of them written. -/
theorem wholeWord (bs old : List Byte) (h : bs.length = 8) :
    ((List.range 8).map fun i => (((bs.map some).take 8).getD i none).getD (old.getD i 0)) = bs := by
  apply List.ext_getElem
  · simp [h]
  · intro i h1 h2
    simp [List.getD_eq_getElem?_getD, List.getElem?_take, show i < 8 by omega, h2]

/-- A write of one aligned word is one of its register. -/
theorem bar0Store_word {s : State} {off : Nat} {bs : List Byte} (h8 : off % 8 = 0) (hb : bs.length = 8) :
    exec (.hostWrite .bar0 off bs) s = exec (.registerWrite off (BitVec.ofNat 64 (leNat bs))) s := by
  have hoff : off / 8 * 8 = off := Nat.div_mul_cancel (Nat.dvd_of_mod_eq_zero h8)
  have hall : ((bs.map some).take 8).all (·.isNone) = false := by
    cases bs with
    | nil => cases hb
    | cons b bs => rfl
  change Host.Outcome.next (bar0Store ((off % 8 + bs.length + 7) / 8) (off / 8 * 8) (List.replicate (off % 8) none ++ bs.map some) s) = .next _
  rw [h8, hb, hoff, if_congr (and_iff_right rfl) rfl rfl]
  congr 1
  change (if ((bs.map some).take 8).all (·.isNone) || !bar0Answers s off then s else bar0Write s off
    (BitVec.ofNat 64 (leNat ((List.range 8).map fun i => (((bs.map some).take 8).getD i none).getD ((leBytes 8 (partialBase s off).toNat).getD i 0))))) = _
  rw [hall, wholeWord bs _ hb]
  cases bar0Answers s off <;> rfl

/-- In S3 BAR0 answers at the control page and the doorbells. -/
theorem bar0Answers_s3 {s : State} {off : Nat} (h : s.mod.power = 3) :
    bar0Answers s off = true ↔ off < 0x1000 ∨ (0x100000 ≤ off ∧ off < 0x110000 ∧ off % 0x100 = 0x28) := by
  unfold bar0Answers
  rw [h]
  simp [and_assoc]

/-- Settles O34: an access is `externalRead` or `externalWrite`, tried as its step; one of a word of BAR0 is one of its register. -/
theorem hostAccesses : Obligations.HostAccesses := by
  intro s s' sp off n bs addr ls comes reads writes
  have hreads : ∀ (i : Instr) (o : Nat), exec i s = .next (mayWait s i (externalRead o n)) → reads i o := fun i o hx =>
    ⟨fun hm hp => mayWait_spec hx hm (externalRead_goes hp), fun hm hp => mayWait_spec hx hm (externalRead_fails hp),
      fun hm hp => (mayWait_spec hx hm (externalRead_waits hp)).2, fun hm => hx.trans (congrArg Host.Outcome.next (if_pos hm))⟩
  have hwrites : ∀ (i : Instr) (o : Nat), exec i s = .next (mayWait s i (externalWrite o bs)) → writes i o := fun i o hx =>
    ⟨fun hm hp => mayWait_spec hx hm (externalWrite_goes hp), fun hm hp => mayWait_spec hx hm (externalWrite_fails hp),
      fun hm hp => (mayWait_spec hx hm (externalWrite_waits hp)).2, fun hm => hx.trans (congrArg Host.Outcome.next (if_pos hm))⟩
  refine ⟨?memory, fun hx => ⟨?_, ?_⟩, fun ha => ?silent, fun ha h8 => congrArg Host.Outcome.next (bar0Load_word ha h8), bar0Answers_s3,
    bar0Store_word, fun hp => ⟨hreads _ _ ?_, hwrites _ _ ?_⟩, fun hp => ⟨?_, ?_⟩⟩
  case memory =>
    rintro (rfl | ⟨rfl, hx⟩)
    · exact ⟨hreads _ _ rfl, hwrites _ _ rfl⟩
    · exact ⟨hreads _ _ (congrArg Host.Outcome.next (if_pos hx)), hwrites _ _ (congrArg Host.Outcome.next (if_pos hx))⟩
  · exact congrArg Host.Outcome.next (if_neg (Bool.eq_false_iff.mp hx))
  · exact congrArg Host.Outcome.next (if_neg (Bool.eq_false_iff.mp hx))
  case silent =>
    refine congrArg Host.Outcome.next (if_pos ?_)
    rw [ha]
    rfl
  · exact if_neg (not_not.mpr hp)
  · exact if_neg (not_not.mpr hp)
  · exact if_pos hp
  · exact if_pos hp

/-! ### Registers, peers and expanders -/

/-- A cleared bit of a number. -/
theorem testBit_sub_bit (v k j : Nat) : (v - v / 2 ^ k % 2 * 2 ^ k).testBit j = (v.testBit j && j != k) := by
  have hr : v % 2 ^ k < 2 ^ k := Nat.mod_lt _ (Nat.two_pow_pos k)
  have hq : v / 2 ^ k % 2 ≤ v / 2 ^ k := Nat.mod_le _ _
  have hv : 2 ^ k * (v / 2 ^ k) + v % 2 ^ k = v := Nat.div_add_mod _ _
  have hsub : v - v / 2 ^ k % 2 * 2 ^ k = 2 ^ k * (v / 2 ^ k - v / 2 ^ k % 2) + v % 2 ^ k := by
    rw [Nat.mul_sub, Nat.mul_comm (v / 2 ^ k % 2)]
    have := Nat.mul_le_mul_left (2 ^ k) hq
    omega
  have hvj : v.testBit j = if j < k then (v % 2 ^ k).testBit j else (v / 2 ^ k).testBit (j - k) := by
    rw [← Nat.testBit_two_pow_mul_add _ hr, hv]
  rw [hsub, Nat.testBit_two_pow_mul_add _ hr, hvj]
  by_cases hjk : j < k
  · simp [hjk, Nat.ne_of_lt hjk]
  · rw [if_neg hjk, if_neg hjk]
    obtain ⟨i, rfl⟩ : ∃ i, j = k + i := ⟨j - k, by omega⟩
    rw [Nat.add_sub_cancel_left]
    cases i with
    | zero =>
      have : (v / 2 ^ k - v / 2 ^ k % 2) % 2 = 0 := by omega
      simp [Nat.testBit_zero, this]
    | succ i =>
      have : (v / 2 ^ k - v / 2 ^ k % 2) / 2 = v / 2 ^ k / 2 := by omega
      simp [Nat.testBit_succ, this]

/-- A word with one bit cleared. -/
theorem getLsbD_setFld_bit (v : Word) (k j : Nat) (hj : j < 64) : (setFld v k k 0).getLsbD j = (v.getLsbD j && j != k) := by
  have h1 : k + 1 - k = 1 := by omega
  unfold setFld bitsOf
  rw [BitVec.getLsbD_ofNat, h1]
  simp only [hj, decide_true, Bool.true_and, Nat.zero_mod, Nat.zero_mul, Nat.add_zero, pow_one]
  exact testBit_sub_bit v.toNat k j

/-- PWR_CAP as it is written. -/
theorem pwrCapStore_eq (s : State) (v : Word) :
    pwrCapStore s v = { s with mod := { s.mod with cap := max 1000 (min 2800 (fld v 11 0)), throt := s.mod.throt && !v.getLsbD 12 } } := by
  unfold pwrCapStore bitOf
  cases h : v.getLsbD 12
  · rw [Bool.not_false, Bool.and_true]
    rfl
  · rw [Bool.not_true, Bool.and_false]
    rfl

/-- A register of the control page that is not writable. -/
theorem bar0Write_other {s : State} {off : Nat} (v : Word) (h : off < 0x1000) (h3 : off ≠ 0x300) (h4 : off ≠ 0x408) : bar0Write s off v = s := by
  unfold bar0Write
  rw [if_neg h3, if_neg h4, if_neg (by omega), if_neg (by omega), if_neg (by omega)]

/-- Settles O35: the write of a register by its offset, the peer's access as `failAwaited`, the expander's bit. -/
theorem hostRegisters : Obligations.HostRegisters := by
  intro s v off e core cleared
  have hwrite : ∀ t, bar0Answers s off = true → off % 8 = 0 → bar0Write s off v = t → exec (.registerWrite off v) s = .next t :=
    fun t ha h8 ht => congrArg Host.Outcome.next ((if_pos ⟨h8, ha⟩).trans ht)
  refine ⟨rfl, fun ha => ⟨fun h => ?_, fun h => ?_, fun h h3 h4 => ?_⟩, fun ha => ?_, fun i a hi ha => ?_, fun he => ?_⟩
  · subst h
    exact hwrite _ ha (by decide) rfl
  · subst h
    exact hwrite _ ha (by decide) (pwrCapStore_eq s v)
  · refine congrArg Host.Outcome.next ?_
    rw [bar0Write_other v h h3 h4]
    exact ite_self s
  · refine congrArg Host.Outcome.next (if_neg ?_)
    rw [ha]
    simp
  · change execPeerLoadTimeout core s = _
    have hcore : Fin.ofNat 256 core.val = core := Fin.ext (Nat.mod_eq_of_lt core.isLt)
    simp only [execPeerLoadTimeout, hi, ha, failAwaited, hcore]
  · refine ⟨_, congrArg Host.Outcome.next (if_pos he), rfl, rfl, fun j hj => getLsbD_setFld_bit _ _ _ hj⟩

end Sys2Proof.Machine
end

section
/-! PROOF. Streams and the prompt book (03 R60 to R82, 05 R104, R105). -/

namespace Sys2Proof.Machine

/-! ### The table of commands -/

/-- The first entry of a number in a table that has been changed. -/
theorem find?_tabPut {α : Type} (t : Tab α) (n m : Nat) (x : α) :
    (tabPut t n x).find? (fun e => e.1 == m) = if n = m then some (n, x) else t.find? fun e => e.1 == m := by
  induction t with
  | nil =>
    by_cases h : n = m <;> simp [tabPut, h]
  | cons e t ih =>
    obtain ⟨k, v⟩ := e
    unfold tabPut
    by_cases hk : k = n
    · subst hk
      by_cases h : k = m <;> simp [h]
    · rw [if_neg hk]
      by_cases hlt : n < k
      · rw [if_pos hlt]
        by_cases h : n = m
        · simp [h]
        · rw [List.find?_cons_of_neg (by simpa using h), if_neg h]
      · rw [if_neg hlt]
        by_cases hkm : k = m
        · have hnm : n ≠ m := fun h => hk (hkm.trans h.symm)
          rw [List.find?_cons_of_pos (by simpa using hkm), List.find?_cons_of_pos (by simpa using hkm), if_neg hnm]
        · rw [List.find?_cons_of_neg (by simpa using hkm), List.find?_cons_of_neg (by simpa using hkm), ih]

/-- A command behind a change of one command. -/
theorem cmdOf_modCmd (s : State) (d cid e : Nat) (f : Cmd → Cmd) :
    cmdOf (modCmd s d cid f) d e = if cid = e then (cmdOf s d e).map f else cmdOf s d e := by
  unfold modCmd
  split
  next c hc =>
    unfold cmdOf
    rw [dieOf_modDie, if_pos rfl, find?_tabPut]
    by_cases h : cid = e
    · subst h
      have hc' : ((dieOf s d).cmds.find? fun e => e.1 == cid).map (·.2) = some c := hc
      rw [if_pos rfl, if_pos rfl, hc']
      rfl
    · rw [if_neg h, if_neg h]
  next hc =>
    by_cases h : cid = e
    · subst h
      rw [if_pos rfl, hc]
      rfl
    · rw [if_neg h]

/-- The commands of a die are those of its table. -/
theorem cmdOf_of_cmds {s t : State} {d : Nat} (h : (dieOf t d).cmds = (dieOf s d).cmds) (cid : Nat) : cmdOf t d cid = cmdOf s d cid := by
  unfold cmdOf
  rw [h]

/-- A write of memory leaves the commands. -/
theorem physWrite_cmds (s : State) (d pa e : Nat) (bs : List Byte) : (dieOf (physWrite s d pa bs) e).cmds = (dieOf s e).cmds := by
  unfold physWrite
  dsimp only
  generalize hs : modDie s d _ = u
  obtain ⟨hd, -, -⟩ := wakeRange_rest u d pa bs.length
  obtain ⟨ws, hw⟩ := hd e
  rw [hw, ← hs, dieOf_modDie]
  split
  next h => subst h; rfl
  · rfl

/-- A command behind a change of one command and its record. -/
theorem cmdOf_putCmd (s : State) (d cid e : Nat) (f : Cmd → Cmd) :
    cmdOf (putCmd s d cid f) d e = if cid = e then (cmdOf s d e).map f else cmdOf s d e := by
  rw [← cmdOf_modCmd]
  unfold putCmd writeRecord
  split
  · split
    · exact cmdOf_of_cmds (physWrite_cmds ..) e
    · rfl
  · rfl

/-- A change of a stream leaves the commands. -/
theorem cmdOf_modStream (s : State) (d n cid : Nat) (f : Stream → Stream) : cmdOf (modStream s d n f) d cid = cmdOf s d cid := by
  refine cmdOf_of_cmds ?_ cid
  unfold modStream
  rw [dieOf_modDie, if_pos rfl]

/-! ### STRM_CFG -/

/-- EN cleared leaves LOG2N. -/
theorem fld_log2n_setFld (w : Word) : fld (setFld w 9 9 0) 4 0 = fld w 4 0 := by
  have hw := w.isLt
  simp only [fld, setFld, bitsOf, BitVec.toNat_ofNat]
  omega

/-- EN cleared leaves ASID. -/
theorem fld_asid_setFld (w : Word) : fld (setFld w 9 9 0) 63 48 = fld w 63 48 := by
  have hw := w.isLt
  simp only [fld, setFld, bitsOf, BitVec.toNat_ofNat]
  omega

/-- EN is a bit that software writes. -/
theorem bitOf_strmCfgMask (v : Word) : bitOf (v &&& strmCfgMask) 9 = v.getLsbD 9 := by
  unfold bitOf strmCfgMask
  rw [BitVec.getLsbD_and]
  exact Bool.and_true _

/-- The write of STRM_CFG as the step it is tried as. -/
theorem exec_strmCfgWrite {s : State} (die : DieId) (strm : StreamId) (v : Word) (h : s.mod.power < 3) :
    exec (.strmCfgWrite die strm v) s =
      .next (askingStep s (.strmCfgWrite die strm v) fun s => writeCfg s die.val strm.val (v &&& strmCfgMask)) :=
  if_neg (Nat.not_le.mpr h)

section
variable {s : State} {d n : Nat} {w : Word}

/-- The write while the stream is enabled. -/
theorem writeCfg_enabled (h : (streamOf s d n).en = true) :
    writeCfg s d n w = if bitOf w 9 then s else modStream s d n fun t => { t with cfg := setFld t.cfg 9 9 0 } := if_pos h

/-- The write while it is not enabled: the fields are stored, and EN is looked at. -/
theorem writeCfg_disabled (h : (streamOf s d n).en = false) : writeCfg s d n w =
    (let off := modStream s d n fun u => { u with cfg := setFld w 9 9 0 }
     if !bitOf w 9 then off
     else if fld w 4 0 < 4 ∨ 16 < fld w 4 0 then modStream off d n fun t => { t with code := 0x03 }
     else
       let r := fwRead off d (fld w 63 48) (fld (streamOf s d n).base 63 12 * 4096) 1
       match r.2 with
       | .error e => if waitPage ≤ e then lacks r.1 .page else modStream r.1 d n fun t => { t with code := 0x0B }
       | .ok _ => modStream r.1 d n fun t => { t with cfg := w }) := by
  have h1 : (Stream.log2n { streamOf s d n with cfg := setFld w 9 9 0 }) = fld w 4 0 := fld_log2n_setFld w
  have h2 : (Stream.asid { streamOf s d n with cfg := setFld w 9 9 0 }) = fld w 63 48 := fld_asid_setFld w
  unfold writeCfg
  refine (if_neg (Bool.eq_false_iff.mp h)).trans ?_
  simp only [h1, h2]
  rfl

end

/-! ### Abort -/

/-- A command as the abort of its stream leaves it. -/
def aborted (beat : Word) (c : Cmd) : Cmd := { c with state := 5, err := 0x11, tEnd := beat }

/-- Once a command is cancelled, further cancellations leave it so. -/
theorem cmdOf_cancelled_foldl {d cid : Nat} {beat : Word} (l : List (Nat × Cmd)) (s : State)
    (h : ∃ c, cmdOf s d cid = some (aborted beat c)) :
    ∃ c, cmdOf (l.foldl (fun s e => putCmd s d e.1 fun c => { c with state := 5, err := 0x11, tEnd := beat }) s) d cid = some (aborted beat c) := by
  refine List.foldlRecOn (motive := fun u => ∃ c, cmdOf u d cid = some (aborted beat c)) l _ h fun u hu e _ => ?_
  obtain ⟨c, hc⟩ := hu
  rw [cmdOf_putCmd]
  split
  · exact ⟨aborted beat c, by rw [hc]; rfl⟩
  · exact ⟨c, hc⟩

/-- Every command of a list of cancellations is cancelled. -/
theorem cmdOf_foldl_cancel {d cid : Nat} {beat : Word} (l : List (Nat × Cmd)) (s : State) (hin : ∃ e ∈ l, e.1 = cid)
    (hc : (cmdOf s d cid).isSome) :
    ∃ c, cmdOf (l.foldl (fun s e => putCmd s d e.1 fun c => { c with state := 5, err := 0x11, tEnd := beat }) s) d cid = some (aborted beat c) := by
  induction l generalizing s with
  | nil =>
    obtain ⟨e, he, -⟩ := hin
    cases he
  | cons a l ih =>
    obtain ⟨c, hc⟩ := Option.isSome_iff_exists.mp hc
    rw [List.foldl_cons]
    by_cases ha : a.1 = cid
    · refine cmdOf_cancelled_foldl l _ ⟨c, ?_⟩
      rw [cmdOf_putCmd, if_pos ha, hc]
      rfl
    · refine ih _ ?_ ?_
      · obtain ⟨e, he, hec⟩ := hin
        rcases List.mem_cons.mp he with rfl | hel
        · exact absurd hec ha
        · exact ⟨e, hel, hec⟩
      · rw [cmdOf_putCmd, if_neg ha, hc]
        rfl

/-- The end of the INDIRECTs whose buffers an abort cuts leaves a cancelled command. -/
theorem cmdOf_foldl_finish {d cid : Nat} {c : Cmd} (hc : c.state = 5) (l : List Frame) (s : State) (h : cmdOf s d cid = some c) :
    cmdOf (l.foldl (fun s f => match cmdOf s d f.cid with | some c => if c.state = 2 then finishCmd s d f.cid 0 else s | none => s) s) d cid = some c := by
  refine List.foldlRecOn (motive := fun u => cmdOf u d cid = some c) l _ h fun u hu f _ => ?_
  split
  next k hk =>
    split
    next h2 =>
      have hne : f.cid ≠ cid := by
        rintro rfl
        rw [hu] at hk
        cases hk
        rw [hc] at h2
        cases h2
      unfold finishCmd
      rw [if_neg (by decide)]
      exact (cmdOf_modCmd u d f.cid cid _).trans ((if_neg hne).trans hu)
    · exact hu
  · exact hu

/-- The accepted commands of a stream are cancelled at its abort. -/
theorem strmCtlAbort_cancels {s : State} (die : DieId) (strm : StreamId) (h : s.mod.power < 3) : ∃ z, exec (.strmCtlAbort die strm) s = .next z ∧
    ∀ cid c, cmdOf s die.val cid = some c → cid < 2 ^ 64 → c.strm = strm.val → c.state = 1 →
      ∃ c', cmdOf z die.val cid = some c' ∧ c'.state = 5 ∧ c'.err = 0x11 ∧ c'.tEnd = (dieOf s die.val).beat := by
  refine ⟨_, if_neg (Nat.not_le.mpr h), fun cid c hc hlt hstrm hst => ?_⟩
  have hmem : (cid, c) ∈ (streamCmds s die.val strm.val).filter fun e => e.2.state == 1 := by
    unfold cmdOf at hc
    rw [Option.map_eq_some_iff] at hc
    obtain ⟨e, he, rfl⟩ := hc
    have hin := List.mem_of_find?_eq_some he
    have hcid : e.1 = cid := by simpa using List.find?_some he
    subst hcid
    simpa [streamCmds, hin, hstrm, hst] using hlt
  obtain ⟨c', hc'⟩ := cmdOf_foldl_cancel (beat := (dieOf s die.val).beat) _ s ⟨_, hmem, rfl⟩ (by rw [hc]; rfl)
  refine ⟨aborted (dieOf s die.val).beat c', ?_, rfl, rfl, rfl⟩
  refine cmdOf_foldl_finish rfl _ _ ?_
  exact (cmdOf_modStream ..).trans hc'

/-! ### Polling -/

/-- Steps that become due leave what was due, and the dies. -/
theorem foldl_deliver_spec {α : Type} (p : α → Bool) (f : α → Instr) (l : List α) (s : State) :
    (l.foldl (fun s e => if p e then deliver s (f e) else s) s).dies = s.dies ∧
      (∀ x ∈ s.agenda, x ∈ (l.foldl (fun s e => if p e then deliver s (f e) else s) s).agenda) ∧
      ∀ e ∈ l, p e = true → ⟨f e, {}⟩ ∈ (l.foldl (fun s e => if p e then deliver s (f e) else s) s).agenda := by
  induction l generalizing s with
  | nil => exact ⟨rfl, fun x hx => hx, fun e he => by cases he⟩
  | cons a l ih =>
    obtain ⟨hd, hkeep, hnew⟩ := ih (if p a then deliver s (f a) else s)
    rw [List.foldl_cons]
    have hsub : ∀ x ∈ s.agenda, x ∈ (if p a then deliver s (f a) else s).agenda := by
      intro x hx
      split
      · exact List.mem_append_left _ hx
      · exact hx
    refine ⟨hd.trans (by split <;> rfl), fun x hx => hkeep x (hsub x hx), fun e he hp => ?_⟩
    rcases List.mem_cons.mp he with rfl | hel
    · refine hkeep _ ?_
      rw [if_pos hp]
      exact List.mem_append_right _ (List.mem_singleton.mpr rfl)
    · exact hnew e hel hp

/-- Settles O36: each register by its guard, the write of STRM_CFG as the step it is tried as. -/
theorem streamRegisters : Obligations.StreamRegisters := by
  intro s s' die strm v d n t w wr b off asid base
  have hgoes : ∀ z, s.mod.power < 3 → writeCfg b d n w = z → StepGoes s wr z := fun z hp hz => .of_asking (exec_strmCfgWrite die strm v hp) hz
  have hbit : bitOf w 9 = v.getLsbD 9 := bitOf_strmCfgMask v
  have hoff : t.en = false → v.getLsbD 9 = true → 4 ≤ fld w 4 0 → fld w 4 0 ≤ 16 → ∀ r, fwRead off d asid base 1 = r →
      writeCfg b d n w = match r.2 with
        | .error e => if waitPage ≤ e then lacks r.1 .page else modStream r.1 d n fun t => { t with code := 0x0B }
        | .ok _ => modStream r.1 d n fun t => { t with cfg := w } := by
    intro hen hv h4 h16 r hr
    rw [writeCfg_disabled (show (streamOf b d n).en = false from hen)]
    have hw : ¬((!bitOf w 9) = true) := by rw [hbit, hv]; decide
    have hlog : ¬(fld w 4 0 < 4 ∨ 16 < fld w 4 0) := by omega
    refine (if_neg hw).trans ((if_neg hlog).trans ?_)
    subst hr
    rfl
  refine ⟨fun hp => ?closed, fun hp hen => ?enabled, fun hp hen hv => ?plain, fun hp hen hv hlog => ?log2n, fun hp hen hv h4 h16 => ?base,
    fun hp hen => ?zero, strmCtlAbort_cancels die strm, fun hp hh => ?resume, fun hen hdb hp => ?bell,
    fun hp => ?wakes, fun hfw => ?polls, fun beat hready hsince hage hprio => ?ages⟩
  case closed =>
    refine ⟨if_pos hp, ?_, if_pos hp, ?_⟩
    · exact congrArg Host.Outcome.next (if_pos (Or.inl hp))
    · exact if_neg fun h => absurd h.2 (Nat.not_lt.mpr hp)
  case enabled =>
    refine hgoes _ hp ((writeCfg_enabled (show (streamOf b d n).en = true from hen)).trans ?_)
    rw [hbit]
  case plain =>
    refine hgoes _ hp ((writeCfg_disabled (show (streamOf b d n).en = false from hen)).trans (if_pos ?_))
    rw [hbit, hv]
    rfl
  case log2n =>
    refine hgoes _ hp ((writeCfg_disabled (show (streamOf b d n).en = false from hen)).trans ((if_neg ?_).trans (if_pos hlog)))
    rw [hbit, hv]
    decide
  case base =>
    exact ⟨fun bs hr => hgoes _ hp (hoff hen hv h4 h16 _ hr),
      fun e hr he => hgoes _ hp ((hoff hen hv h4 h16 _ hr).trans (if_neg (Nat.not_le.mpr he))),
      fun e hr he => .of_asking (exec_strmCfgWrite die strm v hp) ((hoff hen hv h4 h16 _ hr).trans (if_pos he))⟩
  case zero =>
    refine congrArg Host.Outcome.next (if_neg (not_or.mpr ⟨Nat.not_le.mpr hp, ?_⟩))
    exact Bool.eq_false_iff.mp hen
  case resume => exact if_pos ⟨hh, hp⟩
  case bell =>
    have hring : (t.en && t.db) = true := by rw [hen, hdb]; rfl
    change execStrmDb die strm s = _
    unfold execStrmDb
    dsimp only
    rw [if_pos hring]
    exact congrArg Host.Outcome.next (if_neg hp)
  case wakes =>
    change ∃ z, execStrmDb die strm s = .next z ∧ _
    unfold execStrmDb
    dsimp only
    have hpow : (if (t.en && t.db) = true then deliver (modStream s d n fun u => { u with rung := true }) (.slotAccept die strm) else s).mod.power = 3 := by
      split <;> exact hp
    exact ⟨_, congrArg Host.Outcome.next (if_pos hpow), rfl⟩
  case polls =>
    have hrun : ¬((!fwRuns s) = true) := by rw [hfw]; decide
    obtain ⟨hdies, -, hnew⟩ := foldl_deliver_spec (fun e : Nat × Stream => e.2.en && !e.2.halt && (!e.2.db || e.2.rung))
      (fun e => .slotAccept die (Fin.ofNat 64 e.1)) (dieOf s d).streams s
    refine ⟨_, if_neg hrun, hdies, fun m u hu hen hh hr => hnew (m, u) hu ?_⟩
    dsimp only
    rw [hen, hh]
    cases hdb : u.db
    · rfl
    · rw [hr hdb]
      rfl
  case ages =>
    have haged : ((readyCmd s d n).isSome && aged s d t) = true := by
      rw [hready]
      unfold aged
      rw [hsince]
      exact decide_eq_true hage
    refine congrArg Host.Outcome.next ((if_pos haged).trans ?_)
    unfold modStream modDie
    dsimp only
    rw [if_pos (show effPrio (tabGet {} (dieOf s die.val).streams strm.val) < 3 from hprio)]

/-! ### The stream served next (05 R104, R105) -/

/-- The stream served next, of those looked at so far. -/
def Best (s : State) (d : Nat) (seen : List Nat) : Option (Nat × Nat) → Prop
  | none => ∀ m ∈ seen, readyCmd s d m = none
  | some (n, cid) => readyCmd s d n = some cid ∧
      ∀ m ∈ seen, ∀ z, readyCmd s d m = some z → effPrio (streamOf s d m) ≤ effPrio (streamOf s d n)

/-- A stream looked at by the choice. -/
def betterOf (s : State) (d : Nat) (best : Option (Nat × Nat)) (n : Nat) : Option (Nat × Nat) :=
  match readyCmd s d n with
  | none => best
  | some cid =>
    let p := effPrio (streamOf s d n)
    match best with
    | none => some (n, cid)
    | some (m, _) =>
      let q := effPrio (streamOf s d m)
      if q < p ∨ (p = q ∧ roundPlace s d p n < roundPlace s d p m) then some (n, cid) else best

/-- The choice looks at every stream that has a command. -/
theorem chooseStream_eq (s : State) (d : Nat) : chooseStream s d = ((dieOf s d).cmds.map (·.2.strm)).foldl (betterOf s d) none := by
  unfold chooseStream
  congr 1

/-- One stream more. -/
theorem Best.step {s : State} {d n : Nat} {seen : List Nat} {best : Option (Nat × Nat)} (h : Best s d seen best) :
    Best s d (seen ++ [n]) (betterOf s d best n) := by
  unfold betterOf
  split
  next hn =>
    cases best with
    | none => exact fun m hm => (List.mem_append.mp hm).elim (h m) fun e => by rw [List.mem_singleton.mp e, hn]
    | some b =>
      refine ⟨h.1, fun m hm z hz => (List.mem_append.mp hm).elim (h.2 m · z hz) fun e => ?_⟩
      rw [List.mem_singleton.mp e, hn] at hz
      cases hz
  next cid hn =>
    have hself : effPrio (streamOf s d n) ≤ effPrio (streamOf s d n) := le_rfl
    cases best with
    | none =>
      refine ⟨hn, fun m hm z hz => (List.mem_append.mp hm).elim (fun e => ?_) fun e => by rw [List.mem_singleton.mp e]⟩
      rw [h m e] at hz
      cases hz
    | some b =>
      obtain ⟨m0, z0⟩ := b
      dsimp only
      split
      next hgt =>
        refine ⟨hn, fun m hm z hz => (List.mem_append.mp hm).elim (fun e => (h.2 m e z hz).trans ?_) fun e => by rw [List.mem_singleton.mp e]⟩
        omega
      next hgt =>
        refine ⟨h.1, fun m hm z hz => (List.mem_append.mp hm).elim (h.2 m · z hz) fun e => ?_⟩
        rw [List.mem_singleton.mp e]
        omega

/-- The choice keeps the best of what it has seen. -/
theorem Best.foldl {s : State} {d : Nat} (l seen : List Nat) {best : Option (Nat × Nat)} (h : Best s d seen best) :
    Best s d (seen ++ l) (l.foldl (betterOf s d) best) := by
  induction l generalizing seen best with
  | nil => rwa [List.append_nil]
  | cons n l ih =>
    have := ih (seen ++ [n]) h.step
    rwa [List.append_assoc] at this

/-- A stream with a command that may begin is one of those looked at. -/
theorem mem_of_readyCmd {s : State} {d m z : Nat} (h : readyCmd s d m = some z) : m ∈ (dieOf s d).cmds.map (·.2.strm) := by
  unfold readyCmd at h
  rw [Option.map_eq_some_iff] at h
  obtain ⟨e, he, -⟩ := h
  have hp := List.find?_some he
  simp only [Bool.and_eq_true, beq_iff_eq] at hp
  exact List.mem_map.mpr ⟨e, List.mem_of_find?_eq_some he, hp.1⟩

/-- Settles O37: the choice is a walk through the commands' streams that keeps the best. -/
theorem highestPriorityIsServed : Obligations.HighestPriorityIsServed := by
  intro s d n cid h
  have hbest : Best s d ([] ++ (dieOf s d).cmds.map (·.2.strm)) (some (n, cid)) := by
    rw [← h, chooseStream_eq]
    exact Best.foldl (best := none) _ [] fun m hm => absurd hm List.not_mem_nil
  obtain ⟨hn, hmax⟩ := hbest
  exact ⟨hn, min_le_left _ _, fun m z hz => hmax m (mem_of_readyCmd hz) z hz⟩

/-! ### Slots and the ends of commands (03 R67 to R71) -/

/-- A published slot is entered while the record of its number is free. -/
theorem inspectSlot_enters {s u : State} {d n bad : Nat} {raw : List Byte} (hfw : fwRuns s = true) (hen : (streamOf s d n).en = true)
    (hh : (streamOf s d n).halt = false) (hr : (streamOf s d n).db = true → (streamOf s d n).rung = true)
    (hn : nextSlot s d (streamOf s d n) = (u, .slot raw bad)) (hbad : bad ≠ waitErr) (hfull : pbFull u d = false) :
    inspectSlot s d n = enterSlot u d n (streamOf s d n) raw bad := by
  have hgo : ¬((!fwRuns s || !(streamOf s d n).en || (streamOf s d n).halt || ((streamOf s d n).db && !(streamOf s d n).rung)) = true) := by
    rw [hfw, hen, hh]
    cases hdb : (streamOf s d n).db
    · simp
    · simp [hr hdb]
  unfold inspectSlot
  refine (if_neg hgo).trans ?_
  rw [hn]
  exact (if_neg hbad).trans (if_neg (Bool.eq_false_iff.mp hfull))

/-- The completion actions of a command that names no counter, flag and interrupt. -/
theorem completionActions_record {s : State} {d cid : Nat} {c : Cmd} (hctr : fieldOf c.slot 8 4 < 2 ^ 31) (hflag : fieldOf c.slot 16 8 = 0)
    (hirq : fieldOf c.slot 24 2 < 2 ^ 15) :
    completionActions s d cid c = putCmd s d cid fun k => { k with state := if k.err = 0 then 3 else 4, tEnd := (dieOf s d).beat } := by
  have hc : ∀ u, finishCtr u d c = (u, 0) := fun u => if_pos (Nat.div_eq_of_lt hctr)
  have hi : ¬(fieldOf c.slot 24 2 / 2 ^ 15 = 1) := by rw [Nat.div_eq_of_lt hirq]; decide
  unfold completionActions
  dsimp only
  rw [hc]
  refine (if_neg hi).trans (if_pos hflag)

/-- Settles O38: each step by what it does behind its guards. -/
theorem slotsEnterAndCommandsFinish : Obligations.SlotsEnterAndCommandsFinish := by
  intro s s' die strm raw bad n cid c d acc t e id b fin end_ ends
  refine ⟨fun hfw hen hh hr hn hbad hfull => ?enters, fun hfw hch => ?begins, fun hfw hch => ?rests, fun ⟨hc, hst⟩ => ?finishes,
    completionActions_record⟩
  case enters =>
    have hin : inspectSlot (stepState s acc) d strm.val = enterSlot s' d strm.val t raw bad := inspectSlot_enters hfw hen hh hr hn hbad hfull
    have hexec : exec acc s = .next (endAsking s (enterSlot s' d strm.val t raw bad) (.step acc 0 0)).1 :=
      congrArg (fun u => Host.Outcome.next (endAsking s u (.step acc 0 0)).1) hin
    refine ⟨fun hw => ?_, fun _ => hexec⟩
    rw [hexec, endAsking_goes _ _ hw]
  case begins =>
    intro s1
    have hrun : ¬((!fwRuns s) = true) := by rw [hfw]; decide
    refine (if_neg hrun).trans ?_
    rw [show chooseStream s die.val = some (n, cid) from hch]
  case rests =>
    have hrun : ¬((!fwRuns s) = true) := by rw [hfw]; decide
    refine (if_neg hrun).trans ?_
    rw [show chooseStream s die.val = none from hch]
  case finishes =>
    have hends : finishNow b e id c = ends := by
      unfold finishNow
      cases hnode : c.node with
      | none => simp only [ends, hnode]; rfl
      | some p => simp only [ends, hnode]; rfl
    have hexec : exec .commandFinish s = .next (if (endAsking s ends (.step .commandFinish e id)).2
        then postpone (endAsking s ends (.step .commandFinish e id)).1 .commandFinish e id
        else (endAsking s ends (.step .commandFinish e id)).1) := by
      rw [← hends]
      change execCommandFinish s = _
      simp only [execCommandFinish, hc]
      exact if_neg (not_not.mpr hst)
    refine ⟨fun hw => ?_, fun hw => ?_⟩
    · rw [hexec, endAsking_goes _ _ hw]
      rfl
    · rw [hexec, if_pos (endAsking_waits _ _ hw)]

end Sys2Proof.Machine
end

section
/-! PROOF. The commands that need no core (03 R73, R74, 08 R203, 10 R264, 06 R153). -/

namespace Sys2Proof.Machine

/-! ### Commands in hand -/

section
variable {s t : State} {c : Cmd} {i : Instr} {f : State → Nat → Nat → Cmd → State}

/-- A command's step acts on the running command in hand. -/
theorem withCmd_inHand (h : InHand s c) : withCmd f s = .next
    (if (endAsking s (f (cmdState s) s.focus.die s.focus.cid c) (cmdAsker s)).2
     then waitCmd (endAsking s (f (cmdState s) s.focus.die s.focus.cid c) (cmdAsker s)).1 s.focus.die s.focus.cid
     else (endAsking s (f (cmdState s) s.focus.die s.focus.cid c) (cmdAsker s)).1) := by
  obtain ⟨hc, hst⟩ := h
  simp only [withCmd, hc]
  exact if_neg (not_not.mpr hst)

/-- What a command's step leaves where it lacks nothing. -/
theorem CmdGoes.of_withCmd (h : InHand s c) (hexec : exec i s = withCmd f s) (hf : f (cmdState s) s.focus.die s.focus.cid c = t) : CmdGoes s i t := by
  intro hw
  subst hf
  rw [hexec, withCmd_inHand h, endAsking_goes _ _ hw]
  rfl

/-- A command's step where it lacks something. -/
theorem CmdWaits.of_withCmd (h : InHand s c) (hexec : exec i s = withCmd f s) (hf : f (cmdState s) s.focus.die s.focus.cid c = t) : CmdWaits s i t := by
  intro hw
  subst hf
  rw [hexec, withCmd_inHand h, if_pos (endAsking_waits _ _ hw)]

end

/-! ### Counters -/

section
variable {s : State} {d cid : Nat} {c : Cmd}

/-- CTRWAIT on a counter of this module. -/
theorem runCtrwait_here {h : Nat} (hr : routed s (ctrDie (fieldOf c.slot 32 4 % 2 ^ 20)) = true)
    (hl : localDie s (ctrDie (fieldOf c.slot 32 4 % 2 ^ 20)) = some h) :
    runCtrwait s d cid c = if fieldOf c.slot 40 8 ≤ (ctrVal s h (ctrIdx (fieldOf c.slot 32 4 % 2 ^ 20))).toNat then finishCmd s d cid 0 else waitCmd s d cid := by
  unfold runCtrwait ctrReached
  simp only [hr, hl, Bool.not_true, Bool.false_eq_true, if_false, Option.isNone_some, decide_eq_true_eq]

/-- CTRWAIT on a counter of another module asks its die. -/
theorem runCtrwait_remote (hr : routed s (ctrDie (fieldOf c.slot 32 4 % 2 ^ 20)) = true)
    (hl : localDie s (ctrDie (fieldOf c.slot 32 4 % 2 ^ 20)) = none) :
    runCtrwait s d cid c =
      (let r := ask s d (ctrDie (fieldOf c.slot 32 4 % 2 ^ 20)) 0 (fieldOf c.slot 32 4 % 2 ^ 20) (.ctrGet (wordAt c.slot 40) 0)
       match r.2 with
       | some _ => finishCmd r.1 d cid 0
       | none => r.1) := by
  unfold runCtrwait
  simp only [hr, hl, Bool.not_true, Bool.false_eq_true, if_false, Option.isNone_none, if_true]
  generalize ask s d _ 0 _ _ = r
  obtain ⟨u, a⟩ := r
  cases a <;> rfl

/-- What CTRWAIT_TIMEOUT does on the command in hand. -/
def ctrwaitEnds (s : State) (d cid : Nat) (c : Cmd) : State := if timedOut s d c && !ctrReached s d cid c then finishCmd s d cid 8 else s

/-- A CTRWAIT is past its limit. -/
theorem timedOut_of (h7 : c.type = 7) (h0 : fieldOf c.slot 48 8 ≠ 0) (hle : fieldOf c.slot 48 8 ≤ 16 * ((dieOf s d).beat - c.tBeg).toNat) :
    timedOut s d c = true := by
  unfold timedOut
  rw [h7]
  simp only [beq_self_eq_true, Bool.true_and, Bool.and_eq_true, bne_iff_ne, decide_eq_true_eq]
  exact ⟨h0, hle⟩

/-- A counter of this module and its threshold. -/
theorem ctrReached_here {h : Nat} (hl : localDie s (ctrDie (fieldOf c.slot 32 4 % 2 ^ 20)) = some h) :
    ctrReached s d cid c = decide (fieldOf c.slot 40 8 ≤ (ctrVal s h (ctrIdx (fieldOf c.slot 32 4 % 2 ^ 20))).toNat) := by
  simp only [ctrReached, hl]

/-- A counter of another module that has not answered. -/
theorem ctrReached_remote (hl : localDie s (ctrDie (fieldOf c.slot 32 4 % 2 ^ 20)) = none)
    (hno : ∀ x ∈ s.mod.exchanges, x.asker = .cmd d cid → x.reply = none) : ctrReached s d cid c = false := by
  simp only [ctrReached, hl, List.any_eq_false]
  intro x hx
  simp only [Bool.and_eq_true, beq_iff_eq, not_and]
  intro ha
  rw [hno x hx ha]
  decide

/-- A CTRWAIT past its limit ends while its counter has not reached the threshold. -/
theorem ctrwaitEnds_of (ht : timedOut s d c = true) (hr : ctrReached s d cid c = false) : ctrwaitEnds s d cid c = finishCmd s d cid 8 := by
  unfold ctrwaitEnds
  rw [ht, hr]
  rfl

end

/-- CUESHEET of a sheet that is read. -/
theorem runCuesheet_read {s u : State} {d cid : Nat} {c : Cmd} {bs : List Byte} (h0 : fieldOf c.slot 40 4 ≠ 0)
    (hr : fwRead s d (cmdAsid s d c) (fieldOf c.slot 32 8) (fieldOf c.slot 40 4) = (u, .ok bs)) :
    runCuesheet s d cid c = if cueOk bs (fieldOf c.slot 44 4) then
      finishCmd (selectPhase (loadSheet (measure u bs) d bs) d (fieldOf c.slot 44 4)) d cid 0 else finishCmd u d cid 3 := by
  unfold runCuesheet
  rw [if_neg h0]
  simp only [hr]

/-! ### Pages -/

section
variable {s : State} {d cid : Nat} {c : Cmd}

/-- The pages a PAGEOP has handled, and whether the operation of the next has begun. -/
def pagesDone (c : Cmd) : Nat × Bool := match c.work with | .pages n moving => (n, moving) | _ => (0, false)

variable {f : Cmd → Nat → State → Nat → Nat → Nat → Leaf → PageStep}

/-- The step of a PAGEOP, where it has handled `p.1` pages. -/
def pageopStep (f : Cmd → Nat → State → Nat → Nat → Nat → Leaf → PageStep) (s : State) (d cid : Nat) (c : Cmd) (p : Nat × Bool) : State :=
  let asid := cmdAsid s d c
  let total := fieldOf c.slot 48 8 / 65536
  let va := fieldOf c.slot 40 8 + 65536 * p.1
  let r := pageStep (f c p.1) s asid va
  if p.2 then pageEnd s d cid p.1 total asid va
  else match r.2 with
    | .fail e => finishCmd r.1 d cid e
    | .skip => pageNext r.1 d cid (p.1 + 1) total
    | .start o l k => modCmd (startMove r.1 o asid va l k) d cid fun k => { k with waits := true, work := .pages p.1 true }
    | .wait => waitCmd r.1 d cid

theorem runPageop_eq (s : State) (d cid : Nat) (c : Cmd) : runPageop f s d cid c = pageopStep f s d cid c (pagesDone c) := by
  unfold runPageop pageopStep pagesDone
  generalize c.work = w
  cases w
  all_goals
    dsimp only
    generalize pageStep _ s _ _ = r
    obtain ⟨u, p⟩ := r
    cases p <;> rfl

end

/-- Settles O39: each command by what its step makes of the command in hand. -/
theorem simpleCommands : Obligations.SimpleCommands := by
  intro s c hin d cid b asid id upTo va late goesOn page
  have hnext : ∀ (i : Instr) (f : State → Nat → Nat → Cmd → State) (t : State), exec i s = withCmd f s →
      f b d cid c = pageNext t d cid (upTo.1 + 1) (fieldOf c.slot 48 8 / 65536) → goesOn i t := by
    intro i f t hx hf
    refine ⟨fun hle => .of_withCmd hin hx (hf.trans (if_pos hle)), fun hlt => .of_withCmd hin hx (hf.trans (if_neg (Nat.not_le.mpr hlt)))⟩
  have hup : upTo = pagesDone c := by
    cases h : c.work <;> simp only [upTo, pagesDone, h]
  have hpage : ∀ (i : Instr) (f : Cmd → Nat → State → Nat → Nat → Nat → Leaf → PageStep), exec i s = withCmd (runPageop f) s → page i (f c upTo.1) := by
    intro i f hx
    have hf : runPageop f b d cid c = pageopStep f b d cid c upTo := (runPageop_eq b d cid c).trans (by rw [hup])
    refine ⟨fun hbegin => ?_, fun hends o ho => ?_⟩
    · replace hf := hf.trans (if_neg (Bool.eq_false_iff.mp hbegin))
      refine ⟨fun e he => .of_withCmd hin hx (hf.trans ?_), fun he => hnext i _ _ hx (hf.trans ?_), fun o l k he => .of_withCmd hin hx (hf.trans ?_),
        fun he => .of_withCmd hin hx (hf.trans ?_)⟩
      all_goals
        rw [show (pageStep (f c upTo.1) b (cmdAsid b d c) (fieldOf c.slot 40 8 + 65536 * upTo.1)).2 = _ from he]
        rfl
    · replace hf := hf.trans (if_pos hends)
      have ho' : localDie b (va / 2 ^ 56) = some o := ho
      refine ⟨fun hm => hnext i _ _ hx (hf.trans ?_), fun m hm => ⟨fun hz => hnext i _ _ hx (hf.trans ?_), fun hz => .of_withCmd hin hx (hf.trans ?_)⟩⟩
      all_goals
        have hm' : moveOf b o asid va = _ := hm
        change pageEnd b d cid upTo.1 (fieldOf c.slot 48 8 / 65536) asid va = _
        simp only [pageEnd, ho', hm']
      · exact if_pos hz
      · exact if_neg (Bool.eq_false_iff.mp hz)
  refine ⟨.of_withCmd (f := fun s d cid _ => finishCmd s d cid 0) hin rfl rfl, .of_withCmd (f := fun s d cid _ => finishCmd s d cid 0) hin rfl rfl,
    fun hfr => ?indirect, fun hr => ?ctrset,
    fun h hr hl => ?here, fun hr hl => ?remote, fun h0 => .of_withCmd (f := runCuesheet) hin rfl (if_pos h0), fun s' bs h0 hrd => ?sheet,
    hpage _ (fun _ _ => fetchStepOf) rfl, hpage _ evictStepOf rfl,
    hpage _ (fun c _ => migrateStepOf c) rfl, fun p s' bs z hp hroom hrd hpost => ?qppost⟩
  case indirect =>
    have hno : ¬(((streamOf b d c.strm).frames.any fun f => f.cid == cid) = true) := by
      rw [Bool.not_eq_true, List.any_eq_false]
      exact fun f hf => by simpa using hfr f hf
    exact .of_withCmd (f := fun s d cid c => if (streamOf s d c.strm).frames.any fun f => f.cid == cid then s else finishCmd s d cid c.err)
      hin rfl (if_neg hno)
  case ctrset =>
    refine .of_withCmd hin rfl (?_ : runCtrset b d cid c = _)
    have hr' : routed b (ctrDie id) = true := hr
    unfold runCtrset
    dsimp only
    rw [hr']
    rfl
  case here =>
    intro now
    have hf := runCtrwait_here (s := b) (d := d) (cid := cid) hr hl
    refine ⟨fun hle => .of_withCmd hin rfl (hf.trans (if_pos hle)), fun hlt => .of_withCmd hin rfl (hf.trans (if_neg (Nat.not_le.mpr hlt))),
      fun hlt ⟨h7, hne, hlate⟩ => .of_withCmd hin rfl (ctrwaitEnds_of (s := b) (d := d) (timedOut_of h7 hne hlate) ?_)⟩
    exact (ctrReached_here (s := b) hl).trans (decide_eq_false (Nat.not_le.mpr hlt))
  case remote =>
    intro r
    have hf := runCtrwait_remote (s := b) (d := d) (cid := cid) hr hl
    refine ⟨fun hs => .of_withCmd hin rfl (hf.trans ?_), fun hs => .of_withCmd hin rfl (hf.trans ?_),
      fun hno ⟨h7, hne, hlate⟩ => .of_withCmd hin rfl (ctrwaitEnds_of (s := b) (d := d) (timedOut_of h7 hne hlate) (ctrReached_remote hl hno))⟩
    · obtain ⟨a, ha⟩ := Option.isSome_iff_exists.mp hs
      have ha' : (ask b d (ctrDie (fieldOf c.slot 32 4 % 2 ^ 20)) 0 (fieldOf c.slot 32 4 % 2 ^ 20) (.ctrGet (wordAt c.slot 40) 0)).2 = some a := ha
      simp only [ha']
      rfl
    · have hs' : (ask b d (ctrDie (fieldOf c.slot 32 4 % 2 ^ 20)) 0 (fieldOf c.slot 32 4 % 2 ^ 20) (.ctrGet (wordAt c.slot 40) 0)).2 = none := hs
      simp only [hs']
      rfl
  case sheet =>
    have hf := runCuesheet_read (s := b) (d := d) (cid := cid) h0 hrd
    exact ⟨fun hok => .of_withCmd hin rfl (hf.trans (if_pos hok)), fun hok => .of_withCmd hin rfl (hf.trans (if_neg (Bool.eq_false_iff.mp hok)))⟩
  case qppost =>
    have hp' : qpOf b d (fieldOf c.slot 32 4) = some p := hp
    have hrd' : fwRead b d (cmdAsid b d c) (fieldOf c.slot 40 8) (64 * fieldOf c.slot 36 4) = (s', .ok bs) := hrd
    have hpost' : postEntries s' d (fieldOf c.slot 32 4) (cmdAsid b d c) .firmware (postedRaws (fieldOf c.slot 36 4) bs) = some z := hpost
    refine .of_withCmd hin rfl (?_ : runQppost b d cid c = _)
    unfold runQppost
    simp only [hp', hrd', hpost']
    exact if_neg (Nat.not_lt.mpr hroom)

end Sys2Proof.Machine
end

section
/-! PROOF. The commands that launch work (05 R107 to R129, 03 R73). -/

namespace Sys2Proof.Machine

section
variable {s s1 s2 : State} {d cid : Nat} {c : Cmd}

/-! ### Gangs -/

/-- GANG with its image and its presets read. -/
theorem runGang_loads {img : List Byte} {ps : List Preset} (hw : c.work = .none) (hret : ∀ k ∈ maskedCores c.slot d, (coreOf s k).retired = false)
    (hne : maskedCores c.slot d ≠ []) (hbad : badCore s c.slot d = false) (hhook : hookBad s c.slot d = false)
    (hwin : fieldOf c.slot 100 1 + imageWindows (fieldOf c.slot 40 4) ≤ 8) (hblk : gangBlocked s c.slot d = false)
    (hcode : codeRead (fetchRange d (cmdAsid s d c) (pagesOf [(fieldOf c.slot 32 8, fieldOf c.slot 40 4)]) s) d (cmdAsid s d c) (fieldOf c.slot 32 8)
      (fieldOf c.slot 40 4) = (s1, .ok img))
    (hpre : presetsOf s1 d (cmdAsid s d c) c.slot = (s2, .ok ps)) :
    runGang s d cid c = loadGang s2 d cid c img ps := by
  have h1 : ¬(((maskedCores c.slot d).any fun k => (coreOf s k).retired) = true) := by
    rw [Bool.not_eq_true, List.any_eq_false]
    exact fun k hk => Bool.eq_false_iff.mp (hret k hk)
  have h2 : ¬(badCore s c.slot d = true ∨ hookBad s c.slot d = true) := by
    rw [hbad, hhook]
    decide
  have h3 : ¬((maskedCores c.slot d).isEmpty = true) := mt List.isEmpty_iff.mp hne
  unfold runGang
  simp only [hcode, hpre, if_neg h3]
  rw [if_neg (not_not.mpr hw), if_neg h1, if_neg h2, if_neg (Nat.not_lt.mpr hwin), hblk]
  rfl

/-- A gang is due once its beat has come on the dies of all its cores. -/
theorem gangDue_iff {ks : List Nat} {ended beat : Nat} (hst : c.state = 2) (hw : c.work = .gang ks ended (some beat)) :
    gangDue s c = true ↔ ∀ k ∈ ks, beat ≤ (dieOf s (dieOfCore k)).beat.toNat := by
  simp [gangDue, hw, hst]

/-- A gang that is due is one of those that are released. -/
theorem mem_dueGangs (hd : d < 4) (hc : cmdOf s d cid = some c) (hdue : gangDue s c = true) : (d, cid, c) ∈ dueGangs s := by
  unfold cmdOf at hc
  rw [Option.map_eq_some_iff] at hc
  obtain ⟨⟨n, k⟩, he, rfl⟩ := hc
  have hn : n = cid := by simpa using List.find?_some he
  subst hn
  refine List.mem_flatMap.mpr ⟨d, List.mem_range.mpr hd, List.mem_map.mpr ⟨(n, k), List.mem_filter.mpr ⟨List.mem_of_find?_eq_some he, hdue⟩, rfl⟩⟩

/-! ### Tables of tasks -/

/-- TASKS with a join record and its caches. -/
theorem runTasks_starts {j : Nat} (hw : c.work = .none) (hbusy : cachesBusy s c.slot d (fieldOf c.slot 53 1 == 1) = false)
    (hj : lowestFreeJoin s d = some j) : runTasks s d cid c = startTasksCmd s d cid j c := by
  unfold runTasks
  rw [if_neg (not_not.mpr hw), hbusy, hj]
  rfl

/-- TASKS whose table fails. -/
theorem startTasksCmd_fails {j e : Nat} (h : beginTable s d (cmdAsid s d c) c (fieldOf c.slot 52 1 == 1) false = (s1, .error e)) :
    startTasksCmd s d cid j c = failTable s1 d cid e := by
  unfold startTasksCmd
  simp only [h]

/-- ORDERED whose table is read. -/
theorem runOrdered_queues {ts : List TaskReq} (hw : c.work = .none) (h : beginTable s d (cmdAsid s d c) c false true = (s1, .ok ts))
    (hne : sortTasks (ts.map fun t => { t with launch := .ordered d cid t.index, child := t.index, strm := (d, c.strm), pool := slotMask c.slot d d }) ≠ []) :
    runOrdered s d cid c =
      (let us := sortTasks (ts.map fun t => { t with launch := .ordered d cid t.index, child := t.index, strm := (d, c.strm), pool := slotMask c.slot d d })
       queueTasks (modCmd (acquireFence s1 c (poolCores s1 d (slotMask c.slot d d))) d cid fun k =>
         { k with waits := false, work := .ordered (us.map (·.index)) 0 }) d us (slotMask c.slot d d) false) := by
  unfold runOrdered
  simp only [h, if_neg (mt List.isEmpty_iff.mp hne)]
  exact if_neg (not_not.mpr hw)

/-- ORDERED whose table fails. -/
theorem runOrdered_fails {e : Nat} (hw : c.work = .none) (h : beginTable s d (cmdAsid s d c) c false true = (s1, .error e)) :
    runOrdered s d cid c = failTable s1 d cid e := by
  unfold runOrdered
  simp only [h]
  exact if_neg (not_not.mpr hw)

/-! ### Graphs -/

/-- GRAPH whose first nodes are launched. -/
theorem runGraph_launches {bs : List Byte} (hw : c.work = .none)
    (h : fwRead s d (cmdAsid s d c) (wordAt c.slot 32).toNat (64 * fieldOf c.slot 40 4) = (s1, .ok bs)) {g : GraphRun}
    (hg : GraphRun.launchFrom (fieldOf c.slot 40 4) 0
      { s := s1, d := d, cid := cid, asid := cmdAsid s d c, strm := c.strm, root := wordAt c.slot 32, count := fieldOf c.slot 40 4, launched := [],
        erred := 0, closed := false } = g) (hgw : g.waits = false) :
    runGraph s d cid c = ({ g with s := modCmd g.s d cid fun k => { k with waits := false } } : GraphRun).keep := by
  unfold runGraph
  simp only [h, hg, hgw, Bool.false_eq_true, if_false]
  exact if_neg (not_not.mpr hw)

/-- A node that ends with its body. -/
theorem endNode_eq {g : GraphRun} {node : Nat} {r : State × Nat} (hr : takeBody g.s g.d g.cid node = r) {e : GraphRun}
    (he : (let h := { g with s := r.1, launched := g.launched.erase node }
           if r.2 = 0 then h.endClean node else h.endError node r.2) = e) :
    endNode g node = if e.waits then lacks e.s .page else e.keep := by
  subst hr
  subst he
  rfl

/-- A running graph by its command. -/
theorem graphOf_place {g : Nat} {i : GraphRun} (h : graphOf s d g = some i) : i.d = d ∧ i.cid = g := by
  unfold graphOf at h
  split at h
  · split at h
    · cases h
      exact ⟨rfl, rfl⟩
    · cases h
  · cases h

/-- COPY of some bytes whose acceptance refused nothing. -/
theorem runCopyCmd_enters (h8 : fieldOf c.slot 48 8 ≠ 0) (h4 : fieldOf c.slot 56 4 ≠ 0) (hr : c.refusal = 0) :
    runCopyCmd s d cid c = modCore s (fwCoreOf s d) fun k => { k with engs := k.engs ++
      [{ owner := .firmware d cid, asid := cmdAsid s d c, op := 0, serial := 0, tok := false, cnt := 0, flag := 0,
         work := .copy (wordAt c.slot 32) (wordAt c.slot 40) [fieldOf c.slot 56 4] [wordAt c.slot 64] [wordAt c.slot 72] (fieldOf c.slot 48 8)
           (fieldOf c.slot 60 1),
         status := 0, held := heldPages (cmdAsid s d c) (copyRows c.slot true ++ copyRows c.slot false) 0, since := s.clock }] } :=
  (if_neg (not_or.mpr ⟨h8, h4⟩)).trans (if_neg (not_not.mpr hr))

/-- COPY of some bytes that its acceptance refused. -/
theorem runCopyCmd_refused (h8 : fieldOf c.slot 48 8 ≠ 0) (h4 : fieldOf c.slot 56 4 ≠ 0) (hr : c.refusal ≠ 0) :
    runCopyCmd s d cid c = finishCmd s d cid (engErr c.refusal) :=
  (if_neg (not_or.mpr ⟨h8, h4⟩)).trans (if_pos hr)

end

/-- TASK_COMMIT of the oldest task of an ORDERED command, which has ended clean or in a fault. -/
theorem taskCommit_oldest {s : State} {c : Cmd} {order : List Nat} {done_ ix k x z : Nat} {q : Spec} (hin : InHand s c)
    (hw : c.work = .ordered order done_) (hix : order[done_]? = some ix)
    (hf : (orderedCtxs s s.focus.die s.focus.cid).find? (fun p => p.2.2 == ix) = some (k, x, ix)) (hq : (ctxOf s k x).spec = some q)
    (hz : q.ended = some z) :
    CmdGoes s .taskCommit (if z = 0
      then nextOldest (commitTask (cmdState s) k x s.focus.die s.focus.cid q (order.drop (done_ + 1))) s.focus.die s.focus.cid order done_
      else nextOldest (endAndKill (cmdState s) k x (.fault z)) s.focus.die s.focus.cid order done_) := by
  have hx : exec .taskCommit s = execTaskCommit s := rfl
  unfold execTaskCommit at hx
  refine .of_withCmd hin hx ?_
  simp only [hw, hix]
  rw [show (orderedCtxs (cmdState s) s.focus.die s.focus.cid).find? (fun p => p.2.2 == ix) = some (k, x, ix) from hf]
  dsimp only
  rw [show (ctxOf (cmdState s) k x).spec = some q from hq]
  dsimp only
  rw [hz]
  cases z <;> rfl

/-- Settles O40: each command by what its step makes of the command in hand; a node's end as the step it is tried as. -/
theorem launchCommands : Obligations.LaunchCommands := by
  intro s s1 s2 c hin d cid b raw asid n mask cores fails
  obtain ⟨hc, hst⟩ := hin
  have hfails : ∀ (i : Instr) (f : State → Nat → Nat → Cmd → State) (e : Nat), exec i s = withCmd f s → f b d cid c = failTable s1 d cid e → fails i e := by
    intro i f e hx hf
    refine ⟨fun h37 => .of_withCmd ⟨hc, hst⟩ hx (hf.trans (if_pos h37)), fun h3 h7 => .of_withCmd ⟨hc, hst⟩ hx (hf.trans (if_neg (not_or.mpr ⟨h3, h7⟩)))⟩
  refine ⟨fun hw => ⟨fun img ps hret hne hbad hhook hwin hblk hcode hpre => ?gang, fun j hbusy hj => ⟨?tasks, fun e he => ?tasksFail⟩, fun ts hts => ?ordered,
    fun e he => hfails _ _ e rfl (runOrdered_fails (s := b) hw he), fun bs hr => ?graph⟩, fun ks ended beat hw => ⟨fun hall hd => ⟨?_, ?_⟩, fun hex => ?late⟩,
    fun order done_ ix k x q hw hix hf hq => ⟨fun hz => ?clean, fun z hz0 hz => ?faulted⟩, fun h0 => .of_withCmd (f := runCopyCmd) ⟨hc, hst⟩ rfl (if_pos h0),
    fun h8 h4 => ⟨fun hr => .of_withCmd ⟨hc, hst⟩ rfl (runCopyCmd_refused h8 h4 hr), fun hr => .of_withCmd ⟨hc, hst⟩ rfl (runCopyCmd_enters h8 h4 hr)⟩,
    fun die g i node hg hnode => ?node⟩
  case gang => exact .of_withCmd ⟨hc, hst⟩ rfl (runGang_loads (s := b) hw hret hne hbad hhook hwin hblk hcode hpre)
  case tasks => exact .of_withCmd ⟨hc, hst⟩ rfl (runTasks_starts (s := b) hw hbusy hj)
  case tasksFail => exact hfails _ _ e rfl ((runTasks_starts (s := b) hw hbusy hj).trans (startTasksCmd_fails he))
  case ordered =>
    intro us hne
    exact .of_withCmd ⟨hc, hst⟩ rfl (runOrdered_queues (s := b) hw hts hne)
  case graph =>
    intro g hgw
    exact .of_withCmd ⟨hc, hst⟩ rfl (runGraph_launches (s := b) hw hr rfl hgw)
  · exact mem_dueGangs hd hc ((gangDue_iff hst hw).mpr hall)
  · exact .of_withCmd (f := fun s _ _ c => if gangDue s c then releaseGangs s else s) ⟨hc, hst⟩ rfl (if_pos ((gangDue_iff (s := b) hst hw).mpr hall))
  case late =>
    obtain ⟨k, hk, hlt⟩ := hex
    refine .of_withCmd (f := fun s _ _ c => if gangDue s c then releaseGangs s else s) ⟨hc, hst⟩ rfl (if_neg fun hdue => ?_)
    exact absurd ((gangDue_iff (s := b) hst hw).mp hdue k hk) (Nat.not_le.mpr hlt)
  case clean =>
    have := taskCommit_oldest ⟨hc, hst⟩ hw hix hf hq hz
    rwa [if_pos rfl] at this
  case faulted =>
    have := taskCommit_oldest ⟨hc, hst⟩ hw hix hf hq hz
    rwa [if_neg hz0] at this
  case node =>
    intro step r h e
    obtain ⟨hd, hcid⟩ := graphOf_place hg
    have hexec : exec step s = .next (askingStep s step fun u => endNode { i with s := u } node) := by
      change execGraphNodeEnd die g node s = _
      unfold execGraphNodeEnd
      rw [hg]
      have hin : ¬((!i.launched.contains node) = true) := by simp [hnode]
      exact if_neg hin
    have hend : endNode { i with s := stepState s step } node = if e.waits then lacks e.s .page else e.keep := by
      refine endNode_eq (g := { i with s := stepState s step }) (r := r) ?_ rfl
      change takeBody (stepState s step) i.d i.cid node = r
      rw [hd, hcid]
    refine ⟨fun hw => ?_, fun hw => ?_⟩
    · rw [hw] at hend
      exact ⟨.of_asking hexec hend, .of_asking hexec hend⟩
    · rw [hw] at hend
      exact .of_asking hexec hend

end Sys2Proof.Machine
end

section
/-! PROOF. The functions of FWCALL but SECURITY (03 R75, R76, 06 R142, 08 R222, 21 R496). -/

namespace Sys2Proof.Machine

/-- What a FWCALL leaves whose unused bytes are zero. -/
theorem CmdGoes.of_fwcall {s t : State} {c : Cmd} {i : Instr} {named : List (Nat × Nat)} {f : State → Nat → Nat → Cmd → State} (h : InHand s c)
    (hz : zeroBut c.slot named 40 252 = true) (hexec : exec i s = fwcall named f s) (hf : f (cmdState s) s.focus.die s.focus.cid c = t) : CmdGoes s i t :=
  .of_withCmd h hexec ((if_pos hz).trans hf)

section
variable {s s1 s2 s3 : State} {d cid : Nat} {c : Cmd}

/-! ### Links -/

/-- DOMAIN_JOIN of a port list that passes. -/
theorem runDomainJoin_starts {h bs : List Byte} (hid : bitOf s.mod.modId 7 = true) (ht : s.mod.training = none)
    (hr : fwRead s d (cmdAsid s d c) (fieldOf c.slot 40 4) 8 = (s1, .ok h)) (h1 : 1 ≤ fieldOf h 0 4) (h12 : fieldOf h 0 4 ≤ 12)
    (hr2 : fwRead s1 d (cmdAsid s d c) (fieldOf c.slot 40 4) (8 + 4 * fieldOf h 0 4) = (s2, .ok bs)) (hok : portListOk bs (fieldOf h 0 4) = true) :
    runDomainJoin s d cid c =
      modCmd (startJoin s2 d cid ((List.range (fieldOf h 0 4)).map (portEntry bs))) d cid fun k => { k with waits := false } := by
  have hn : ¬(fieldOf h 0 4 = 0 ∨ 12 < fieldOf h 0 4) := by omega
  unfold runDomainJoin
  simp only [hid, ht, hr, hr2, hok, Bool.not_true, Bool.false_eq_true, if_false, Option.isSome_none, if_neg hn]

/-- LINK_RETRAIN while no training is under way. -/
theorem runLinkRetrain_starts (h11 : fieldOf c.slot 40 1 ≤ 11) (ht : s.mod.training = none) :
    runLinkRetrain s d cid c = modCmd (modMod (trainLink s (fieldOf c.slot 40 1)) fun m =>
      { m with training := some ⟨d, cid, [(fieldOf c.slot 40 1, none)], false⟩ }) d cid fun k => { k with waits := false } := by
  unfold runLinkRetrain
  rw [ht]
  exact if_neg (Nat.not_lt.mpr h11)

/-! ### Groups and queue pairs -/

/-- GROUP_SET of a new group whose descriptor, members and memory pass. -/
theorem runGroupSet_installs {bs ms lr : List Byte} {g h : Group}
    (hr : fwRead s d (cmdAsid s d c) (fieldOf c.slot 40 8) 64 = (s1, .ok bs)) (hg : descGroup bs (cmdAsid s d c) = g)
    (hok : groupOk s1 d bs g none = true) (hnew : collOf s1 d (fieldOf bs 0 2 % 4096) = none)
    (hr2 : fwRead s1 d (cmdAsid s d c) (fieldOf bs 8 8) g.n = (s2, .ok ms)) (hh : { g with members := ms.map (·.toNat) } = h)
    (hmem : membersOk s2 d h h.members = true)
    (hr3 : (if g.log then fwRead s2 d (cmdAsid s d c) g.lraddr.toNat 4 else (s2, .ok [])) = (s3, .ok lr))
    (hdram : dramFail (fetchRange d (cmdAsid s d c) (pagesOf [(g.ring.toNat, groupArea g)]) s3) d (cmdAsid s d c) g.ring.toNat (groupArea g) = 0) :
    runGroupSet s d cid c = finishCmd
      (installGroup (fetchRange d (cmdAsid s d c) (pagesOf [(g.ring.toNat, groupArea g)]) s3) d (fieldOf bs 0 2 % 4096) none h) d cid 0 := by
  have hset : setMembers s1 d cid (fieldOf bs 0 2 % 4096) (cmdAsid s d c) bs g none = finishCmd
      (installGroup (fetchRange d (cmdAsid s d c) (pagesOf [(g.ring.toNat, groupArea g)]) s3) d (fieldOf bs 0 2 % 4096) none h) d cid 0 := by
    subst hh
    have harea : groupArea { g with members := ms.map (·.toNat) } = groupArea g := rfl
    unfold setMembers
    simp only [hr2, hmem, hr3, harea, hdram, Bool.not_true, Bool.false_eq_true, if_false, if_true]
  unfold runGroupSet
  simp only [hr, hg, hnew, hok, Bool.not_true, Bool.false_eq_true, if_false]
  exact hset

/-- QP_SET of a new queue pair. -/
theorem runQpSet_installs (h255 : fieldOf c.slot 40 2 ≤ 255) (h4095 : fieldOf c.slot 42 2 ≤ 4095) (hal : fieldOf c.slot 48 8 % 512 = 0)
    (hd : dramFail (fetchRange d (cmdAsid s d c) (pagesOf [(fieldOf c.slot 48 8, 512)]) s) d (cmdAsid s d c) (fieldOf c.slot 48 8) 512 = 0)
    (hnew : qpOf (fetchRange d (cmdAsid s d c) (pagesOf [(fieldOf c.slot 48 8, 512)]) s) d (fieldOf c.slot 40 2) = none) :
    runQpSet s d cid c = finishCmd (setQp (fetchRange d (cmdAsid s d c) (pagesOf [(fieldOf c.slot 48 8, 512)]) s) d (fieldOf c.slot 40 2)
      { grp := fieldOf c.slot 42 2, ring := BitVec.ofNat 64 (fieldOf c.slot 48 8), asid := cmdAsid s d c }) d cid 0 := by
  have hok : ¬(255 < fieldOf c.slot 40 2 ∨ 4095 < fieldOf c.slot 42 2 ∨ fieldOf c.slot 48 8 % 512 ≠ 0) := by omega
  unfold runQpSet
  simp only [hd, hnew, ne_eq, not_true_eq_false, if_false]
  exact if_neg hok

/-! ### Hooks and rings -/

/-- CORE_HOOK without a handler takes the hook away. -/
theorem runCoreHook_clears (hok : hookOk s c.slot = true) (h0 : fieldOf c.slot 56 2 = 0) :
    runCoreHook s d cid c = finishCmd (placeHook s (64 * fieldOf c.slot 40 1 + fieldOf c.slot 41 1) c.slot []) d cid 0 := by
  have hno : ¬((!hookOk s c.slot) = true) := by rw [hok]; decide
  exact (if_neg hno).trans (if_pos h0)

/-- CORE_HOOK of a handler that is read. -/
theorem runCoreHook_places {img : List Byte} (hok : hookOk s c.slot = true) (h0 : fieldOf c.slot 56 2 ≠ 0)
    (hr : codeRead (fetchRange d (cmdAsid s d c) (pagesOf [(fieldOf c.slot 48 8, fieldOf c.slot 56 2)]) s) d (cmdAsid s d c) (fieldOf c.slot 48 8)
      (fieldOf c.slot 56 2) = (s1, .ok img)) :
    runCoreHook s d cid c = finishCmd (placeHook s1 (64 * fieldOf c.slot 40 1 + fieldOf c.slot 41 1) c.slot img) d cid 0 := by
  unfold runCoreHook
  simp only [hok, hr, Bool.not_true, Bool.false_eq_true, if_false]
  exact if_neg h0

/-- RING_SET of a descriptor that passes. -/
theorem runRingSet_stores {bs : List Byte} (h3 : fieldOf c.slot 40 1 ≤ 3) (h1023 : fieldOf c.slot 42 2 ≤ 1023)
    (hr : fwRead s d (cmdAsid s d c) (fieldOf c.slot 48 8) 32 = (s1, .ok bs)) (hz : fieldOf bs 13 3 = 0) (hz' : fieldOf bs 24 8 = 0)
    (ha : fieldOf bs 16 4 < 2 ^ 20) (hb : fieldOf bs 20 4 < 2 ^ 20) (hok : ringOk s1 (ringDescOf bs) = true) :
    runRingSet s d cid c =
      finishCmd (physWrite s1 (fieldOf c.slot 40 1) (ringAddr (dieOf s1 (fieldOf c.slot 40 1)) (fieldOf c.slot 42 2)) bs) d cid 0 := by
  have hargs : ¬(3 < fieldOf c.slot 40 1 ∨ 1023 < fieldOf c.slot 42 2) := by omega
  have hbytes : ¬(fieldOf bs 13 3 ≠ 0 ∨ fieldOf bs 24 8 ≠ 0 ∨ 2 ^ 20 ≤ fieldOf bs 16 4 ∨ 2 ^ 20 ≤ fieldOf bs 20 4 ∨ (!ringOk s1 (ringDescOf bs)) = true) := by
    rw [hok, hz, hz']
    simp only [ne_eq, not_true_eq_false, false_or, Bool.not_true, Bool.false_eq_true, or_false]
    omega
  unfold runRingSet
  simp only [hr, if_neg hbytes]
  exact if_neg hargs

end

/-- Settles O41: each function by what it makes of the command in hand. -/
theorem firmwareCalls : Obligations.FirmwareCalls := by
  intro s s1 c hin d z raw asid only b b'
  refine ⟨fun ho hb => .of_fwcall (f := runSetModuleId) hin ho rfl (if_neg (Nat.not_lt.mpr hb)),
    fun ho hb hb' => .of_fwcall (f := runPortbMode) hin ho rfl (if_neg (not_or.mpr ⟨Nat.not_lt.mpr hb, Nat.not_lt.mpr hb'⟩)),
    fun ho hb hb' => .of_fwcall (f := runSwtWrite) hin ho rfl (if_neg (not_or.mpr ⟨Nat.not_lt.mpr hb, Nat.not_lt.mpr hb'⟩)),
    fun ho => .of_fwcall (f := runAperture) hin ho rfl rfl,
    fun s2 h bs ho hid ht hr h1 h12 hr2 hok => .of_fwcall hin ho rfl (runDomainJoin_starts (s := z) hid ht hr h1 h12 hr2 hok),
    fun ho hb ht => .of_fwcall hin ho rfl (runLinkRetrain_starts (s := z) hb ht), fun bs s2 ms s3 lr ho hr => ?group,
    fun ho h255 h4095 hal => ?qp, fun ho hok => ⟨fun h0 => .of_fwcall hin ho rfl (runCoreHook_clears (s := z) hok h0),
      fun img h0 hr => .of_fwcall hin ho rfl (runCoreHook_places (s := z) hok h0 hr)⟩,
    fun bs ho hb h1023 hr hz hz' ha hb' hok => .of_fwcall hin ho rfl (runRingSet_stores (s := z) hb h1023 hr hz hz' ha hb' hok)⟩
  case group =>
    intro id g h s4 hok hnew hr2 hmem hr3 hdram
    exact .of_fwcall hin ho rfl (runGroupSet_installs (s := z) hr rfl hok hnew hr2 rfl hmem hr3 hdram)
  case qp =>
    intro z' hdram hnew
    exact .of_fwcall hin ho rfl (runQpSet_installs (s := z) h255 h4095 hal hdram hnew)

end Sys2Proof.Machine
end

section
/-! PROOF. The subfunctions of FWCALL SECURITY (04 R84, R87 to R100). -/

namespace Sys2Proof.Machine

section
variable {s s1 s2 : State} {d cid : Nat} {c : Cmd}

/-! ### Keys and windows -/

theorem tenantOk_of {t : Nat} (h : 1 ≤ t ∧ t ≤ 16) : tenantOk t = true := by simp [tenantOk, h]

/-- LOAD_KEY of a wrapped key and a public key that are read. -/
theorem runLoadKey_stores {w pk : List Byte} (hmode : s.mod.sec.mode = 2) (ht : 1 ≤ fieldOf c.slot 41 1 ∧ fieldOf c.slot 41 1 ≤ 16)
    (hb : boundElsewhere s (fieldOf c.slot 42 2) (fieldOf c.slot 41 1) = false)
    (hr : fwRead s d (cmdAsid s d c) (fieldOf c.slot 48 8) 1632 = (s1, .ok w)) (hr2 : fwRead s1 d (cmdAsid s d c) (fieldOf c.slot 56 8) 64 = (s2, .ok pk)) :
    runLoadKey s d cid c = finishCmd (bindAs (modSec s2 fun x =>
      { x with keys := tabPut x.keys (fieldOf c.slot 41 1) ⟨unwrapKey s2 (fieldOf c.slot 41 1) w, pk⟩ }) (fieldOf c.slot 42 2) (fieldOf c.slot 41 1)) d cid 0 := by
  have hgo : ¬(s.mod.sec.mode ≠ 2 ∨ (!tenantOk (argTenant c)) = true ∨ boundElsewhere s (fieldOf c.slot 42 2) (argTenant c) = true) := by
    unfold argTenant
    rw [tenantOk_of ht, hb]
    simp [hmode]
  have has := (fwRead_reached s d (cmdAsid s d c) (fieldOf c.slot 48 8) 1632).cmdAsid_eq d c
  rw [hr] at has
  have hr' : fwRead s d (cmdAsid s d c) (fieldOf c.slot 48 8) wrappedBytes = (s1, .ok w) := hr
  unfold runLoadKey
  refine (if_neg hgo).trans ?_
  simp only [hr', has, hr2]
  rfl

/-- A tenant's number at [41:42] in Sealed mode passes. -/
theorem sealedTenant_ok {p : Prop} (hmode : s.mod.sec.mode = 2) (ht : 1 ≤ fieldOf c.slot 41 1 ∧ fieldOf c.slot 41 1 ≤ 16) (hp : ¬p) :
    ¬(s.mod.sec.mode ≠ 2 ∨ (!tenantOk (argTenant c)) = true ∨ p) := by
  unfold argTenant
  rw [tenantOk_of ht]
  simp [hmode, hp]

/-- DROP_KEY of a tenant's number that exists. -/
theorem runDropKey_drops (hmode : s.mod.sec.mode = 2) (ht : 1 ≤ fieldOf c.slot 41 1 ∧ fieldOf c.slot 41 1 ≤ 16) :
    runDropKey s d cid c = finishCmd (modSec s fun x => { x with
      keys := tabDel x.keys (fieldOf c.slot 41 1), windows := x.windows.filter fun w => w.tenant != fieldOf c.slot 41 1 }) d cid 0 := by
  have hno := sealedTenant_ok (p := False) hmode ht not_false
  rw [or_false] at hno
  exact if_neg hno

/-- SUSPEND waits while a context runs or engine work is not complete, and else enters S3. -/
theorem runSuspend_eq : runSuspend s d cid c =
    if quiet (requestAll (modMod (endSession s d) fun m => { m with susp := true })) = false then
      postpone (requestAll (modMod (endSession s d) fun m => { m with susp := true })) .suspend d cid
    else modMod (completionActions ((requestAll (modMod (endSession s d) fun m => { m with susp := true })).cores.foldl (fun t e => publishAll t e.1)
      (requestAll (modMod (endSession s d) fun m => { m with susp := true }))) d cid c) fun m =>
      { m with power := 3, saved := m.sec.measBoot, susp := false } := by
  simp only [runSuspend, Bool.not_eq_eq_eq_not, Bool.not_true]

/-- OPEN_WINDOW with a signature that is read. -/
theorem runOpenWindow_decides {sig : List Byte} (hmode : s.mod.sec.mode = 2) (ht : 1 ≤ fieldOf c.slot 41 1 ∧ fieldOf c.slot 41 1 ≤ 16)
    (hw : windowOk s (fieldOf c.slot 41 1) (fieldOf c.slot 48 8) (fieldOf c.slot 56 8) = true)
    (hr : fwRead s d (cmdAsid s d c) (fieldOf c.slot 64 8) 29792 = (s1, .ok sig)) {ok : Bool}
    (hok : windowSigned s1 4 (fieldOf c.slot 41 1) (fieldOf c.slot 48 8) (fieldOf c.slot 56 8) sig = ok) :
    runOpenWindow s d cid c = finishCmd (freshNonce (modSec s1 fun x => { x with
      windows := if ok then x.windows ++ [⟨fieldOf c.slot 41 1, fieldOf c.slot 48 8, fieldOf c.slot 56 8⟩] else x.windows })) d cid (if ok then 0 else 3) := by
  have hno : ¬(!windowOk s (argTenant c) (fieldOf c.slot 48 8) (fieldOf c.slot 56 8)) = true := by rw [show argTenant c = fieldOf c.slot 41 1 from rfl, hw]; decide
  have hr' : fwRead s d (cmdAsid s d c) (fieldOf c.slot 64 8) sigBytes256s = (s1, .ok sig) := hr
  have hok' : windowSigned s1 4 (argTenant c) (fieldOf c.slot 48 8) (fieldOf c.slot 56 8) sig = ok := hok
  unfold runOpenWindow
  refine (if_neg (sealedTenant_ok hmode ht hno)).trans ?_
  simp only [hr', hok']
  cases ok <;> rfl

/-- CLOSE_WINDOW with a signature that is read. -/
theorem runCloseWindow_decides {sig : List Byte} (hmode : s.mod.sec.mode = 2) (ht : 1 ≤ fieldOf c.slot 41 1 ∧ fieldOf c.slot 41 1 ≤ 16)
    (hw : ∃ w ∈ s.mod.sec.windows, w.tenant = fieldOf c.slot 41 1 ∧ w.off = fieldOf c.slot 48 8)
    (hr : fwRead s d (cmdAsid s d c) (fieldOf c.slot 64 8) 29792 = (s1, .ok sig)) {ok : Bool}
    (hok : windowSigned s1 12 (fieldOf c.slot 41 1) (fieldOf c.slot 48 8) 0 sig = ok) :
    runCloseWindow s d cid c = finishCmd (freshNonce (modSec s1 fun x => { x with
      windows := if ok then x.windows.filter fun w => !(w.tenant == fieldOf c.slot 41 1 && w.off == fieldOf c.slot 48 8) else x.windows })) d cid
      (if ok then 0 else 3) := by
  have hno : ¬(!(s.mod.sec.windows.any fun w => w.tenant == argTenant c && w.off == fieldOf c.slot 48 8)) = true := by
    obtain ⟨w, hmem, h1, h2⟩ := hw
    have : (s.mod.sec.windows.any fun w => w.tenant == argTenant c && w.off == fieldOf c.slot 48 8) = true :=
      List.any_eq_true.mpr ⟨w, hmem, by simp [argTenant, h1, h2]⟩
    rw [this]; decide
  have hr' : fwRead s d (cmdAsid s d c) (fieldOf c.slot 64 8) sigBytes256s = (s1, .ok sig) := hr
  have hok' : windowSigned s1 12 (argTenant c) (fieldOf c.slot 48 8) 0 sig = ok := hok
  unfold runCloseWindow
  refine (if_neg (sealedTenant_ok hmode ht hno)).trans ?_
  simp only [hr', hok']
  cases ok <;> rfl

/-- GET_EKEY of a place that can be written. -/
theorem runGetEkey_writes {u : Unit} (hr : fwWrite s d (cmdAsid s d c) (fieldOf c.slot 48 8) (ekey s ++ idSign (serialBytes ++ ekey s)) = (s1, .ok u)) :
    runGetEkey s d cid c = finishCmd s1 d cid 0 := by
  -- the definition is opened under a name: the kernel would compute the write's pieces to compare the two sides
  obtain ⟨run, hrun⟩ : ∃ run, run = runGetEkey := ⟨_, rfl⟩
  rw [← hrun]
  delta runGetEkey at hrun
  rw [hrun]
  beta_reduce
  rw [hr]

/-! ### The policy, debug sessions, gating and suspension -/

/-- POLICY_WRITE of a record that is read. -/
theorem runPolicyWrite_decides {bs : List Byte} (hr : fwRead s d (cmdAsid s d c) (fieldOf c.slot 48 8) (128 + 29792) = (s1, .ok bs)) {ok : Bool}
    (hok : policyOk bs = ok) : runPolicyWrite s d cid c =
      finishCmd (modMod s1 fun m => { m with policy := if ok then some bs else m.policy }) d cid (if ok then 0 else 3) := by
  have hr' : fwRead s d (cmdAsid s d c) (fieldOf c.slot 48 8) (128 + sigBytes256s) = (s1, .ok bs) := hr
  unfold runPolicyWrite
  simp only [hr', hok]
  cases ok <;> rfl

/-- DEBUG_UNLOCK of a level that exists, while the log has room, is decided by the need. -/
theorem runDebugUnlock_eq (h1 : 1 ≤ fieldOf c.slot 41 1) (h2 : fieldOf c.slot 41 1 ≤ 2) (hlog : s.mod.sec.events.length < 4095) :
    runDebugUnlock s d cid c =
      if tokenNeed s.mod.sec.mode (fieldOf c.slot 41 1) = .free then
        if fieldOf c.slot 48 8 ≠ 0 then endAttempt s d cid badField else endAttempt (openSession s d (fieldOf c.slot 41 1) 0 []) d cid 0
      else
        let r := fwRead s d (cmdAsid s d c) (fieldOf c.slot 48 8) (64 + 29792)
        match r.2 with
        | .error e => endAttempt r.1 d cid (accessErr e)
        | .ok bs => unlockWith r.1 d cid (fieldOf c.slot 41 1) (tokenNeed s.mod.sec.mode (fieldOf c.slot 41 1)) bs := by
  have hgo : ¬(fieldOf c.slot 41 1 = 0 ∨ 2 < fieldOf c.slot 41 1 ∨ (!logRoom s) = true) := by
    rw [logRoom, decide_eq_true hlog, Bool.not_true]
    simp only [Bool.false_eq_true, or_false]
    omega
  exact if_neg hgo

/-- DEBUG_UNLOCK with a token that is read. -/
theorem runDebugUnlock_token {bs : List Byte} (h1 : 1 ≤ fieldOf c.slot 41 1) (h2 : fieldOf c.slot 41 1 ≤ 2) (hlog : s.mod.sec.events.length < 4095)
    (hn : tokenNeed s.mod.sec.mode (fieldOf c.slot 41 1) ≠ .free)
    (hr : fwRead s d (cmdAsid s d c) (fieldOf c.slot 48 8) (64 + 29792) = (s1, .ok bs)) :
    runDebugUnlock s d cid c = unlockWith s1 d cid (fieldOf c.slot 41 1) (tokenNeed s.mod.sec.mode (fieldOf c.slot 41 1)) bs := by
  rw [runDebugUnlock_eq h1 h2 hlog, if_neg hn, hr]

/-- ATTEST of a place that can be written. -/
theorem runAttest_writes {u : Unit} (hr : fwWrite s d (cmdAsid s d c) (fieldOf c.slot 48 8) (reportBody s ((c.slot.drop 64).take 32) ++
    idSign (reportBody s ((c.slot.drop 64).take 32))) = (s1, .ok u)) : runAttest s d cid c = finishCmd s1 d cid 0 := by
  unfold runAttest
  dsimp only
  rw [hr]

/-- GATE of clusters without work. -/
theorem runGate_gates (h3 : fieldOf c.slot 41 1 ≤ 3) (h15 : fieldOf c.slot 48 2 ≤ 15)
    (hbusy : ∀ k < 4, (fieldOf c.slot 48 2).testBit k = true → clusterBusy s (4 * fieldOf c.slot 41 1 + k) = false) :
    runGate s d cid c = finishCmd
      (modDie (((List.range 4).filter fun k => (fieldOf c.slot 48 2).testBit k).foldl (fun z k => loseSpad z (4 * fieldOf c.slot 41 1 + k)) s)
        (fieldOf c.slot 41 1) fun x => { x with gated := BitVec.ofNat 4 (fieldOf c.slot 48 2) }) d cid 0 := by
  have hidle : (((List.range 4).filter fun k => (fieldOf c.slot 48 2).testBit k).any fun k => clusterBusy s (4 * fieldOf c.slot 41 1 + k)) = false := by
    simp only [List.any_eq_false, List.mem_filter, List.mem_range, Bool.not_eq_true]
    exact fun k hk => hbusy k hk.1 hk.2
  have hgo : ¬(3 < fieldOf c.slot 41 1 ∨ 15 < fieldOf c.slot 48 2 ∨
      (((List.range 4).filter fun k => (fieldOf c.slot 48 2).testBit k).any fun k => clusterBusy s (4 * fieldOf c.slot 41 1 + k)) = true) := by
    rw [hidle]
    simp only [Bool.false_eq_true, or_false]
    omega
  exact if_neg hgo

end

/-- Settles O42: each subfunction by what it makes of the command in hand. -/
theorem securityCalls : Obligations.SecurityCalls := by
  intro s s1 c hin d y raw asid only b' off len tenant
  have hopen : exec .openWindow s = withCmd (fun s d cid c =>
    if zeroBut c.slot [(40, 42), (48, 72)] 40 252 then runOpenWindow s d cid c else endAttempt s d cid badField) s := rfl
  have hclose : exec .closeWindow s = withCmd (fun s d cid c =>
    if zeroBut c.slot [(40, 42), (48, 56), (64, 72)] 40 252 then runCloseWindow s d cid c else endAttempt s d cid badField) s := rfl
  have hunlock : exec .debugUnlock s = withCmd (fun s d cid c =>
    if zeroBut c.slot [(40, 42), (48, 56)] 40 252 then runDebugUnlock s d cid c else endAttempt s d cid badField) s := rfl
  refine ⟨fun ho hb hm => .of_fwcall (f := runRaiseMode) hin ho rfl (if_neg (not_or.mpr ⟨Nat.not_lt.mpr hb, not_not.mpr hm⟩)),
    fun s2 w pk ho hm ht hb hr hr2 => .of_fwcall hin ho rfl (runLoadKey_stores (s := y) hm ht hb hr hr2),
    fun ho hm ht => .of_fwcall hin ho rfl (runDropKey_drops (s := y) hm ht),
    fun sig ho hm ht hw hr => .of_withCmd hin hopen ((if_pos ho).trans (runOpenWindow_decides (s := y) hm ht hw hr rfl)),
    fun sig ho hm ht hw hr => .of_withCmd hin hclose ((if_pos ho).trans (runCloseWindow_decides (s := y) hm ht hw hr rfl)),
    fun u ho hr => .of_fwcall (f := runGetEkey) hin ho rfl ?ekey,
    fun bs ho hr => .of_fwcall hin ho rfl (runPolicyWrite_decides (s := y) hr rfl),
    fun ho h1 h2 hlog => ⟨fun hn h0 => .of_withCmd hin hunlock ((if_pos ho).trans ?free), fun bs hn hr =>
      .of_withCmd hin hunlock ((if_pos ho).trans (runDebugUnlock_token (s := y) h1 h2 hlog hn hr))⟩,
    fun ho => .of_fwcall (f := fun s d cid _ => finishCmd (endSession s d) d cid 0) hin ho rfl rfl,
    fun u ho hr => .of_fwcall (f := runAttest) hin ho rfl ?attest,
    fun ho h3 h15 hb => .of_fwcall hin ho rfl (runGate_gates (s := y) h3 h15 hb),
    fun ho => ⟨fun hq => .of_fwcall hin ho rfl ((runSuspend_eq (s := y)).trans (if_pos hq)),
      fun hq => .of_fwcall hin ho rfl ((runSuspend_eq (s := y)).trans (if_neg fun h => Bool.noConfusion (hq.symm.trans h)))⟩,
    fun ho => .of_fwcall (f := fun s d cid _ => finishCmd s d cid 0) hin ho rfl rfl⟩
  case ekey =>
    have hkey : ekey y = ekey s := rfl
    rw [← hkey] at hr
    exact runGetEkey_writes (s := y) hr
  case free => exact (runDebugUnlock_eq (s := y) h1 h2 hlog).trans ((if_pos hn).trans (if_neg (not_not.mpr h0)))
  case attest => exact runAttest_writes (s := y) hr

end Sys2Proof.Machine
end

section
/-! PROOF. The steps of a core's sequencer (07 R171, R186, 08 R210, 10 R268, R272, 15 R396, 04 R92). -/

namespace Sys2Proof.Machine

section
variable {s : State} {c x : Nat} {b : Bundle}

/-! ### What is fetched issues -/

theorem issueFetched_ok (h : fetched s c x = .ok b) : issueFetched s c x = runBundle s c x (issueOf (coreOf s c) x b) := by
  unfold issueFetched
  rw [h]

theorem issueFetched_error {e : BadBundle} (h : fetched s c x = .error e) (hr : (coreOf s c).rerun = none) :
    issueFetched s c x = issueTrap s c x (headerTrap s c x) := by
  unfold issueFetched
  rw [h]
  simp only [rerunTrap, hr]

/-- A bundle of a context that no kill waits for, or for which nothing has come, issues as it is fetched. -/
theorem issueAnswered_eq (h : (ctxOf s c x).killed = false ∨ replyReady s c x = false) : issueAnswered s c x = issueFetched s c x := by
  have hn : ¬((ctxOf s c x).killed && replyReady s c x) = true := by
    rcases h with h | h <;> simp [h]
  exact if_neg hn

theorem issueNext_ok (h : (ctxOf s c x).killed = false ∨ replyReady s c x = false) (hf : fetched s c x = .ok b) :
    issueNext s c x = firstFail (runBundle s c x (issueOf (coreOf s c) x b)) c x := by
  rw [issueNext, issueAnswered_eq h, issueFetched_ok hf]

theorem withRunning_some {f : Nat → State} (h : (coreOf s c).run = some x) : withRunning s c f = f x := by
  unfold withRunning
  rw [h]

/-! ### The issue of a bundle -/

/-- What a running context does whose core issues. -/
def issueStep (s : State) (c x : Nat) : State :=
  if issueStops (coreOf s c) && !replyReady s c x then s
  else match leaving (ctxOf s c x) with
    | some l => if unsettled s c x then s else leaveNow s c x l
    | none =>
      if (coreOf s c).dbgReq && !replyReady s c x then s
      else if (ctxOf s c x).inAmigen then serveAmigen s c x
      else if sleeps (ctxOf s c x) && !answeredNow s c x then s
      else if !(ctxOf s c x).killed && backFull (ctxOf s c x) && !replyReady s c x then becomeDirect s c x
      else issueNext s c x

theorem exec_bundleIssue {core : CoreId} (h : (coreOf s core.val).run = some x) : exec (.bundleIssue core) s = .next (issueStep s core.val x) := by
  refine congrArg Host.Outcome.next ((withRunning_some h).trans ?_)
  unfold issueStep
  rfl

theorem issueStep_leaves {l : Leave} (h : issueStops (coreOf s c) = false ∨ replyReady s c x = true) (hl : leaving (ctxOf s c x) = some l) :
    issueStep s c x = if unsettled s c x then s else leaveNow s c x l := by
  have hn : ¬(issueStops (coreOf s c) && !replyReady s c x) = true := by rcases h with h | h <;> simp [h]
  unfold issueStep
  rw [if_neg hn, hl]

/-- A core that nothing stops issues its context's bundle, where the context does not leave, does not wait, and has room. -/
theorem issueStep_issues (h : issueStops (coreOf s c) = false ∧ (coreOf s c).dbgReq = false ∨ replyReady s c x = true)
    (hl : leaving (ctxOf s c x) = none) (ha : (ctxOf s c x).inAmigen = false) (hs : sleeps (ctxOf s c x) = false ∨ answeredNow s c x = true)
    (hb : (ctxOf s c x).killed = true ∨ backFull (ctxOf s c x) = false ∨ replyReady s c x = true) : issueStep s c x = issueNext s c x := by
  have h1 : ¬(issueStops (coreOf s c) && !replyReady s c x) = true := by rcases h with ⟨h, _⟩ | h <;> simp [h]
  have h2 : ¬((coreOf s c).dbgReq && !replyReady s c x) = true := by rcases h with ⟨_, h⟩ | h <;> simp [h]
  have h3 : ¬(sleeps (ctxOf s c x) && !answeredNow s c x) = true := by rcases hs with h | h <;> simp [h]
  have h4 : ¬(!(ctxOf s c x).killed && backFull (ctxOf s c x) && !replyReady s c x) = true := by rcases hb with h | h | h <;> simp [h]
  unfold issueStep
  rw [if_neg h1, hl]
  dsimp only
  rw [if_neg h2, ha, if_neg Bool.false_ne_true, if_neg h3, if_neg h4]

/-- A killed context for which a response has come takes its bundle before the kill. -/
theorem issueNext_killed (hk : (ctxOf s c x).killed = true) (ht : replyReady s c x = true) :
    issueNext s c x =
      firstFail (if (ctxOf (issueFetched (modCtx s c x fun u => { u with killed := false }) c x) c x).status = .none then
          issueFetched (modCtx s c x fun u => { u with killed := false }) c x
        else modCtx (issueFetched (modCtx s c x fun u => { u with killed := false }) c x) c x fun u => { u with killed := true }) c x := by
  unfold issueNext issueAnswered
  simp only [hk, ht, Bool.and_self, if_true]

theorem fetchedTrap_ok (hl : leaving (ctxOf s c x) = none) (hf : fetched s c x = .ok b) :
    fetchedTrap s c x = bundleTrap s c x (issueOf (coreOf s c) x b) := by
  unfold fetchedTrap
  rw [hl, hf]
  rfl

/-! ### Retries -/

section
variable {op n : Nat} {va v : Word} (hh : (ctxOf s c x).held = some (.fe op va v n))
include hh

/-- The context after one more attempt of its held access at a home of this module. -/
theorem retryHeld_home (ha : heldAbroad s (ctxOf s c x) = none) :
    retryHeld s c x =
      (let z := issueFetched (modCtx s c x fun u => { u with killed := false }) c x
       let y := modCtx z c x fun u => { u with killed := (ctxOf s c x).killed }
       if feHeld z c x then if budgetUsed (ctxOf s c x) then exhaust y c x op va v else modCtx y c x countFail
       else if (ctxOf s c x).killed then issueFetched s c x else z) := by
  unfold retryHeld
  simp only [hh, ha]

theorem retryHeld_abroad {g : Nat} (ha : heldAbroad s (ctxOf s c x) = some g) : retryHeld s c x = retryAbroad s c x g op va v n := by
  unfold retryHeld
  simp only [hh, ha]

end

theorem retryAbroad_waits {g op n : Nat} {va v : Word} (h : asksNow s c x = true) : retryAbroad s c x g op va v n = s := if_pos h

/-- What the failed attempt at another module's die makes of the context. -/
theorem retryAbroad_failed {g op n : Nat} {va v : Word} {r : RemoteReply} (h : asksNow s c x = false) (hf : attemptFailed s c x = some r) :
    retryAbroad s c x g op va v n =
      if r.park = 1 then (if unanswered s c x then s else parkAbroad s c x g)
      else if r.park = 2 then issueTrap s c x { cause := 0x0B, slot := 3, info := va ||| (1 <<< 63 : Word) }
      else if decide (fld (ctxOf s c x).feb 15 0 ≤ n) && rehearsing (coreOf s c) then (if unanswered s c x then s else stopRerun s c x)
      else if decide (fld (ctxOf s c x).feb 15 0 ≤ n) && bitOf (ctxOf s c x).feb 16 then issueTrap s c x { cause := 0x0B, slot := 3, info := va }
      else if (ctxOf s c x).killed then issueFetched s c x
      else issueFetched (modCtx (dropBundle s c x) c x fun t => { t with held := some (.fe op va v (n + 1)) }) c x := by
  unfold retryAbroad
  rw [h, hf]
  rfl

/-- An attempt at another module's die that its home parks or traps is the last. -/
theorem lastTry_parked {g : Nat} {r : RemoteReply} (ha : heldAbroad s (ctxOf s c x) = some g) (hf : attemptFailed s c x = some r) (hp : r.park = 1) :
    lastTry s c x = true := by
  unfold lastTry
  simp only [ha, hf, hp]
  rfl

theorem lastTry_home (ha : heldAbroad s (ctxOf s c x) = none) : lastTry s c x = budgetUsed (ctxOf s c x) := by
  unfold lastTry
  simp only [ha]

/-! ### Waits at counters -/

theorem waitOver_home {id h : Nat} {thr : Word} (hh : (ctxOf s c x).held = some (.ctr id thr)) (hl : localDie s (ctrDie id) = some h)
    (hle : thr.toNat ≤ (ctrVal s h (ctrIdx id)).toNat) : waitOver s c x = true := by
  unfold waitOver
  simp only [hh, hl]
  exact decide_eq_true hle

theorem waitOver_abroad {id : Nat} {thr : Word} (hh : (ctxOf s c x).held = some (.ctr id thr)) (hl : localDie s (ctrDie id) = none) :
    waitOver s c x = answeredNow s c x := by
  unfold waitOver
  simp only [hh, hl]

/-! ### A debugger's step -/

/-- Outside Sealed mode a session at level D2 reaches every core. -/
theorem grantsCore_of (hd : s.mod.sec.debug = 2) (hr : s.mod.sec.events.length < 4095) (hm : s.mod.sec.mode ≠ 2) : grantsCore s c = true := by
  simp [grantsCore, logRoom, tenantSees, hd, hr, hm]

/-- The step of a halted core whose context stands at a bundle. -/
theorem exec_debugStep {core : CoreId} (hg : grantsCore s core.val = true) (hh : (coreOf s core.val).dbgHalt = true) (hr : (coreOf s core.val).run = some x)
    (hl : leaving (ctxOf s core.val x) = none) (ha : (ctxOf s core.val x).inAmigen = false) : exec (.debugStep core) s =
      .next (settle (issueNext (logEvent s (dieOfCore core.val) core.val .step) core.val x) core.val) := by
  have hr' : (coreOf (logEvent s (dieOfCore core.val) core.val .step) core.val).run = some x := hr
  have hl' : leaving (ctxOf (logEvent s (dieOfCore core.val) core.val .step) core.val x) = none := hl
  have ha' : (ctxOf (logEvent s (dieOfCore core.val) core.val .step) core.val x).inAmigen = false := ha
  have hno : ¬(!grantsCore s core.val || !(coreOf s core.val).dbgHalt) = true := by rw [hg, hh]; decide
  refine (if_neg hno).trans (congrArg (fun z => Host.Outcome.next (settle z core.val)) ((withRunning_some hr').trans ?_))
  rw [hl', ha']
  rfl

end

/-- A core that is not stopped does its context's step. -/
theorem running_step {s : State} {c x : Nat} {f : Nat → State} (hs : issueStops (coreOf s c) = false) (hr : (coreOf s c).run = some x) :
    (if issueStops (coreOf s c) then s else withRunning s c f) = f x :=
  (if_neg (by rw [hs]; decide)).trans (withRunning_some hr)

/-- Settles O43: what stops a core comes first, then what its context waits for, then its bundle. -/
theorem coresIssueAndRetry : Obligations.CoresIssueAndRetry := by
  intro s core x b c k t b' taken runs hrun
  refine ⟨fun h ht => (exec_bundleIssue hrun).trans (congrArg Host.Outcome.next (if_pos (by rw [h, show replyReady s core.val x = false from ht]; rfl))),
    fun h l hl => (exec_bundleIssue hrun).trans (congrArg Host.Outcome.next (issueStep_leaves h hl)), fun h hl ha hs hb => ?issue,
    fun h hl hf z hz => ?trap, fun h op va v n hh => ⟨fun ha => ?home, fun g ha => ?abroad⟩, fun h id thr hh hk hf => ?wait,
    fun hd hr hm hh hl ha hk hf => ?debug⟩
  case issue =>
    have hx : exec (.bundleIssue core) s = .next (issueNext s c x) :=
      (exec_bundleIssue hrun).trans (congrArg Host.Outcome.next (issueStep_issues h hl ha hs hb))
    refine ⟨fun hk => ⟨fun hf => hx.trans (congrArg Host.Outcome.next (issueNext_ok hk hf)), fun e hf hr => hx.trans ?_⟩,
      fun hk ht => hx.trans (congrArg Host.Outcome.next (issueNext_killed hk ht))⟩
    rw [issueNext, issueAnswered_eq hk, issueFetched_error hf hr]
    rfl
  case trap =>
    refine congrArg Host.Outcome.next ((running_step h hrun).trans ?_)
    rw [fetchedTrap_ok hl hf, show bundleTrap s c x (issueOf (coreOf s c) x b) = some z from hz]
  case home =>
    intro z y
    have hretry := retryHeld_home hh ha
    have hx : exec (.feRetry core) s = .next (retryHeld s c x) := congrArg Host.Outcome.next (running_step h hrun)
    have hy : budgetUsed t = true → exec (.feBudgetExhausted core) s = .next (retryHeld s c x) := fun hu =>
      congrArg Host.Outcome.next ((running_step h hrun).trans (if_pos ((lastTry_home ha).trans hu)))
    have hfail : feHeld z c x = true → retryHeld s c x = if budgetUsed t then exhaust y c x op va v else modCtx y c x countFail := fun hz =>
      hretry.trans (if_pos hz)
    have hgoes : feHeld z c x = false → t.killed = false → retryHeld s c x = z := fun hz hk =>
      hretry.trans ((if_neg (Bool.eq_false_iff.mp hz)).trans (if_neg (Bool.eq_false_iff.mp hk)))
    exact ⟨fun hz => hx.trans (congrArg Host.Outcome.next (hfail hz)), fun hz hk => hx.trans (congrArg Host.Outcome.next (hgoes hz hk)),
      fun hz hu => (hy hu).trans (congrArg Host.Outcome.next ((hfail hz).trans (if_pos hu))),
      fun hz hk hu => (hy hu).trans (congrArg Host.Outcome.next (hgoes hz hk))⟩
  case abroad =>
    have hretry := retryHeld_abroad hh ha
    have hx : exec (.feRetry core) s = .next (retryAbroad s c x g op va v n) := congrArg Host.Outcome.next ((running_step h hrun).trans hretry)
    refine ⟨fun hn => hx.trans (congrArg Host.Outcome.next (retryAbroad_waits hn)), fun hn r hf => ?_⟩
    have hfail := retryAbroad_failed (g := g) (op := op) (n := n) (va := va) (v := v) hn hf
    refine ⟨fun hp hu => ?_, fun hp => hx.trans (congrArg Host.Outcome.next (hfail.trans ?_)),
      fun hp hle hreh hbit => hx.trans (congrArg Host.Outcome.next (hfail.trans ?_)),
      fun hp hlt hk => hx.trans (congrArg Host.Outcome.next (hfail.trans ?_))⟩
    · have hpark : retryAbroad s c x g op va v n = parkAbroad s c x g := hfail.trans ((if_pos hp).trans (if_neg (Bool.eq_false_iff.mp hu)))
      exact ⟨hx.trans (congrArg Host.Outcome.next hpark),
        congrArg Host.Outcome.next ((running_step h hrun).trans ((if_pos (lastTry_parked ha hf hp)).trans (hretry.trans hpark)))⟩
    · rw [hp]
      rfl
    · rw [hp, decide_eq_true hle, hreh, show bitOf (ctxOf s c x).feb 16 = true from hbit]
      rfl
    · rw [hp, decide_eq_false (Nat.not_le.mpr hlt), hk]
      rfl
  case wait =>
    have hx : waitOver s c x = true → exec (.cwaitSatisfied core) s = .next (runs s) := fun hw =>
      congrArg Host.Outcome.next ((running_step h hrun).trans ((if_pos hw).trans (issueNext_ok hk hf)))
    exact ⟨fun h hl hle => hx (waitOver_home hh hl hle), fun hl hn => hx ((waitOver_abroad hh hl).trans hn)⟩
  case debug =>
    refine (exec_debugStep (grantsCore_of hd hr hm) hh hrun hl ha).trans (congrArg (fun z => Host.Outcome.next (settle z c)) ?_)
    exact issueNext_ok (s := logEvent s (dieOfCore c) c .step) hk hf

end Sys2Proof.Machine
end

section
/-! PROOF. Checkpoints, late causes, reruns, rehearsal and switches (10 R274 to R280, 05 R130, 07 R186 to R189). -/

namespace Sys2Proof.Machine

section
variable {s : State} {c x : Nat} {core : CoreId}

/-- What CHECKPOINT does with a running context. -/
theorem exec_checkpoint (hr : (coreOf s core.val).run = some x) (hs : issueStops (coreOf s core.val) = false) (hu : unsettled s core.val x = false)
    (hl : leaving (ctxOf s core.val x) = none) : exec (.checkpoint core) s =
      .next (if rehearsing (coreOf s core.val) then stopRerun s core.val x else takeCheckpoint s core.val x) := by
  refine congrArg Host.Outcome.next ((withRunning_some hr).trans (if_neg ?_))
  rw [hs, hu, hl]
  decide

/-- A running context whose slice is used up is asked to leave. -/
theorem exec_sliceEnd (hr : (coreOf s core.val).run = some x) (h0 : (coreOf s core.val).tslice ≠ 0)
    (hle : (coreOf s core.val).tslice.toNat ≤ (coreOf s core.val).sliceUsed) :
    exec (.sliceEnd core) s = .next (modCore s core.val fun k => { k with preempt := true }) := by
  refine congrArg Host.Outcome.next (if_pos ?_)
  rw [hr, decide_eq_true hle, bne_iff_ne.mpr h0]
  rfl

theorem exec_preemptLand (hr : (coreOf s core.val).run = some x) : exec (.preemptLand core) s =
    .next (if canLand s core.val x && !firstRows s core.val x then switchAway (settle s core.val) core.val x .ready else s) := by
  unfold exec execPreemptLand
  simp only [hr]

theorem exec_preemptLand_idle (hr : (coreOf s core.val).run = none) : exec (.preemptLand core) s =
    .next (if issueStops (coreOf s core.val) || (coreOf s core.val).dbgReq then s else runNext core.val 9 (coreOf s core.val).lastCtx s) := by
  unfold exec execPreemptLand
  simp only [hr]

/-- What a late cause is to a running context: it waits for what the context awaits. -/
theorem exec_lateCause {count cause sub : Nat} {info : Word} (hr : (coreOf s core.val).run = some x) :
    exec (.lateCause core count cause sub info) s = .next
      (let z := earlier (coreOf s core.val).late
        (count, { cause := cause, sub := sub % 256, level := sub / 256 % 4, slot := 3, late := true, info := info })
       if unsettled s core.val x then modCore s core.val fun k => { k with late := some z }
       else takeLate (modCore s core.val fun k => { k with late := none }) core.val x z) :=
  congrArg Host.Outcome.next (withRunning_some hr)

/-- A late cause behind the bundle at which a rerun stops is nothing. -/
theorem takeLate_later {z : Nat × TrapInfo} (h : stopsBefore (coreOf s c) z.1 = true) : takeLate s c x z = s := if_pos h

/-- A late cause before the bundle at which a rerun stops. -/
theorem takeLate_first {z : Nat × TrapInfo} (h : stopsBefore (coreOf s c) z.1 = false) : takeLate s c x z =
    if (coreOf s c).shadow.isNone then trapRunning s c x z.2
    else if rehearsing (coreOf s c) then stopRerun s c x
    else startRerun s c x { replay := [], trap := some z, runs := 1, first := none } := if_neg (Bool.eq_false_iff.mp h)

/-- An internal error of a core that is not retired and rehearses nothing, behind a checkpoint. -/
theorem exec_internalError {h : Shadow} (hr : (coreOf s core.val).run = some x) (hret : (coreOf s core.val).retired = false)
    (hreh : rehearsing (coreOf s core.val) = false) (hs : (coreOf s core.val).shadow = some h) : exec (.internalError core) s =
      if unsettled s core.val x then .next (modCore s core.val fun k => { k with intErr := true })
      else if h.uncopied then .next (endRunning
        (modDie (modCore s core.val fun k => { k with intErr := false }) (dieOfCore core.val) fun d => { d with rehFaulted := min (d.rehFaulted + 1) 0xFFFF })
        core.val x .integrity)
      else .next (startRerun (modCore s core.val fun k => { k with intErr := false }) core.val x { replay := [], trap := none, runs := 2, first := none }) := by
  unfold exec execInternalError
  simp only [hr, hret, hreh, hs, Bool.false_eq_true, if_false]

/-- A core that rehearses and is not retired compares its runs. -/
theorem rehearses (hret : (coreOf s c).retired = false) (hreh : rehearsing (coreOf s c) = true) :
    ¬((coreOf s c).retired || !(rehearsing (coreOf s c) || (isFirmwareCore s c && (coreOf s c).run.isNone))) = true := by
  simp only [hret, hreh, Bool.true_or, Bool.not_true, Bool.or_self, Bool.false_eq_true, not_false_eq_true]

theorem exec_rehearsalAgrees (hret : (coreOf s core.val).retired = false) (hreh : rehearsing (coreOf s core.val) = true) :
    exec (.rehearsalCompare core true) s = .next (modCore (modDie s (dieOfCore core.val) fun d => { d with rehAgreed := min (d.rehAgreed + 1) 0xFFFFFFFF })
      core.val fun k => { k with rerun := none }) := (if_neg (rehearses hret hreh)).trans (if_pos rfl)

/-- A rehearsal that does not agree retires the core, or leaves an internal error while it waits. -/
theorem exec_rehearsalDiffers (hr : (coreOf s core.val).run = some x) (hret : (coreOf s core.val).retired = false)
    (hreh : rehearsing (coreOf s core.val) = true) : exec (.rehearsalCompare core false) s =
      .next (if (endAsking s (retireCore (stepState s (.rehearsalCompare core false)) core.val) (.step (.rehearsalCompare core false) 0 0)).2
        then modCore (endAsking s (retireCore (stepState s (.rehearsalCompare core false)) core.val) (.step (.rehearsalCompare core false) 0 0)).1 core.val
          fun k => { k with intErr := true }
        else (endAsking s (retireCore (stepState s (.rehearsalCompare core false)) core.val) (.step (.rehearsalCompare core false) 0 0)).1) := by
  refine (if_neg (rehearses hret hreh)).trans ((if_neg Bool.false_ne_true).trans (congrArg Host.Outcome.next ?_))
  rw [show asking (.step (.rehearsalCompare core false) 0 0) s (fun s => retireCore s core.val) =
    endAsking s (retireCore (stepState s (.rehearsalCompare core false)) core.val) (.step (.rehearsalCompare core false) 0 0) from rfl]
  cases (endAsking s (retireCore (stepState s (.rehearsalCompare core false)) core.val) (.step (.rehearsalCompare core false) 0 0)).2
  · rfl
  · simp only [hr, Bool.not_true, Bool.false_eq_true, if_false, Option.isSome_some, if_true]

end

/-- Settles O44: each step by what it finds the core and its running context in. -/
theorem intervalsAndSwitches : Obligations.IntervalsAndSwitches := by
  intro s core x c k t
  refine ⟨rfl, fun hrun => ⟨fun hs hu hl => ⟨fun hn => ?take, fun hn => ?stop⟩, fun h0 hle => exec_sliceEnd hrun h0 hle,
    fun hp hat hpriv hs hl hu hf => ?land, fun count cause sub info => ?late, fun h hsh hret hreh => ?error, fun hret hreh => ?compare⟩,
    fun hrun hs hd => ?idle⟩
  case take => exact (exec_checkpoint hrun hs hu hl).trans (congrArg Host.Outcome.next (if_neg (Bool.eq_false_iff.mp hn)))
  case stop => exact (exec_checkpoint hrun hs hu hl).trans (congrArg Host.Outcome.next (if_pos hn))
  case land =>
    have hland : canLand s c x = true := by
      unfold canLand
      simp only [show (coreOf s c).preempt = true from hp, show (coreCtx (coreOf s c) x).atLand = true from hat,
        show (coreCtx (coreOf s c) x).priv = false from hpriv, show issueStops (coreOf s c) = false from hs,
        show leaving (coreCtx (coreOf s c) x) = none from hl, hu, Bool.not_false, Option.isNone_none, Bool.and_self]
    have hgo : (canLand s core.val x && !firstRows s core.val x) = true := by
      rw [show canLand s core.val x = true from hland, show firstRows s core.val x = false from hf]
      rfl
    exact (exec_preemptLand hrun).trans (congrArg Host.Outcome.next (if_pos hgo))
  case late =>
    intro z a
    have hx := exec_lateCause (count := count) (cause := cause) (sub := sub) (info := info) hrun
    have hset : unsettled s c x = false → exec (.lateCause core count cause sub info) s = .next (takeLate a c x z) := fun hu =>
      hx.trans (congrArg Host.Outcome.next (if_neg (Bool.eq_false_iff.mp hu)))
    have ha : ∀ {p : Core → Prop}, p { k with late := none } → p (coreOf a c) := fun {p} h => by
      rw [show coreOf a c = { k with late := none } by simp only [a, k, modCore, coreOf_setCore, if_true]]
      exact h
    refine ⟨fun hu => hx.trans (congrArg Host.Outcome.next (if_pos hu)),
      fun hu hb => (hset hu).trans (congrArg Host.Outcome.next (takeLate_later (ha (p := fun k => stopsBefore k z.1 = true) hb))), fun hu hb => ?_⟩
    have hfirst := (hset hu).trans (congrArg Host.Outcome.next (takeLate_first (ha (p := fun k => stopsBefore k z.1 = false) hb)))
    refine ⟨fun hsh => hfirst.trans (congrArg Host.Outcome.next (if_pos (ha (p := fun k => k.shadow.isNone = true) ?_))), fun hsh hreh => ?_, fun hsh hreh => ?_⟩
    · exact Option.isNone_iff_eq_none.mpr hsh
    all_goals
      have hn : ¬(coreOf a c).shadow.isNone = true := ha (p := fun k => ¬k.shadow.isNone = true) (Option.isSome_iff_ne_none.mp hsh ∘ Option.isNone_iff_eq_none.mp)
      refine hfirst.trans (congrArg Host.Outcome.next ((if_neg hn).trans ?_))
    · exact if_pos (ha (p := fun k => rehearsing k = true) hreh)
    · exact if_neg (ha (p := fun k => ¬rehearsing k = true) (Bool.eq_false_iff.mp hreh))
  case error =>
    intro a
    have hx := exec_internalError hrun hret hreh hsh
    refine ⟨fun hu => hx.trans (if_pos hu), fun hu hc => hx.trans ((if_neg (Bool.eq_false_iff.mp hu)).trans (if_neg (Bool.eq_false_iff.mp hc))),
      fun hu hc => hx.trans ((if_neg (Bool.eq_false_iff.mp hu)).trans (if_pos hc))⟩
  case compare =>
    intro no z
    have hx := exec_rehearsalDiffers hrun hret hreh
    refine ⟨exec_rehearsalAgrees hret hreh, fun hw => hx.trans (congrArg Host.Outcome.next ?_),
      fun hw => hx.trans (congrArg Host.Outcome.next (if_pos (endAsking_waits _ _ hw)))⟩
    rw [show retireCore (stepState s (.rehearsalCompare core false)) core.val = z from rfl, endAsking_goes _ _ hw]
    rfl
  case idle =>
    exact (exec_preemptLand_idle hrun).trans (congrArg Host.Outcome.next (if_neg (by
      rw [show issueStops (coreOf s core.val) = false from hs, show (coreOf s core.val).dbgReq = false from hd]; decide)))

end Sys2Proof.Machine
end

section
/-! PROOF. Wakes, starts of tasks, replies, and completions of the engines (08 R212 to R214, 05 R114, R115, 07 R183, 10 R262, R263, 12 R321, 17 R443,
R444, R452, R464). -/

namespace Sys2Proof.Machine

section
variable {s : State} {c : Nat}

/-! ### The oldest command of an engine -/

/-- The command that is taken passes the test. -/
theorem takeEng_passes {p : EngCmd → Bool} {l r : List EngCmd} {e : EngCmd} (h : takeEng p l = some (e, r)) : p e = true := by
  induction l generalizing r with
  | nil => cases h
  | cons a l ih =>
    unfold takeEng at h
    split at h
    · next ha =>
      cases h
      exact ha
    · cases hl : takeEng p l with
      | none => rw [hl] at h; cases h
      | some z =>
        rw [hl] at h
        cases h
        exact ih hl

theorem takeEng_no {n : Nat} {l r : List EngCmd} {e : EngCmd} (h : takeEng (fun e => engNo e == n) l = some (e, r)) : engNo e = n :=
  beq_iff_eq.mp (takeEng_passes h)

/-- The oldest command of a core's engine is tried, and stays where it waits. -/
theorem completeOwn_some {p : EngCmd → Bool} {e : EngCmd} {l : List EngCmd} (h : takeEng p (coreOf s c).engs = some (e, l)) :
    completeOwn s c p =
      (let r := engTry (modCore s c fun k => { k with engs := l }) c e
       if r.2 then modCore r.1 c fun z => { z with engs := (coreOf s c).engs } else r.1) := by
  unfold completeOwn
  simp only [h]

theorem serveEarlier_none {since fuel : Nat} (h : earlierCopy s c since = none) : serveEarlier c since (fuel + 1) s = (s, false) := by
  unfold serveEarlier
  simp only [h]

/-- A copy completes behind those of its cluster that arrived before it. -/
theorem completeEng_copy {e : EngCmd} {l : List EngCmd} (h : takeEng (fun e => engNo e == 1) (coreOf s c).engs = some (e, l)) :
    completeEng s c (fun e => engNo e == 1) =
      (let r := serveEarlier c e.since 256 s
       if r.2 then r.1 else completeOwn r.1 c fun e => engNo e == 1) := by
  unfold completeEng
  simp only [h, takeEng_no h, if_true]
  generalize serveEarlier c e.since 256 s = r
  obtain ⟨t, b⟩ := r
  cases b <;> rfl

theorem completeEng_other {n : Nat} {e : EngCmd} {l : List EngCmd} (hn : n ≠ 1) (h : takeEng (fun e => engNo e == n) (coreOf s c).engs = some (e, l)) :
    completeEng s c (fun e => engNo e == n) = completeOwn s c fun e => engNo e == n := by
  unfold completeEng
  simp only [h, takeEng_no h, hn, if_false]

/-- The oldest command of an engine, where no copy comes before it, is tried. -/
theorem completeEng_tries {n : Nat} {e : EngCmd} {l : List EngCmd} (h : takeEng (fun e => engNo e == n) (coreOf s c).engs = some (e, l))
    (hone : n = 1 → earlierCopy s c e.since = none) : completeEng s c (fun e => engNo e == n) =
      (let r := engTry (modCore s c fun k => { k with engs := l }) c e
       if r.2 then modCore r.1 c fun z => { z with engs := (coreOf s c).engs } else r.1) := by
  refine Eq.trans ?_ (completeOwn_some h)
  by_cases hn : n = 1
  · subst hn
    rw [completeEng_copy h]
    simp only [serveEarlier_none (hone rfl), Bool.false_eq_true, if_false]
  · exact completeEng_other hn h

/-! ### Replies and page requests -/

theorem exec_reply_held {core : CoreId} {t : State} {bs : List Byte} (h : performHeld s core.val = some t) :
    exec (.loadReturn core bs) s = .next t ∧ exec (.ownerReply core) s = .next t := by
  have hl : exec (.loadReturn core bs) s = execLoadReturn core bs s := rfl
  have ho : exec (.ownerReply core) s = execOwnerReply core s := rfl
  rw [hl, ho]
  unfold execLoadReturn execOwnerReply
  simp only [h, and_self]

theorem exec_reply_lands {core : CoreId} {bs : List Byte} (h : performHeld s core.val = none) :
    exec (.loadReturn core bs) s = .next (arriveFirst s core.val (fun a => !a.store && a.returns) bs [] (coreOf s core.val).arrivals) ∧
    exec (.ownerReply core) s = .next (arriveFirst s core.val (fun a => a.store && a.returns) [] [] (coreOf s core.val).arrivals) := by
  have hl : exec (.loadReturn core bs) s = execLoadReturn core bs s := rfl
  have ho : exec (.ownerReply core) s = execOwnerReply core s := rfl
  rw [hl, ho]
  unfold execLoadReturn execOwnerReply
  simp only [h, and_self]

/-- A page request goes on. -/
theorem exec_pgreqDone {die : DieId} {i : Nat} {r : PgReq} (h : (dieOf s die.val).pgreqs[i]? = some r) :
    exec (.pgreqDone die i) s = .next (if (servePgreq s die.val r).2
      then modDie (servePgreq s die.val r).1 die.val fun k => { k with pgreqs := k.pgreqs.eraseIdx i } else (servePgreq s die.val r).1) := by
  have hx : exec (.pgreqDone die i) s = execPgreqDone die i s := rfl
  rw [hx]
  unfold execPgreqDone
  simp only [h]

/-! ### The matrix engine -/

/-- MATRIX_COMPLETE of a core on which nothing cooperative is left to land, or something else waits. -/
theorem exec_matrixComplete_lands {core : CoreId} (h : (coreOf s core.val).pend.any (·.waits) = true ∨
    (coreOf (landDue s core.val) core.val).pend.find? (fun p => coopLand p.land) = none) : exec (.matrixComplete core) s = .next (landDue s core.val) := by
  have hx : exec (.matrixComplete core) s = execMatrixComplete core s := rfl
  have hnone : (if (coreOf s core.val).pend.any (·.waits) then none else (coreOf (landDue s core.val) core.val).pend.find? (fun p => coopLand p.land)) = none := by
    rcases h with h | h
    · exact if_pos h
    · rw [h]
      exact ite_self none
  rw [hx]
  unfold execMatrixComplete
  dsimp only [Fin.toNat_eq_val]
  split
  · rfl
  · next p hp => cases hp.symm.trans hnone

/-- MATRIX_COMPLETE lands a cooperative MXA that has started. -/
theorem exec_matrixComplete_coop {core : CoreId} {p : Pend} (h : (coreOf s core.val).pend.any (·.waits) = false)
    (hp : (coreOf (landDue s core.val) core.val).pend.find? (fun p => coopLand p.land) = some p) : exec (.matrixComplete core) s =
      .next (landCycle (setCore (landDue s core.val) core.val { coreOf (landDue s core.val) core.val with
        pend := (coreOf (landDue s core.val) core.val).pend.erase p, streamFree := (coreOf (landDue s core.val) core.val).ic }) core.val [p]) := by
  have hx : exec (.matrixComplete core) s = execMatrixComplete core s := rfl
  rw [hx]
  unfold execMatrixComplete
  simp only [Fin.toNat_eq_val, h, hp, Bool.false_eq_true, if_false]

/-! ### Cooperative groups -/

/-- What the timeout of a late group does with a core of the cluster. -/
def timeoutCore (g : BitVec 16 × Nat) (c0 : Nat) (z : State) (i : Nat) : State :=
  match (coreOf z (c0 + i)).coop with
  | some (y, mask, tag, j) =>
    if (mask, tag) = g then modCore z (c0 + i) fun k => pushToken { k with coop := none, streamFree := k.ic } y 0 j.serial 3 1 else z
  | none => z

theorem exec_coopTimeout_late {die : DieId} {cl : Fin 4} {g : BitVec 16 × Nat} (h : lateGroup s (4 * die.val + cl.val) = some g) :
    exec (.coopTimeout die cl) s = .next ((List.range 16).foldl (timeoutCore g (16 * (4 * die.val + cl.val))) s) := by
  have hx : exec (.coopTimeout die cl) s = execCoopTimeout die cl s := rfl
  rw [hx]
  unfold execCoopTimeout
  dsimp only [Fin.toNat_eq_val]
  split
  · next hn => cases hn.symm.trans h
  · next g' hg =>
    cases hg.symm.trans h
    rfl

theorem exec_coopTimeout_none {die : DieId} {cl : Fin 4} (h : lateGroup s (4 * die.val + cl.val) = none) :
    exec (.coopTimeout die cl) s = .next s := by
  have hx : exec (.coopTimeout die cl) s = execCoopTimeout die cl s := rfl
  rw [hx]
  unfold execCoopTimeout
  dsimp only [Fin.toNat_eq_val]
  split
  · rfl
  · next g' hg => cases hg.symm.trans h

end

/-- Settles O45: each step by what is due and what waits. -/
theorem wakesStartsAndCompletions : Obligations.WakesStartsAndCompletions := by
  intro s core die cl pa bs cx c d k of bucket engine
  have hengine : ∀ (i : Instr) (n : Nat), exec i s = .next (completeEng s c fun e => engNo e == n) → engine i n := by
    intro i n hx e l he hone r
    have htry := completeEng_tries he hone
    exact ⟨fun hr => hx.trans (congrArg Host.Outcome.next (htry.trans (if_neg (Bool.eq_false_iff.mp hr)))),
      fun hr => hx.trans (congrArg Host.Outcome.next (htry.trans (if_pos hr)))⟩
  exact ⟨rfl, rfl, fun h => exec_reply_lands h, fun t h => exec_reply_held h, rfl, fun i r h => exec_pgreqDone h, hengine _ 1 rfl, hengine _ 2 rfl,
    hengine _ 3 rfl, fun e l h => congrArg Host.Outcome.next (completeEng_copy h), ⟨fun h => exec_matrixComplete_lands h,
      fun p h hp => exec_matrixComplete_coop h hp⟩,
    ⟨fun g h => exec_coopTimeout_late h, fun h => exec_coopTimeout_none h, rfl⟩⟩

end Sys2Proof.Machine
end

section
/-! PROOF. Debug halt, resume and access (04 R92, R94, R100, 07 R186, R189). -/

namespace Sys2Proof.Machine

section
variable {s : State} {c : Nat} {core : CoreId}

/-! ### What is granted -/

/-- The log has room for an access. -/
theorem logRoom_of (hr : s.mod.sec.events.length < 4095) : logRoom s = true := decide_eq_true hr

/-- Outside Sealed mode a session at level D2 reaches every target. -/
theorem grantsTarget_of (hd : s.mod.sec.debug = 2) (hr : s.mod.sec.events.length < 4095) (hm : s.mod.sec.mode ≠ 2) (t : DebugTarget) :
    grantsTarget s c t = true := by
  have hc : grantsCore s c = true := grantsCore_of hd hr hm
  have hs : ∀ a, tenantSees s c a = true := fun a => by simp [tenantSees, hm]
  unfold grantsTarget
  rw [logRoom_of hr]
  cases t <;> simp [hd, hm, hc, hs]

/-- From level D1 on counters and the trace are read. -/
theorem grantsTarget_counter (hd : 1 ≤ s.mod.sec.debug) (hr : s.mod.sec.events.length < 4095) (hm : s.mod.sec.mode ≠ 2) :
    (∀ i, grantsTarget s c (.counter i) = true) ∧ grantsTarget s c .drops = true ∧ (∀ i, grantsTarget s c (.trace i) = true) ∧
      ∀ b, grantsTarget s c (.total b) = true := by
  unfold grantsTarget
  rw [logRoom_of hr]
  simp [hd, hm]

/-! ### Accesses -/

/-- The target is memory or the bits of a word of it. -/
def targetsMemory : DebugTarget → Bool
  | .mem _ _ | .wordBits _ _ => true
  | _ => false

/-- A read of what a core or the module holds answers the debugger. -/
theorem exec_debugAccess_reads {t : DebugTarget} (hg : grantsTarget s core.val t = true) (hm : targetsMemory t = false) :
    exec (.debugAccess core t none) s =
      .next (sendOut (logEvent s (dieOfCore core.val) core.val .access) (.debug (debugRead (logEvent s (dieOfCore core.val) core.val .access) core.val t))) := by
  refine (if_neg (by rw [hg]; decide)).trans ?_
  split
  · cases hm
  · cases hm
  · rfl

/-- A write of what a core holds changes it. -/
theorem exec_debugAccess_writes {t : DebugTarget} {v : Word} (hg : grantsTarget s core.val t = true) (hm : targetsMemory t = false) :
    exec (.debugAccess core t (some v)) s = .next (debugWrite (logEvent s (dieOfCore core.val) core.val .access) core.val v t) := by
  refine (if_neg (by rw [hg]; decide)).trans ?_
  split
  · cases hm
  · cases hm
  · rfl

/-- A matrix register that an id names. -/
theorem debugRead_mx {cx : CtxId} {i : BitVec 12} {r : MxReg} {w : Word} (h : mxOfId i.toNat 0 = some (r, w)) :
    debugRead s c (.mx cx i) = getMx (ctxOf s c cx.val).mx r := by
  unfold debugRead
  simp only [h, Option.map_some, Option.getD_some]

theorem debugWrite_mx {cx : CtxId} {i : BitVec 12} {v : Word} {r : MxReg} {w : Word} (h : mxOfId i.toNat v = some (r, w)) :
    debugWrite s c v (.mx cx i) = modCtx s c cx.val fun t => { t with mx := setMx t.mx r w } := by
  unfold debugWrite
  simp only [h]

/-- A tile that is queued for transposition. -/
theorem debugRead_trans {ti : Fin 8} {tr : BitVec 5} {tw : BitVec 6} {e : TrTile} (h : (coreOf s c).trq[ti.val]? = some e) :
    debugRead s c (.trans ti tr tw) = BitVec.ofNat 64 (leNat (((e.rows.getD tr.toNat []).drop (8 * tw.toNat)).take 8)) := by
  unfold debugRead
  simp only [h, Option.map_some, Option.getD_some]

/-! ### Accesses of memory -/

section
variable {s1 : State} {asid : Nat} {va v : Word}

theorem debugMem_reads {bs : List Byte} (h : engRead s (clusterOfCore c) asid (va.toNat / 8 * 8) 8 = (s1, .ok bs)) :
    debugMem s c asid va none = sendOut s1 (.debug (BitVec.ofNat 64 (leNat bs))) := by
  unfold debugMem
  simp only [h]

theorem debugMem_writes {u : Unit} (h : engWrite s (clusterOfCore c) asid (va.toNat / 8 * 8) (leBytes 8 v.toNat) none = (s1, .ok u)) :
    debugMem s c asid va (some v) = s1 := by
  unfold debugMem
  simp only [h]

variable {home pa ca : Nat} {ce ing out : Bool}

theorem debugBits_reads (h : engLoc s (clusterOfCore c) asid (va.toNat / 8 * 8) 8 false = (s1, .ok (.home home pa ca ce ing out))) :
    debugBits s c asid va none =
      sendOut s1 (.debug (BitVec.ofNat 64 ((fullBit (dieOf s1 home) pa).toNat + 2 * (waitBit (dieOf s1 home) pa).toNat))) := by
  unfold debugBits
  simp only [Option.isSome_none, h]

theorem debugBits_writes (h : engLoc s (clusterOfCore c) asid (va.toNat / 8 * 8) 8 true = (s1, .ok (.home home pa ca ce ing out))) :
    debugBits s c asid va (some v) = modDie s1 home fun k => setWait (setFull k pa (bitOf v 0)) pa (bitOf v 1) := by
  unfold debugBits
  simp only [Option.isSome_some, h]

/-- A granted access of memory is tried. -/
theorem exec_debugMem {a : BitVec 16} {value : Option Word} (hg : grantsTarget s core.val (.mem a va) = true) :
    exec (.debugAccess core (.mem a va) value) s = .next (askingStep s (.debugAccess core (.mem a va) value) fun s =>
      debugMem (logEvent s (dieOfCore core.val) core.val .access) core.val a.toNat va value) := if_neg (by rw [hg]; decide)

theorem exec_debugBits {a : BitVec 16} {value : Option Word} (hg : grantsTarget s core.val (.wordBits a va) = true) :
    exec (.debugAccess core (.wordBits a va) value) s = .next (askingStep s (.debugAccess core (.wordBits a va) value) fun s =>
      debugBits (logEvent s (dieOfCore core.val) core.val .access) core.val a.toNat va value) := if_neg (by rw [hg]; decide)

end

/-! ### Halt and resumption -/

/-- The state of a core that a debugger halts. -/
def haltCore (s : State) (c : Nat) : State :=
  logEvent (modCore (settle s c) c fun k => { k with dbgHalt := true, dbgReq := false }) (dieOfCore c) c .halt

/-- A halt of a core, where it is granted. -/
theorem exec_debugHalt (hg : grantsCore s core.val = true) : exec (.debugHalt core) s =
    if (coreOf s core.val).dbgHalt then .next s
    else match (coreOf s core.val).run with
      | none => .next (haltCore s core.val)
      | some x => .next (if issueStops (coreOf s core.val) || unsettled s core.val x || (leaving (ctxOf s core.val x)).isSome || firstRows s core.val x
          then modCore s core.val fun k => { k with dbgReq := true } else haltCore s core.val) := by
  refine (if_neg (by rw [hg]; decide)).trans ?_
  cases (coreOf s core.val).run <;> rfl

theorem exec_debugResume {cx : CtxId} (hd : s.mod.sec.debug = 2) (hm : s.mod.sec.mode ≠ 2) : exec (.debugResume core cx) s =
    .next (if (ctxOf (modCore s core.val fun k => { k with dbgHalt := false }) core.val cx.val).status = .halted
      then makeReady (modCore s core.val fun k => { k with dbgHalt := false }) core.val cx.val
      else modCore s core.val fun k => { k with dbgHalt := false }) := by
  have hno : ¬(s.mod.sec.debug ≠ 2 ∨ (!tenantSees s core.val (ctxOf s core.val cx.val).asid) = true) := by simp [tenantSees, hd, hm]
  exact if_neg hno

/-- A halt taken away leaves every context. -/
theorem ctxOf_unhalted (x : Nat) : ctxOf (modCore s c fun k => { k with dbgHalt := false }) c x = ctxOf s c x := by
  unfold ctxOf
  rw [show coreOf (modCore s c fun k => { k with dbgHalt := false }) c = { coreOf s c with dbgHalt := false } by
    simp only [modCore, coreOf_setCore, if_true]]
  rfl

end

/-- Settles O46: what is granted comes first, then each target by what a debugger reads of it and writes to it. -/
theorem debugSteps : Obligations.DebugSteps := by
  intro s core cx n p a cr asid va v vr mr i12 i7 page i9 q i64 i15 b1 b2 row col ti tr tw cn c x k t z go halts reads writes
  refine ⟨fun hd hr hm => ?counters, fun hd hr hm => ?session⟩
  case counters =>
    obtain ⟨hctr, hdrops, htrace, htotal⟩ := grantsTarget_counter (c := c) hd hr hm
    exact ⟨exec_debugAccess_reads (hctr i12) rfl, exec_debugAccess_reads hdrops rfl, exec_debugAccess_reads (htrace i64) rfl,
      exec_debugAccess_reads (htotal true) rfl, exec_debugAccess_reads (htotal false) rfl⟩
  case session =>
    have hg : ∀ r, grantsTarget s c r = true := grantsTarget_of hd hr hm
    have hread : ∀ r, targetsMemory r = false → reads r (debugRead z c r) := fun r hr => exec_debugAccess_reads (hg r) hr
    have hwrite : ∀ r, targetsMemory r = false → writes r (debugWrite z c v r) := fun r hr => exec_debugAccess_writes (hg r) hr
    have hhalt := exec_debugHalt (core := core) (grantsCore_of hd hr hm)
    have hresume := exec_debugResume (core := core) (cx := cx) hd hm
    refine ⟨fun h => hhalt.trans (if_pos h), fun h hrun => ?idle, fun y h hrun => ?running, fun h => hresume.trans (congrArg Host.Outcome.next (if_neg ?on)),
      fun h => hresume.trans (congrArg Host.Outcome.next (if_pos h)),
      hread _ rfl, hwrite _ rfl, hread _ rfl, hwrite _ rfl, hread _ rfl, hwrite _ rfl, hread _ rfl, hwrite _ rfl, hread _ rfl, hwrite _ rfl,
      hread _ rfl, hwrite _ rfl, hread _ rfl, hwrite _ rfl, hread _ rfl, hwrite _ rfl, hread _ rfl, hwrite _ rfl, hread _ rfl, hwrite _ rfl,
      fun r w h => ?mxRead, fun r w h => ?mxWrite, hread _ rfl, hwrite _ rfl, hread _ rfl, hwrite _ rfl, fun e h => ?trans, hwrite _ rfl,
      hread _ rfl, hwrite _ rfl, hread _ rfl, hwrite _ rfl, hread _ rfl, hwrite _ rfl, hread _ rfl, hwrite _ rfl, ?memory⟩
    case idle =>
      refine hhalt.trans ((if_neg (Bool.eq_false_iff.mp h)).trans ?_)
      rw [show (coreOf s core.val).run = none from hrun]
      rfl
    case running =>
      intro waits
      have hx : exec (.debugHalt core) s = .next (if waits then modCore s c fun k => { k with dbgReq := true } else haltCore s c) := by
        refine hhalt.trans ((if_neg (Bool.eq_false_iff.mp h)).trans ?_)
        rw [show (coreOf s core.val).run = some y from hrun]
      exact ⟨fun hw => hx.trans (congrArg Host.Outcome.next (if_neg (Bool.eq_false_iff.mp hw))), fun hw => hx.trans (congrArg Host.Outcome.next (if_pos hw))⟩
    case on =>
      rw [ctxOf_unhalted]
      exact h
    case mxRead =>
      have hx := hread (.mx cx i12) rfl
      rw [debugRead_mx h] at hx
      exact hx
    case mxWrite =>
      have hx := hwrite (.mx cx i12) rfl
      rw [debugWrite_mx h] at hx
      exact hx
    case trans =>
      have hx := hread (.trans ti tr tw) rfl
      rw [debugRead_trans (s := z) h] at hx
      exact hx
    case memory =>
      intro mem word rd wr rb wb comes
      have hcomes : ∀ (i : Instr) (f : State → State) (t : State), exec i s = .next (askingStep s i f) → f (stepState s i) = t → comes i t :=
        fun i f t hx hf => ⟨.of_asking hx hf, .of_asking hx hf⟩
      exact ⟨fun s1 bs h => hcomes _ _ _ (exec_debugMem (hg _)) (debugMem_reads h), fun s1 u h => hcomes _ _ _ (exec_debugMem (hg _)) (debugMem_writes h),
        fun s1 home pa ca ce ing out h => hcomes _ _ _ (exec_debugBits (hg _)) (debugBits_reads h),
        fun s1 home pa ca ce ing out h => hcomes _ _ _ (exec_debugBits (hg _)) (debugBits_writes h)⟩

end Sys2Proof.Machine
end

section
/-! PROOF. Work entries and chunks (06 R155 to R160, 10 R262). -/

namespace Sys2Proof.Machine

section
variable {s : State} {d : Nat} {die : DieId}

/-! ### Starts -/

/-- What the start of an entry is tried with: the entry starts where it is armed. -/
def tryStart (s : State) (d q : Nat) (e : WorkEntry) : State :=
  if (armed s d e).2 then startEntry (armed s d e).1 d q e else (armed s d e).1

/-- The next entry of a queue pair is tried; another entry's start becomes due behind it. -/
theorem exec_workEntryStart {qp : BitVec 8} {p : Qp} {e : WorkEntry} (hq : qpOf s die.val qp.toNat = some p) (he : nextEntry p = some e) :
    exec (.workEntryStart die qp) s =
      (let z := endAsking s (tryStart (stepState s (.workEntryStart die qp)) die.val qp.toNat e) (.step (.workEntryStart die qp) 0 0)
       .next (if z.2 || ((qpOf z.1 die.val qp.toNat).bind nextEntry).map (·.serial) == some e.serial then z.1
         else deliver z.1 (.workEntryStart die qp))) := by
  have hx : exec (.workEntryStart die qp) s = execWorkEntryStart die qp s := rfl
  have hf : ∀ u, (match armed u die.val e with | (u, true) => startEntry u die.val qp.toNat e | (u, false) => u) = tryStart u die.val qp.toNat e := by
    intro u
    unfold tryStart
    generalize armed u die.val e = a
    obtain ⟨u, b⟩ := a
    cases b <;> rfl
  rw [hx]
  unfold execWorkEntryStart asking
  simp only [hq, Option.bind_some, he]
  rw [← hf]
  rfl

/-! ### Chunks -/

/-- What becomes of a chunk that cannot land at once, where no other waits for credit. -/
def holdFree (s : State) (d : Nat) (die : DieId) (ck : Chunk) : State :=
  if (dieOf s d).spill = [] ∧ chunkBytes (dieOf s d).staging + ck.data.length ≤ stagingSize then modDie s d fun k => { k with staging := k.staging ++ [ck] }
  else if chunkBytes (dieOf s d).spill + ck.data.length ≤ spillSize then modDie s d fun k => { k with spill := k.spill ++ [ck] }
  else waitCredit s (.chunkArrive die ck)

theorem holdChunk_waits {ck : Chunk} (h : mailHas s (.chunkArrive die ck) = true) : holdChunk s d die ck = waitCredit s (.chunkArrive die ck) := if_pos h

theorem holdChunk_holds {ck : Chunk} (h : mailHas s (.chunkArrive die ck) = false) : holdChunk s d die ck = holdFree s d die ck := by
  refine (if_neg (Bool.eq_false_iff.mp h)).trans ?_
  unfold holdFree
  simp only [Bool.and_eq_true, List.isEmpty_iff, decide_eq_true_eq]
  refine if_congr Iff.rfl rfl ?_
  rw [← ite_not]
  exact if_congr Nat.not_lt rfl rfl

/-- A chunk that arrives lands, where nothing is held before it and it can land at once, and is held else. -/
theorem exec_chunkArrive {ck : Chunk} : exec (.chunkArrive die ck) s =
    (if (dieOf s die.val).staging.isEmpty && (dieOf s die.val).spill.isEmpty && !mailHas s (.chunkArrive die ck) && bitOf (Config.freeValue s.freeCtr) 0 then
      let r := landing (bumpFree s) die.val ck false
      .next (if r.2 then holdChunk r.1 die.val die ck else r.1)
    else .next (holdChunk (bumpFree s) die.val die ck)) := by
  have hx : exec (.chunkArrive die ck) s = execChunkArrive die ck s := rfl
  rw [hx]
  unfold execChunkArrive
  dsimp only
  generalize landing (bumpFree s) die.val ck false = r
  obtain ⟨t, b⟩ := r
  cases b <;> rfl

/-- The chunks of staging land first, then those of the spill. -/
theorem exec_spillRefetch_staging {a : Chunk} {l : List Chunk} (h : (dieOf s die.val).staging = a :: l) : exec (.spillRefetch die) s =
    (let r := landing (modDie s die.val fun k => { k with staging := l }) die.val a false
     .next (if r.2 then modDie r.1 die.val fun k => { k with staging := a :: l } else r.1)) := by
  have hx : exec (.spillRefetch die) s = execSpillRefetch die s := rfl
  rw [hx]
  unfold execSpillRefetch
  simp only [h]
  generalize landing (modDie s die.val fun k => { k with staging := l }) die.val a false = r
  obtain ⟨t, b⟩ := r
  cases b <;> rfl

theorem exec_spillRefetch_spill {a : Chunk} {l : List Chunk} (h0 : (dieOf s die.val).staging = []) (h : (dieOf s die.val).spill = a :: l) :
    exec (.spillRefetch die) s =
    (let r := landing (modDie s die.val fun k => { k with spill := l }) die.val a true
     .next (if r.2 then modDie r.1 die.val fun k => { k with spill := a :: l } else r.1)) := by
  have hx : exec (.spillRefetch die) s = execSpillRefetch die s := rfl
  rw [hx]
  unfold execSpillRefetch
  simp only [h0, h]
  generalize landing (modDie s die.val fun k => { k with spill := l }) die.val a true = r
  obtain ⟨t, b⟩ := r
  cases b <;> rfl

/-- A try waits exactly where it lacks something. -/
theorem endAsking_iff (s t : State) (k : Asker) : (endAsking s t k).2 = false ↔ t.mod.want = .nothing := by
  constructor
  · intro h
    by_contra hw
    rw [endAsking_waits s k hw] at h
    cases h
  · intro h
    rw [endAsking_goes s k h]

/-! ### Completions -/

/-- The oldest entry whose outcome is known completes. -/
theorem exec_workEntryComplete_known {qp : BitVec 8} {code z : Nat} {p : Qp} {e : WorkEntry} (hq : qpOf s die.val qp.toNat = some p)
    (he : p.entries.find? (fun e => e.code.isSome) = some e) (hz : e.code = some z) :
    exec (.workEntryComplete die qp code) s = .next (completing s die qp p e z) := by
  have hx : exec (.workEntryComplete die qp code) s = execWorkEntryComplete die qp code s := rfl
  rw [hx]
  unfold execWorkEntryComplete
  simp only [hq, he, hz, Option.getD_some]

/-- Without one the oldest entry that waits for another module's answer completes with the code it brings. -/
theorem exec_workEntryComplete_answered {qp : BitVec 8} {code : Nat} {p : Qp} {e : WorkEntry} (hq : qpOf s die.val qp.toNat = some p)
    (hn : p.entries.find? (fun e => e.code.isSome) = none) (he : p.entries.find? (fun e => awaitsAnswer s e code) = some e) (hc : code ≤ 8) :
    exec (.workEntryComplete die qp code) s = .next (completing s die qp p e code) := by
  have hx : exec (.workEntryComplete die qp code) s = execWorkEntryComplete die qp code s := rfl
  rw [hx]
  unfold execWorkEntryComplete
  simp only [hq, hn, he, hc, if_true]

/-- The completion of an entry that lacks nothing. -/
theorem completing_goes {qp : BitVec 8} {code : Nat} {p : Qp} {e : WorkEntry}
    (h : (completeEntry (beginAsking s (.step (.workEntryComplete die qp 0) 0 e.serial)) die.val qp.toNat p e code).mod.want = .nothing) :
    completing s die qp p e code = asked s (completeEntry (beginAsking s (.step (.workEntryComplete die qp 0) 0 e.serial)) die.val qp.toNat p e code)
      (.step (.workEntryComplete die qp 0) 0 e.serial) := congrArg Prod.fst (endAsking_goes s _ h)

end

/-- Settles O47: starts, arrivals, landings and completions, each by what it finds held. -/
theorem workEntriesRun : Obligations.WorkEntriesRun := by
  intro s die qp ck code d k s1 now i start arrives held ends
  have hends : ∀ p e z, exec (.workEntryComplete die qp code) s = .next (completing s die qp p e z) → ends p e z := fun p e z hx =>
    ⟨fun hw => hx.trans (congrArg Host.Outcome.next (completing_goes hw)), fun _ => hx⟩
  refine ⟨fun p e hq he => ?starts, fun hm => ?queued, fun hm => ⟨fun h1 h2 hn => ?first, fun h => ?later⟩,
    fun a l h => exec_spillRefetch_staging h, fun a l h0 h => exec_spillRefetch_spill h0 h, fun a l sp => endAsking_iff _ _ _,
    fun p e z hq he hz => hends p e z (exec_workEntryComplete_known hq he hz),
    fun p e hq hn he hc => hends p e code (exec_workEntryComplete_answered hq hn he hc)⟩
  case starts =>
    intro a t z
    have hx := exec_workEntryStart hq he
    refine ⟨fun hw => hx.trans (congrArg Host.Outcome.next (if_pos ?_)), fun hw => ⟨congrArg Prod.fst (endAsking_goes s _ hw), fun h => ?_, fun h => ?_⟩⟩
    · exact Bool.or_eq_true_iff.mpr (.inl (endAsking_waits s _ hw))
    · exact hx.trans (congrArg Host.Outcome.next (if_pos (Bool.or_eq_true_iff.mpr (.inr (beq_iff_eq.mpr h)))))
    · refine hx.trans (congrArg Host.Outcome.next (if_neg fun hor => ?_))
      rcases Bool.or_eq_true_iff.mp hor with hb | hb
      · exact absurd hb (Bool.eq_false_iff.mp ((endAsking_iff s _ _).mpr hw))
      · exact h (beq_iff_eq.mp hb)
  case queued =>
    refine exec_chunkArrive.trans ((if_neg ?_).trans (congrArg Host.Outcome.next (holdChunk_waits hm)))
    rw [show mailHas s (.chunkArrive die ck) = true from hm]
    simp
  case first =>
    have hx : exec i s = .next (if (landing s1 d ck false).2 then holdChunk (landing s1 d ck false).1 d die ck else (landing s1 d ck false).1) := by
      refine exec_chunkArrive.trans (if_pos ?_)
      rw [show (dieOf s die.val).staging = [] from h1, show (dieOf s die.val).spill = [] from h2, show mailHas s (.chunkArrive die ck) = false from hm,
        show bitOf (Config.freeValue s.freeCtr) 0 = true from hn]
      rfl
    exact ⟨fun hl => hx.trans (congrArg Host.Outcome.next (if_neg (Bool.eq_false_iff.mp hl))),
      fun hl hm' => hx.trans (congrArg Host.Outcome.next ((if_pos hl).trans (holdChunk_holds hm')))⟩
  case later =>
    refine exec_chunkArrive.trans ((if_neg ?_).trans (congrArg Host.Outcome.next (holdChunk_holds hm)))
    simp only [Bool.and_eq_true, List.isEmpty_iff, not_and, Bool.not_eq_true]
    rintro ⟨⟨h1, h2⟩, -⟩
    exact (h.resolve_left fun g => g h1).resolve_left fun g => g h2

end Sys2Proof.Machine
end

section
/-! PROOF. Log groups (06 R141 to R150, R161). -/

namespace Sys2Proof.Machine

section
variable {s : State} {d id : Nat} {g : Group} {l : Lead} {die : DieId} {grp : BitVec 12}

/-! ### Contributions -/

theorem leadOf_setLead (s : State) (d id : Nat) (l : Lead) : leadOf (setLead s d id l) d id = some l := by
  unfold leadOf setLead
  rw [dieOf_modDie, if_pos rfl, find?_tabPut, if_pos rfl]
  rfl

theorem leadOf_setGroup (s : State) (d id : Nat) (g : Group) (e j : Nat) : leadOf (setGroup s d id g) e j = leadOf s e j := by
  unfold leadOf setGroup
  rw [dieOf_modDie]
  split
  · next h => rw [h]
  · rfl

/-- What is kept of a group leaves what a leader keeps. -/
theorem leadOf_keepGroup (s : State) (d id : Nat) (g : Group) (e j : Nat) : leadOf (keepGroup s d id g) e j = leadOf s e j :=
  ((dieWrite_reached (setGroup s d id g) d g.asid (statusVa g) none (statusBlock g)).leadOf_eq e j).trans (leadOf_setGroup ..)

theorem leadOf_endpointTake (s : State) (d id rank : Nat) (r : List Byte) (g : Group) (e j : Nat) :
    leadOf (endpointTake s d id rank r g) e j = leadOf s e j := by
  unfold endpointTake
  split
  · exact leadOf_setGroup s d id { g with contribs := g.contribs ++ [logRec r] } e j
  · exact leadOf_keepGroup ..

/-- A contribution of the group's generation: the endpoint takes it, and the leader where the die leads. -/
theorem contribution_unled {src : Nat} {r : List Byte} (hg : collOf s d id = some g) (hlog : g.log = true)
    (hl : leadOf (endpointTake s d id src r g) d id = none) : contribution s d id g.gen src false r = endpointTake s d id src r g := by
  unfold contribution
  simp only [hg, hlog, hl, Bool.not_true, Bool.false_eq_true, if_false, ne_eq, not_true_eq_false]

theorem contribution_taken {src : Nat} {r : List Byte} (hg : collOf s d id = some g) (hlog : g.log = true)
    (hl : leadOf (endpointTake s d id src r g) d id = some l) :
    contribution s d id g.gen src false r = leaderTake (endpointTake s d id src r g) d id src r l := by
  unfold contribution
  simp only [hg, hlog, hl, Bool.not_true, Bool.false_eq_true, if_false, ne_eq, not_true_eq_false]

/-- A record of the leader's close. -/
theorem contribution_led {src : Nat} {r : List Byte} (hg : collOf s d id = some g) (hlog : g.log = true) :
    contribution s d id g.gen src true r = leaderRecord s d id r g := by
  unfold contribution
  simp only [hg, hlog, Bool.not_true, Bool.false_eq_true, if_false, ne_eq, not_true_eq_false, if_true]

/-! ### Closing and sealing -/

theorem exec_stepDeadline (hl : leadOf s die.val grp.toNat = some l) (h : l.closeBeat + l.grp.dl ≤ (dieOf s die.val).beat.toNat) :
    exec (.stepDeadline die grp) s = .next (deliver (setLead s die.val grp.toNat { l with late := true }) (.stepClose die grp)) := by
  have hx : exec (.stepDeadline die grp) s = execStepDeadline die grp s := rfl
  have hp : deadlinePassed s die.val l = true := decide_eq_true h
  rw [hx]
  unfold execStepDeadline
  simp only [hl, hp, if_true]

theorem exec_stepClose (hl : leadOf s die.val grp.toNat = some l) (hall : (allIn l || l.late) = true) (hw : windowOpen l = true) :
    exec (.stepClose die grp) s = .next (askingStep s (.stepClose die grp) fun s => closeStep s die.val grp.toNat l) := by
  have hx : exec (.stepClose die grp) s = execStepClose die grp s := rfl
  rw [hx]
  unfold execStepClose
  simp only [hl, hall, hw, Bool.and_self, if_true]

/-- An acknowledgement of a step that is closed and not sealed, from a rank that has given none. -/
theorem exec_closeAck {seq : Word} {rank step : Nat} (hl : leadOf s die.val grp.toNat = some l)
    (hstep : (l.closes.find? fun e => e.2 == seq.toNat).map (·.1) = some step) (hr : rank ∉ tabGet [] l.acks step) (hs : step ∉ l.sealed) :
    exec (.closeAck die grp l.grp.gen seq rank) s =
      (let acks := tabPut l.acks step (tabGet [] l.acks step ++ [rank])
       if (tabGet [] l.acks step).length + 1 < l.grp.quorum then .next (setLead s die.val grp.toNat { l with acks := acks })
       else .next (deliver (sendAll (setLead s die.val grp.toNat { l with sealed := l.sealed ++ [step], acks := tabDel acks step })
         l.grp grp.toNat die.val (leBytes 8 seq.toNat) fun e => .sealAnnounce e grp l.grp.gen seq) (.stepClose die grp))) := by
  have hx : exec (.closeAck die grp l.grp.gen seq rank) s = execCloseAck die grp l.grp.gen seq rank s := rfl
  have hany : (l.closes.any fun e => e.2 == seq.toNat) = true := by
    obtain ⟨e, he, -⟩ := Option.map_eq_some_iff.mp hstep
    exact List.any_eq_true.mpr ⟨e, List.mem_of_find?_eq_some he, (List.find?_eq_some_iff_append.mp he).1⟩
  have hno : ((tabGet [] l.acks step).contains rank || l.sealed.contains step) = false := by simp [hr, hs]
  rw [hx]
  unfold execCloseAck
  simp only [hl, hstep, hany, hno, Option.getD_some, ne_eq, not_true_eq_false, Bool.not_true, Bool.false_eq_true, if_false]

theorem exec_sealAnnounce {seq : Word} (hg : collOf s die.val grp.toNat = some g) (h : g.sealed < seq.toNat) :
    exec (.sealAnnounce die grp g.gen seq) s = .next (keepGroup s die.val grp.toNat { g with sealed := seq.toNat }) := by
  have hx : exec (.sealAnnounce die grp g.gen seq) s = execSealAnnounce die grp g.gen seq s := rfl
  rw [hx]
  unfold execSealAnnounce
  simp only [hg, h, ne_eq, not_true_eq_false, if_false, if_true]

/-! ### Assembling -/

/-- What the assembly of a step is tried with. -/
def tryAssemble (g : Group) (d id : Nat) (s : State) : State :=
  match stepRecords g with
  | some rs => assemble s d id g rs
  | none => catchUp s d id g

/-- A log group's next step, or the close that its endpoint has received, waits for credit of q4 and is tried then. -/
theorem exec_stepAssemble (hg : collOf s die.val grp.toNat = some g) (hlog : g.log = true)
    (h : (stepRecords g).isSome = true ∨ ∃ c ∈ g.emitted, c.rank = 0xFFFF) : exec (.stepAssemble die grp) s =
      if 64 ≤ (coreOf s (listenCore die.val g)).q4.length then .next (waitCredit s (.stepAssemble die grp))
      else .next (askingStep s (.stepAssemble die grp) (tryAssemble g die.val grp.toNat)) := by
  have hx : exec (.stepAssemble die grp) s = execStepAssemble die grp s := rfl
  have hgo : ¬((stepRecords g).isNone && !(g.emitted.any fun c => c.rank == 0xFFFF)) = true := by
    rcases h with h | ⟨c, hc, hr⟩
    · rw [← Option.not_isSome, h]
      simp
    · have : (g.emitted.any fun c => c.rank == 0xFFFF) = true := List.any_eq_true.mpr ⟨c, hc, beq_iff_eq.mpr hr⟩
      rw [this]
      simp
  rw [hx]
  unfold execStepAssemble
  simp only [hg, hlog, Bool.not_true, Bool.false_eq_true, if_false]
  exact (if_neg hgo).trans rfl

theorem tryAssemble_records {rs : List (List Byte)} (h : stepRecords g = some rs) : tryAssemble g d id s = assemble s d id g rs := by
  unfold tryAssemble
  rw [h]

theorem tryAssemble_lacks (h : stepRecords g = none) : tryAssemble g d id s = catchUp s d id g := by
  unfold tryAssemble
  rw [h]

section
variable {s1 s2 : State}

theorem catchUp_fetched {rs : List (List Byte)} (h : fetchFrom s d id g g.members = (s1, some rs)) : catchUp s d id g = assemble s1 d id g rs := by
  unfold catchUp
  rw [h]

theorem catchUp_resumes {h : Group} (hf : fetchFrom s d id g g.members = (s1, none)) (hr : resumeFrom s1 d id g g.members = (s2, some h)) :
    catchUp s d id g = deliver (keepGroup s2 d id h) (.stepAssemble (Fin.ofNat 4 d) (BitVec.ofNat 12 id)) := by
  unfold catchUp
  rw [hf]
  dsimp only
  rw [hr]

theorem catchUp_stays (hf : fetchFrom s d id g g.members = (s1, none)) (hr : resumeFrom s1 d id g g.members = (s2, none)) : catchUp s d id g = s2 := by
  unfold catchUp
  rw [hf]
  dsimp only
  rw [hr]

end

/-! ### Taking over -/

/-- The first of them that has stored the highest SEQ: none has stored a higher one. -/
theorem bestOf_le {es : List (Nat × Nat × Nat)} {m high : Nat} (h : bestOf es = some (m, high)) : ∀ e ∈ es, e.2.1 ≤ high := by
  suffices H : ∀ (es : List (Nat × Nat × Nat)) (b : Option (Nat × Nat)), es.foldl (fun b e => match b with
      | none => some (e.1, e.2.1)
      | some q => if q.2 < e.2.1 then some (e.1, e.2.1) else some q) b = some (m, high) →
      (∀ e ∈ es, e.2.1 ≤ high) ∧ ∀ q, b = some q → q.2 ≤ high from (H es none h).1
  intro es
  induction es with
  | nil =>
    intro b hb
    exact ⟨by simp, fun q hq => by cases hb.symm.trans hq; exact Nat.le_refl _⟩
  | cons e es ih =>
    intro b hb
    obtain ⟨hes, hq⟩ := ih _ hb
    cases b with
    | none => exact ⟨List.forall_mem_cons.mpr ⟨hq _ rfl, hes⟩, nofun⟩
    | some q =>
      have he : e.2.1 ≤ high ∧ q.2 ≤ high := by
        by_cases hlt : q.2 < e.2.1
        · have := hq (e.1, e.2.1) (if_pos hlt)
          exact ⟨this, by omega⟩
        · have := hq q (if_neg hlt)
          exact ⟨by omega, this⟩
      exact ⟨List.forall_mem_cons.mpr ⟨he.1, hes⟩, fun q' hq' => by cases hq'; exact he.2⟩

/-- What a die asks of another leaves the module's id. -/
theorem ask_modId (s : State) (src gdie asid va : Nat) (op : RemoteOp) : (ask s src gdie asid va op).1.mod.modId = s.mod.modId := by
  unfold ask
  dsimp only
  split
  · rfl
  · split
    · split
      · split <;> rfl
      · rfl
    · rfl

theorem memberStatus_modId (s : State) (d m id : Nat) (gen : BitVec 4) : (memberStatus s d m id gen).1.mod.modId = s.mod.modId := by
  unfold memberStatus askMember
  split
  · split <;> rfl
  · split
    · rfl
    · have h := ask_modId s d m 0 (id + 4096 * gen.toNat) .logStatus
      split <;> next hr => exact (congrArg (·.1.mod.modId) hr).symm.trans h

theorem survivors_modId (s : State) (d id : Nat) (g : Group) : (survivors s d id g).1.mod.modId = s.mod.modId := by
  suffices H : ∀ (l : List Nat) (p : State × List (Nat × Nat × Nat)) (f : State × List (Nat × Nat × Nat) → Nat → State × List (Nat × Nat × Nat)),
      (∀ p m, (f p m).1.mod.modId = p.1.mod.modId) → (l.foldl f p).1.mod.modId = p.1.mod.modId by
    refine H _ (s, []) _ fun p m => ?_
    have h := memberStatus_modId p.1 d m id g.gen
    split <;> next hr => exact (congrArg (·.1.mod.modId) hr).symm.trans h
  intro l
  induction l with
  | nil => exact fun p f _ => rfl
  | cons m l ih => exact fun p f hf => (ih (f p m) f hf).trans (hf p m)

theorem globalDie_survivors (s : State) (d id : Nat) (g : Group) : globalDie (survivors s d id g).1 d = globalDie s d := by
  simp only [globalDie, moduleNo, survivors_modId]

/-- The new leader goes on behind the highest step that a survivor has stored, and its next close is due. -/
theorem takeOver_leads {m high : Nat} (h : bestOf (survivors s die.val grp.toNat g).2 = some (m, high)) :
    ⟨.stepClose die grp, {}⟩ ∈ (takeOver s die.val grp.toNat g).agenda ∧ ∃ k, leadOf (takeOver s die.val grp.toNat g) die.val grp.toNat = some k ∧
      k.grp = { g with leader := some (globalDie s die.val) } ∧ k.open_ = g.first + high / (g.n + 1) ∧ k.seq = high := by
  have hglobal := globalDie_survivors s die.val grp.toNat g
  have hend : ∃ u top, takeOver s die.val grp.toNat g =
      deliver (setLead u die.val grp.toNat (nextLead (survivors s die.val grp.toNat g).1 die.val grp.toNat g high top)) (.stepClose die grp) := by
    unfold takeOver
    generalize survivors s die.val grp.toNat g = r at h
    obtain ⟨t, es⟩ := r
    simp only [h, Fin.ofNat_eq_cast, Fin.cast_val_eq_self, BitVec.ofNat_toNat, BitVec.setWidth_eq]
    exact ⟨_, _, rfl⟩
  obtain ⟨u, top, hu⟩ := hend
  rw [hu]
  refine ⟨List.mem_append_right _ (List.mem_singleton.mpr rfl), _, leadOf_setLead .., ?_, rfl, rfl⟩
  show { g with leader := some (globalDie (survivors s die.val grp.toNat g).1 die.val) } = _
  rw [hglobal]

theorem exec_leaderTakeover (hg : collOf s die.val grp.toNat = some g) (hlog : g.log = true) : exec (.leaderTakeover die grp) s =
    .next (if takesOver s die.val grp.toNat g then askingStep s (.leaderTakeover die grp) fun s => takeOver s die.val grp.toNat g else s) := by
  have hx : exec (.leaderTakeover die grp) s = execLeaderTakeover die grp s := rfl
  have hd : descriptorOf s die.val grp.toNat = some g := by
    unfold descriptorOf
    rw [List.findSome?_cons, hg, Option.filter_some, if_pos hlog]
  rw [hx]
  unfold execLeaderTakeover
  simp only [hd]

theorem exec_generationAdvance (hg : collOf s die.val grp.toNat = some g) (hl : leadOf s die.val grp.toNat = none) :
    exec (.generationAdvance die grp) s = .next (setGroup s die.val grp.toNat { g with gen := g.gen + 1 }) := by
  have hx : exec (.generationAdvance die grp) s = execGenerationAdvance die grp s := rfl
  rw [hx]
  unfold execGenerationAdvance
  simp only [hl, hg]

end

/-- Settles O48: each step by the group and the leader's record it finds. -/
theorem logGroupsGoOn : Obligations.LogGroupsGoOn := by
  intro s die grp g l rec' src rank seq d id take comes assembles takes b hg hlog
  have hcontrib : ∀ (lead : Bool) (t : State), contribution s d id g.gen src lead rec' = t → exec (.contributionArrive die grp g.gen src lead rec') s = .next t :=
    fun lead t h => congrArg Host.Outcome.next h
  have hcomes : ∀ (i : Instr) (f : State → State) (t : State), exec i s = .next (askingStep s i f) → f (stepState s i) = t → comes i t :=
    fun i f t hx hf => ⟨.of_asking hx hf, .of_asking hx hf⟩
  refine ⟨fun hn => hcontrib false _ ?unled, fun hl => hcontrib false _ ?led, hcontrib true _ (contribution_led hg hlog),
    fun hl => ⟨fun hp => exec_stepDeadline hl hp, fun hall hw => hcomes _ _ _ (exec_stepClose hl hall hw) rfl, fun step hstep => ?ack⟩, fun hq => ?assembles,
    fun hq h => (exec_stepAssemble hg hlog h).trans (if_pos hq), fun h => exec_sealAnnounce hg h, fun hto => ?takes,
    fun hto => (exec_leaderTakeover hg hlog).trans (congrArg Host.Outcome.next (if_neg (Bool.eq_false_iff.mp hto))), fun hl => exec_generationAdvance hg hl⟩
  case unled => exact contribution_unled hg hlog ((leadOf_endpointTake ..).trans hn)
  case led => exact contribution_taken hg hlog hl
  case ack =>
    intro old hr hs
    have hx := exec_closeAck hl hstep hr hs
    exact ⟨fun hlt => hx.trans (if_pos hlt), fun hle => hx.trans (if_neg (Nat.not_lt.mpr hle))⟩
  case assembles =>
    have htry : ((stepRecords g).isSome = true ∨ ∃ c ∈ g.emitted, c.rank = 0xFFFF) →
        exec assembles s = .next (askingStep s assembles (tryAssemble g d id)) := fun h =>
      (exec_stepAssemble hg hlog h).trans (if_neg (Nat.not_le.mpr hq))
    refine ⟨fun rs hrs => hcomes _ _ _ (htry (.inl (by rw [hrs]; rfl))) (tryAssemble_records hrs), fun hn hc => ⟨fun s1 rs hf => ?_, fun s1 s2 h hf hr => ?_,
      fun s1 s2 hf hr => ?_⟩⟩
    · exact hcomes _ _ _ (htry (.inr hc)) ((tryAssemble_lacks hn).trans (catchUp_fetched hf))
    · refine hcomes _ _ _ (htry (.inr hc)) ((tryAssemble_lacks hn).trans ((catchUp_resumes hf hr).trans ?_))
      simp only [d, id, Fin.ofNat_eq_cast, Fin.cast_val_eq_self, BitVec.ofNat_toNat, BitVec.setWidth_eq]
      rfl
    · exact hcomes _ _ _ (htry (.inr hc)) ((tryAssemble_lacks hn).trans (catchUp_stays hf hr))
  case takes =>
    intro r t
    exact ⟨hcomes _ _ _ ((exec_leaderTakeover hg hlog).trans (congrArg Host.Outcome.next (if_pos hto))) rfl,
      fun m high hb => ⟨bestOf_le hb, takeOver_leads hb⟩⟩

end Sys2Proof.Machine
end

section
/-! PROOF. Reduce groups (06 R161 to R164). -/

namespace Sys2Proof.Machine

section
variable {s : State} {g : Group} {die : DieId} {grp : BitVec 12} (hg : collOf s die.val grp.toNat = some g) (hlog : g.log = false)
include hg hlog

/-- A record of another generation, or a term, is counted as stale. -/
theorem exec_reduceArrive_stale {gen : BitVec 4} {r : List Byte} {rank : Nat} {v : Word} (h : gen ≠ g.gen) :
    exec (.reduceRecordArrive die grp gen r) s = .next (countStale s die.val grp.toNat g) ∧
      exec (.scredArrive die grp gen rank v) s = .next (countStale s die.val grp.toNat g) := by
  have hx : exec (.reduceRecordArrive die grp gen r) s = execReduceRecordArrive die grp gen r s := rfl
  have hy : exec (.scredArrive die grp gen rank v) s = execScredArrive die grp gen rank v s := rfl
  rw [hx, hy]
  unfold execReduceRecordArrive execScredArrive
  simp only [hg, hlog, Bool.false_eq_true, if_false, ne_eq, Ne.symm h, not_false_eq_true, if_true, and_self]

/-- A record of the group's generation, where q4 has room and nothing waits before it, takes the next place. -/
theorem exec_reduceRecordArrive {r : List Byte} (hq : (coreOf s (listenCore die.val g)).q4.length < 64)
    (hm : mailHas s (.reduceRecordArrive die grp g.gen r) = false) : exec (.reduceRecordArrive die grp g.gen r) s =
      (let va := g.ring.toNat + 64 + 32 * (g.high % 64)
       let z := turnFull (dieWrite s die.val none g.asid va (r.take 32)).1 die.val g.asid va 32
       .next (modCore (keepGroup z die.val grp.toNat { g with high := g.high + 1 }) (listenCore die.val g)
         fun k => { k with q4 := k.q4 ++ [BitVec.ofNat 64 (g.high % 64)] })) := by
  have hx : exec (.reduceRecordArrive die grp g.gen r) s = execReduceRecordArrive die grp g.gen r s := rfl
  have hroom : decide (queueDepth ≤ (coreOf s (listenCore die.val g)).q4.length) = false := decide_eq_false (Nat.not_le.mpr hq)
  rw [hx]
  unfold execReduceRecordArrive
  simp only [hg, hlog, hroom, hm, Bool.false_eq_true, if_false, ne_eq, not_true_eq_false, Bool.or_self]

/-- A term waits for those of the other ranks. -/
theorem exec_scredArrive_waits {rank : Nat} {v : Word} (hm : mailHas s (.scredArrive die grp g.gen rank v) = false)
    (hr : readyTerms { g with terms := g.terms ++ [(rank, v)] } = none) :
    exec (.scredArrive die grp g.gen rank v) s = .next (setGroup s die.val grp.toNat { g with terms := g.terms ++ [(rank, v)] }) := by
  have hx : exec (.scredArrive die grp g.gen rank v) s = execScredArrive die grp g.gen rank v s := rfl
  rw [hx]
  unfold execScredArrive
  simp only [hg]
  refine (if_neg (by rw [hlog]; decide)).trans ((if_neg (not_not.mpr rfl)).trans ((if_neg (by rw [hm]; decide)).trans ?_))
  simp only [hr]

/-- The term of the last rank brings the sum to q5. -/
theorem exec_scredArrive_sums {rank : Nat} {v : Word} {ts : List Word} (hm : mailHas s (.scredArrive die grp g.gen rank v) = false)
    (hr : readyTerms { g with terms := g.terms ++ [(rank, v)] } = some ts) (hq : (coreOf s (listenCore die.val g)).q5.length < 64) :
    exec (.scredArrive die grp g.gen rank v) s =
      (let h := { g with terms := g.terms ++ [(rank, v)] }
       .next (pushResults (setGroup s die.val grp.toNat { h with terms := restTerms h }) die.val g [reduceSum ts])) := by
  have hx : exec (.scredArrive die grp g.gen rank v) s = execScredArrive die grp g.gen rank v s := rfl
  have hroom : roomQ5 s die.val g = true := decide_eq_true hq
  rw [hx]
  unfold execScredArrive
  simp only [hg]
  refine (if_neg (by rw [hlog]; decide)).trans ((if_neg (not_not.mpr rfl)).trans ((if_neg (by rw [hm]; decide)).trans ?_))
  simp only [hr, hroom, Bool.not_true, Bool.false_eq_true, if_false]

/-- What the loss of a member makes of a group. -/
theorem exec_memberLoss {rank : Nat} (hr : rank < g.n) (hmail : s.mail = []) : exec (.memberLoss die grp rank) s =
    (let h := { g with gen := g.gen + 1, terms := [], stale := g.stale + 1, owed := g.owed + pendingOps s die.val grp.toNat g }
     let z := keepGroup s die.val grp.toNat h
     .next (if h.owed = 0 then z else payOwed z die grp h)) := by
  have hx : exec (.memberLoss die grp rank) s = execMemberLoss die grp rank s := rfl
  have hs : { s with mail := s.mail.filter fun i => mailKey i.step != mailKey (.memberLoss die grp 0) } = s := by
    rw [hmail, List.filter_nil, ← hmail]
  rw [hx]
  unfold execMemberLoss
  simp only [hg, hlog, Bool.false_eq_true, if_false, if_neg (Nat.not_le.mpr hr), hs]

end

/-- Results that are some go to q5. -/
theorem pushResults_some {s : State} {d : Nat} {g : Group} {v : Word} {vs : List Word} :
    pushResults s d g (v :: vs) = modCore s (listenCore d g) fun k => { k with q5 := k.q5 ++ v :: vs } := if_neg (by simp)

/-- What a group owes is paid where q5 has room for it. -/
theorem payOwed_all {s : State} {die : DieId} {grp : BitVec 12} {g : Group} (h0 : g.owed ≠ 0)
    (hq : (coreOf s (listenCore die.val g)).q5.length + g.owed ≤ 64) : payOwed s die grp g =
      modCore (setGroup s die.val grp.toNat { g with owed := 0 }) (listenCore die.val g)
        fun k => { k with q5 := k.q5 ++ List.replicate g.owed 0x7FF8000000000000 } := by
  have hmin : min g.owed (queueDepth - (coreOf s (listenCore die.val g)).q5.length) = g.owed := by
    unfold queueDepth
    omega
  obtain ⟨n, hn⟩ := Nat.exists_eq_succ_of_ne_zero h0
  unfold payOwed
  simp only [hmin, Nat.sub_self, Nat.lt_irrefl, if_false]
  rw [hn]
  exact pushResults_some

/-- Nothing goes before a step where nothing waits. -/
theorem mailHas_empty {s : State} (h : s.mail = []) (i : Instr) : mailHas s i = false := by
  unfold mailHas
  rw [h]
  rfl

/-- Settles O49: each step by the group it finds. -/
theorem reduceGroupsGoOn : Obligations.ReduceGroupsGoOn := by
  intro s die grp gen g rec' rank v d id c h hg hlog hmail
  refine ⟨fun hq => exec_reduceRecordArrive hg hlog hq (mailHas_empty hmail _), fun hr => exec_scredArrive_waits hg hlog (mailHas_empty hmail _) hr,
    fun ts hr hq => (exec_scredArrive_sums hg hlog (mailHas_empty hmail _) hr hq).trans (congrArg Host.Outcome.next pushResults_some), fun hr => ?loss,
    fun hgen => exec_reduceArrive_stale hg hlog hgen⟩
  case loss =>
    intro n lost z
    have hx := exec_memberLoss hg hlog hr hmail
    exact ⟨fun h0 => hx.trans (congrArg Host.Outcome.next (if_pos h0)),
      fun h0 hq => hx.trans (congrArg Host.Outcome.next ((if_neg h0).trans (payOwed_all (s := z) (g := lost) h0 hq)))⟩

end Sys2Proof.Machine
end


section
/-! Traps: what a calm core's trap leaves (10 R270, R272), and a privileged instruction in user mode. -/

namespace Sys2Proof.Machine

/-! ### A slot instruction's step -/

/-- The step of a slot instruction is its issue alone in its bundle. -/
theorem issues_of_homeSlot {i : Instr} (h : i.homeSlot.isSome = true) : Issues i := by
  intro s
  cases i <;> cases h <;> rfl

/-- Only slot instructions are privileged. -/
theorem homeSlot_of_needsPriv {i : Instr} (h : needsPriv i = true) : i.homeSlot.isSome = true := by
  unfold needsPriv at h
  split at h
  · rfl
  · rfl
  · rfl
  · rfl
  · rfl
  · rfl
  · cases h

/-! ### What the trap leaves -/

/-- A context that takes a trap is as before but for EPC, ECAUSE, EINFO, its mode, its program counter and its group. -/
theorem ctxOf_takeTrap (s : State) (c x : Nat) (z : TrapInfo) :
    ctxOf (takeTrap s c x z) c x =
      { ctxOf s c x with epc := (ctxOf s c x).pc.setWidth 64, ecause := causeWord z, einfo := z.info, priv := true,
                         pc := (ctxOf s c x).tvec.setWidth 18, grp := [], held := none, inAmigen := (coreOf s c).hook.isNone } :=
  ctxOf_modCtx ..

/-- A calm core has no outcomes to replay: clearing them changes nothing of its context. -/
theorem Calm.clearReplay {s : State} {c x : Nat} (h : Calm (coreOf s c) x) :
    ({ ctxOf s c x with replay := [], replayTo := 0 } : Ctx) = ctxOf s c x := by
  have h1 : (ctxOf s c x).replay = [] := h.replay.1
  have h2 : (ctxOf s c x).replayTo = 0 := h.replay.2
  conv => rhs; rw [show ctxOf s c x = { ctxOf s c x with replay := (ctxOf s c x).replay, replayTo := (ctxOf s c x).replayTo } from rfl, h1, h2]

/-- The context behind the trap of a calm core. -/
theorem ctxOf_issueTrap_calm {s : State} {c x : Nat} {z : TrapInfo} (h : Calm (coreOf s c) x)
    (ha : (s.mod.exchanges.any fun e => e.ofBundle c x) = false) (hp : (ctxOf s c x).priv = false) (hz : z.cause ≠ 0x11) :
    ctxOf (issueTrap s c x z) c x =
      { ctxOf s c x with epc := (ctxOf s c x).pc.setWidth 64, ecause := causeWord z, einfo := z.info, priv := true,
                         pc := (ctxOf s c x).tvec.setWidth 18, grp := [], held := none, inAmigen := (coreOf s c).hook.isNone } := by
  have hk : (coreOf (modCtx s c x fun t => { t with replay := [], replayTo := 0 }) c).hook = (coreOf s c).hook := by
    simp [modCtx, setCtx]
  rw [issueTrap_calm s c x z h ha hp hz, ctxOf_takeTrap, ctxOf_modCtx, h.clearReplay, hk]

/-- The trap of a calm core leaves the module, the dies and every other core. -/
theorem issueTrap_calm_rest {s : State} {c x : Nat} {z : TrapInfo} (h : Calm (coreOf s c) x)
    (ha : (s.mod.exchanges.any fun e => e.ofBundle c x) = false) (hp : (ctxOf s c x).priv = false) (hz : z.cause ≠ 0x11) :
    (issueTrap s c x z).mod = s.mod ∧ (issueTrap s c x z).dies = s.dies ∧ ∀ e, e ≠ c → coreOf (issueTrap s c x z) e = coreOf s e := by
  rw [issueTrap_calm s c x z h ha hp hz]
  refine ⟨rfl, rfl, fun e he => ?_⟩
  exact (coreOf_modCtx_of_ne _ _ _ _ _ he.symm).trans (coreOf_modCtx_of_ne _ _ _ _ _ he.symm)

/-! ### A privileged instruction in user mode -/

/-- The only slot of a privileged instruction traps in user mode, before its effect. -/
theorem slotRes_unprivileged {s : State} {x : Nat} {i : Instr} (hw : i.wf = true) (hn : needsPriv i = true)
    (hp : (ctxOf s s.turn x).priv = false) :
    slotRes (acquired s x i) s.turn x (soloAt s x i) none (soloWork i) = .trap 2 (BitVec.ofNat 64 ((encodeNat i).getD 0)) := by
  have hi : (soloWork i).ins = .ok i := by simp [soloWork, hw]
  have hp' : (coreCtx (coreOf (acquired s x i) s.turn) x).priv = false :=
    (congrArg Ctx.priv (ctxOf_acquired s x i s.turn x)).trans hp
  have ht : preTrap (coreOf (acquired s x i) s.turn) (coreCtx (coreOf (acquired s x i) s.turn) x) (soloWork i).slot.num i = some 2 := by
    unfold preTrap
    rw [if_pos]
    rw [hn, hp']; rfl
  unfold slotRes
  simp only [hi, ht]
  rfl

/-- A privileged instruction of a calm core in user mode traps with ILLEGAL_OP. -/
theorem Calm.trapsUnprivileged {s : State} {x : Nat} {i : Instr} (hc : Calm (coreOf s s.turn) x)
    (ha : (s.mod.exchanges.any fun e => e.ofBundle s.turn x) = false) (hp : (ctxOf s s.turn x).priv = false)
    (hw : i.wf = true) (hn : needsPriv i = true) (hq : emptyQueue (coreOf s s.turn) x (soloAt s x i) = false)
    (hf : pushFull s s.turn x (soloAt s x i) = false) :
    exec i s = .next (issueTrap s s.turn x
      { cause := 2, slot := (i.homeSlot.getD .c).num, info := BitVec.ofNat 64 ((encodeNat i).getD 0) }) := by
  have had := hc.admits hq hf ha
  have hrec : replayRec (coreOf s s.turn) x (soloAt s x i) = none := by
    simp [replayRec, replays, hc.rerun, hc.replay.1]
  have hres := slotRes_unprivileged hw hn hp
  rw [issues_of_homeSlot (homeSlot_of_needsPriv hn)]
  simp only [issueOne, hc.runs]
  rw [show soloIssue (coreOf s s.turn) x i (slotEffect i) = soloAt s x i from rfl]
  simp only [runBundle, had, execute, hrec, primed, show (soloAt s x i).works = [soloWork i] from rfl,
    show acquireHeads s s.turn (soloAt s x i) = acquired s x i from rfl, runSlots, hres]
  simp [firstTrap, show (soloWork i).slot = i.homeSlot.getD .c from rfl]

/-- Settles O54: the trap of a calm core is `takeTrap` of its context, said once by `issueTrap_calm`; a privileged instruction's only slot
traps before its effect. -/
theorem trapsAreTaken : Obligations.TrapsAreTaken := by
  unfold Obligations.TrapsAreTaken
  intro s x z i c o t u hc ha hp
  refine ⟨fun hz => ?_, fun hw hn hq hf => hc.trapsUnprivileged ha hp hw hn hq hf⟩
  have hu : u = _ := ctxOf_issueTrap_calm hc ha hp hz
  obtain ⟨h1, h2, h3, h4, h5⟩ := causeWord_fields z
  obtain ⟨hm, hd, hr⟩ := issueTrap_calm_rest hc ha hp hz
  rw [hu]
  exact ⟨rfl, rfl, rfl, rfl, h1, h2, h3, h4, h5, rfl, rfl, hm, hd, hr⟩

end Sys2Proof.Machine
end


section
/-! A tile result that lands marks its tile DIRTY too (07 R192): it changes more than its register. -/

namespace Sys2Proof.Machine

/-- The reset state, at core 0's turn. -/
def resetAtCore0 : State := { State.reset with turn := 0 }

/-- A landing tile leaves DIRTY, bit 4 of its entry, set. -/
theorem landedTile_dirty :
    tabGet 0 (coreOf (applyLand resetAtCore0 0 ⟨(coreOf resetAtCore0 0).ic, 0, .tile 0 0 0⟩) 0).vtag 0 = 16 := by
  decide

/-- The write of the register alone leaves the entry clear. -/
theorem writtenTile_clean :
    tabGet 0 (coreOf (modCore resetAtCore0 0 fun k => setVReg k 0 (mergeBits (vReg k 0) 0 0)) 0).vtag 0 = 0 := by
  decide

/-- Refutes O55: a result that lands in tile 0 of the reset state also sets DIRTY of the tile's owner entry (07 R192), which the statement's
`setVReg` leaves clear. -/
theorem not_resultsLandAfterTheirLatency : ¬ Obligations.ResultsLandAfterTheirLatency := by
  unfold Obligations.ResultsLandAfterTheirLatency
  intro h
  obtain ⟨_, _, _, _, htile, _⟩ := (h resetAtCore0 0 0 0 0 (.br 0) [] 0 false 0 0 0).2 rfl
  have hv := congrArg (fun s => tabGet 0 (coreOf s 0).vtag 0) htile
  exact absurd (landedTile_dirty.symm.trans (hv.trans writtenTile_clean)) (by decide)

end Sys2Proof.Machine
end


section
/-! The frame of the instructions that only compute a register (13 R328, R329): what a result that lands leaves alone. -/

namespace Sys2Proof.Machine

/-! ### The acquire of a head -/

/-- Where a bundle reads neither q4 nor q6, nothing is acquired. -/
theorem acquired_of_not {s : State} {x : Nat} {i : Instr} (h : acquires s x i = false) : acquired s x i = s := by
  obtain ⟨h4, h6⟩ := Bool.or_eq_false_iff.mp h
  exact acquireHeads_none s s.turn _ h4 h6

/-- Where it reads one of them, every line of its core goes. -/
theorem acquired_of {s : State} {x : Nat} {i : Instr} (h : acquires s x i = true) : acquired s x i = dropAllClean s s.turn :=
  if_pos h

/-- The lines of the first-level caches once all of one core's are gone. -/
theorem l1_dropAllClean (s : State) (c e : Nat) :
    (coreOf (dropAllClean s c) e).l1 = if e = l1Core s c then [] else (coreOf s e).l1 := by
  have h := l1Evict_rest s c fun _ => true
  have hc : coreOf (dropAllClean s c) e = coreOf (modCore s (l1Core s c) fun k => { k with l1 := k.l1.filter fun l => !true }) e := by
    unfold dropAllClean coreOf; rw [h.cores]
  rw [hc, coreOf_modCore]
  by_cases he : l1Core s c = e
  · subst he
    simp
  · rw [if_neg he, if_neg (Ne.symm he)]

/-- A queue that is written leaves the first-level lines. -/
theorem l1_setQueue (k : Core) (x q : Nat) (l : List Word) : (setQueue k x q l).l1 = k.l1 := by
  unfold setQueue
  split <;> rfl

/-- A queue is written alike whatever the lines are. -/
theorem setQueue_lines (k : Core) (x q : Nat) (l : List Word) (m : List Line) :
    ({ setQueue k x q l with l1 := m } : Core) = setQueue { k with l1 := m } x q l := by
  unfold setQueue
  split <;> rfl

/-! ### A result that has landed -/

/-- A state `t` behind one result: context x of core c is the one `w` holds, with `f` made of it; the rest of the core is `w`; another core e
is `g e`; the module, the dies and the mail are those of `a`. -/
structure Landed (a t : State) (c x : Nat) (w : Core) (f : Ctx → Ctx) (g : Nat → Core) : Prop where
  ctx : ∃ b, ctxOf t c x = { f (coreCtx w x) with atLand := b }
  core : ∀ o, SameCore o w → SameCore o (coreOf t c)
  lines : (coreOf t c).l1 = w.l1
  others : ∀ y, y ≠ x → ctxOf t c y = coreCtx w y
  mod : t.mod = a.mod
  dies : t.dies = a.dies
  mail : t.mail = a.mail
  cores : ∀ e, e ≠ c → coreOf t e = g e

/-- A result of the context itself. -/
theorem landed_modCtx (a : State) (c x : Nat) (w : Core) (f : Ctx → Ctx) :
    Landed a (noteTimes (noteLanding (modCtx (setCore a c w) c x f) c x) c) c x w f (coreOf a) := by
  obtain ⟨hx, hc, hy, ⟨hm, hd, hl⟩, he⟩ := mod_facts a c x w _ f rfl
  exact ⟨hx, hc, by simp [noteLanding, modCtx, setCtx], hy, hm, hd, hl, he⟩

/-- No result of the core itself: its core is `w`, another core e is `g e`. -/
theorem landed_of_core {a t : State} {c x : Nat} {w : Core} {g : Nat → Core} (hm : t.mod = a.mod) (hd : t.dies = a.dies) (hl : t.mail = a.mail)
    (hw : coreOf t c = w) (hg : ∀ e, e ≠ c → coreOf t e = g e) : Landed a (noteTimes (noteLanding t c x) c) c x w id g := by
  have hx : ∀ y, ctxOf t c y = coreCtx w y := fun y => congrArg (coreCtx · y) hw
  refine ⟨⟨(ctxOf t c x).atLand || groupEnds (ctxOf t c x), ?_⟩, fun o ho => ?_, ?_, fun y hy => ?_, hm, hd, hl, fun e he => ?_⟩
  · rw [ctxOf_noteTimes, noteLanding, ctxOf_modCtx, hx]; rfl
  · simp [noteLanding, modCtx, setCtx, hw]; exact ho
  · simp [noteLanding, modCtx, setCtx, hw]
  · rw [ctxOf_noteTimes, noteLanding, ctxOf_modCtx_of_ne _ _ _ _ _ _ (.inr hy.symm), hx]
  · rw [coreOf_noteTimes, noteLanding, coreOf_modCtx_of_ne _ _ _ _ _ he.symm, hg e he]

/-- No result. -/
theorem landed_nothing (a : State) (c x : Nat) (w : Core) :
    Landed a (noteTimes (noteLanding (setCore a c w) c x) c) c x w id (coreOf a) :=
  landed_of_core rfl rfl rfl (by simp) fun e he => by simp [he.symm]

/-- A result at another core. -/
theorem landed_elsewhere (a : State) (c x n : Nat) (w : Core) (q : Core → Core) (hn : n ≠ c) :
    Landed a (noteTimes (noteLanding (modCore (setCore a c w) n q) c x) c) c x w id (fun e => if e = n then q (coreOf a n) else coreOf a e) := by
  refine landed_of_core rfl rfl rfl (by simp [hn]) fun e he => ?_
  by_cases h : e = n
  · subst h; simp [he.symm]
  · simp [he.symm, h, Ne.symm h]

/-! ### The frame of a plain instruction -/

/-- `f` changes scalar, address and predicate registers and STAT alone. -/
def RegistersOnly (f : Ctx → Ctx) : Prop := ∀ t, { f t with s := t.s, a := t.a, p := t.p, stat := t.stat } = t

theorem registersOnly_id : RegistersOnly id := fun _ => rfl
theorem registersOnly_setSReg (n : Nat) (v : Word) : RegistersOnly (setSReg · n v) := fun t => by
  dsimp only; unfold setSReg; split <;> rfl
theorem registersOnly_setPReg (n : Nat) (b : Bool) : RegistersOnly (setPReg · n b) := fun t => by
  dsimp only; unfold setPReg; split <;> rfl
theorem registersOnly_setAReg (n : Nat) (v : Word) : RegistersOnly (setAReg · n v) := fun _ => rfl
theorem registersOnly_stat (v : Word) : RegistersOnly fun t => { t with stat := t.stat ||| v } := fun _ => rfl

/-- What a plain instruction leaves of everything but its destination: `a` is the acquired state with SRS stepped, `w` the core before the
result lands. -/
structure Framed (s t : State) (x : Nat) (i : Instr) : Prop where
  mod : t.mod = s.mod
  mail : t.mail = s.mail
  dies : t.dies = (acquired s x i).dies
  lines : ∀ e, (coreOf t e).l1 = (coreOf (acquired s x i) e).l1
  core : SameCore (coreOf s s.turn) (coreOf t s.turn)
  others : ∀ y, y ≠ x → ctxOf t s.turn y = ctxOf s s.turn y
  ctx : SameCtx (ctxOf s s.turn x) (ctxOf t s.turn x)
  loops : innermost (ctxOf s s.turn x) = none →
    (ctxOf t s.turn x).lsCnt = (ctxOf s s.turn x).lsCnt ∧ (ctxOf t s.turn x).lsBody = (ctxOf s s.turn x).lsBody
  srs : roundsOnce i = false → (ctxOf t s.turn x).srs = (ctxOf s s.turn x).srs

/-- A register's result on the context that stands before it leaves the context the same but for registers. -/
theorem sameCtx_of_registersOnly {o w u : Ctx} {f : Ctx → Ctx} {b : Bool} (hf : RegistersOnly f) (ho : SameCtx o w)
    (hu : u = { f w with atLand := b }) : SameCtx o u := by
  have h := hf w
  unfold SameCtx at ho ⊢
  rw [hu]
  rw [← h] at ho
  exact ho

/-- Behind a result that changes registers alone stands the frame of a plain instruction. -/
theorem Landed.framed {s a t : State} {x : Nat} {i : Instr} {w : Core} {f : Ctx → Ctx} {g : Nat → Core}
    (hL : Landed a t s.turn x w f g) (ha : a = srsStep (acquired s x i) s.turn x (roundsOnce i))
    (h1 : ∃ p sh ic sl, w = { setCoreCtx (coreOf a s.turn) x (coreCtx w x) with pend := p, shadow := sh, ic := ic, sliceUsed := sl })
    (h2 : ∃ k b', coreCtx w x = advanceCtx k b' none false (ctxOf a s.turn x))
    (hf : RegistersOnly f) (hg : ∀ e, (g e).l1 = (coreOf a e).l1) : Framed s t x i := by
  obtain ⟨hmod, hmail, hdies, hl1, _, _, _, _, _⟩ := acquired_facts s x i (roundsOnce i)
  rw [← ha] at hmod hmail hdies hl1
  obtain ⟨hcore, hothers, hctx, hloops, hsrs, _, _, _, _⟩ := Plain.base ha h1 h2
  obtain ⟨b, hu⟩ := hL.ctx
  have hw : w.l1 = (coreOf a s.turn).l1 := by
    obtain ⟨p, sh, ic, sl, h1⟩ := h1
    rw [h1]; rfl
  have hfw := hf (coreCtx w x)
  refine ⟨hL.mod.trans hmod, hL.mail.trans hmail, hL.dies.trans hdies, fun e => ?_, hL.core _ hcore,
    fun y hy => (hL.others y hy).trans (hothers y hy), sameCtx_of_registersOnly hf hctx hu, fun hin => ?_, fun hr => ?_⟩
  · by_cases he : e = s.turn
    · subst he
      exact hL.lines.trans (hw.trans (hl1 _))
    · rw [hL.cores e he, hg e, hl1 e]
  · obtain ⟨hc, hb⟩ := hloops hin
    rw [hu]
    exact ⟨(congrArg Ctx.lsCnt hfw).trans hc, (congrArg Ctx.lsBody hfw).trans hb⟩
  · rw [hu]
    exact (congrArg Ctx.srs hfw).trans (hsrs hr)

/-! ### The registers -/

/-- `u` has the registers of `o` but for the destination of `i`. -/
def RegistersKept (i : Instr) (o u : Ctx) : Prop :=
  (∀ n, (∀ d, scalarDest i = some d → d.toNat ≠ n) → sReg u n = sReg o n) ∧
  (∀ n, (∀ d, addrDest i = some d → d.toNat ≠ n) → aReg u n = aReg o n) ∧
  (∀ n, n < 8 → (∀ d, predDest i = some d → d.toNat ≠ n) → pReg u n = pReg o n) ∧ sReg u 0 = 0 ∧ pReg u 0 = true

/-- A context with the same registers. -/
theorem registersKept_same {i : Instr} {o u : Ctx} (hs : u.s = o.s) (ha : u.a = o.a) (hp : u.p = o.p) : RegistersKept i o u := by
  refine ⟨fun n _ => ?_, fun n _ => ?_, fun n _ _ => ?_, by simp [sReg], by simp [pReg]⟩
  · simp [sReg, hs]
  · simp [aReg, ha]
  · simp [pReg, hp]

/-- The scalar destination written. -/
theorem registersKept_scalar {i : Instr} {o u : Ctx} {d : SCode} {v : Word} (hd : scalarDest i = some d)
    (hs : u.s = (setSReg o d.toNat v).s) (ha : u.a = o.a) (hp : u.p = o.p) : RegistersKept i o u := by
  refine ⟨fun n hn => ?_, fun n _ => ?_, fun n _ _ => ?_, by simp [sReg], by simp [pReg]⟩
  · rw [← setSReg_other o d.toNat n v (hn d hd)]
    simp [sReg, hs]
  · simp [aReg, ha]
  · simp [pReg, hp]

/-- The address destination written. -/
theorem registersKept_addr {i : Instr} {o u : Ctx} {d : AReg} {v : Word} (hd : addrDest i = some d)
    (hs : u.s = o.s) (ha : u.a = (setAReg o d.toNat v).a) (hp : u.p = o.p) : RegistersKept i o u := by
  refine ⟨fun n _ => ?_, fun n hn => ?_, fun n _ _ => ?_, by simp [sReg], by simp [pReg]⟩
  · simp [sReg, hs]
  · simp [aReg, ha, setAReg, hn d hd]
  · simp [pReg, hp]

/-- The predicate destination written. -/
theorem registersKept_pred {i : Instr} {o u : Ctx} {d : PReg} {b : Bool} (hd : predDest i = some d)
    (hs : u.s = o.s) (ha : u.a = o.a) (hp : u.p = (setPReg o d.toNat b).p) : RegistersKept i o u := by
  refine ⟨fun n _ => ?_, fun n _ => ?_, fun n hn8 hn => ?_, by simp [sReg], by simp [pReg]⟩
  · simp [sReg, hs]
  · simp [aReg, ha]
  · have hne : ¬ (d.toNat ≤ n ∧ n ≤ d.toNat) := fun h => hn d hd (Nat.le_antisymm h.1 h.2)
    have hset : (setPReg o d.toNat b).p.getLsbD n = o.p.getLsbD n := by
      unfold setPReg
      split
      · rfl
      · rw [getLsbD_setFld _ _ (Nat.le_refl _) hn8, if_neg hne]
    simp only [pReg, hp, hset]

/-! ### STAT and the other cores -/

/-- Core e of `t`, with the first-level lines it had in `s`. -/
def butLines (s t : State) (e : Nat) : Core := { coreOf t e with l1 := (coreOf s e).l1 }

/-- Only a push touches STAT or another core: the queue of its neighbour, or QDROP (07 R178). -/
def PushesOnly (s t : State) (x : Nat) (i : Instr) : Prop :=
  let c := s.turn
  let o := ctxOf s c x
  let u := ctxOf t c x
  ((∀ d, scalarDest i = some d → d.toNat < 56) → u.stat = o.stat ∧ ∀ e, e ≠ c → butLines s t e = coreOf s e) ∧
  (∀ d, scalarDest i = some d → 56 ≤ d.toNat →
    let q := d.toNat - 56
    let n := neighbour c q
    (u.stat = o.stat ∨ pushReaches s n x = false ∧ u.stat = o.stat ||| BitVec.ofNat 64 flagQDROP) ∧
    (∀ e, e ≠ c → e ≠ n → butLines s t e = coreOf s e) ∧
    (butLines s t n = coreOf s n ∨ ∃ v, butLines s t n = setQueue (coreOf s n) x q (queueOf (coreOf s n) x q ++ [v])))

/-- A result that touches neither. -/
theorem pushesOnly_none {s t : State} {x : Nat} {i : Instr} (hs : (ctxOf t s.turn x).stat = (ctxOf s s.turn x).stat)
    (he : ∀ e, e ≠ s.turn → butLines s t e = coreOf s e) : PushesOnly s t x i :=
  ⟨fun _ => ⟨hs, he⟩, fun _ _ _ => ⟨.inl hs, fun e h _ => he e h, .inl (he _ (neighbour_ne _ _))⟩⟩

/-- What a plain instruction does beside its frame. -/
def PlainOutcome (s t : State) (x : Nat) (i : Instr) : Prop :=
  Framed s t x i ∧ RegistersKept i (ctxOf s s.turn x) (ctxOf t s.turn x) ∧ PushesOnly s t x i

/-- Another core, behind the acquire and the step of SRS, is as it was but for its lines. -/
theorem otherCore_before {s a : State} {x : Nat} {i : Instr} (ha : a = srsStep (acquired s x i) s.turn x (roundsOnce i)) {e : Nat}
    (he : e ≠ s.turn) : { coreOf a e with l1 := (coreOf s e).l1 } = coreOf s e := by
  obtain ⟨_, _, _, _, hc, _, _, _, _⟩ := acquired_facts s x i (roundsOnce i)
  rw [← ha] at hc
  exact hc e he

/-- Whether a push reaches a neighbour does not depend on the acquire, nor on the core that pushes. -/
theorem pushReaches_before {s a : State} {x : Nat} {i : Instr} (ha : a = srsStep (acquired s x i) s.turn x (roundsOnce i)) (w : Core) {n : Nat}
    (hn : n ≠ s.turn) : pushReaches (setCore a s.turn w) n x = pushReaches s n x := by
  obtain ⟨hmod, _, hdies, _, _, _, _, _, _⟩ := acquired_facts s x i (roundsOnce i)
  rw [← ha] at hmod hdies
  have hcore : coreOf (setCore a s.turn w) n = coreOf a n := by simp [hn.symm]
  have hk := otherCore_before ha hn
  have hg : (dieOf (setCore a s.turn w) (dieOfCore n)).gated = (dieOf s (dieOfCore n)).gated := by
    have h := ((slotState_stored (s := s) (x := x) (i := i)).dies (dieOfCore n)).same
    have hd : dieOf (setCore a s.turn w) (dieOfCore n) = dieOf (slotState s x i) (dieOfCore n) := by
      unfold dieOf
      exact congrArg (tabGet _ · _) hdies
    rw [hd]
    exact (congrArg Die.gated h :)
  have hf : isFirmwareCore (setCore a s.turn w) n = isFirmwareCore s n :=
    congrArg (fun m : Module => tabGet 0 m.fwCore (dieOfCore n) == idxOfCore n) hmod
  have hr : (coreOf a n).retired = (coreOf s n).retired := (congrArg Core.retired hk :)
  have hc : coreCtx (coreOf a n) x = coreCtx (coreOf s n) x := (congrArg (coreCtx · x) hk :)
  unfold pushReaches gatedCore ctxOf
  rw [hf, hcore, hr, hc, hg]

section Outcome

variable {s a t : State} {x : Nat} {i : Instr} {w : Core}
  (ha : a = srsStep (acquired s x i) s.turn x (roundsOnce i))
  (h1 : ∃ p sh ic sl, w = { setCoreCtx (coreOf a s.turn) x (coreCtx w x) with pend := p, shadow := sh, ic := ic, sliceUsed := sl })
  (h2 : ∃ k b', coreCtx w x = advanceCtx k b' none false (ctxOf a s.turn x))
include ha h1 h2

/-- The outcome of a result that leaves the other cores alone. -/
theorem plainOutcome_own {f : Ctx → Ctx} (hL : Landed a t s.turn x w f (coreOf a)) (hf : RegistersOnly f)
    (hst : ∀ t, (f t).stat = t.stat)
    (hk : ∀ u, u.s = (f (coreCtx w x)).s → u.a = (f (coreCtx w x)).a → u.p = (f (coreCtx w x)).p →
      RegistersKept i (ctxOf s s.turn x) u) : PlainOutcome s t x i := by
  obtain ⟨_, _, _, _, _, _, _, _, hstat⟩ := Plain.base ha h1 h2
  obtain ⟨b, hu⟩ := hL.ctx
  refine ⟨hL.framed ha h1 h2 hf fun _ => rfl, ?_, pushesOnly_none ?_ fun e he => ?_⟩
  · exact hk _ (by rw [hu]) (by rw [hu]) (by rw [hu])
  · rw [hu]
    exact (hst _).trans hstat
  · exact (congrArg (fun k : Core => { k with l1 := (coreOf s e).l1 }) (hL.cores e he)).trans (otherCore_before ha he)

/-- A plain instruction without a result. -/
theorem plainOutcome_nothing (ht : t = noteTimes (noteLanding (setCore a s.turn w) s.turn x) s.turn) : PlainOutcome s t x i := by
  obtain ⟨_, _, _, _, _, hs, hA, hp, _⟩ := Plain.base ha h1 h2
  subst ht
  exact plainOutcome_own ha h1 h2 (landed_nothing a s.turn x w) registersOnly_id (fun _ => rfl) fun u us ua up =>
    registersKept_same (us.trans hs) (ua.trans hA) (up.trans hp)

/-- One that writes a scalar register. -/
theorem plainOutcome_scalar {d : SCode} {v : Word} (hd : scalarDest i = some d)
    (ht : t = noteTimes (noteLanding (modCtx (setCore a s.turn w) s.turn x (setSReg · d.toNat v)) s.turn x) s.turn) :
    PlainOutcome s t x i := by
  obtain ⟨_, _, _, _, _, hs, hA, hp, _⟩ := Plain.base ha h1 h2
  subst ht
  refine plainOutcome_own ha h1 h2 (landed_modCtx a s.turn x w _) (registersOnly_setSReg _ _) (fun _ => setSReg_stat ..)
    fun u us ua up => registersKept_scalar (v := v) hd (us.trans ?_) (ua.trans ((setSReg_a ..).trans hA)) (up.trans ((setSReg_p ..).trans hp))
  unfold setSReg
  rw [hs]
  split
  · exact hs
  · rfl

/-- One that writes a predicate. -/
theorem plainOutcome_pred {d : PReg} {b : Bool} (hd : predDest i = some d)
    (ht : t = noteTimes (noteLanding (modCtx (setCore a s.turn w) s.turn x (setPReg · d.toNat b)) s.turn x) s.turn) :
    PlainOutcome s t x i := by
  obtain ⟨_, _, _, _, _, hs, hA, hp, _⟩ := Plain.base ha h1 h2
  subst ht
  refine plainOutcome_own ha h1 h2 (landed_modCtx a s.turn x w _) (registersOnly_setPReg _ _) (fun _ => setPReg_stat ..)
    fun u us ua up => registersKept_pred (b := b) hd (us.trans ((setPReg_s ..).trans hs)) (ua.trans ((setPReg_a ..).trans hA)) (up.trans ?_)
  unfold setPReg
  rw [hp]
  split
  · exact hp
  · rfl

/-- One that writes an address register. -/
theorem plainOutcome_addr {d : AReg} {v : Word} (hd : addrDest i = some d)
    (ht : t = noteTimes (noteLanding (modCtx (setCore a s.turn w) s.turn x (setAReg · d.toNat v)) s.turn x) s.turn) :
    PlainOutcome s t x i := by
  obtain ⟨_, _, _, _, _, hs, hA, hp, _⟩ := Plain.base ha h1 h2
  subst ht
  exact plainOutcome_own ha h1 h2 (landed_modCtx a s.turn x w _) (registersOnly_setAReg _ _) (fun _ => rfl)
    fun u us ua up => registersKept_addr (v := v) hd (us.trans hs) (ua.trans (congrArg (tabSet 0 · d.toNat v) hA)) (up.trans hp)

/-- One whose push reaches its neighbour. -/
theorem plainOutcome_reached {d : SCode} {v : Word} (hd : scalarDest i = some d) (h56 : 56 ≤ d.toNat)
    (ht : t = noteTimes (noteLanding (modCore (setCore a s.turn w) (neighbour s.turn (d.toNat - 56)) fun k =>
      setQueue k x (d.toNat - 56) (queueOf k x (d.toNat - 56) ++ [v])) s.turn x) s.turn) : PlainOutcome s t x i := by
  obtain ⟨_, _, _, _, _, hs, hA, hp, hstat⟩ := Plain.base ha h1 h2
  have hn := neighbour_ne s.turn (d.toNat - 56)
  subst ht
  have hL := landed_elsewhere a s.turn x _ w (fun k => setQueue k x (d.toNat - 56) (queueOf k x (d.toNat - 56) ++ [v])) hn
  obtain ⟨b, hu⟩ := hL.ctx
  refine ⟨hL.framed ha h1 h2 registersOnly_id fun e => ?_, registersKept_same ?_ ?_ ?_, fun hlt => ?_, fun d' hd' _ => ?_⟩
  · split
    · next he => rw [he, l1_setQueue]
    · rfl
  · rw [hu]; exact hs
  · rw [hu]; exact hA
  · rw [hu]; exact hp
  · exact absurd (hlt d hd) (Nat.not_lt.mpr h56)
  · obtain rfl : d = d' := Option.some.inj (hd.symm.trans hd')
    refine ⟨.inl (by rw [hu]; exact hstat), fun e he hne => ?_, .inr ⟨v, ?_⟩⟩
    · have hc := hL.cores e he
      rw [if_neg hne] at hc
      exact (congrArg (fun k : Core => { k with l1 := (coreOf s e).l1 }) hc).trans (otherCore_before ha he)
    · have hc := hL.cores _ hn
      rw [if_pos rfl] at hc
      refine (congrArg (fun k : Core => { k with l1 := (coreOf s (neighbour s.turn (d.toNat - 56))).l1 }) hc).trans ?_
      rw [setQueue_lines]
      exact (congrArg (fun k => setQueue k x (d.toNat - 56) (queueOf k x (d.toNat - 56) ++ [v])) (otherCore_before ha hn) :)

/-- One whose push is discarded. -/
theorem plainOutcome_discarded {d : SCode} (hd : scalarDest i = some d) (h56 : 56 ≤ d.toNat)
    (hr : pushReaches s (neighbour s.turn (d.toNat - 56)) x = false)
    (ht : t = noteTimes (noteLanding (orStat (setCore a s.turn w) s.turn x (BitVec.ofNat 64 flagQDROP)) s.turn x) s.turn) :
    PlainOutcome s t x i := by
  obtain ⟨_, _, _, _, _, hs, hA, hp, hstat⟩ := Plain.base ha h1 h2
  subst ht
  have hL := landed_modCtx a s.turn x w fun t => { t with stat := t.stat ||| BitVec.ofNat 64 flagQDROP }
  obtain ⟨b, hu⟩ := hL.ctx
  have hother : ∀ e, e ≠ s.turn → _ := fun e he =>
    (congrArg (fun k : Core => { k with l1 := (coreOf s e).l1 }) (hL.cores e he)).trans (otherCore_before ha he)
  refine ⟨hL.framed ha h1 h2 (registersOnly_stat _) fun _ => rfl, registersKept_same ?_ ?_ ?_, fun hlt => ?_, fun d' hd' _ => ?_⟩
  · exact (congrArg Ctx.s hu).trans hs
  · exact (congrArg Ctx.a hu).trans hA
  · exact (congrArg Ctx.p hu).trans hp
  · exact absurd (hlt d hd) (Nat.not_lt.mpr h56)
  · obtain rfl : d = d' := Option.some.inj (hd.symm.trans hd')
    refine ⟨.inr ⟨hr, (congrArg Ctx.stat hu).trans ?_⟩, fun e he _ => hother e he, .inl (hother _ (neighbour_ne _ _))⟩
    exact congrArg (· ||| BitVec.ofNat 64 flagQDROP) hstat

/-- One that pushes to a neighbour. -/
theorem plainOutcome_push {d : SCode} {v : Word} (hd : scalarDest i = some d) (h56 : 56 ≤ d.toNat)
    (ht : t = noteTimes (noteLanding (landPush (setCore a s.turn w) s.turn x (d.toNat - 56) v) s.turn x) s.turn) :
    PlainOutcome s t x i := by
  have hr := pushReaches_before ha w (neighbour_ne s.turn (d.toNat - 56))
  unfold landPush at ht
  simp only [hr] at ht
  split at ht
  · exact plainOutcome_reached ha h1 h2 hd h56 ht
  · next hn => exact plainOutcome_discarded ha h1 h2 hd h56 (Bool.eq_false_iff.mpr hn) ht

end Outcome

/-- What a plain instruction does on a ready core. -/
theorem Plain.outcome {s t : State} {x : Nat} {i : Instr} (hp : Plain i) (hR : Ready s x i) (hx : exec i s = .next t) :
    PlainOutcome s t x i := by
  obtain ⟨w, h1, h2, hres⟩ := hp.leaves hR
  have ht : ∀ {u : State}, exec i s = .next u → t = u := fun h => Host.Outcome.next.inj (hx.symm.trans h)
  rcases hres with h | ⟨d, v, hd, _, _, h⟩ | ⟨d, v, hd, h⟩ | ⟨d, v, hd, h⟩ | ⟨d, v, hd, h56, _, h⟩
  · exact plainOutcome_nothing rfl h1 h2 (ht h)
  · exact plainOutcome_scalar rfl h1 h2 hd (ht h)
  · exact plainOutcome_pred rfl h1 h2 hd (ht h)
  · exact plainOutcome_addr rfl h1 h2 hd (ht h)
  · exact plainOutcome_push rfl h1 h2 hd h56 (ht h)

/-- Settles O56: a plain instruction leaves one of five states (`Plain.leaves`); behind each the frame, the registers and the pushes are kept. -/
theorem registerInstructionsFrame : Obligations.RegisterInstructionsFrame := by
  unfold Obligations.RegisterInstructionsFrame
  intro s t x i c o u lines hR hdest hx
  have hp : Plain i := by
    unfold Plain plainB
    rcases hdest with h | h | h <;> simp [h]
  obtain ⟨hF, ⟨hs, ha, hpr, h0, hp0⟩, hstat, hpush⟩ := hp.outcome hR hx
  refine ⟨hF.mod, hF.mail, fun h => ⟨?_, fun e => ?_⟩, fun h => ⟨?_, fun e => ?_⟩, hF.core, hF.others, hF.ctx, hF.loops, hF.srs,
    hs, ha, hpr, h0, hp0, hstat, hpush⟩
  · rw [hF.dies, acquired_of_not h]
  · rw [hF.lines, acquired_of_not h]
  · rw [hF.dies, acquired_of h]
  · rw [hF.lines, acquired_of h, l1_dropAllClean]

end Sys2Proof.Machine
end


section
/-! A store on a WB page whose line the first-level cache holds, on a core whose scratchpad takes all of the 512 KiB: the cache has no set left
(`l1Sets` is 0), so the written line goes home at once (08 R194). -/

namespace Sys2Proof.Machine

/-- ST.d [a3], s4. -/
def storeS4 : Instr := .st 4 3 3 0

/-- Core 1 right behind a checkpoint, with a table whose entry 3 maps the WB page at 0x30000; a3 names it, s4 is 7. -/
def storeState : State :=
  modCtx (modDie (takeCheckpoint (State.reset.withFetchWord 32 0x011020C0) 1 0) 0 fun d => { d with
    mem := memWrite (memWrite [] 0 (leBytes 8 0x1 ++ leBytes 8 0x1047F ++ leBytes 8 0x204FF ++ leBytes 8 0x3007F)) d.asrBase [1] }) 1 0
    fun t => setSReg (setAReg t 3 0x30000) 4 7

/-- The same with the page's first line in the core's first-level cache and eight units of scratchpad. -/
def noSetState : State := modCore storeState 1 fun k => { k with l1 := [⟨0, 0xC00, 0, 0, 0, 0⟩], spadUnits := 8 }

/-- The context stands right behind its checkpoint. -/
theorem calm_noSetState : Calm (coreOf noSetState 1) 0 where
  runs := by decide +kernel
  alive := by decide +kernel
  group := by decide +kernel
  plain := by decide +kernel
  kept := by decide +kernel
  replay := by decide +kernel
  rerun := by decide +kernel
  pend := by decide +kernel
  awaits := by decide +kernel
  engines := by decide +kernel
  coop := by decide +kernel
  shadow := ⟨(coreOf noSetState 1).shadow.get (by decide +kernel), (Option.some_get _).symm, by decide +kernel, by decide +kernel⟩
  drain := by decide +kernel
  vector := by decide +kernel

/-- The store is ready there. -/
theorem ready_storeS4 : Ready noSetState 0 storeS4 where
  calm := calm_noSetState
  wf := by decide +kernel
  slot := by decide +kernel
  priv := by decide +kernel
  heads := by decide +kernel
  room := by decide +kernel
  owner := by decide +kernel
  asks := by decide +kernel

/-- The translation of the store's address. -/
def storeResolved : State × Except AccFail Loc :=
  resolve (slotState noSetState 0 storeS4) (clusterOfCore 1) (ctxOf noSetState 1 0).asid 0x30000 8 ⟨false, true, false, true⟩

/-- It finds the WB page, resident. -/
theorem storeResolved_home : storeResolved.2.toOption = some (.home 0 0x30000 0 false false false) := by decide +kernel

/-- The cache holds the line. -/
theorem storeResolved_hit :
    (l1Find (coreOf storeResolved.1 (l1Core storeResolved.1 1)).l1 (ctxOf noSetState 1 0).asid (0x30000 / 64)).isSome = true := by
  decide +kernel

/-- What an outcome leaves at byte 0x30000 of die 0. -/
def storedByte (o : Host.Outcome State Fault Refusal) : Option Byte :=
  match o with
  | .next t => some (memGet (dieOf t 0).mem 0x30000)
  | _ => none

/-- The store changes it. -/
theorem exec_storeS4_writes : storedByte (exec storeS4 noSetState) = some 7 := by decide +kernel

/-- The translation left it clear. -/
theorem storeResolved_clear : memGet (dieOf storeResolved.1 0).mem 0x30000 = 0 := by decide +kernel

/-- The address of the store. -/
theorem storeS4_address : addrOf noSetState 0 3 + (0 : BitVec 12).signExtend 64 * BitVec.ofNat 64 (2 ^ (3 : BitVec 2).toNat) = 0x30000 := by
  decide +kernel

/-- A result whose value is known. -/
theorem eq_ok_of_toOption {ε α : Type} {r : Except ε α} {a : α} (h : r.toOption = some a) : r = .ok a := by
  cases r with
  | error e => cases h
  | ok b => exact congrArg Except.ok (Option.some.inj h)

/-- Refutes O57: on a core whose scratchpad leaves the first-level cache no set, a store to a line that the cache holds goes home at once, so a
byte of memory changes. -/
theorem not_storeFrame : ¬ Obligations.StoreFrame := by
  intro h
  obtain ⟨t, ht⟩ : ∃ t, exec storeS4 noSetState = .next t := by
    cases he : exec storeS4 noSetState with
    | next t => exact ⟨t, rfl⟩
    | fault f => have hb := exec_storeS4_writes; rw [he] at hb; cases hb
    | refused r => have hb := exec_storeS4_writes; rw [he] at hb; cases hb
  have hres : storeResolved = (storeResolved.1, .ok (.home 0 0x30000 0 false false false)) :=
    Prod.ext rfl (eq_ok_of_toOption storeResolved_home)
  obtain ⟨-, -, hkeep, -⟩ := h noSetState storeResolved.1 t 0 0 0x30000 0 false false 4 3 3 0 ready_storeS4 (by rw [storeS4_address]; decide)
    (by rw [storeS4_address]; exact hres) ht
  have hclear := hkeep rfl (by rw [storeS4_address]; exact storeResolved_hit) 0 0x30000
  have hwritten := exec_storeS4_writes
  rw [ht] at hwritten
  have hbyte : memGet (dieOf t 0).mem 0x30000 = 7 := Option.some.inj hwritten
  rw [hclear, storeResolved_clear] at hbyte
  exact absurd hbyte (by decide)

end Sys2Proof.Machine
end


section
/-! A step of the machine on a running core with nothing due: the sequencer issues the bundle it fetches (07 R171). -/

namespace Sys2Proof.Machine

/-! ### The bundle of one instruction -/

/-- A bundle of one slot has 8 bytes. -/
theorem size_soloHeader (sl : Slot) : (soloHeader sl).size = 8 := by
  cases sl <;> decide

/-- The fetched bundle of one instruction is the one it issues in alone. -/
theorem issueOf_solo {k : Core} {x w : Nat} {i : Instr} {sl : Slot} (hw : i.wf = true) (hs : i.homeSlot = some sl) (he : encodeNat i = some w) :
    issueOf k x ⟨soloHeader sl, [(sl, w, .ok i)]⟩ = soloIssue k x i (slotEffect i) := by
  simp only [issueOf, soloIssue, hs, he, hw, size_soloHeader, Option.getD_some, List.map_cons, List.map_nil, if_true, effectOf]

/-- What a slot instruction alone in its bundle leaves on a core that runs. -/
theorem runBundle_of_exec {s t : State} {x : Nat} {i : Instr} (hh : i.homeSlot.isSome = true) (hr : (coreOf s s.turn).run = some x)
    (hx : exec i s = .next t) : runBundle s s.turn x (soloIssue (coreOf s s.turn) x i (slotEffect i)) = t := by
  rw [issues_of_homeSlot hh s, issueOne, hr] at hx
  exact Host.Outcome.next.inj hx

/-! ### The choice of the step -/

section
variable {s : State} {c x : Nat}

/-- Where the context has asked nothing, no response has come. -/
theorem replyReady_none (h : (s.mod.exchanges.any fun e => e.ofBundle c x) = false) : replyReady s c x = false := by
  have he : ∀ e ∈ s.mod.exchanges, e.ofBundle c x = false := by simpa using h
  simp only [replyReady, List.any_eq_false]
  intro e hm
  simp [he e hm]

/-- A core without commands, replies and cooperative work goes on with its sequencer. -/
theorem coreEvent_sequencer (hr : (coreOf s c).run = some x) (hn : (coreOf s c).retired = false) (he : (coreOf s c).engs = [])
    (ha : (coreOf s c).arrivals = []) (hp : (coreOf s c).pend = []) (hc : (coreOf s c).coop = none) : coreEvent s c = sequencerEvent s c x := by
  have heng : engineEvent s c = (s, none) := by simp [engineEvent, he]
  have hheld : (heldReady s c).isSome = false := by simp [heldReady, ha]
  have hrep : replyEvent s c = (s, none) := by simp [replyEvent, ha]
  have hcoop : coopEvent s c = (s, none) := by simp [coopEvent, hc]
  have hmat : waitingMatrix s c = (s, none) := by simp [waitingMatrix, hp]
  simp only [coreEvent, heng, hr, hn, hheld, hrep, hcoop, hmat, Bool.false_eq_true, if_false]

/-- A sequencer that nothing stops issues. -/
theorem sequencerEvent_issues (hs : issueStops (coreOf s c) = false) (hd : (coreOf s c).dbgReq = false) (hp : (coreOf s c).pend = [])
    (hpre : (coreOf s c).preempt = false) (hh : (ctxOf s c x).held = none) (hr : replyReady s c x = false) :
    sequencerEvent s c x = (s, some (.bundleIssue (Fin.ofNat 256 c))) := by
  unfold issueStops at hs
  simp only [Bool.or_eq_false_iff] at hs
  obtain ⟨⟨⟨_, hhalt⟩, hlate⟩, hint⟩ := hs
  have hsoon : landsSoon s c x = false := by simp [landsSoon, hpre]
  have hland : canLand s c x = false := by simp [canLand, hpre]
  have hheld : heldEvent s c x = none := by simp [heldEvent, hh]
  have hmat : matrixEvent s c = (s, none) := by simp [matrixEvent, hp]
  simp only [sequencerEvent, hhalt, hlate, hint, hd, hr, hsoon, hland, hheld, hmat, Bool.false_eq_true, if_false, Bool.or_self, Bool.false_and]

end

/-- On a running module with nothing due, off the turns of beats, links and dies, the step is that of the core whose turn it is. -/
theorem nextDue_core {s : State} (hb : s.mod.booted = true) (hp : s.mod.power < 3) (ha : s.agenda = []) (h1 : s.clock % 8 ≠ 1) (h3 : s.clock % 8 ≠ 3)
    (h5 : s.clock % 8 ≠ 5) : nextDue s = ((coreEvent s s.turn).1, (coreEvent s s.turn).2.map fun i => ⟨i, {}⟩) := by
  have hidle : idleEvent s = ((coreEvent s s.turn).1, (coreEvent s s.turn).2.map fun i => ⟨i, {}⟩) := by
    unfold idleEvent
    split
    · next h => exact absurd h h1
    · next h => exact absurd h h3
    · next h => exact absurd h h5
    · rfl
  unfold nextDue
  rw [if_neg (by omega), if_neg (by omega), ha]
  simp only [hb, if_true, hidle]

/-- Settles O53: nothing is due, so the core whose turn it is steps; nothing of its own comes first, so it issues; what it fetches is the bundle of
one instruction, which leaves what `exec` leaves. -/
theorem stepRunsTheDecodedInstruction : Obligations.StepRunsTheDecodedInstruction := by
  unfold Obligations.StepRunsTheDecodedInstruction
  intro s t x i sl w k o hboot hpow hag h1 h3 h5 hturn _ hrun hstops hdbg heng harr hpend hcoop hpre hheld hami hask hkill hwf hslot henc hdec hx u
  have hrep : replyReady s s.turn x = false := replyReady_none hask
  have hret : k.retired = false := by
    unfold issueStops at hstops
    simp only [Bool.or_eq_false_iff] at hstops
    exact hstops.1.1.1
  have hdue : nextDue s = (s, some ⟨.bundleIssue (Fin.ofNat 256 s.turn), {}⟩) := by
    rw [nextDue_core hboot hpow hag h1 h3 h5, coreEvent_sequencer hrun hret heng harr hpend hcoop,
      sequencerEvent_issues hstops hdbg hpend hpre hheld hrep]
    rfl
  have hval : (Fin.ofNat 256 s.turn).val = s.turn := Nat.mod_eq_of_lt hturn
  have hleft : runBundle { s with focus := {} } s.turn x (issueOf k x ⟨soloHeader sl, [(sl, w, .ok i)]⟩) = t := by
    rw [issueOf_solo hwf hslot henc]
    exact runBundle_of_exec (s := { s with focus := {} }) (by rw [hslot]; rfl) hrun hx
  have hissue : issueStep { s with focus := {} } s.turn x = u := by
    have hn := issueStep_issues (s := { s with focus := {} }) (c := s.turn) (x := x) (.inl ⟨hstops, hdbg⟩)
      (show leaving o = none by simp [leaving, hheld]) hami (.inl (show sleeps o = false by simp [sleeps, hheld]))
      (hkill.imp_right .inl)
    have hf := issueNext_ok (s := { s with focus := {} }) (c := s.turn) (x := x) (.inr hrep) hdec
    rw [hn, hf]
    exact congrArg (firstFail · s.turn x) hleft
  have hexec : exec (.bundleIssue (Fin.ofNat 256 s.turn)) { s with focus := {} } = .next u := by
    rw [exec_bundleIssue (x := x) (by rw [hval]; exact hrun), hval, hissue]
  unfold step
  rw [hdue]
  simp only [hexec, endStep, h1, h3, h5, or_self, if_false]

end Sys2Proof.Machine
end
